-- ==== Sys2Proof/Word.lean ====
section
/-!
DEFINITION. Sys2Proof/Word.lean: the word types of the part. Registers are 32 bits wide (spec/00_scope.md R10),
byte strings are lists of bytes in ascending address order (R8).
-/

namespace Sys2Proof

/-- One register word (R10). -/
abbrev Word := BitVec 32

/-- One byte. -/
abbrev Byte := BitVec 8

/-- A byte string, lowest address first. -/
abbrev Bytes := List Byte

end Sys2Proof
end

