-- ==== Sys2Proof/Syntax.lean ====
section
/-!
DEFINITION. Sys2Proof/Syntax.lean: the commands of the block, one constructor for each row of spec/opcode_table.json.
The first operand of every command, `dt`, is the number of local time-base ticks that passed since the command before
it (DESIGN CHOICE, log entry 1); in the rows of the noise source it stands in their `NoiseIn`. The other operands are what the row's rule says comes from outside: the instance it
names (a `Fin`, so that only instances of the part can be named), register values, entries, cells, samples and bytes.
-/

namespace Sys2Proof

/-- A submission entry, R49. OBJECT_ID is a byte string of 16 bytes; the other fields are unsigned integers. -/
structure Sqe where
  opcode : Nat := 0
  /-- Reserved byte 1. -/
  rsv : Nat := 0
  cid : Nat := 0
  handle : Nat := 0
  objectId : Bytes := []
  dataAddr : Nat := 0
  length : Nat := 0
  flags : Nat := 0
  param0 : Nat := 0
  param1 : Nat := 0
  param2 : Nat := 0
  deriving DecidableEq, Repr

/-- A scatter list descriptor, R50. -/
structure Sgl where
  addr : Nat := 0
  len : Nat := 0
  /-- Reserved bytes 12 to 15. -/
  rsv : Nat := 0
  deriving DecidableEq, Repr

/-- What the noise source gives (R163): the ticks that passed, and its samples, oldest first. -/
structure NoiseIn where
  dt : Nat := 0
  samples : Bytes := []
  deriving DecidableEq, Repr

/-- A slot of a segment (R172), and the same on a track. -/
structure SlotAt where
  slot : Fin 124 := 0
  segment : Fin 65536 := 0
  deriving DecidableEq, Repr

structure TrackSlot where
  track : Fin 32 := 0
  at_ : SlotAt := {}
  deriving DecidableEq, Repr

/-- What the scan of the flash finds beside the stored records (R396, R478, R484, R491, R606). -/
structure FlashScan where
  blank : List Nat := []
  corrupt : List (Nat × Nat) := []
  fixed : Nat := 0
  wrong : List (Fin 16) := []
  deriving DecidableEq, Repr

/-- The commands of the block. -/
inductive Instr where
  /-- OPEN_STREAM (R77): Host command that checks warp group, key slot and stream limit and issues a new stream handle. -/
  | openStream (dt : Nat) (fn : Fin 256) (q : Fin 1024) (e : Sqe) (sgl : List Sgl)
  /-- CLOSE_STREAM (R59): Host command that ends a stream, closing its open dataset, and completes STAGED or, with FORCE, TAPED. -/
  | closeStream (dt : Nat) (fn : Fin 256) (q : Fin 1024) (e : Sqe) (sgl : List Sgl)
  /-- OPEN_OBJECT (R84): Host command that takes an in-flight table entry for a new object on a stream, or is held while the table is full. -/
  | openObject (dt : Nat) (fn : Fin 256) (q : Fin 1024) (e : Sqe) (sgl : List Sgl)
  /-- PUT_RECORD (R56): Host command that transfers one record into the open object, subject to the pool and quota hold, and completes STAGED or TAPED. -/
  | putRecord (dt : Nat) (fn : Fin 256) (q : Fin 1024) (e : Sqe) (sgl : List Sgl)
  /-- CLOSE_OBJECT (R59): Host command that ends the open object and writes its trailer, after an empty frame where none is open. -/
  | closeObject (dt : Nat) (fn : Fin 256) (q : Fin 1024) (e : Sqe) (sgl : List Sgl)
  /-- FLUSH (R59): Host command that closes the stream's open dataset and completes TAPED once every earlier weft has committed. -/
  | flush (dt : Nat) (fn : Fin 256) (q : Fin 1024) (e : Sqe) (sgl : List Sgl)
  /-- ABORT_OBJECT (R100): Host command that stops transfer, drops the object's packets, closes and pads the dataset and ends the object. -/
  | abortObject (dt : Nat) (fn : Fin 256) (q : Fin 1024) (e : Sqe) (sgl : List Sgl)
  /-- MOUNT (R406): FN 0 command that reads the label, redoes in-doubt catalogue updates, writes pending void markers and imports the catalogue. -/
  | mount (dt : Nat) (fn : Fin 256) (q : Fin 1024) (e : Sqe) (sgl : List Sgl)
  /-- UNMOUNT (R403): FN 0 command that writes the unwritten catalogue entries and completes once the catalogue update has ended. -/
  | unmount (dt : Nat) (fn : Fin 256) (q : Fin 1024) (e : Sqe) (sgl : List Sgl)
  /-- LOCATE (R54): Host command that resolves an object ID and returns its length and residency. -/
  | locate (dt : Nat) (fn : Fin 256) (q : Fin 1024) (e : Sqe) (sgl : List Sgl)
  /-- READ_OBJECT (R54): Host command that restores a byte range of an object to host memory from the beam store or from tape. -/
  | readObject (dt : Nat) (fn : Fin 256) (q : Fin 1024) (e : Sqe) (sgl : List Sgl)
  /-- READ_RECORD (R54): Host command that restores one record of an object by its index. -/
  | readRecord (dt : Nat) (fn : Fin 256) (q : Fin 1024) (e : Sqe) (sgl : List Sgl)
  /-- PATROL (R408): FN 0 command that checks a range of committed wefts against their parity and optionally repairs them. -/
  | patrol (dt : Nat) (fn : Fin 256) (q : Fin 1024) (e : Sqe) (sgl : List Sgl)
  /-- REBUILD (R380): FN 0 command that re-creates missing datasets of a group and writes them to a target transport. -/
  | rebuild (dt : Nat) (fn : Fin 256) (q : Fin 1024) (e : Sqe) (sgl : List Sgl)
  /-- RESHAPE (R411): FN 0 command that copies committed wefts of a source group into a target group's layout and then switches reads to it. -/
  | reshape (dt : Nat) (fn : Fin 256) (q : Fin 1024) (e : Sqe) (sgl : List Sgl)
  /-- KEY_LOAD (R157): Host command that unwraps a 40-byte AES-KW blob under the tenant's KEK into an empty key slot. -/
  | keyLoad (dt : Nat) (fn : Fin 256) (q : Fin 1024) (e : Sqe) (sgl : List Sgl)
  /-- KEY_DROP (R158): Host command that closes a key slot to new jobs and zeroizes it once the jobs holding it have ended. -/
  | keyDrop (dt : Nat) (fn : Fin 256) (q : Fin 1024) (e : Sqe) (sgl : List Sgl)
  /-- ATTEST_QUOTE (R519): Host command that writes a signed quote of the selected PCRs and optionally the certificate chain. -/
  | attestQuote (dt : Nat) (fn : Fin 256) (q : Fin 1024) (e : Sqe) (sgl : List Sgl)
  /-- GET_ENTROPY (R164): Host command that writes DRBG output to host memory, or completes with ENTROPY_PENDING before a seed exists. -/
  | getEntropy (dt : Nat) (fn : Fin 256) (q : Fin 1024) (e : Sqe) (sgl : List Sgl)
  /-- GET_LOG (R577): Host command that copies entries of a log page, oldest first, from a byte offset. -/
  | getLog (dt : Nat) (fn : Fin 256) (q : Fin 1024) (e : Sqe) (sgl : List Sgl)
  /-- TUNE_LOOP (R326): FN 0 command that takes a control loop to MANUAL, writes a section bank and returns it to AUTO by hand-over. -/
  | tuneLoop (dt : Nat) (fn : Fin 256) (q : Fin 1024) (e : Sqe) (sgl : List Sgl)
  /-- INJECT_CAPTURE (R329): FN 0 command that injects a test signal at a loop node and captures four signals over 16,384 ticks. -/
  | injectCapture (dt : Nat) (fn : Fin 256) (q : Fin 1024) (e : Sqe) (sgl : List Sgl)
  /-- BEAM_FILL (R424): FN 0 command that fills and releases beam store steps up to a target size. -/
  | beamFill (dt : Nat) (fn : Fin 256) (q : Fin 1024) (e : Sqe) (sgl : List Sgl)
  /-- BEAM_RETIRE (R431): FN 0 command that retires a beam store granule, or only reports its state. -/
  | beamRetire (dt : Nat) (fn : Fin 256) (q : Fin 1024) (e : Sqe) (sgl : List Sgl)
  /-- QP_ENABLE (R43): Write that sets ENABLE of a queue pair, taking its bases and size and resetting heads, tails and phase. -/
  | qpEnable (dt : Nat) (fn : Fin 256) (q : Fin 1024) (data : Word)
  /-- QP_DISABLE (R47): Write that clears ENABLE, which stops fetching and aborts fetched but unaccepted entries. -/
  | qpDisable (dt : Nat) (fn : Fin 256) (q : Fin 1024) (data : Word)
  /-- QP_SQ_TAIL_DB (R44): Doorbell write of a new SQ tail, which sets DOORBELL_ERR and stops fetching when out of range. -/
  | qpSqTailDb (dt : Nat) (fn : Fin 256) (q : Fin 1024) (index : Nat)
  /-- QP_CQ_HEAD_DB (R46): Doorbell write of a new CQ head, which frees completion slots or is discarded with DOORBELL_ERR. -/
  | qpCqHeadDb (dt : Nat) (fn : Fin 256) (q : Fin 1024) (index : Nat)
  /-- DMA_ERR_CLEAR (R48): W1C clear of DMA_ERR, after which the held completions are written again in order. -/
  | dmaErrClear (dt : Nat) (fn : Fin 256) (q : Fin 1024)
  /-- FUNCTION_LEVEL_RESET (R48): A Function Level Reset that stops the function's queue pairs, drops unaccepted entries and ends its streams. -/
  | functionLevelReset (dt : Nat) (fn : Fin 256)
  /-- SQ_ENTRY_FETCH (R55): A host queue core reads one submission entry and makes the fetch checks on it. -/
  | sqEntryFetch (dt : Nat) (fn : Fin 256) (q : Fin 1024) (raw : Bytes) (sgl : List Sgl)
  /-- SQ_READ_FAILED (R48): A failed PCI Express read of an SQ entry, which sets DMA_ERR and stops fetching. -/
  | sqReadFailed (dt : Nat) (fn : Fin 256) (q : Fin 1024)
  /-- CQ_WRITE_FAILED (R48): A failed PCI Express write of a CQ entry, which sets DMA_ERR and holds that completion and every later one. -/
  | cqWriteFailed (dt : Nat) (fn : Fin 256) (q : Fin 1024)
  /-- DISPATCH_SLOT (R65): One of 250,000,000 scheduler slots per second, which picks the ready tenant with the least start tag and dispatches its head entry. -/
  | dispatchSlot (dt : Nat)
  /-- OBJ_HOLD_EXPIRY (R85): A held OPEN_OBJECT reaches OBJ_HOLD without an entry and completes with TABLE_FULL. -/
  | objHoldExpiry (dt : Nat) (fn : Fin 256) (q : Fin 1024)
  /-- BEAM_HOLD_EXPIRY (R56): A held PUT_RECORD reaches BEAM_HOLD and completes with BEAM_FULL and an implicit abort. -/
  | beamHoldExpiry (dt : Nat) (fn : Fin 256) (q : Fin 1024)
  /-- HELD_COMMAND_ACCEPT (R85): A held command is accepted when its precondition comes to hold, such as a freed in-flight entry or beam room. -/
  | heldCommandAccept (dt : Nat) (fn : Fin 256) (q : Fin 1024)
  /-- COMPLETION_POST (R59): A completion entry is written to the CQ once a slot is free, and the entry is logged when its status is a failure. -/
  | completionPost (dt : Nat) (fn : Fin 256) (q : Fin 1024)
  /-- AGG_TIME_EXPIRY (R41): An unsignalled completion has waited AGG_TIME µs and the CQ's MSI-X vector is signalled. -/
  | aggTimeExpiry (dt : Nat) (fn : Fin 256) (q : Fin 1024)
  /-- FORCE_TOKEN_GRID (R69): A FORCE_RATE grid point at which a tenant's token bucket gains one token if it is below FORCE_BURST. -/
  | forceTokenGrid (dt : Nat) (tenant : Fin 256)
  /-- HQI_TENANT_FORCE_WRITE (R69): Write of FORCE_RATE and FORCE_BURST that fills the tenant's bucket and restarts its token grid. -/
  | hqiTenantForceWrite (dt : Nat) (tenant : Fin 256) (data : Word)
  /-- HQI_FN_MAP_WRITE (R68): Write that moves a function to a tenant or sets its queue quota, discarded while a pair is enabled or the quota total exceeds 1,024. -/
  | hqiFnMapWrite (dt : Nat) (fn : Fin 256) (data : Word)
  /-- DMA_READ_REQUEST (R95): The DMA engine issues a record data read once the bobbin can take every wide word the request can fill. -/
  | dmaReadRequest (dt : Nat) (cmd : Nat) (len : Nat)
  /-- DMA_READ_COMPLETION (R89): Record data arrives, is written to the bobbin as narrow words and is packed into wide words. -/
  | dmaReadCompletion (dt : Nat) (cmd : Nat) (data : Bytes)
  /-- DMA_READ_FAILED (R98): A failed PCI Express read of record data ends the packet with a poisoned terminator word. -/
  | dmaReadFailed (dt : Nat) (cmd : Nat)
  /-- BOBBIN_GRANT (R96): A waiting accepted record is granted the lowest free record bobbin of its die, oldest record first. -/
  | bobbinGrant (dt : Nat) (die : Fin 2)
  /-- BOBBIN_WIDE_READ (R91): A consumer reads one wide word, with its parity checked and an idle word returned when the bobbin is empty or dropping. -/
  | bobbinWideRead (dt : Nat) (die : Fin 2) (bobbin : Fin 512) (flipData : Bytes) (flipSide : Nat)
  /-- DROP_REST (R93): A consumer orders the bobbin to discard the rest of the packet it is reading. -/
  | dropRest (dt : Nat) (die : Fin 2) (bobbin : Fin 512)
  /-- CREDITED_WRITE (R97): A credited producer, the ledger writer or a safety event path, writes into its bobbin while it holds credits. -/
  | creditedWrite (dt : Nat) (die : Fin 2) (bobbin : Fin 10) (data : Bytes)
  /-- COMPRESSION_JOB_START (R104): A record's compression job is assigned to an engine once its bobbin is granted and the stream's previous job has ended. -/
  | compressionJobStart (dt : Nat) (die : Fin 2)
  /-- BLOCK_EMIT (R117): An engine finishes a block, chooses its type under the capacity rule, checks it and emits it into the frame. -/
  | blockEmit (dt : Nat) (engine : Fin 64) (bad1 : Bool) (bad2 : Bool)
  /-- DECOMPRESSION_JOB (R122): An engine decodes one segment's frame on restore and checks its blocks and checksums. -/
  | decompressionJob (dt : Nat) (die : Fin 2) (cmd : Nat) (bad1 : Bool) (bad2 : Bool)
  /-- CARD_ENG_ENABLE_WRITE (R104): Write of engine enables, after which a disabled idle engine writes back its context at once. -/
  | cardEngEnableWrite (dt : Nat) (die : Fin 2) (data : Word)
  /-- SEAL_JOB (R151): A GCM pipeline seals the frame bytes of one carding job and, at the segment's end, writes its tag. -/
  | sealJob (dt : Nat) (pipe : Fin 8) (start : Bool)
  /-- OPEN_JOB (R159): A pipeline checks a segment's tag and opens its ciphertext on restore, retrying once on another pipeline. -/
  | openJob (dt : Nat) (pipe : Fin 8) (start : Bool) (upset : Bool)
  /-- UNWRAP_JOB (R157): A pipeline unwraps a key blob with AES-KW for KEY_LOAD. -/
  | unwrapJob (dt : Nat) (pipe : Fin 8) (start : Bool) (blob : Bytes)
  /-- NONCE_RESERVATION (R149): When 524,288 values of the current block remain, a reservation record for the next 2^20 values is written in two copies. -/
  | nonceReservation (dt : Nat)
  /-- KEY_SLOT_ZEROIZE (R158): A dropped slot is zeroized after the last job holding it ends, and KEY_DROP completes. -/
  | keySlotZeroize (dt : Nat) (slot : Fin 4096)
  /-- KEY_ERASURE (R160): An alarm that names keys reaches a die's cipher unit, which stops jobs and zeroizes keys within 5 µs. -/
  | keyErasure (dt : Nat) (die : Fin 2) (duration : Nat)
  /-- DRBG_SEED (R163): A 512-bit seed passes its health tests and the DRBG is instantiated. -/
  | drbgSeed (noise : NoiseIn)
  /-- DRBG_RESEED (R163): After 65,536 generate calls or 10 s the DRBG is reseeded. -/
  | drbgReseed (noise : NoiseIn)
  /-- HEALTH_TEST_FAILURE (R164): A health test failure uninstantiates the DRBG until a new seed passes, or sets FAILED after three start-up retries. -/
  | healthTestFailure (noise : NoiseIn) (startup : Bool)
  /-- ROW_FETCH (R206): A format sequencer requests a row from its source at least 4 slot times before the row's slot. -/
  | rowFetch (dt : Nat) (port : Fin 32) (seq : Fin 8)
  /-- SLOT_WRITE (R207): A slot's first channel bit falls due and the codeword, or a fill codeword if it is late, is sent as WRITE cells. -/
  | slotWrite (dt : Nat) (port : Fin 32) (fail mask : Nat)
  /-- WEFT_ABORT_RECEIVE (R536): The scheduler receives WEFT_ABORT and fails the weft, which is voided. -/
  | weftAbortReceive (dt : Nat)
  /-- REGEN_REQUEST (R209): A rewrite allocation asks a sequencer to regenerate a codeword from the beam store. -/
  | regenRequest (dt : Nat) (port : Fin 32) (seg : Nat) (track : Fin 32) (slot : Fin 4)
  /-- SPEED_MATCH_EVAL (R215): Every 100 ms of loom time, the group's want step is computed from demand and queue length. -/
  | speedMatchEval (dt : Nat) (g : Fin 32)
  /-- WEFT_DECISION_POINT (R364): At L minus the lead the scheduler decides to launch, stop or turn, and on launch issues the intent and launch messages. -/
  | weftDecisionPoint (dt : Nat) (g : Fin 32)
  /-- CAT_AGE_EXPIRY (R403): A member's oldest unwritten catalogue entry reaches CAT_AGE, forcing a catalogue write at the next stop. -/
  | catAgeExpiry (dt : Nat) (port : Fin 32)
  /-- MEMBER_HELD_REPORT (R218): A member reports itself held at its run-up point. -/
  | memberHeldReport (dt : Nat) (g : Fin 32) (i : Fin 64)
  /-- GROUP_RESTART (R218): A restart condition holds for a stopped group, and the scheduler sets the restart instant L_r. -/
  | groupRestart (dt : Nat) (g : Fin 32)
  /-- HOLD_WAIT_TIMEOUT (R222): A member not held within 5 s is left out and the group restarts without it. -/
  | holdWaitTimeout (dt : Nat) (g : Fin 32)
  /-- INTENT_DEADLINE (R365): At L minus 20 µs an intent not yet durable causes the launch to be withdrawn and the boundary to become a stop. -/
  | intentDeadline (dt : Nat) (g : Fin 32)
  /-- VERDICT_ARRIVAL (R368): A member's verdict record reaches the scheduler and the weft is assessed for commit or failure. -/
  | verdictArrival (dt : Nat)
  /-- VERIFY_DUE (R369): Loom time reaches L + 3 T_w and a weft with enough passing members commits. -/
  | verifyDue (dt : Nat) (g : Fin 32)
  /-- GRACE_EXPIRY (R372): At a weft's G, members without an on-time verdict are late and LATE_RUN increases. -/
  | graceExpiry (dt : Nat) (g : Fin 32)
  /-- DECLARE_FAILED (R374): Management write that declares a member failed. -/
  | declareFailed (dt : Nat) (g : Fin 32) (i : Fin 64) (data : Word)
  /-- REJOIN (R376): Management write that requests the rejoining of a failed member. -/
  | rejoin (dt : Nat) (g : Fin 32) (i : Fin 64) (data : Word)
  /-- DATASET_RELEASE (R377): A committed dataset whose retention has run out is released in weft order and its granules freed. -/
  | datasetRelease (dt : Nat) (g : Fin 32)
  /-- HDL_ENABLE (R248): Setting ENABLE in HDL_CTRL trains the heddle link through lock, IDENT, time lock and CONFIG to UP. -/
  | hdlEnable (dt : Nat) (port : Fin 32) (data : Word)
  /-- HDL_TRAINING_TIMEOUT (R248): A training step misses its time, so the attempt restarts, or the link becomes FAILED after RETRAIN_MAX attempts. -/
  | hdlTrainingTimeout (dt : Nat) (port : Fin 32)
  /-- HDL_RETRAIN (R248): Write of RETRAIN that takes an UP link DOWN and retrains it. -/
  | hdlRetrain (dt : Nat) (port : Fin 32)
  /-- CODEWORD_RECEIVE (R228): A heddle codeword is decoded and its cells are delivered by type. -/
  | codewordReceive (dt : Nat) (shuttle : Bool) (port : Fin 32) (lane : Fin 4) (header : BitVec 276) (cells : BitVec 4864) (check : BitVec 300)
  /-- LANE_LOCK_LOSS (R249): An active lane loses lock and the link goes DOWN. -/
  | laneLockLoss (dt : Nat) (shuttle : Bool) (port : Fin 32) (upstream : Bool) (lane : Fin 4)
  /-- STATUS_TIMEOUT (R249): No STATUS message for 5 ms takes the link DOWN. -/
  | statusTimeout (dt : Nat) (port : Fin 32)
  /-- MARKER_SEND (R232): A downstream marker codeword leaves, its T1 is recorded and a TIME cell follows. -/
  | markerSend (dt : Nat) (port : Fin 32) (seq : Nat)
  /-- TIME_EXCHANGE (R233): An upstream TIME cell gives T2 and T3, and the slice computes delay and offset and tracks lock. -/
  | timeExchange (dt : Nat) (port : Fin 32) (cell : Bytes) (t4 : Nat)
  /-- SAMPLE_CELL (R235): A SAMPLE cell delivers 42 samples of one reader to the read channel front end. -/
  | sampleCell (dt : Nat) (port : Fin 32) (lane : Fin 4) (lost : Bool) (cell : Bytes)
  /-- SCHEDULING_POINT (R268): At postamble bit 32, pending gain steps, bank switches, target changes and predictor loads take effect. -/
  | schedulingPoint (dt : Nat) (port : Fin 32) (moduleB : Bool) (role : Fin 2) (half : Fin 2) (place : Fin 8)
  /-- SERVO_CELL (R236): A SERVO cell delivers 30 servo samples that the decoder turns into stripes and frames. -/
  | servoCell (dt : Nat) (port : Fin 32) (reader : Fin 2) (lost : Bool) (cell : Bytes)
  /-- SENSE_CELL (R237): A SENSE cell delivers reel angles, tensions, currents and excitation state, each reading judged healthy or not. -/
  | senseCell (dt : Nat) (port : Fin 32) (cell : Option Bytes)
  /-- TRANSDUCER_EVALUATION (R346): At each evaluation instant, a transducer with no healthy reading in four sampling instants is declared lost. -/
  | transducerEvaluation (dt : Nat) (port : Fin 32)
  /-- EDGE_KEEPALIVE (R243): An EDGE cell is sent at least every 10 µs on each active lane, empty when no edge is due. -/
  | edgeKeepalive (dt : Nat) (port : Fin 32)
  /-- IDENT (R246): Upstream message giving the transport's conformance, readers, modules, bridges and serial. -/
  | ident (dt : Nat) (port : Fin 32) (seq : Nat) (payload : Bytes)
  /-- STATUS (R246): Upstream message every 1 ms with the transport's state, brake, safe-stop, lock and counters. -/
  | status (dt : Nat) (port : Fin 32) (seq : Nat) (payload : Bytes)
  /-- EVENT (R247): Upstream message reporting a transport event, which is logged in page 0x0090. -/
  | event (dt : Nat) (port : Fin 32) (seq : Nat) (payload : Bytes)
  /-- ACK (R245): Upstream acknowledgement of a downstream message with its result. -/
  | ack (dt : Nat) (port : Fin 32) (seq : Nat) (payload : Bytes)
  /-- MSG_RESEND (R245): A message without ACK after 50 µs is sent again, and the link goes DOWN after the third resend. -/
  | msgResend (dt : Nat) (port : Fin 32)
  /-- DECODE_PASS_END (R272): A detector and LDPC pass ends, converged or queued for a further turbo pass. -/
  | decodePassEnd (dt : Nat) (port : Fin 32) (moduleB : Bool) (role : Fin 2) (place : Fin 16) (again : Bool)
  /-- NO_SYNC_REPORT (R275): In verify, a slot not decoded gets a NO_SYNC report 40 µs after its expected passing. -/
  | noSyncReport (dt : Nat) (port : Fin 32) (missed : TrackSlot)
  /-- LOOK_BUFFER_GRANT (R277): A waiting dual-look read is granted a look buffer region, oldest request first. -/
  | lookBufferGrant (dt : Nat) (die : Fin 2)
  /-- LEAD_ONLY_REPORT (R279): A slot with no trailing look is decoded from the leading look and reported 40 µs after it was due. -/
  | leadOnlyReport (dt : Nat) (port : Fin 32) (track : Fin 32) (missed : SlotAt)
  /-- DEAD_CLEAR_A (R298): Write that clears module A's dead tracks at the next run start. -/
  | deadClearA (dt : Nat) (port : Fin 32) (data : Word)
  /-- DEAD_CLEAR_B (R298): Write that clears module B's dead tracks at the next run start. -/
  | deadClearB (dt : Nat) (port : Fin 32) (data : Word)
  /-- CLE_B_TICK (R304): A 100 µs CLE-B tick computes the position, velocity, tension and current loops from the tick's SENSE cell. -/
  | cleBTick (dt : Nat) (port : Fin 32)
  /-- CLE_A_TICK (R305): A servo frame completes and CLE-A computes TRACK and sends an ACT cell. -/
  | cleATick (dt : Nat) (port : Fin 32)
  /-- CLE_A_IDLE_TICK (R305): With no frame for 100 µs, CLE-A sends an ACT cell repeating FINE, with a heartbeat. -/
  | cleAIdleTick (dt : Nat) (port : Fin 32)
  /-- SERVO_FRAME_MISSING (R309): No frame within 1.5 t_F declares a missing frame; FINE is held and TRACK skips the section. -/
  | servoFrameMissing (dt : Nat) (port : Fin 32)
  /-- OFFLOAD_STEP (R311): After 1,024 AUTO frames, OFFLOAD moves by one step if the mean FINE exceeds 8,192. -/
  | offloadStep (dt : Nat) (port : Fin 32)
  /-- TICK_OVERRUN (R333): A tick whose compute is not done when the next tick is due is abandoned and counted. -/
  | tickOverrun (dt : Nat) (port : Fin 32) (cleB : Bool)
  /-- INJECTION_END (R332): An injection ends at DURATION, or early with INTERRUPTED. -/
  | injectionEnd (dt : Nat) (port : Fin 32)
  /-- CAPTURE_FULL (R331): The capture buffer is full, is written to host memory and INJECT_CAPTURE completes. -/
  | captureFull (dt : Nat) (port : Fin 32)
  /-- RC_CLEAR (R322): Write of CLEAR that zeroes a repetitive controller table at the next tick. -/
  | rcClear (dt : Nat) (port : Fin 32) (rc : Fin 3) (data : Word)
  /-- CARRIER_PERIOD_COMPILE (R338): At a period's compile instant, leg duties, pulses, carries and dead time are compiled and EDGE cells are sent. -/
  | carrierPeriodCompile (dt : Nat) (port : Fin 32) (lockstep : Bool) (check : Nat)
  /-- EDGE_CARRIER_WRITE (R340): Write of the carrier frequency, taken only with every bridge held off. -/
  | edgeCarrierWrite (dt : Nat) (port : Fin 32) (data : Word)
  /-- EDGE_TIMING_WRITE (R340): Write of dead time and minimum pulse, taken only with every bridge held off. -/
  | edgeTimingWrite (dt : Nat) (port : Fin 32) (data : Word)
  /-- EDGE_MAP_WRITE (R353): Write that maps legs to half-bridges, discarded when two legs share a bridge. -/
  | edgeMapWrite (dt : Nat) (port : Fin 32) (data : Word)
  /-- EDGE_TEST_WRITE (R353): Write of a manual bridge request for whole carrier periods, taken only with both current loops in MANUAL. -/
  | edgeTestWrite (dt : Nat) (port : Fin 32) (data : Word)
  /-- GRANT_REQUEST (R526): The slice asks the supervisor for the motion grant, which is given after the permit test if every condition holds. -/
  | grantRequest (dt : Nat) (port : Fin 32) (pass : Bool)
  /-- GRANT_RETURN (R526): The slice gives the grant back after braking and the port goes to SAFE. -/
  | grantReturn (dt : Nat) (port : Fin 32)
  /-- CHANNEL_COMPARE (R529): Every 5 µs the supervisor channels compare permits, monitors and causes, raising FAULT on a mismatch. -/
  | channelCompare (dt : Nat) (die : Fin 2) (differ : Bool) (fault : Fin 5)
  /-- CLE_HEARTBEAT (R529): A CLE heartbeat with OWN and OUT_CRC reaches the supervisor. -/
  | cleHeartbeat (dt : Nat) (port : Fin 32) (cleB own crcOk : Bool)
  /-- HEARTBEAT_DEADLINE (R529): A CLE heartbeat not received by its deadline is CLE heartbeat loss. -/
  | heartbeatDeadline (dt : Nat) (port : Fin 32) (cleB : Bool)
  /-- OVERSPEED_WINDOW (R531): Each 100 µs window, reel angular rates are compared with the speed limit over radius. -/
  | overspeedWindow (dt : Nat) (port : Fin 32)
  /-- SAFE_PORT_CLEAR (R532): Write of CLEAR from FN 0 that removes a port's latched cause when its condition has ended. -/
  | safePortClear (dt : Nat) (port : Fin 32) (data : Word)
  /-- FAULT_N_EXTERNAL (R534): An external low on FAULT_N of at least 1 µs puts every port into HARD and latches cause 10. -/
  | faultNExternal (dt : Nat) (low : Bool)
  /-- BEAM_READ (R420): A beam store line read is decoded and classed Clean, Corrected or Uncorrectable. -/
  | beamRead (dt : Nat) (line : Nat) (errs : List (Nat × Nat × Nat)) (cmd : Option Nat)
  /-- BEAM_PARTIAL_WRITE (R425): A write that does not cover a whole line enters or merges into the channel's merge buffer. -/
  | beamPartialWrite (dt : Nat) (line mask : Nat) (bytes : Bytes) (errs : List (Nat × Nat × Nat))
  /-- MERGE_ENTRY_TIMEOUT (R425): A merge entry 256 ns old leaves by read-modify-write. -/
  | mergeEntryTimeout (dt : Nat) (ch : Fin 16) (errs : List (Nat × Nat × Nat))
  /-- SCRUB_LINE (R427): The scrubber reads a line and writes it back corrected or as stored poison. -/
  | scrubLine (dt : Nat) (errs : List (Nat × Nat × Nat))
  /-- BUCKET_LEAK (R428): Every LEAK_S seconds a channel's bucket level falls by one. -/
  | bucketLeak (dt : Nat) (ch : Fin 16)
  /-- FILL_STEP_DONE (R423): FILL has written every line of a 64 GiB step and the step is released. -/
  | fillStepDone (dt : Nat)
  /-- WRITE_RAW (R433): Test operation that stores data and check symbols exactly as given in a retired granule. -/
  | writeRaw (dt : Nat) (die : Fin 2)
  /-- WRITE_GEN (R433): Test operation that stores data with computed check symbols XORed with a given pattern. -/
  | writeGen (dt : Nat) (die : Fin 2)
  /-- READ_RAW (R433): Test operation that reads a line uncorrected and reports its decode class. -/
  | readRaw (dt : Nat) (die : Fin 2) (errs : List (Nat × Nat × Nat))
  /-- HASH_KEY_DRAW (R435): HASH_KEY is drawn from the DRBG once seeded and the beam layout is keyed. -/
  | hashKeyDraw (dt : Nat)
  /-- SHUT_ENABLE (R448): Setting ENABLE trains a shuttle link and exchanges IDENT packets to UP or MISMATCH. -/
  | shutEnable (dt : Nat) (port : Fin 4) (data : Word)
  /-- SHUT_RETRAIN (R448): Write of RETRAIN that takes a shuttle link DOWN and retrains it. -/
  | shutRetrain (dt : Nat) (port : Fin 4) (data : Word)
  /-- SHUT_TIME_TIMEOUT (R448): No TIME cell for 3 ms takes a shuttle link DOWN. -/
  | shutTimeTimeout (dt : Nat) (port : Fin 4)
  /-- SHUT_RETRY_TIMER (R448): A DOWN shuttle link is retrained every 100 ms while enabled. -/
  | shutRetryTimer (dt : Nat) (port : Fin 4)
  /-- PACKET_RECEIVE (R450): A shuttle packet is received and delivered locally, forwarded along the tree or flooded. -/
  | packetReceive (dt : Nat) (port : Fin 4) (lane : Fin 4) (cell : Fin 16) (head body : Bytes)
  /-- CREDIT (R450): A CREDIT packet returns bulk credits for a lane. -/
  | credit (dt : Nat) (port : Fin 4) (lane : Fin 4) (cells : Nat)
  /-- HEARTBEAT_SEND (R452): The manager sends HEARTBEAT on every UP port at each 1 ms of loom time. -/
  | heartbeatSend (dt : Nat)
  /-- HEARTBEAT (R452): A received heartbeat is relayed with HOPS increased and the parent is chosen. -/
  | heartbeat (dt : Nat) (port : Fin 4) (src : Nat) (m : Bytes)
  /-- HEARTBEAT_MISS (R453): Three heartbeats missed on the parent port make the part choose again. -/
  | heartbeatMiss (dt : Nat)
  /-- PARENT_TIME_EXCHANGE (R455): The 1 ms time exchange with the parent steers or steps loom time and updates ERROR_EST. -/
  | parentTimeExchange (dt : Nat) (t1 t2 t3 t4 : Nat)
  /-- HOLDOVER (R457): A parent that misses 3 exchanges puts the part in holdover with ADJ held. -/
  | holdover (dt : Nat)
  /-- PPS_EDGE (R459): A 1PPS rising edge at the root steers loom-time phase, or sets it to 0 at the first edge. -/
  | ppsEdge (dt : Nat)
  /-- TIME_REF_LOST (R459): Loss of TIME_REF or 1PPS is logged and ADJ is held. -/
  | timeRefLost (dt : Nat) (pps : Bool)
  /-- DIE_ALIGN_CHECK (R445): Every 10 µs the Die S counter error is checked, and beyond 8 ticks time error is reported. -/
  | dieAlignCheck (dt : Nat) (err : Int)
  /-- MANAGER_ELECTION (R461): A candidate that hears no heartbeat within its wait becomes manager with a new epoch recorded in the ledger. -/
  | managerElection (dt : Nat)
  /-- STATE (R462): A standby receives and keeps the manager's replicated state. -/
  | state (dt : Nat) (port : Fin 4) (src : Nat) (m : Bytes)
  /-- STANDBY_TAKEOVER (R463): A standby without a heartbeat for its takeover time becomes manager and continues from its state. -/
  | standbyTakeover (dt : Nat)
  /-- HOLD (R464): A HOLD flood for a conflicting epoch puts the part into the leaderless hold. -/
  | hold (dt : Nat) (port : Fin 4) (src : Nat) (m : Bytes)
  /-- CLAIM (R466): Write of CLAIM by a candidate in hold that claims the fabric with a new epoch. -/
  | claim (dt : Nat) (data : Word)
  /-- AUTO_CLAIM_EXPIRY (R466): A candidate in hold for AUTO_CLAIM_MS claims the fabric. -/
  | autoClaimExpiry (dt : Nat)
  /-- CROSS_PLAN_EVAL (R467): At L − T_w − LEAD − 220 µs the manager evaluates a cross-device boundary, names the owner and sends PLAN. -/
  | crossPlanEval (dt : Nat) (g : Fin 32)
  /-- PLAN (R467): A part receives a PLAN and, as owner, makes up the weft and issues its intent. -/
  | plan (dt : Nat) (port : Fin 4) (src : Nat) (m : Bytes)
  /-- LAUNCH (R467): A member part receives the owner's launch message for a cross-device weft. -/
  | launch (dt : Nat) (port : Fin 4) (src : Nat) (m : Bytes)
  /-- LAUNCH_MISSING (R467): A member part with no LAUNCH at L − 20 µs writes nothing and stops. -/
  | launchMissing (dt : Nat) (g : Fin 32)
  /-- VERDICT (R382): The manager receives a member part's verdict record for a cross-device weft. -/
  | verdict (dt : Nat) (port : Fin 4) (src : Nat) (m : Bytes)
  /-- OUTCOME (R382): The owner and member parts receive commit or fail of a cross-device weft, and the owner writes the commit record. -/
  | outcome (dt : Nat) (port : Fin 4) (src : Nat) (m : Bytes)
  /-- DECLARE (R374): Parts receive the manager's declaration that a member failed or rejoined. -/
  | declare (dt : Nat) (port : Fin 4) (src : Nat) (m : Bytes)
  /-- REGEN (R383): The owner receives a member part's request for rows to regenerate. -/
  | regen (dt : Nat) (port : Fin 4) (src : Nat) (m : Bytes)
  /-- HOPREP (R468): The manager receives a part's hop report and recomputes group latencies. -/
  | hoprep (dt : Nat) (port : Fin 4) (src : Nat) (m : Bytes)
  /-- TIMEFAULT (R456): The manager receives a part's time fault set or cleared. -/
  | timefault (dt : Nat) (port : Fin 4) (src : Nat) (m : Bytes)
  /-- QUEUE (R382): The manager receives a part's ready-queue length and oldest close time for a cross-device group. -/
  | queue (dt : Nat) (port : Fin 4) (src : Nat) (m : Bytes)
  /-- QUEUE_REPORT (R382): Once per weft period each part sends its ready-queue report to the manager. -/
  | queueReport (dt : Nat)
  /-- ROW (R451): A member part receives one row of a cross-device weft in a bulk packet. -/
  | row (dt : Nat) (port : Fin 4) (src : Nat) (m : Bytes)
  /-- ATTEST (R520): A quote request received from the manager, answered within 10 ms, or a reply stored in page 0x0110. -/
  | attest (dt : Nat) (port : Fin 4) (src : Nat) (m : Bytes)
  /-- LEDGER_RECORD_SUBMIT (R480): A record reaches the ledger island and enters its region's open page, suspending an erase if URGENT. -/
  | ledgerRecordSubmit (dt : Nat) (region : Fin 9) (data : Bytes)
  /-- PAGE_GATHER_TIMEOUT (R480): 10 µs after an URGENT record or 1 ms after the first record, the open page is programmed. -/
  | pageGatherTimeout (dt : Nat) (region : Fin 9) (die : Fin 16)
  /-- PAGE_PROGRAM_DONE (R480): A page program completes and its records become durable, or it fails. -/
  | pageProgramDone (dt : Nat) (die : Fin 16) (pass : Bool)
  /-- BLOCK_ERASE (R484): A block is erased between durable ERASE_BEGIN and ERASE_DONE flags. -/
  | blockErase (dt : Nat) (block : Nat)
  /-- ERASE_DONE (R484): An erase completes, ERASE_DONE is programmed and the block becomes usable, or the erase failed. -/
  | eraseDone (dt : Nat) (die : Fin 16) (pass : Bool)
  /-- LEDGER_SCAN (R491): At start the ledger reads flag logs, finds torn pages and half-erased blocks and hands valid records on. -/
  | ledgerScan (dt : Nat) (found : FlashScan)
  /-- RESET_OF_PART (R494): A reset of the part clears the PCRs and restarts the start-up sequence from step 1. -/
  | resetOfPart (dt : Nat) (cause : Fin 5)
  /-- POR_N (R598): POR_N low for at least 10 µs is a power-on reset of the part. -/
  | porN (dt : Nat) (micros : Nat)
  /-- SYS_RESET_N (R598): SYS_RESET_N low for at least 10 µs resets the part. -/
  | sysResetN (dt : Nat) (micros : Nat)
  /-- BOOT_RESET (R494): Write of RESET in BOOT_CTRL that resets the part. -/
  | bootReset (dt : Nat) (data : Word)
  /-- PERST_N (R498): Deassertion of a PERST_N starts the 900 ms window in which the endpoint becomes ready. -/
  | perstN (dt : Nat) (portB : Bool)
  /-- ROLE_CONFIRM (R496): By 25 ms the die-to-die link and the roles are confirmed, or Die N fails and Die S isolates. -/
  | roleConfirm (dt : Nat) (linked roleN roleS : Bool)
  /-- SLOT_SELECT (R500): The boot ROM measures and verifies the firmware slots, boots the best one and releases Die S. -/
  | slotSelect (dt : Nat) (selftest : Fin 4)
  /-- BENAK_READ (R508): Both Benak copies are read and verified and the valid one is applied, or configuration recovery is entered. -/
  | benakRead (dt : Nat) (copy0 copy1 : Bytes)
  /-- ATTEST_KEY_GEN (R517): After the first seed, the attestation key is generated and its Alias certificate issued. -/
  | attestKeyGen (dt : Nat)
  /-- BEAM_TRAIN (R417): The beam store population is checked and its channels trained at the highest common rate. -/
  | beamTrain (dt : Nat) (channels dpc cap : Nat) (mrdimm uniform : Bool) (rate : Option (Fin 4)) (mismatch : List Nat)
  /-- CONFIG_LOCK (R509): At the end of the first fill, configuration is locked and PCR 8 extended. -/
  | configLock (dt : Nat)
  /-- READY_REACHED (R497): 10 ms after CONFIG_LOCK, BOOT_STATE reads READY and the event interrupt is raised. -/
  | readyReached (dt : Nat)
  /-- BOOT_WATCHDOG_EXPIRY (R502): The boot watchdog expires before READY and resets the part. -/
  | bootWatchdogExpiry (dt : Nat)
  /-- D2D_LINK_LOSS (R503): No valid flit for 2 µs makes a die declare the die-to-die link lost. -/
  | d2dLinkLoss (dt : Nat) (die : Fin 2)
  /-- RCV_ERASE (R511): ROM recovery operation that unlocks and erases a firmware slot. -/
  | rcvErase (dt : Nat) (data : Word) (fail : Option (Fin 16))
  /-- RCV_PROGRAM (R511): ROM recovery operation that programs one page of a firmware slot in order. -/
  | rcvProgram (dt : Nat) (data : Word) (pass : Bool)
  /-- RCV_VERIFY (R511): ROM recovery operation that checks a slot as R500 would. -/
  | rcvVerify (dt : Nat) (data : Word)
  /-- PROV_GO (R514): Provisioning operation that programs KEY_ROOT and OWNER_KEY_HASH and sets OWNED. -/
  | provGo (dt : Nat) (data : Word) (pass : Bool)
  /-- DECOMMISSION (R514): Provisioning operation that decommissions the part. -/
  | decommission (dt : Nat) (data : Word)
  /-- COMMIT_SVN (R513): Write that raises the firmware and image SVN minima in fuses. -/
  | commitSvn (dt : Nat) (data : Word)
  /-- PCR_EXTEND (R515): Write of GO in BOOT_EXT_CTRL that extends an owner PCR with BOOT_EXT_DATA. -/
  | pcrExtend (dt : Nat) (data : Word)
  /-- DORMANT_REQUEST (R545): Write of DORMANT that saves the resume block, holds DRAM in self-refresh and drops WARD_PWR_EN, or is refused. -/
  | dormantRequest (dt : Nat) (data : Word)
  /-- WARD_WAKE_N (R547): WARD_WAKE_N held low for 1 ms wakes the part. -/
  | wardWakeN (dt : Nat) (micros : Nat)
  /-- WAKE_AFTER_EXPIRY (R547): The DORMANT wake timer expires and the part is woken. -/
  | wakeAfterExpiry (dt : Nat)
  /-- POWER_GOOD_RESUME (R547): On power-good the resume block is checked, and the part resumes or is reset. -/
  | powerGoodResume (dt : Nat) (intact : Bool)
  /-- WAKE_RAIL_TIMEOUT (R592): Rails not in range 1 s after wake make the warden drop WARD_PWR_EN and stay DORMANT. -/
  | wakeRailTimeout (dt : Nat)
  /-- CONVERSION_RESULT (R549): The sensor converter gives a result for a channel with VALID, SETTLE and OPEN. -/
  | conversionResult (dt : Nat) (value : Int) (near : Nat)
  /-- WARD_CH_CFG_WRITE (R550): Write of channel settings that takes effect at the next conversion boundary. -/
  | wardChCfgWrite (dt : Nat) (ch : Fin 16) (data : Word)
  /-- MESH_FAULT (R556): A mesh loop reads back two mismatching bits, or a short, and raises a tamper alarm. -/
  | meshFault (dt : Nat) (pair : Fin 4)
  /-- TAMPER_N_LOW (R556): A TAMPER_N input low for 4 µs raises a tamper alarm. -/
  | tamperNLow (dt : Nat) (n : Fin 4) (micros : Nat)
  /-- VOLTAGE_TAMPER (R556): VAON or the core rail out of bounds for more than 1 µs raises a tamper alarm. -/
  | voltageTamper (dt : Nat) (core : Bool) (nanos : Nat)
  /-- TEMPERATURE_TAMPER (R556): The warden temperature outside −45 to +115 °C raises a tamper alarm. -/
  | temperatureTamper (dt : Nat) (temp : Int)
  /-- CLOCK_TAMPER (R556): A stopped or off-frequency warden oscillator, or a crystal glitch, raises a tamper alarm. -/
  | clockTamper (dt : Nat)
  /-- TAMPER_CLEAR_GO (R559): Write of GO that checks the owner's signature over the challenge and clears TAMPER. -/
  | tamperClearGo (dt : Nat) (data : Word)
  /-- ALERT_CLEAR (R554): W1C write of ALERT that releases WARD_ALERT_N. -/
  | alertClear (dt : Nat) (data : Word)
  /-- I2C_TRANSFER (R561): A board-controller I2C transfer reads or writes warden target registers. -/
  | i2cTransfer (dt : Nat) (bytes : Bytes) (reads : Nat)
  /-- I2C_WAKE (R561): Write of 1 to the I2C WAKE register that wakes the part. -/
  | i2cWake (dt : Nat) (value : Fin 256)
  /-- I2C_QUOTE_REQUEST (R521): Write of GO over I2C that requests a quote for the board controller. -/
  | i2cQuoteRequest (dt : Nat) (value : Fin 256)
  /-- THERMTRIP (R604): A junction sensor reaches 112 °C; THERMTRIP_N and FAULT_N go low. -/
  | thermtrip (dt : Nat) (die : Fin 2) (temp : Int)
  /-- VID_STEP (R591): The die changes its core voltage code by one step, at most every 10 µs. -/
  | vidStep (dt : Nat) (die : Fin 2) (up : Bool)
  /-- SYS_EVENT_WRITE (R576): W1C write of SYS_EVENT that may send another management event message. -/
  | sysEventWrite (dt : Nat) (data : Word)
  /-- SYS_EVENT_EN_WRITE (R576): Write of event enables that may send a management event message. -/
  | sysEventEnWrite (dt : Nat) (data : Word)
  /-- CORE_EXCEPTION (R579): A core exception restarts the core's task, logs the error and ends any write run on its port. -/
  | coreException (dt : Nat) (die : Fin 2) (core : Fin 3) (slice : Fin 16) (counter : Nat)
  /-- LO_READ_LATCH (R9): A read of a LO register latches the HI value for that requester. -/
  | loReadLatch (dt : Nat) (who : Fin 9) (addr : Nat)
  /-- RC_READ (R10): A read of a read-clears register returns its value and clears it. -/
  | rcRead (dt : Nat) (who : Fin 9) (addr : Nat)
  /-- REGISTER_WRITE (R567): A write to a register without a row of its own, subject to access codes, reserved encodings, locking and decode. -/
  | registerWrite (dt : Nat) (who : Fin 9) (addr : Nat) (enables : Fin 16) (data : Word)
  /-- TRAINING_BLOCK (R248): A heddle or shuttle receiver locks a lane on the peer's training blocks, resolves lane order and polarity, or sees READY, which advances training toward codewords. -/
  | trainingBlock (dt : Nat) (shuttle : Bool) (port : Fin 32) (lane : Fin 4) (inverted : Bool) (control : Nat) (locked : Nat)
  /-- POWER_LOSS (R494): Unplanned loss of the supply rails, VAON included, without POR_N held low first, which leaves ledger pages torn and the beam store empty. -/
  | powerLoss (dt : Nat)
  /-- ERASE_SUSPEND_DONE (R483): A NAND erase suspend completes, up to 20 µs after it was issued, and the die enters ERASE_SUSPENDED so that the waiting read or program can be issued. -/
  | eraseSuspendDone (dt : Nat) (die : Fin 16)
  /-- ERASE_RUN_EXPIRY (R483): An erase has run 500 µs since its last start or resume, so a waiting non-URGENT operation may now suspend it. -/
  | eraseRunExpiry (dt : Nat) (die : Fin 16)
  /-- TAMPER_RECORD_WRITTEN (R557): The warden's write of the tamper record to NVM completes, within 200 µs of the alarm, and the latch now survives loss of VAON. -/
  | tamperRecordWritten (dt : Nat)
  /-- PERMIT_TEST_DUE (R538): A port has spent 24 h of SAFE time since its last permit test, so each supervisor channel drops its permit for 10 µs in turn and the land is checked. -/
  | permitTestDue (dt : Nat) (port : Fin 32) (pass : Bool)
  /-- UNSETTLED_CHECK (R327): At L minus 10 µs of a run start, the last 64 servo frames are checked against SETTLE, and the run is stopped with STOP_BIT 0 if any was unsettled. -/
  | unsettledCheck (dt : Nat) (port : Fin 32)
  /-- HOPREP_REPORT (R451): Every 100 ms each part sends its parent DEVICE_ID, d, θ and ERROR_EST to the manager in a HOPREP packet. -/
  | hoprepReport (dt : Nat)
  /-- TAP_INSTRUCTION (R601): An IEEE 1149.1 TAP instruction is loaded, and EXTEST drives SAFE_STOP_N and FAULT_N low while it stays selected. -/
  | tapInstruction (dt : Nat) (inst : Fin 3)
  /-- TIME_REF_RESTORED (R459): TIME_REF or 1PPS returns at a root that has REF_EN or PPS_EN set, so steering to it resumes and REF_LOCK or PPS_LOCK set again. -/
  | timeRefRestored (dt : Nat) (pps : Bool) (adj : Int)
  deriving DecidableEq, Repr

end Sys2Proof
end

