-- ==== Sys2Proof/Decode.lean ====
section
/-!
DEFINITION. Sys2Proof/Decode.lean: the command that a word of spec/opcode_table.json spells. The table gives bits to
no row (every row is an event or a register access of the block, not an encoded instruction), so no word spells one.
The encodings the spec does give, submission entries (R49), heddle cells (R235 to R243) and shuttle packets (R450),
are read where they arrive, in Sys2Proof/Machine.
-/

namespace Sys2Proof

/-- No row of the table gives bits: no word spells a command. -/
def decodeTableWord (_nbits _w : Nat) : Option Instr := none

end Sys2Proof
end

