-- ==== Sys2Proof/Config.lean ====
section
/-!
DEFINITION. Sys2Proof/Config.lean: the values this model leaves free. Each is an opaque constant: nothing can be
proved of it beyond its type, so a claim holds whatever it is. They are what the maker has put into a device (its
certificates, its keys, its ROM), the functions whose keyed form the spec does not give, the outcomes of analog and
physical processes, and the values the spec leaves open (log entry 4, and those named at each).
-/

namespace Sys2Proof

/-- The DeviceID certificate that Axiotum issued for a serial number (R516). -/
opaque Config.deviceCert (serial : Nat) : Bytes
/-- The Alias certificate over an attestation key, signed by the DeviceID key, with PCR 0 to PCR 5 (R517). -/
opaque Config.aliasCert (deviceKey attKey pcrs : Bytes) : Bytes
/-- The Axiotum firmware public key in the boot ROM (R500). -/
opaque Config.firmwareKey : Bytes
/-- The engine microcode components in a firmware image (R515, PCR 6; log entry 57). -/
opaque Config.microcode (image : Bytes) : List Bytes
/-- Version of a die's boot ROM (R515, R575; log entry 6). -/
opaque Config.romVersion (die : Nat) : Nat
/-- Free bytes by position: values the model does not fix (log entry 64). -/
opaque Config.freeByte (i : Nat) : Byte
/-- Free numbers by position. -/
opaque Config.freeNat (i : Nat) : Nat
/-- The keyed 64-bit function H of R435: HASH_KEY, index. -/
opaque Config.beamHash (key : Bytes) (index : Nat) : Nat
/-- The keyed function of R419 that folds the check symbols: HASH_KEY, EPOCH, pool offset; 128 bits. -/
opaque Config.beamFold (key : Bytes) (epoch offset : Nat) : Nat
/-- How many entries the object index holds: its layout is the firmware's (R407, R487; log entry 89). -/
opaque Config.indexRoom : Nat
/-- DRAM row, bank and bank group (as in R429's BANK), and rank of a pool offset (R435). -/
opaque Config.dramRow (key : Bytes) (offset : Nat) : Nat
opaque Config.dramBank (key : Bytes) (offset : Nat) : Nat
opaque Config.dramRank (key : Bytes) (offset : Nat) : Nat

/-! ### The read channel (R258 to R269) and the servo decoder (R307; log entry 53) -/

/-- The results that the read channel rounds and whose rounding the spec does not state. -/
inductive Rounding where
  | interpolation | equalizer | digitalGain | tap | predictor | baseline | timing | llr | mse | gainStep
  deriving DecidableEq, Repr

/-- Whether the n-th rounding of a reader of a port goes up. -/
opaque Config.roundUp (site : Rounding) (port reader n : Nat) : Bool
/-- Coefficient `tap` (0 to 7) of the interpolator at a phase (0 to 63), in units of 2^-16 (R258). -/
opaque Config.interpTap (phase tap : Nat) : Int
/-- Correlation of 64 interpolated samples with the preamble pattern that the gains in use lead to expect (R262): analog and digital
gain, in units of 2^-10. -/
opaque Config.preambleLevel (gain dgain : Nat) : Nat
/-- The phase set at bit 31 from the I/Q correlation over bits 0 to 31, in 1/64 raw sample (R263). -/
opaque Config.zeroPhase (xs : List Int) : Int
/-- The digital gain set at bit 31 from the correlation amplitude, in 2^-10 (R263). -/
opaque Config.zeroGain (xs : List Int) : Nat
/-- The Mueller–Müller timing error of outputs z_k, z_(k−1) with the ideal samples d_k, d_(k−1), in 2^-24 of a raw sample (R263). -/
opaque Config.timingError (z z1 d d1 : Int) : Int
/-- The sign-scaled amplitude error |z| − |d| of R260, in 2^-10. -/
opaque Config.gainError (diff : Int) : Int
/-- The 124 parity bytes of a BCH codeword of a ledger page (R476): the spec gives neither the field's nor the code's polynomials. -/
opaque Config.bchParity : Bytes → Bytes
/-- Scale of the predictor's LMS step (R260). -/
opaque Config.predictorScale : Nat
/-- The variance of R269 before a reader has had a slot, times 2^14. -/
opaque Config.firstVariance : Nat
/-- A servo sample lies beyond the detection threshold (R307). -/
opaque Config.servoBeyond (v : Int) : Bool

end Sys2Proof
end

