-- ==== Sys2Proof/Machine/State.lean ====
section
/-!
DEFINITION. Sys2Proof/Machine/State.lean: the state of the part as plain data (spec/00 to spec/22), the queue of
waiting commands, and the state after reset. Each field's docstring names the rule that gives it to the machine.
A structure that stands once per port, stream, group or other instance is held in a `Tab`: a list of
(instance, value) pairs with rising instance numbers, where an instance not listed holds the value after reset.
-/

namespace Sys2Proof.Machine

/-- A table by instance number: rising keys, and no entry equal to the value an unlisted key reads as. -/
abbrev Tab (α : Type) := List (Nat × α)

/-- Where a field of a register lies: address, lowest bit, width (R7). -/
structure Fld where
  addr : Nat
  lo : Nat
  width : Nat
  deriving DecidableEq, Repr

/-- A log page (R577): the entries held, oldest first, and the entries written since reset (R578). -/
structure LogPage where
  entries : List Bytes := []
  written : Nat := 0
  deriving DecidableEq, Repr

/-- What the part sends out in one step, in order (R61): writes and reads of host memory, MSI-X messages, register
read data, heddle and shuttle traffic, pins that pulse, and I2C data. The model's own record of its outputs. -/
inductive Output where
  | hostWrite (fn addr : Nat) (data : Bytes)
  | hostRead (fn addr len : Nat)
  | msix (fn vector : Nat)
  | regData (value : Nat)
  | hdlCell (port lane typ : Nat) (payload : Bytes)
  | hdlMsg (port typ : Nat) (payload : Bytes)
  | hdlTrain (port step : Nat)
  | hdlBlock (port lane control : Nat)
  | hdlWord (port lane : Nat) (word : Bytes)
  | shutPacket (port cls lane typ dest : Nat) (payload : Bytes)
  | shutWord (port lane : Nat) (word : Bytes)
  | shutTrain (port step : Nat)
  | nand (die block page : Nat) (data : Bytes)
  | pin (name : Nat) (level : Bool)
  | i2cData (data : Bytes)
  | wide (data : Bytes) (side : Nat)
  | spiRead (addr len : Nat)
  deriving DecidableEq, Repr

/-! ### Loom time (spec/17_timebase_fabric.md R443 to R459) -/

/-- Loom time and its steering. -/
structure TimeSt where
  /-- Loom time, 64 bits (R443). Reset 0. -/
  now : Nat := 0
  /-- Fraction of a tick below `now`, in units of 2^-32 ticks (R444). DESIGN CHOICE 0, log entry 5. -/
  frac : Nat := 0
  /-- ADJ, signed, units of 2^-32 ticks per tick (R444). -/
  adj : Int := 0
  /-- integ of the steering law (R455). -/
  integ : Int := 0
  /-- The last 16 values of ADJ, latest first (R457). -/
  adjs : List Int := []
  /-- θ and d of the last exchange with the parent (R455, TIME_OFFSET). -/
  theta : Int := 0
  delay : Int := 0
  /-- Parent's ERROR_EST from its last heartbeat, and the own ERROR_EST (R456). -/
  parentErr : Nat := 0
  errorEst : Nat := 0
  /-- Loom time of the last exchange, and exchanges missed in a row (R457). -/
  lastExchange : Nat := 0
  missed : Nat := 0
  /-- Exchanges in a row within the limit while the fault stands (R456). -/
  goodRun : Nat := 0
  /-- A 1PPS edge has been seen since reset (R459). -/
  ppsSeen : Bool := false
  /-- ERROR_EST when holdover began (R457). -/
  holdBase : Nat := 0
  deriving DecidableEq, Repr

/-- The running state of XXH64 with seed 0 (R121). -/
structure Xxh where
  v1 : BitVec 64 := 0x60EA27EEADC0B5D6#64
  v2 : BitVec 64 := 0xC2B2AE3D27D4EB4F#64
  v3 : BitVec 64 := 0#64
  v4 : BitVec 64 := 0x61C8864E7A143579#64
  buf : Bytes := []
  total : Nat := 0
  deriving DecidableEq, Repr

/-! ### Host queues (spec/02_host_queues.md) -/

/-- A completion, R51, kept until its entry is written (R45, R48). -/
structure Completion where
  cid : Nat := 0
  status : Nat := 0
  level : Nat := 0
  seq : Nat := 0
  result : Bytes := []
  detail : Nat := 0
  opcode : Nat := 0
  handle : Nat := 0
  /-- The in-flight entry this completion's posting frees (R84). -/
  frees : Option Nat := none
  /-- The stream whose CLOSE_STREAM this completes (R78). -/
  closes : Option Nat := none
  /-- The completion is discarded when its turn comes (R48). -/
  drop : Bool := false
  /-- Stream and order class of R60: 1 STAGED, 2 TAPED, 0 neither. -/
  stream : Option Nat := none
  cls : Nat := 0
  deriving DecidableEq, Repr

/-- An entry of a queue pair, fetched and not yet accepted (R55), with its scatter list (R50). -/
structure Fetched where
  e : Sqe
  sgl : List Sgl := []
  deriving DecidableEq, Repr

/-- Why and since when a dispatched command is held (R56, R66). -/
structure Held where
  /-- Loom time at which the hold began (R85). -/
  since : Nat := 0
  /-- WEIGHT of the tenant when the command was dispatched (R66). -/
  weight : Nat := 0
  /-- True for a PUT_RECORD held for the pool itself, false for the quota alone (R378). -/
  pool : Bool := false
  deriving DecidableEq, Repr

/-- A queue pair (R41 to R48). -/
structure Qp where
  /-- SQ base taken at ENABLE (R43). -/
  sqBase : Nat := 0
  /-- CQ base taken at ENABLE (R43). -/
  cqBase : Nat := 0
  /-- SIZE_LOG2 taken at ENABLE (R43). -/
  sizeLog2 : Nat := 4
  /-- SQ head, SQ tail, CQ head, CQ tail (R43 to R46). -/
  sqHead : Nat := 0
  sqTail : Nat := 0
  cqHead : Nat := 0
  cqTail : Nat := 0
  /-- Phase written on this pass (R45); 1 from ENABLE. -/
  phase : Bool := true
  /-- Fetching: set at ENABLE, cleared by DOORBELL_ERR, DMA_ERR or ENABLE = 0 (R44, R46 to R48). -/
  fetching : Bool := false
  /-- Entries fetched and not yet accepted, oldest first (R55). -/
  fetched : List Fetched := []
  /-- The head entry's hold, if it is held (R55). -/
  held : Option Held := none
  /-- Commands accepted and not yet completed (R47). -/
  running : Nat := 0
  /-- A write of a CQ entry has failed, and DMA_ERR has not been cleared since: completions are held (R48). -/
  cqHeld : Bool := false
  /-- Completions waiting to be written, in order (R45, R48). -/
  waiting : List Completion := []
  /-- Entries posted since the last signal and not freed (R41). -/
  unsignalled : Nat := 0
  /-- When the oldest unsignalled entry was posted (R41). -/
  unsigSince : Option Nat := none
  deriving DecidableEq, Repr

/-- What an accepted command is doing. -/
inductive Phase where
  /-- Record: waiting for a bobbin (R96). -/
  | waitBobbin
  /-- Record: transferring and carding. -/
  | transfer
  /-- Every byte of the record is in emitted blocks; sealing is to end (R22). -/
  | carded
  /-- Waiting for its STAGED point (R59). -/
  | staging
  /-- STAGED and waiting for TAPED (R59). -/
  | taping
  /-- Waiting for its own end (restore, unwrap, capture, patrol and the like). -/
  | working
  /-- Finished; the completion waits for its turn in SEQ order (R60). -/
  | done
  deriving DecidableEq, Repr

/-- A segment to restore (R54): where the index places it, and its header and message once its dataset has been read. -/
structure RSeg where
  group : Nat := 0
  weft : Nat := 0
  role : Nat := 0
  segmentNo : Nat := 0
  objectOffset : Nat := 0
  last : Bool := false
  /-- The dataset has been read: the fields below are those of its segment (R188, R190). -/
  ready : Bool := false
  formatRev : Nat := 1
  mode : Nat := 0
  continues : Bool := false
  firstRecord : Nat := 0
  keyLabel : Nat := 0
  nonce : Bytes := []
  tag : Bytes := []
  plainLength : Nat := 0
  /-- Frame offsets of the records that start in it. -/
  starts : List Nat := []
  message : Bytes := []
  deriving DecidableEq, Repr

/-- The work of a restore (R54, R122, R159). -/
structure Restore where
  objectId : Bytes := []
  /-- Segments still to restore, in order. -/
  segs : List RSeg := []
  /-- First object byte wanted, and bytes still wanted. -/
  pos : Nat := 0
  left : Nat := 0
  /-- READ_RECORD: the record's index, the object offset at which it starts once known, and its bytes so far. -/
  record : Option Nat := none
  recAt : Option Nat := none
  acc : Bytes := []
  /-- Object length, where the index holds it. -/
  total : Option Nat := none
  dual : Bool := false
  /-- The first segment's message has been opened: frame and trailer, in the clear. -/
  frame : Option Bytes := none
  /-- Loom time since when it waits for a carding engine (R104). -/
  frameAt : Nat := 0
  /-- Its line has been found poisoned once (R432). -/
  poisonRetry : Bool := false
  /-- Running object checksum, while the read began at object byte 0 (R124). -/
  hash : Option Xxh := none
  deriving DecidableEq, Repr

/-- A command accepted and not yet completed (R59). -/
structure Cmd where
  e : Sqe := {}
  sgl : List Sgl := []
  fn : Nat := 0
  q : Nat := 0
  /-- Tenant of the function when the command was accepted (R39, R68). -/
  tenant : Nat := 0
  /-- Handle of the stream of a stream command. -/
  stream : Option Nat := none
  /-- In-flight index of the object the command belongs to. -/
  obj : Option Nat := none
  /-- SEQ in the stream's accepted sequence (R51). -/
  seq : Nat := 0xFFFFFFFFFFFFFFFF
  phase : Phase := .working
  /-- Highest level the data has reached (R51). -/
  level : Nat := 0
  /-- FORCE, or FLUSH: the command completes TAPED (R59). -/
  taped : Bool := false
  result : Bytes := []
  /-- Record bytes requested from the host (R95). -/
  requested : Nat := 0
  /-- Record bytes that have arrived (R57). -/
  arrived : Nat := 0
  /-- The packet was ended early (R98, R100). -/
  ended : Bool := false
  /-- Bobbin granted: number on the die of the command's port (R96). -/
  bobbin : Option Nat := none
  /-- Record bytes taken into emitted blocks (R118). -/
  consumed : Nat := 0
  /-- Bytes written to host memory so far, for restores (R123, R159). -/
  written : Nat := 0
  /-- Loom time at which its carding job became ready (R104). -/
  readySince : Option Nat := none
  /-- Dataset and segment index that hold the record's first byte (R52). -/
  firstAt : Option (Nat × Nat) := none
  /-- An ending the part itself brings about, from no queue pair (R48, R68). -/
  implicit : Bool := false
  /-- Work of a restore that is still to do (R54, R159, R122). -/
  rst : Restore := {}
  /-- The completion, once known. -/
  fin : Option Completion := none
  /-- The function was reset: the completion is discarded (R48). -/
  drop : Bool := false
  deriving DecidableEq, Repr

/-- A tenant's scheduler tags and FORCE bucket (R65, R69). -/
structure Tenant where
  /-- Start tag S[t], 64 bits (R65). -/
  tag : Nat := 0
  /-- last_q[t]: global queue pair index (R65). -/
  lastQ : Nat := 0
  /-- Tokens in the bucket; full from reset (R69). -/
  tokens : Nat := 16
  /-- Loom time of the grid's origin: the latest write or reset (R69). -/
  gridFrom : Nat := 0
  /-- Grid points already past. -/
  gridDone : Nat := 0
  deriving DecidableEq, Repr

/-- Benak settings of a function (R37, R41). -/
structure FnCfg where
  /-- MSI-X table size (R41). -/
  msix : Nat := 0
  /-- Endpoint: 0 A or A0, 1 A1, 2 B or B0, 3 B1 (R36, R37). -/
  endpoint : Nat := 0
  /-- FN of the endpoint's physical function, and the number of a virtual function from 1; 0 is the physical one (R37). -/
  pf : Nat := 0
  vf : Nat := 0
  deriving DecidableEq, Repr

/-- The host queue state. -/
structure Hq where
  /-- Queue pairs by 1,024 × function + own number q (R41). -/
  qps : Tab Qp := []
  /-- Accepted commands by acceptance number. -/
  cmds : Tab Cmd := []
  /-- Acceptance number of the next command. -/
  nextCmd : Nat := 0
  /-- System virtual time V, 64 bits (R65). -/
  vtime : Nat := 0
  tenants : Tab Tenant := []
  /-- The tenants that are ready, rising (R65); HQI_TENANT_STATUS.READY. -/
  ready : List Nat := []
  fns : Tab FnCfg := []
  /-- NumVFs that the host has set and enabled, by FN of the physical function (R37; log entry 136). -/
  numVfs : Tab Nat := []
  /-- MSI-X Message Control by FN: bit 15 Enable, bit 14 Function Mask (R41, PCI Express; log entry 136). -/
  msixCtl : Tab Nat := []
  /-- Mask bit of the vectors that are unmasked, as 0, by 2,048 × FN + vector; 1 from reset (R41). -/
  vecMask : Tab Nat := []
  /-- Pending bits, as 2,048 × FN + vector (R41). -/
  vecPend : List Nat := []
  /-- HI latches by (requester × 2^32 + address of the pair): requester 0 FN 0, 1 to 8 the system cores (R9, R571). -/
  hiLatch : Tab Nat := []
  deriving DecidableEq, Repr

/-! ### Streams, objects and bobbins (spec/03_ingest.md) -/

/-- A wide word as stored: 64 data bytes and the 25-bit side band (R90). -/
structure WideWord where
  data : Bytes := []
  side : Nat := 0
  deriving DecidableEq, Repr

/-- A bobbin FIFO (R87 to R97). -/
structure Bobbin where
  /-- Wide words stored, oldest first. -/
  words : List WideWord := []
  /-- Bytes of the packet that have arrived and fill no whole wide word yet (R89). -/
  packing : Bytes := []
  /-- Wide words reserved for issued reads (R95). -/
  reserved : Nat := 0
  /-- The record (acceptance number) the bobbin is granted to (R96). -/
  owner : Option Nat := none
  /-- Wide words of the packet written and read or discarded so far (R91, R93). -/
  wrote : Nat := 0
  taken : Nat := 0
  /-- All of the packet's wide words have been written. -/
  allIn : Bool := false
  /-- The consumer has read the first word and not the LAST one (R93). -/
  inPacket : Bool := false
  /-- A drop is discarding: up to the LAST word (R93, R94). -/
  dropping : Bool := false
  /-- Record bytes not yet asked for, and bytes of issued reads that have not arrived (R95). -/
  left : Nat := 0
  due : Nat := 0
  /-- The record's object has ended: the packet is dropped (R99, R100). -/
  dead : Bool := false
  /-- Bobbins 0 to 9: wide words of each packet stored, oldest first; bytes of the one being read, and whether a word of it was
  poisoned (R87, R91). -/
  packets : List Nat := []
  taking : Bytes := []
  spoiled : Bool := false
  /-- Bobbins 2 to 9: records that wait in the ledger writer for credits, oldest first (R97). -/
  pend : List Bytes := []
  /-- Credits held by the producer of bobbins 0 to 9, in narrow words (R97). -/
  credits : Nat := 4096
  /-- Events a safety event path could not write (R97). -/
  missed : Nat := 0
  deriving DecidableEq, Repr

/-- A stream (R76 to R79). -/
structure Stream where
  /-- Open under R78. -/
  isOpen : Bool := false
  /-- Generation of the handle issued last, 0 before the first (R76). -/
  gen : Nat := 0
  /-- CLOSE_STREAM has been accepted: the handle is no longer valid (R53, R78). -/
  closing : Bool := false
  group : Nat := 0
  level : Nat := 0
  keySlot : Nat := 0
  /-- Bound to the key slot until the STAGED point of CLOSE_STREAM (R158). -/
  bound : Bool := false
  tenant : Nat := 0
  /-- Function it was opened through (R48, R68). -/
  fn : Nat := 0
  /-- Next SEQ, 64 bits (R51). -/
  nextSeq : Nat := 0
  /-- In-flight index of the open object (R53). -/
  obj : Option Nat := none
  /-- An object has ended under R34 while commands of earlier objects, those below this acceptance number, are still in carding:
  once they have taken their effect the open dataset closes. -/
  endAt : Option Nat := none
  /-- Dataset the packer has open for the stream (R79). -/
  dataset : Option Nat := none
  deriving DecidableEq, Repr

/-- An in-flight object entry (R84). -/
structure Obj where
  used : Bool := false
  objectId : Bytes := []
  stream : Nat := 0
  gmacOnly : Bool := false
  /-- Acceptance number of its OPEN_OBJECT: its commands have larger ones, those of earlier objects smaller ones (R34). -/
  openCmd : Nat := 0
  /-- LENGTH accepted so far (R62). -/
  accepted : Nat := 0
  /-- PUT_RECORDs accepted so far (R80, R82). -/
  records : Nat := 0
  /-- Bytes in emitted blocks, records and segments started so far (R144, R188). -/
  emitted : Nat := 0
  started : Nat := 0
  segments : Nat := 0
  /-- CLOSE_OBJECT accepted (R84). -/
  closed : Bool := false
  /-- The trailer has been written (R189). -/
  trailer : Bool := false
  /-- Ended by an ending other than CLOSE_OBJECT, with its status (R34, R62). -/
  ended : Option Nat := none
  /-- Its catalogue entry has been recorded (R84, R400). -/
  catalogued : Bool := false
  /-- Records of the object: SEQ and the emitted length at which each starts. -/
  starts : List (Nat × Nat) := []
  /-- Running object checksum (R121). -/
  hash : Xxh := {}
  deriving DecidableEq, Repr

/-- Streams, objects and bobbins. -/
structure Ingest where
  streams : Tab Stream := []
  objs : Tab Obj := []
  /-- Bobbins by 512 × die + number (R87). -/
  bobbins : Tab Bobbin := []
  deriving DecidableEq, Repr

/-! ### Carding (spec/04_carding.md, spec/05_match_finding.md) -/

/-- Entropy tables carried from block to block of a frame (R105, R134, R138): Huffman code lengths and the three
FSE distributions; empty when none. -/
structure PrevTables where
  huff : List Nat := []
  ll : List Int := []
  off : List Int := []
  ml : List Int := []
  deriving DecidableEq, Repr

/-- A stream's carding context (R105): the open frame. -/
structure CardCtx where
  /-- A frame is open. -/
  frameOpen : Bool := false
  /-- Window: the last 1,048,576 bytes of the frame's content. -/
  window : Bytes := []
  /-- Frame position of the next content byte: 32 bits (R127). -/
  position : Nat := 0
  /-- HEAD by hash, NONE (0xFFFF_FFFF) where not listed, and CHAIN by position mod 1,048,576, of the engine that holds the context
  (R128); an engine that loads the context has the same, rebuilt from the window (R105). -/
  head : Tab Nat := []
  chain : Tab Nat := []
  /-- Frame bytes written so far, header included. -/
  frameBytes : Nat := 0
  /-- Repeat offsets (R131). -/
  rep1 : Nat := 1
  rep2 : Nat := 4
  rep3 : Nat := 8
  prev : PrevTables := {}
  frameHash : Xxh := {}
  notShrunk : Nat := 0
  /-- Engine of the frame's last job, and SEQ of its record (R125). -/
  engine : Nat := 0
  seq : Nat := 0
  deriving DecidableEq, Repr

/-- What an engine is doing (CARD_ENG_STATUS). -/
inductive EngState where
  | idle | compressing | decompressing | failed
  deriving DecidableEq, Repr

/-- How a job ended (R118). -/
inductive JobEnd where
  | recordEnd | frameFull | objectEnd | aborted | poisoned | engineFailed
  deriving DecidableEq, Repr

/-- A job's report to its packer (R118). -/
structure JobReport where
  stream : Nat := 0
  seq : Nat := 0
  ended : JobEnd := .recordEnd
  consumed : Nat := 0
  produced : Nat := 0
  notShrunk : Nat := 0
  deriving DecidableEq, Repr

/-- A carding engine (R102 to R105). -/
structure Engine where
  state : EngState := .idle
  /-- Stream slot whose context it holds (R104). -/
  ctx : Option Nat := none
  /-- Loom time since when it is idle (R104). -/
  idleSince : Nat := 0
  /-- The record (acceptance number) of its job. -/
  job : Option Nat := none
  /-- Input buffer: record bytes read and not yet in an emitted block (R113). -/
  input : Bytes := []
  /-- The record's last byte has been read. -/
  inputEnd : Bool := false
  /-- Frame bytes of this job, to be sealed at its end (R151). -/
  output : Bytes := []
  /-- Bytes consumed and NOT_SHRUNK blocks of this job, and the last report made (R118). -/
  jobConsumed : Nat := 0
  jobShrunk : Nat := 0
  report : Option JobReport := none
  deriving DecidableEq, Repr

/-- A written-back context (R105): the dataset it is attached to and its granules are in the beam store. -/
structure SavedCtx where
  /-- Dataset the 260 granules are attached to; none while the stream has no open dataset. -/
  dataset : Option Nat := none
  granules : List Nat := []
  deriving DecidableEq, Repr

/-- The carding state. -/
structure Carding where
  /-- Engines by global number (R102). -/
  engines : Tab Engine := []
  /-- Carding contexts by stream slot. -/
  ctxs : Tab CardCtx := []
  /-- Contexts written back, by stream slot. -/
  saved : Tab SavedCtx := []
  deriving DecidableEq, Repr

/-! ### Sealing (spec/06_sealing.md) -/

/-- Frame bytes waiting to be sealed: the output of one carding job for one segment (R151). -/
structure SealWork where
  /-- Handle of the stream. -/
  stream : Nat := 0
  /-- The command whose bytes these are: acceptance number. -/
  cmd : Option Nat := none
  /-- Dataset and segment index the bytes belong to. -/
  dataset : Nat := 0
  seg : Nat := 0
  /-- Key slot of the segment. -/
  key : Nat := 0
  data : Bytes := []
  /-- The segment ends with these bytes: the tag is due (R151). -/
  last : Bool := false
  /-- Class 1: FORCE, or the end of a segment of a closing dataset (R151). -/
  urgent : Bool := false
  /-- The record ends with these bytes: the command is then STAGED (R22). -/
  recordEnd : Bool := false
  deriving DecidableEq, Repr

/-- A job of a GCM pipeline (R151). -/
inductive PipeJob where
  | seal (w : SealWork)
  /-- Open the next segment of a restore; the pipeline that has already found its tag wrong (R159). -/
  | openSeg (cmd : Nat) (tried : Option Nat)
  /-- Unwrap the blob of a KEY_LOAD (R157). -/
  | unwrap (cmd : Nat) (blob : Bytes)
  deriving DecidableEq, Repr

/-- A waiting or running job with the time it became ready and its die (R152). -/
structure QueuedJob where
  job : PipeJob
  since : Nat := 0
  die : Nat := 0
  deriving DecidableEq, Repr

/-- A GCM pipeline (R151 to R153). -/
structure Pipeline where
  running : Option QueuedJob := none
  suspended : Option QueuedJob := none
  /-- Nonce sub-block: next value and end (R149). -/
  subNext : Nat := 0
  subEnd : Nat := 0
  deriving DecidableEq, Repr

/-- The SEAL_STATE entry of a stream slot (R146). -/
structure SealState where
  active : Bool := false
  keySlot : Nat := 0
  nonce : Bytes := []
  /-- Message bytes sealed so far: the counter position and running length. -/
  len : Nat := 0
  /-- The message so far, from which the GHASH accumulator is a function. -/
  msg : Bytes := []
  aad : Bytes := []
  gmac : Bool := false
  deriving DecidableEq, Repr

/-- A key slot (R155). -/
structure KeySlot where
  key : Option Bytes := none
  label : Nat := 0
  tenant : Nat := 0
  /-- KEY_DROP accepted: closed to new jobs (R158). -/
  closing : Bool := false
  /-- The KEY_DROP commands that wait for it. -/
  drops : List Nat := []
  deriving DecidableEq, Repr

/-- The health tests of the noise source as they run over its samples (R163): the last sample and how often it has come in a row; the
first sample of the window of 512, samples of the window so far, and how many of them equal the first. -/
structure Noise where
  last : Option Nat := none
  run : Nat := 0
  first : Nat := 0
  pos : Nat := 0
  count : Nat := 0
  deriving DecidableEq, Repr

/-- DRBG states (CIPH_DRBG_STATUS.STATE). -/
inductive DrbgState where
  | uninstantiated | seeding | ready | failed
  deriving DecidableEq, Repr

/-- The sealing state. -/
structure Sealing where
  /-- Pipelines by 4 × die + number. -/
  pipes : Tab Pipeline := []
  /-- Jobs waiting for a pipeline (R152). -/
  queue : List QueuedJob := []
  sealStates : Tab SealState := []
  /-- The 1,024 granules of the SEAL_STATE entries (R146). -/
  sealGranules : List Nat := []
  slots : Tab KeySlot := []
  /-- Nonce counter: next value of the current block, 64 bits (R149). -/
  nonceNext : Nat := 0
  /-- End of the values reserved and durable (R149). -/
  nonceEnd : Nat := 0
  /-- Copies of the reservation record (and of PREFIX_USED) still to become durable (R149, R150). -/
  nonceCopies : Nat := 0
  /-- End value of the reservation being written. -/
  nonceWant : Nat := 0
  /-- Copies of the PREFIX_USED record still to become durable (R150). -/
  prefixCopies : Nat := 0
  /-- INSTANCE_PREFIX is marked used in the ledger (R150). -/
  prefixUsed : Bool := false
  /-- Volatile copies of the KEK_t are held (R154). -/
  keks : Bool := false
  /-- Erasures that an alarm has ordered: die, and whether a tamper alarm ordered it (R160). -/
  eraseDue : List (Nat × Bool) := []
  drbg : DrbgState := .uninstantiated
  /-- Key and V of CTR_DRBG (R163). -/
  drbgKey : Bytes := []
  drbgV : Nat := 0
  /-- The noise source's health tests, and that its start-up test has passed (R163). -/
  noise : Noise := {}
  srcTested : Bool := false
  /-- Generate calls since the seed and the seed's loom time (R163). -/
  genCalls : Nat := 0
  seedTime : Nat := 0
  /-- Start-up retries of the source (R163). -/
  retries : Nat := 0
  /-- Position in the stream of free values of Config: the model's own field, no state of the spec (DESIGN CHOICE 0, log entry 64). -/
  fresh : Nat := 0
  deriving DecidableEq, Repr

/-! ### Datasets (spec/07_dataset_format.md, spec/08_formatting.md) -/

/-- A segment of a data dataset (R187, R188). -/
structure Seg where
  obj : Nat := 0
  /-- First and last SEQ of the commands whose bytes it holds. -/
  seqLo : Nat := 0
  seqHi : Nat := 0
  mode : Nat := 0
  /-- FLAGS of R188: bit 0 LAST, bit 1 ABORTED, bit 2 CONTINUES. -/
  last : Bool := false
  aborted : Bool := false
  continues : Bool := false
  objectId : Bytes := []
  objectOffset : Nat := 0
  firstRecord : Nat := 0
  segmentNo : Nat := 0
  keyLabel : Nat := 0
  nonce : Bytes := []
  tag : Bytes := []
  /-- Payload offset of the header. -/
  offset : Nat := 0
  /-- The message as stored: ciphertext, or plaintext in GMAC-only mode (R187). -/
  message : Bytes := []
  /-- Bytes emitted so far: frame bytes handed to sealing, and the trailer (R188). -/
  emitted : Nat := 0
  plainLength : Nat := 0
  recordCount : Nat := 0
  firstMap : Nat := 0xFFFF
  mapCount : Nat := 0
  /-- The segment has its tag, or is aborted (R146). -/
  sealed : Bool := false
  deriving DecidableEq, Repr

/-- Where a data dataset stands between opening and release. -/
inductive DsState where
  | opened      -- being filled
  | closing     -- cause fixed, last bytes being sealed
  | ready       -- in the group's ready queue (R203)
  | launched    -- in a weft not yet committed
  | committed   -- in a committed weft, within retention (R377)
  deriving DecidableEq, Repr

/-- A data dataset in the beam store (R202, R203). -/
structure Dataset where
  /-- The table holds a dataset under this number. -/
  live : Bool := false
  /-- Handle of the stream. -/
  stream : Nat := 0
  tenant : Nat := 0
  group : Nat := 0
  state : DsState := .opened
  segs : List Seg := []
  /-- Record map entries used (R190). -/
  map : List Nat := []
  /-- Payload offset at which the next segment begins (R191). -/
  payloadEnd : Nat := 9216
  cause : Nat := 0
  /-- Closed at, for lambda and ageing (R215, R217). -/
  closedAt : Nat := 0
  /-- The FORCE or FLUSH that closed it: acceptance number and tenant (R70, R366). -/
  forcedBy : Option (Nat × Nat) := none
  /-- The forced launch has been deferred and counted (R366). -/
  deferred : Bool := false
  /-- Weft that carries it, once launched (R362). -/
  weft : Nat := 0
  /-- Loom time from which retention counts: its weft's commit (R377). -/
  committedAt : Nat := 0
  /-- Granules of a written-back context attached to it (R105). -/
  ctxGranules : List Nat := []
  /-- Payload and DIT granules (R202). -/
  granules : List Nat := []
  /-- Bytes of a poisoned line make the dataset unusable (R432, R536). -/
  poisoned : Bool := false
  /-- A copy made by RESHAPE: its bytes as read, and RESHAPE_ID (R412). -/
  raw : Option Bytes := none
  reshape : Nat := 0
  deriving DecidableEq, Repr

/-- The datasets of the part. -/
structure Datasets where
  tab : Tab Dataset := []
  next : Nat := 0
  deriving DecidableEq, Repr

/-! ### Heddle links (spec/09_heddle_link.md) -/

/-- A downstream message awaiting its ACK (R245). -/
structure HdlMsg where
  typ : Nat := 0
  seq : Nat := 0
  payload : Bytes := []
  sentAt : Nat := 0
  resends : Nat := 0
  deriving DecidableEq, Repr

/-- A sample stream as started by SAMPLE_START (R234, R246). -/
structure SampleRun where
  s : Nat := 0
  p : Nat := 2
  /-- 0 module A, 1 module B, 2 both. -/
  set : Nat := 0
  sServo : Nat := 0
  sSense : Nat := 0
  /-- Loom time of the first sample not taken, after SAMPLE_STOP. -/
  stop : Option Nat := none
  /-- Nominal advance per channel bit in 2^-24 raw samples (R258); of a write run the loom time at which its first preamble bit is due at
  the trailing readers, and T_w (R262). -/
  adv : Nat := 16777216
  verify : Option (Nat × Nat) := none
  deriving DecidableEq, Repr

/-- A heddle link (R226 to R250). -/
structure Hdl where
  /-- Training step of R248 that is due next, 0 when not training; loom time by which it must be done; start of the attempt. -/
  step : Nat := 0
  due : Nat := 0
  start : Nat := 0
  /-- Attempts of this bring-up (R248). -/
  tries : Nat := 0
  /-- Upstream lanes locked: the LANE each carries and whether its polarity is inverted (R227, R248). -/
  lanes : Tab (Option (Nat × Bool)) := []
  /-- READY seen on each upstream lane. -/
  ready : List Nat := []
  /-- Downstream lanes the transport reports locked: their mask, from its training blocks. -/
  dsGood : Nat := 0
  /-- IDENT has passed its checks; CONFIG has been sent and acknowledged in this attempt. -/
  ident : Bool := false
  config : Bool := false
  readers : Nat := 0
  bridges : Nat := 0
  takeFitted : Bool := false
  /-- Next downstream MSG_SEQ, and messages awaiting an ACK, oldest first (R245). -/
  seq : Nat := 0
  unacked : List HdlMsg := []
  /-- Next SEQ expected on each upstream lane, and codewords received since UP (R229, R249). -/
  upSeq : Tab Nat := []
  count : Tab Nat := []
  /-- Codeword numbers of the latest discards of each lane (R249), and lanes with a discard since their last good codeword. -/
  discards : Tab (List Nat) := []
  lossy : List Nat := []
  /-- Downstream markers sent and not yet used: SEQ and T1 (R232). -/
  markers : List (Nat × Nat) := []
  dnSeq : Nat := 0
  /-- d and e of the last exchange, exchanges in a row within and beyond TIME_BOUND (R233). -/
  delay : Int := 0
  offset : Int := 0
  goodRun : Nat := 0
  badRun : Nat := 0
  /-- Loom time of the last STATUS message (R249), and its counters. -/
  statusAt : Nat := 0
  trips : Nat := 0
  lateEdges : Nat := 0
  gaps : Nat := 0
  interlocks : Nat := 0
  locked : Bool := false
  /-- The sample stream, the one that replaces it from its S onward, and cells received on each lane since SAMPLE_START (R234, R235,
  R257). -/
  sample : Option SampleRun := none
  nextSample : Option SampleRun := none
  cells : Tab Nat := []
  /-- SERVO_MODULE as last sent (R246). -/
  servoModule : Nat := 0
  /-- Loom time of the first downstream codeword, codewords used for cells so far, and WRITE cells sent on each role's lane since
  WRITE_START (R229). -/
  dnAt : Nat := 0
  dnCount : Nat := 0
  /-- Transmit preset that the peer requests on each lane (R248). -/
  preset : Tab Nat := []
  /-- SENSE_SEQ of the last SENSE cell, plus 1 (R237). -/
  senseSeq : Nat := 0
  /-- Next EDGE_SEQ and ACT_SEQ, and loom time of the last EDGE cell (R241, R243, R244). -/
  edgeSeq : Nat := 0
  actSeq : Nat := 0
  edgeAt : Nat := 0
  /-- SENSE cells lost in a row (R249). -/
  senseLost : Nat := 0
  deriving DecidableEq, Repr

/-- The heddle links. -/
structure Heddle where
  ports : Tab Hdl := []
  deriving DecidableEq, Repr

/-! ### Warp groups and wefts (spec/14_weave.md, spec/08_formatting.md) -/

/-- Where a member's cartridge stands, as its part reports it to the manager of a cross-device group (R382). -/
structure MemberRep where
  /-- A cartridge is mounted; its current wrap lies in an edge-zone band (R212). -/
  cart : Bool := true
  edge : Bool := false
  /-- The next segment would end inside the data area (R168, R220). -/
  fits : Bool := true
  /-- There is no next logical wrap; there is a free one (R221). -/
  last : Bool := false
  free : Bool := true
  /-- The member would write nothing (R361). -/
  absent : Bool := false
  deriving DecidableEq, Repr

/-- A member of a group (R355, R361, R374, R376). -/
structure Member where
  dev : Nat := 0
  port : Nat := 0
  failed : Bool := false
  /-- REJOIN accepted, not yet in effect (R376). -/
  rejoin : Bool := false
  lateRun : Nat := 0
  /-- Held at its run-up point (R218), and when it reported so. -/
  held : Bool := false
  /-- Left out of the run: not held in time (R222), or WRITE_START refused (R607). -/
  out : Bool := false
  /-- MOUNT came while the group ran: the cartridge is used from the next turn (R222). -/
  await : Bool := false
  /-- It was full when the group entered FULL (R221). -/
  full : Bool := false
  /-- What the part of a member on another part last reported (R382). -/
  rep : MemberRep := {}
  deriving DecidableEq, Repr

/-- A member's part in a weft: its placement entry (R389) and its verdict (R368). -/
structure Place where
  role : Nat := 0
  /-- KIND of R389: 0 nothing, 1 data, 2 filler, 3 parity, 4 skip marker, 5 relocated copy, 6 void marker. -/
  kind : Nat := 0
  /-- Dataset of a data role. -/
  dataset : Option Nat := none
  dsNo : Nat := 0
  lwrap : Nat := 0
  /-- Position of the first preamble bit, in units of 1/7 nm from the physical beginning of the tape. -/
  pos : Nat := 0
  cart : Nat := 0
  /-- Present at launch: owes a verdict (R368). -/
  present : Bool := false
  /-- 0 none, 1 PASS, 2 RELOCATED_PASS, 3 RELOCATING, 4 FAIL; and whether the first came on time. -/
  verdict : Nat := 0
  onTime : Bool := false
  deriving DecidableEq, Repr

/-- Where a weft stands. -/
inductive WeftState where
  /-- Decided at its decision point, not yet at L (R364, R365). -/
  | decided
  /-- Open: L has passed (R368 to R370). -/
  | launched
  /-- Its catalogue entries, then its COMMIT record, are being made durable (R390, R402). -/
  | entries
  | committing
  | committed
  | voided
  | withdrawn
  deriving DecidableEq, Repr

/-- A weft (R357 to R373, R389, R390). -/
structure Weft where
  no : Nat := 0
  l : Nat := 0
  tw : Nat := 0
  step : Nat := 0
  state : WeftState := .decided
  places : List Place := []
  /-- Bit r: data role r is a phantom; role r is written; role r was written and has not passed (R389, R390). -/
  phantom : Nat := 0
  written : Nat := 0
  missing : Nat := 0
  intentDurable : Bool := false
  /-- Tenant charged a token (R366), to be returned at a withdrawal (R385). -/
  charged : Option Nat := none
  forced : Bool := false
  aged : Bool := false
  /-- GRACE taken at launch, and lateness has been assessed at G (R372). -/
  grace : Nat := 0
  assessed : Bool := false
  /-- CAT_ENTRY records still to become durable (R390). -/
  entriesLeft : Nat := 0
  commitSeq : Nat := 0
  committedAt : Nat := 0
  /-- RETAIN_MS at its commit (R377). -/
  retain : Nat := 0
  /-- Its data datasets have all been released (R377). -/
  released : Bool := false
  /-- DEVICE_ID of the owner of a cross-device weft (R382), and what its OUTCOME gave as MISSING. -/
  owner : Nat := 0
  outMissing : Option Nat := none
  deriving DecidableEq, Repr

/-- A stop that the cadence log has still to report (R224). -/
structure StopInfo where
  kind : Nat := 1
  fromStep : Nat := 0
  edge : Bool := false
  weft : Nat := 0
  q : Nat := 0
  /-- End of the last segment. -/
  endAt : Nat := 0
  deriving DecidableEq, Repr

/-- The queue report of a part for a cross-device group (R382, R451): ready datasets, close time of the oldest, datasets closed
so far, and forced launches due there (R366). -/
structure QReport where
  dev : Nat := 0
  len : Nat := 0
  oldest : Nat := 0
  closed : Nat := 0
  forced : Bool := false
  deriving DecidableEq, Repr

/-- A warp group slot (R355). -/
structure Grp where
  /-- The slot holds a group of the Benak image, its number, K and M (WEAVE_GROUP_ID). -/
  valid : Bool := false
  number : Nat := 0
  k : Nat := 0
  m : Nat := 0
  /-- CROSS (R355). -/
  cross : Bool := false
  members : List Member := []
  /-- Closed data datasets, in the order they closed (R203, R363). -/
  queue : List Nat := []
  /-- Loom times at which data datasets closed, for lambda, and how many have closed so far (R215). -/
  closes : List Nat := []
  closed : Nat := 0
  /-- Loom time of the latest evaluation of speed matching (R215). -/
  evalAt : Option Nat := none
  /-- The group is FULL (R221). -/
  full : Bool := false
  /-- Next WEFT_NO (R357). -/
  weftNext : Nat := 0
  /-- Wefts launched or decided, oldest first. -/
  wefts : List Weft := []
  /-- Launch instant of the next boundary (R215, R364). -/
  nextL : Nat := 0
  /-- The restart instant L_r is set (R218), and the first weft of the restart is still to launch. -/
  lr : Option Nat := none
  firstWeft : Bool := false
  /-- Loom times of the restart condition's arising and of the first member's report that it is held (R222). -/
  condAt : Option Nat := none
  heldAt : Option Nat := none
  lastHeld : Nat := 0
  /-- Stops since the last launch, oldest first. -/
  stops : List StopInfo := []
  /-- Leaderless hold (R384). -/
  hold : Bool := false
  /-- A speed change of R216 stops the group at its next boundary. -/
  speedChange : Bool := false
  /-- Datasets of this group that other parts hold ready (R382). -/
  reports : List QReport := []
  deriving DecidableEq, Repr

/-- The weave state. -/
structure Weave where
  groups : Tab Grp := []
  /-- Wefts whose COMMIT record has just become durable: group slot and number. Taken up in the same step. -/
  news : List (Nat × Nat) := []
  deriving DecidableEq, Repr

/-! ### Consistency (spec/15_consistency.md) -/

/-- A pending void of a cartridge (R392, R393). -/
structure VoidP where
  group : Nat := 0
  weft : Nat := 0
  reason : Nat := 3
  first : Nat := 0
  last : Nat := 0
  /-- Found at start (R397). -/
  atStart : Bool := false
  deriving DecidableEq, Repr

/-- What the formatter knows of a cartridge from the ledger and its label (R197, R392, R400, R402, R404). -/
structure CartK where
  id : Nat := 0
  length : Nat := 0
  bands : Nat := 1
  wraps : Nat := 2
  catBand : Nat := 0
  edgeMask : Nat := 0
  /-- Next DATASET_NO (R199), logical wrap and position (1/7 nm) at which the next segment's first preamble bit goes. -/
  dsNext : Nat := 0
  lwrap : Nat := 0
  pos : Nat := 0
  /-- `pos`, and the position of `rollback`, are the start of the last kept segment: its length is added when the label
  is known (R398). -/
  tail : Bool := false
  /-- Void markers still to be written. -/
  voids : List VoidP := []
  /-- Rollback point, logical wrap and position, and NEXT_DATASET_NO of the marker there (R398). -/
  rollback : Option (Nat × Nat × Nat) := none
  /-- Catalogue entries journalled and not on tape on both wraps: SEQ, entry, time made (R400, R402). -/
  unwritten : List (Nat × Bytes × Nat) := []
  /-- SEQ of the next entry (R400). -/
  catSeq : Nat := 0
  /-- A catalogue update in doubt: wrap, position index d, first and last SEQ (R405). -/
  doubt : Option (Nat × Nat × Nat × Nat) := none
  catDegraded : Bool := false
  deriving DecidableEq, Repr

/-- Where a MOUNT or an UNMOUNT stands (R403, R406). -/
inductive MountStep where
  | label | redo | marker | entries | record | importing | unmountEntries | unmountRecord
  deriving DecidableEq, Repr

/-- A catalogue update in progress (R404). -/
structure CatUpd where
  cart : Nat := 0
  wrap : Nat := 0
  /-- Data position index d being written. -/
  d : Nat := 0
  firstSeq : Nat := 0
  lastSeq : Nat := 0
  /-- 0 BEGIN being made durable, 1 parity or the other positions being read, 2 position d being written, 3 the parity
  position being written, 4 DONE being made durable. -/
  stage : Nat := 0
  /-- The parity is computed from the six other data positions (R404, R405). -/
  six : Bool := false
  /-- Bytes of the parity position to be written; physical positions still to be read for them. -/
  par : Bytes := []
  reads : List Nat := []
  /-- The redo of an update found in doubt (R405). -/
  redo : Bool := false
  /-- A failed write is written once more (R404). -/
  again : Bool := false
  deriving DecidableEq, Repr

/-- A port's cartridge and what moves on it. -/
structure Tape where
  /-- The mounted cartridge. -/
  cart : Option Nat := none
  /-- A MOUNT or UNMOUNT command in progress: its acceptance number and step. -/
  mount : Option (Nat × MountStep) := none
  /-- The cartridge a MOUNT has identified. -/
  ident : Nat := 0
  /-- Label reads made, and whether a preamble was found in any (R406). -/
  tries : Nat := 0
  found : Bool := false
  /-- Next data position of the import (R406); the catalogue wrap tried; positions still to be read where the position is
  rebuilt from its stripe (R404), and what has been combined of them. -/
  importAt : Nat := 1
  importWrap : Nat := 0
  importTodo : List Nat := []
  importAcc : Bytes := []
  /-- The label is still to be written on this many catalogue wraps (R171, R197). -/
  labels : Nat := 0
  upd : Option CatUpd := none
  /-- CAT_AGE has been reached (R403). -/
  aged : Bool := false
  /-- An update is to begin once no write run is in progress (R403). -/
  wantUpd : Bool := false
  /-- A turn has moved the append point: tape between the end of the last segment and the new one, in units of 1/7 nm toward
  the end of the tape (R220). -/
  seek : Option Int := none
  deriving DecidableEq, Repr

/-- A REBUILD, or the repairs of a PATROL (R380, R381, R409). -/
structure RebuildSt where
  cmd : Nat := 0
  group : Nat := 0
  step : Nat := 0
  /-- Wefts and roles still to do: (weft, role). -/
  todo : List (Nat × Nat) := []
  /-- Bytes of the first of them, while it is being written; none while they are being obtained. -/
  data : Option Bytes := none
  /-- Its run has been started, and its verdict is due. -/
  writing : Bool := false
  /-- Roles that must not serve as sources in the first of them (R409). -/
  bar : List Nat := []
  done : Nat := 0
  lost : Nat := 0
  failed : Nat := 0
  limit : Nat := 0
  /-- The role that a patrol has located, whose repair is logged (R409). -/
  located : Option Nat := none
  /-- For PATROL with REPAIR: CAUSE 3 (R409). -/
  repair : Bool := false
  deriving DecidableEq, Repr

/-- A PATROL (R408, R409). -/
structure PatrolSt where
  cmd : Nat := 0
  group : Nat := 0
  next : Nat := 0
  last : Nat := 0
  repair : Bool := false
  port : Nat := 0
  checked : Nat := 0
  mismatched : Nat := 0
  repaired : Nat := 0
  unresolved : Nat := 0
  /-- Speed step of repair writes. -/
  step : Nat := 0
  /-- Repairs of a weft are being written. -/
  repairing : Bool := false
  deriving DecidableEq, Repr

/-- A RESHAPE (R411 to R413). -/
structure ReshapeSt where
  cmd : Nat := 0
  id : Nat := 0
  source : Nat := 0
  target : Nat := 0
  first : Nat := 0
  last : Nat := 0
  /-- Data datasets still to copy: (source weft, role); copied ones waiting for their target weft's commit: (dataset,
  source weft, role); MAP entries made. -/
  todo : List (Nat × Nat) := []
  waiting : List (Nat × Nat × Nat) := []
  copied : Nat := 0
  wefts : Nat := 0
  switching : Bool := false
  deriving DecidableEq, Repr

/-- A dataset being read from the cartridge on a port (R200, R379): the rows received so far. -/
structure TapeRead where
  port : Nat := 0
  dsNo : Nat := 0
  /-- A catalogue dataset, on catalogue wrap `wrap` (R399). -/
  cat : Bool := false
  wrap : Nat := 0
  /-- The logical wrap it lies on. -/
  lwrap : Nat := 0
  /-- Rows by 240 × sub-dataset + row. -/
  rows : Tab Bytes := []
  /-- SEGMENT of the first report, and that in which the latest copy of the dataset was found (R199). -/
  firstSeg : Option Nat := none
  own : Option Nat := none
  /-- The bytes of the latest readable copy so far (R199). -/
  held : Option Bytes := none
  /-- Copies of each descriptor byte gathered from its headers, and the descriptor once the read has ended (R179, R200). -/
  descs : Tab Bytes := []
  desc : Option Bytes := none
  /-- A preamble has been found. -/
  sync : Bool := false
  /-- Once ended: the 6,815,744 bytes, or none where it stays unreadable after C2. -/
  result : Option (Option Bytes) := none
  deriving DecidableEq, Repr

/-- A row of the object index (R407): cartridge, catalogue entry, and for a segment that this part recorded its plain
length (the INDEX layout is the firmware's, R487). -/
structure IdxRow where
  cart : Nat := 0
  entry : Bytes := []
  len : Option Nat := none
  deriving DecidableEq, Repr

/-- The consistency state. -/
structure Cons where
  /-- The object index and the catalogues as known: cartridge and 64-byte entry, in the order made (R401, R407). -/
  index : List IdxRow := []
  carts : List CartK := []
  /-- Cartridges in the order of their latest mounts, the least recent first (R407). -/
  mounts : List Nat := []
  /-- Cartridges whose entries a full index has dropped until they are mounted again; the ledger keeps their records (R402, R407). -/
  dropped : List Nat := []
  tapes : Tab Tape := []
  /-- COMMIT_SEQ of the next commit (R390). -/
  commitSeq : Nat := 0
  rebuilds : Tab RebuildSt := []
  patrols : List PatrolSt := []
  reshapes : List ReshapeSt := []
  reads : List TapeRead := []
  /-- MEDIA_PROFILE of the Benak image (R171, R507): L in mm, B and W. -/
  profile : Nat × Nat × Nat := (0, 1, 0)
  deriving DecidableEq, Repr

/-! ### Segments at the heads, verify and rewrite (spec/08_formatting.md, spec/11_verify_rewrite.md) -/

/-- A segment of a write run: one cadence position of a port (R172, R198, R292, R364, R389). -/
structure WSeg where
  /-- Cadence number on the port: segments of one run follow each other without a gap. -/
  idx : Nat := 0
  /-- Number of the run on the port. -/
  run : Nat := 0
  /-- Launch instant of its first preamble bit and weft period (R364). -/
  l : Nat := 0
  tw : Nat := 0
  /-- KIND of R389; 7 a catalogue dataset (R399). -/
  kind : Nat := 1
  /-- Group slot, weft and role of its dataset (R358, R364). -/
  g : Nat := 0
  weft : Nat := 0
  role : Nat := 0
  dataset : Option Nat := none
  dsNo : Nat := 0
  desc : Bytes := []
  lwrap : Nat := 0
  pos : Nat := 0
  /-- The group's cadence class and this member's band at launch (R212). -/
  edge : Bool := false
  /-- Marker block (R198). -/
  marker : Bytes := []
  /-- Bytes of a dataset that does not come from the group's beam store datasets: catalogue, REBUILD (R381, R404). -/
  content : Option Bytes := none
  /-- The dataset comes from another part: the data rows received, as 16 × row + sub-dataset (R451, R469). -/
  rows : Option (List Nat) := none
  /-- Regenerated rows received from the owner, by 16 × row + sub-dataset (R383, R451). -/
  regen : List (Nat × Bytes) := []
  /-- One-way latency from the owner, ticks (R383). -/
  lam : Nat := 0
  /-- Rows fetched by each of the 8 sequencers (R206). -/
  fetched : Tab Nat := []
  /-- Rows that were not requested in time: 16 × row + sub-dataset (R206, R207). -/
  missed : List Nat := []
  /-- Rows that were read as poison or that failed a format path check (R432, R535): index 16 × row + sub-dataset. -/
  bad : List Nat := []
  /-- Slots written so far, 0 to 124 (R207). -/
  slot : Nat := 0
  /-- STOP_BIT of the segment, where the run ended in it (R238). -/
  cut : Option Nat := none
  /-- CRC-32C of rows as first encoded, by 16 × row + sub-dataset (R284). -/
  crcs : Tab Nat := []
  /-- GOOD slots of a marker: 32 × slot + track (R608), and reports received. -/
  good : List Nat := []
  reports : Nat := 0
  /-- Relocations made so far of the dataset; the copy was ordered with REASON 2 (R293, R299). -/
  relocs : Nat := 0
  reason2 : Bool := false
  /-- The command it is written for: REBUILD, PATROL or MOUNT. -/
  cmd : Option Nat := none
  /-- Kind 6: the void it clears. -/
  void : Option VoidP := none
  deriving DecidableEq, Repr

/-- What waits for a cadence position of a member (R292, R392), in the order in which it arose. -/
inductive Due where
  /-- Skip marker of a dataset, with REASON (R292, R293). -/
  | skip (of : WSeg)
  | copy (of : WSeg)
  | void (v : VoidP)
  deriving DecidableEq, Repr

/-- A codeword of a dataset under verify (R284 to R290). -/
structure VCw where
  /-- Its first-write report has arrived, and was FAILED (R296). -/
  seen : Bool := false
  failed : Bool := false
  /-- A copy of it has been GOOD (R286). -/
  settled : Bool := false
  residual : Bool := false
  /-- Pending copy: segment and rewrite slot 0 to 3 (R287). -/
  pending : Option (Nat × Nat) := none
  deriving DecidableEq, Repr

/-- A dataset copy awaiting its verdict (R284, R290, R291). -/
structure VSet where
  /-- Cadence number of the segment in which it is written. -/
  idx : Nat := 0
  cws : Tab VCw := []
  /-- Reports of first writes received. -/
  seen : Nat := 0
  /-- Tracks lost for it (R296), with those dead when its writing began (R297). -/
  lost : List Nat := []
  rewrites : Nat := 0
  /-- A copy in the third following segment was used; the run ended within its window (R299). -/
  third : Bool := false
  endRun : Bool := false
  /-- Judged under the last sentences of R293: no relocation, on the copies already written. -/
  cutOff : Bool := false
  /-- Its verdict is FAIL without relocation (R535). -/
  encFail : Bool := false
  deriving DecidableEq, Repr

/-- What a run is for (R607). -/
inductive RunFor where
  | group (g : Nat)
  | mount (cmd : Nat)
  | target (cmd : Nat)
  | catalogue
  deriving DecidableEq, Repr

/-- The writing and verify state of a port. -/
structure Wport where
  /-- A write run is in progress, its number, and what it is for. -/
  inRun : Bool := false
  run : Nat := 0
  what : RunFor := .catalogue
  /-- Segments planned or written whose reports may still arrive, oldest first. -/
  segs : List WSeg := []
  nextIdx : Nat := 0
  /-- Cadence number of the run's first segment: SEGMENT of R280 counts from it. -/
  runFirst : Nat := 0
  /-- Polarity of the last channel bit written on each track, and 1 + the bit index in the run of its last transition (R182, R239). -/
  mags : List Bool := []
  lastTr : Tab Nat := []
  /-- Launch instant and weft period of the run (R238), channel bit at which it stops once that is decided, groups of 128 channel bits
  sent, and by track the codes formed from there on (R239, R240). -/
  runL : Nat := 0
  runTw : Nat := 1
  stopBit : Option Nat := none
  groups : Nat := 0
  codes : Tab (List Nat) := []
  sets : List VSet := []
  /-- Rewrite slots given out: 128 × segment + 4 × track + j to dataset segment, codeword 16 × row +
  sub-dataset, and whether the sequencer has taken it (R209). -/
  alloc : Tab (Nat × Nat × Bool) := []
  dues : List Due := []
  /-- Datasets in write order for R297: segment, module B, tracks lost, counted. -/
  hist : List (Nat × Bool × List Nat × Bool) := []
  clearA : Bool := false
  clearB : Bool := false
  deriving DecidableEq, Repr

/-- The segments at the heads. -/
structure Heads where
  ports : Tab Wport := []
  /-- Verdict records on their way to the scheduler, in order, with the positions of a RELOCATING (R299). -/
  verdicts : List Bytes := []
  /-- WEFT_ABORTs on their way: group slot and weft (R536). -/
  aborts : List (Nat × Nat) := []
  /-- Verdicts that are not weave's: port, segment (catalogue, marker, REBUILD), passed. Taken up in the same step. -/
  done : List (Nat × WSeg × Bool) := []
  /-- Ports whose transport has just failed under R298. Taken up in the same step. -/
  failed : List Nat := []
  deriving DecidableEq, Repr

/-! ### Beam store (spec/16_beam_store.md) -/

/-- A line as stored (R418): 64 data bytes and the eight check symbols s_(j,8), s_(j,9) with the fold of R419 removed. -/
structure BeamLine where
  data : Bytes := []
  chk : List Nat := []
  deriving DecidableEq, Repr

/-- An entry of a channel's merge buffer (R425). -/
structure MergeEntry where
  /-- Line number: pool offset / 64. -/
  line : Nat := 0
  /-- Bit i: byte i is valid. -/
  mask : Nat := 0
  /-- The line's bytes; those not valid are 0. -/
  data : Bytes := []
  /-- Loom time at which its first byte arrived. -/
  since : Nat := 0
  deriving DecidableEq, Repr

/-- A pool channel (R416, R425, R429, R430, R436). -/
structure BeamCh where
  /-- Granule indices of the channel from here up have never been allocated. -/
  bump : Nat := 0
  /-- Free granule indices below `bump`, rising. -/
  back : List Nat := []
  /-- Open merge entries, oldest first. -/
  merge : List MergeEntry := []
  /-- When a corrected entry was last logged for the channel, and the corrections not logged since (R429). -/
  lastLog : Option Nat := none
  unlogged : Nat := 0
  /-- DRAM rows recorded in the ledger: 2^24 × rank + 2^16 × bank + row (R430, R477). -/
  rows : List Nat := []
  /-- Loom time of the bucket's last leak (R428). -/
  leakAt : Nat := 0
  deriving DecidableEq, Repr

/-- The beam store (R416 to R441). A granule is named C × (index within its channel) + pool channel (R435). -/
structure Beam where
  /-- HASH_KEY; none before its draw (R435). -/
  hashKey : Option Bytes := none
  /-- EPOCH, 32 bits (R419). -/
  epoch : Nat := 0
  /-- Lines whose stored symbols are not those of their owner's content, by pool offset / 64. -/
  lines : Tab BeamLine := []
  chs : Tab BeamCh := []
  /-- Retired granules, and allocated ones to be retired at their release (R430). -/
  retired : List Nat := []
  pendRetire : List Nat := []
  /-- Number of the next allocation, a (R436). -/
  allocNo : Nat := 0
  /-- BEAM_FILL commands waiting, in acceptance order (R424). -/
  fills : List Nat := []
  /-- KIND 7 has been logged (R430). -/
  fullLogged : Bool := false
  /-- Corrected errors of the last 24 h: granule and loom time (R430). -/
  ceLog : List (Nat × Nat) := []
  /-- Lines scrubbed so far in this pass (R427). -/
  scrubbed : Nat := 0
  /-- When the scrubber last read a line; none before the first (R427). -/
  scrubAt : Option Nat := none
  /-- The legacy test is to be run once HASH_KEY has been drawn: the lines that mismatch (R434, R497 step 9). -/
  legacy : Option (List Nat) := none
  /-- The DIMMs are in self-refresh in DORMANT (R440). -/
  dormant : Bool := false
  /-- Die S's channels have left the pool (R505). -/
  half : Bool := false
  deriving DecidableEq, Repr

/-! ### Ledger flash (spec/18_ledger_flash.md) -/

/-- LEDG_STATUS.STATE. -/
inductive LedgState where
  | scanning | ready | degraded | failed
  deriving DecidableEq, Repr

/-- What waits for a record to become durable. -/
inductive LHook where
  | nothing
  /-- A copy of a nonce reservation, or of PREFIX_USED (R149, R150). -/
  | nonce
  | prefixUsed
  /-- Intent, commit and voided records of weft `weft` of group slot `g` (R362, R369, R371). -/
  | intent (g weft : Nat)
  | commit (g weft : Nat)
  | voided (g weft : Nat)
  /-- CAT_UPDATE BEGIN or DONE of a port's catalogue update (R404). -/
  | catUpdate (port : Nat) (done : Bool)
  /-- CAT_ENTRY of a committing weft (R390, R402). -/
  | catEntry (g weft : Nat)
  /-- MOUNT record of a port (R406). -/
  | mount (port : Nat)
  /-- LAYOUT_SWITCH (R413). -/
  | layoutSwitch (cmd : Nat)
  | location
  | epoch
  deriving DecidableEq, Repr

/-- A record on its way into the ledger (R477, R480). -/
structure LRec where
  data : Bytes := []
  hook : LHook := .nothing
  /-- Loom time at which it reached the ledger island. -/
  since : Nat := 0
  deriving DecidableEq, Repr

/-- An open page of a region on a die (R480). -/
structure OpenPage where
  recs : List LRec := []
  /-- Loom time of its first record, and of its first URGENT record. -/
  first : Nat := 0
  urgentAt : Option Nat := none
  /-- Its program is due and waits for the die (R480, R483). -/
  due : Bool := false
  deriving DecidableEq, Repr

/-- A programmed page (R476). -/
structure NPage where
  kind : Nat := 1
  region : Nat := 0
  seq : Nat := 0
  prev : Nat := 0
  eraseCount : Nat := 0
  recs : List Bytes := []
  /-- TORN or CORRUPT (R478, R479). -/
  torn : Bool := false
  deriving DecidableEq, Repr

/-- A block (R475, R482, R484, R486). -/
structure NBlock where
  /-- Pages programmed, in order. -/
  pages : List NPage := []
  erases : Nat := 0
  /-- Half-erased: ERASE_BEGIN without ERASE_DONE (R486). -/
  half : Bool := false
  /-- Open when power was lost: no further program before an erase (R475). -/
  shut : Bool := false
  /-- A program of it has failed: marked for retirement; and retired (R482). -/
  failed : Bool := false
  retired : Bool := false
  /-- The spare that replaces it. -/
  spare : Option Nat := none
  deriving DecidableEq, Repr

/-- State of a NAND die (R483). -/
inductive NandState where
  | idle | program | programSuspended | erase | eraseSuspending | eraseSuspended | eraseSuspendedProgram
  deriving DecidableEq, Repr

/-- A NAND die: its state, the page being programmed, the block being erased (R483, R484). -/
structure NDie where
  state : NandState := .idle
  /-- Region and block of the page being programmed, and its records. -/
  progRegion : Nat := 0
  progBlock : Nat := 0
  prog : List LRec := []
  /-- The page is a flag page: FLAG and block (R484). -/
  progFlag : Option (Nat × Nat) := none
  /-- Flags that wait to be programmed: FLAG and block. -/
  flags : List (Nat × Nat) := []
  eraseBlock : Nat := 0
  /-- Loom time of the erase's last start or resume. -/
  eraseSince : Nat := 0
  /-- The erase may be suspended for a waiting operation that is not URGENT (R483). -/
  ranLong : Bool := false
  /-- Wrong passwords in a row (R488). -/
  wrong : Nat := 0
  locked : Bool := false
  /-- Loom time since when it is idle. -/
  idleSince : Nat := 0
  deriving DecidableEq, Repr

/-- The ledger (R474 to R493). The blocks and pages are non-volatile; the rest is not. -/
structure Ledger where
  state : LedgState := .scanning
  blocks : Tab NBlock := []
  dies : Tab NDie := []
  /-- Open pages by 16 × region + die. -/
  pages : Tab OpenPage := []
  /-- SEQ of the next page programmed (R476). -/
  seq : Nat := 1
  /-- Active flag-log block of each plane: 0 or 1 (R485). -/
  flagActive : Tab Nat := []
  /-- The regions' passwords, derived at start (R488). -/
  keys : Tab Bytes := []
  /-- Regions are unlocked as in service (R488). -/
  inService : Bool := false
  deriving DecidableEq, Repr

/-! ### Start-up and trust (spec/19_boot_trust.md) -/

/-- Fuses (R513). Their values are the owner's: reset values DESIGN CHOICE, log entry 5. -/
structure Fuses where
  serial : Nat := 0
  identityRoot : Bytes := []
  ledgerRoot : Bytes := []
  keyRoot : Bytes := []
  ownerKeyHash : Bytes := []
  lifecycle : Nat := 0
  fwSvnMin : Nat := 0
  imageSvnMin : Nat := 0
  deriving DecidableEq, Repr

/-! ### Read channel (spec/10_read_channel.md) -/

/-- A raw sample (R255): value, lost, clipped, and invalid under R266. -/
structure RawS where
  v : Int := 0
  lost : Bool := false
  clip : Bool := false
  flag : Bool := false
  deriving DecidableEq, Repr

/-- An interpolated sample after the digital gain, in 2^-10 (R258): flagged (R267), drawing on a clipped sample (R260), clipped raw
samples since the one before, and its instant in 2^-24 raw samples since S. -/
structure XOut where
  x : Int := 0
  flag : Bool := false
  clip : Bool := false
  clips : Nat := 0
  at_ : Int := 0
  deriving DecidableEq, Repr

/-- An equalized sample (R258): its inputs, latest first, until its tentative decision is made (R260); then that decision, the ideal
sample and 128 times the whitened error of R269. -/
structure ZOut where
  z : Int := 0
  flag : Bool := false
  clip : Bool := false
  clips : Nat := 0
  at_ : Int := 0
  xs : List Int := []
  m : Bool := false
  d : Int := 0
  w : Int := 0
  deriving DecidableEq, Repr

/-- A sync mark that is sought (R264): which, its nominal first output where known, the outputs it may begin at, and the best match so
far: differences, first output, and whether inverted. -/
structure SyncWant where
  mark : Nat := 0
  nominal : Option Int := none
  lo : Int := 256
  hi : Int := 1088
  best : Option (Nat × Int × Bool) := none
  deriving DecidableEq, Repr

/-- A slot that the framing has placed (R264): its segment, number, first output, and δ of the sync mark before it (R280). -/
structure Frame where
  seg : Nat := 0
  slot : Nat := 0
  start : Int := 0
  sync : Int := -128
  deriving DecidableEq, Repr

/-- A reader: 0 to 31 module A, 32 to 63 module B (R258 to R269). -/
structure Reader where
  /-- 0 searching for a preamble, 1 acquiring, 2 tracking (R262, R263). -/
  phase : Nat := 0
  /-- Raw samples still needed, oldest first, and the number since S of the first (R255). -/
  raw : List RawS := []
  rawAt : Nat := 0
  /-- Numbers of the clipped ones among the last 16,384 (R268). -/
  clipAt : List Nat := []
  /-- STAMPs of gain changes (R266), and those whose scaling of the digital gain is due, with their steps (R261). -/
  stamps : List Nat := []
  gains : List (Nat × Int) := []
  /-- Baseline in 2^-6 codes, digital gain in 2^-10 (R258, R260). -/
  base : Int := 0
  g : Nat := 1024
  /-- Instant of the next interpolated sample and frequency correction, in 2^-24 of a raw sample (R258, R260). -/
  pos : Int := 50331648
  freq : Int := 0
  /-- Interpolated samples, latest first, at most 64; raw samples counted up to the last. -/
  xs : List XOut := []
  rawSeen : Int := 0
  /-- Interpolated samples since preamble detection, itself among them, and the preamble's alignment there (R262, R263). -/
  n : Nat := 0
  phi : Nat := 0
  /-- RDCH_LOOP as it stood at preamble detection (R282). -/
  loop : Nat := 0
  /-- Bank in use, its taps and predictor as adapted, and the target in use (R259, R260, R282). -/
  bank : Nat := 0
  loaded : Bool := false
  taps : List Int := []
  p1 : Int := 0
  p2 : Int := 0
  target : Int × Int × Int := (64, 0, -64)
  /-- Path metrics and survivors of the detector's 16 states, latest symbol first (R260, R269). -/
  paths : List (Int × List Bool) := []
  /-- Equalized samples without and with their tentative decisions, latest first; how many have theirs. -/
  young : List ZOut := []
  outs : List ZOut := []
  decided : Nat := 0
  /-- Outputs below this one are flagged for a bank switch or target change (R266). -/
  flagZ : Nat := 0
  /-- Magnitudes of the last 256 timing errors, outputs flagged in a row, and bits with the frequency at its limit (R265). -/
  errs : List Nat := []
  flagRun : Nat := 0
  freqRun : Nat := 0
  /-- Sync marks missed in a row (R265); one has been found since preamble detection. -/
  missed : Nat := 0
  synced : Bool := false
  /-- Readback polarity, decided by the first sync mark of the run (R264). -/
  polarity : Option Bool := none
  want : Option SyncWant := none
  /-- Output of the segment's first channel bit under the framing in force, its number since the run start, and the instant of a
  segment's first bit with its number (R264, R280). -/
  org : Int := 0
  seg : Nat := 0
  segAt : Option (Int × Nat) := none
  frames : List Frame := []
  /-- Output that the next scheduling point precedes (R268). -/
  sched : Option Int := none
  /-- Variance of R269 over the previous slot, times 2^14: numerator and denominator. -/
  var : Option (Nat × Nat) := none
  /-- Roundings made so far: the model's own count. -/
  serial : Nat := 0
  deriving DecidableEq, Repr

/-- Check messages of a codeword (R271, R272), by layer, check and block. -/
structure LdpcState where
  m0 : List (List Int) := []
  m1 : List (List Int) := []
  deriving DecidableEq, Repr

/-- A slot read (R272, R274, R280): its equalized samples from output `first` on, its first channel bit's output, and what its report
says of it. -/
structure SlotRec where
  reader : Nat := 0
  seg : Nat := 0
  slot : Nat := 0
  zs : List (Int × Bool) := []
  first : Nat := 0
  start : Nat := 0
  target : Int × Int × Int := (64, 0, -64)
  p1 : Int := 0
  p2 : Int := 0
  var : Nat × Nat := (1, 1)
  time : Nat := 0
  flagged : Nat := 0
  clipped : Nat := 0
  mse : Nat := 0
  sync : Int := -128
  serial : Nat := 0
  /-- Passes ended, iterations used, check messages, posterior values, the trailing look's own slot-bit LLRs of the latest pass, the
  pass-1 decisions of the codeword, and whether the leading look was combined (R272, R278, R280). -/
  pass : Nat := 0
  iter : Nat := 0
  msgs : LdpcState := {}
  post : List Int := []
  own : List Int := []
  signs : List Bool := []
  lead : Bool := false
  deriving DecidableEq, Repr

/-- A leading look as stored (R277, R278): slot-bit LLRs q, with the slot's record less its samples. -/
structure Look where
  q : List Int := []
  rec_ : SlotRec := {}
  deriving DecidableEq, Repr

/-- The read channel of a slice. -/
structure Rdch where
  readers : Tab Reader := []
  /-- Slots that wait for their first pass, and the turbo queue with the slots in the turbo detectors at its front (R274), oldest
  first. -/
  slots : List SlotRec := []
  turbo : List SlotRec := []
  /-- Leading looks, at most 24 for each track (R277). -/
  looks : List Look := []
  /-- Slots reported in this run, by segment, slot and track: latest first, at most 16,384. -/
  reported : List Nat := []
  /-- BIAS of modules A and B as last sent (R261). -/
  bias : Tab Nat := []
  /-- The dataset the stream was set up to read: DATASET_NO, catalogue, wrap (R254, R257). -/
  what : Option (Nat × Bool × Nat) := none
  deriving DecidableEq, Repr

/-! ### Control-law engines (spec/12_track_following_cle.md) -/

/-- Histories of a section (R316). -/
structure Hist where
  x1 : Int := 0
  x2 : Int := 0
  y1 : Int := 0
  y2 : Int := 0
  deriving DecidableEq, Repr

/-- A loop (R302, R317, R323, R324). -/
structure Loop where
  /-- MANUAL, entered by TUNE_LOOP; HOLD takes precedence over it. -/
  manual : Bool := false
  hold : Bool := true
  /-- A blend of R324 is in progress, and since when. -/
  blend : Bool := false
  blendAt : Nat := 0
  /-- Output applied at the last tick. -/
  out : Int := 0
  /-- σ of R318. -/
  sigma : Int := 0
  hist : Tab Hist := []
  /-- Node values of the last tick: 0 to 19 of R317, 20 the injected signal (R330). -/
  nodes : Tab Int := []
  /-- A return to AUTO is due at the next tick; the current loops return with u_A = 0 after a grant (R328). -/
  back : Bool := false
  /-- What the last hand-over did: 0 none, 1 preset, 2 blend; and its P (R326). -/
  kind : Nat := 0
  preset : Int := 0
  deriving DecidableEq, Repr

/-- A TUNE_LOOP in progress (R326). -/
structure Tune where
  cmd : Nat := 0
  loop : Nat := 0
  bank : Nat := 0
  action : Nat := 0
  manOut : Option Int := none
  data : Bytes := []
  /-- The bank image has been read and checked, or none is used. -/
  ready : Bool := false
  /-- 0 waiting for the first tick, 1 waiting for the tick of the return. -/
  stage : Nat := 0
  uA : Int := 0
  deriving DecidableEq, Repr

/-- The injection and capture unit (R329 to R332). -/
structure Inject where
  cmd : Nat := 0
  loop : Nat := 0
  node : Nat := 0
  kind : Nat := 0
  amp : Nat := 0
  f0 : Nat := 0
  f1 : Nat := 0
  duration : Nat := 0
  select : Nat := 0
  decim : Nat := 1
  atOnce : Bool := false
  /-- The injection runs; ticks of it so far; phase; PRBS register. -/
  active : Bool := false
  ticks : Nat := 0
  phase : Nat := 0
  prbs : Nat := 0x7FFF
  /-- The capture has started, at loom time `start`; capture ticks so far; samples of four signals, oldest first. -/
  capturing : Bool := false
  start : Nat := 0
  capTicks : Nat := 0
  samples : List (List Int) := []
  interrupted : Bool := false
  held : Bool := false
  deriving DecidableEq, Repr

/-- A servo reader's decoder (R236, R307, R308). -/
structure ServoRd where
  /-- SERVO cells counted: the number of the next (R236). -/
  next : Nat := 0
  /-- The run of samples beyond the threshold that is under way, with the sample before it, oldest first: value, and the number of the
  first (R307). -/
  run : List Int := []
  runAt : Nat := 0
  /-- Times of the latest stripes, units of 0.5 ns of loom time, latest first, at most 16. -/
  stripes : List Nat := []
  /-- Times at which lost cells began, units of 0.5 ns, since the last frame (R281). -/
  lostAt : List Nat := []
  /-- Times of stripes 0 to 7 of burst A of the latest frame, units of 0.5 ns of loom time; empty before the first. -/
  tA : List Nat := []
  /-- t_F of the latest frame, units of 0.5 ns / 6 (a sum of six). -/
  tF : Nat := 0
  /-- The frame completed since the last CLE-A tick: y, v and whether valid. -/
  pending : Option (Int × Int × Bool) := none
  /-- y last decoded. -/
  y : Int := 0
  /-- Longitudinal bits, latest first, at most 40. -/
  bits : List Bool := []
  deriving DecidableEq, Repr

/-- A SENSE cell (R237). -/
structure Sense where
  /-- Full loom time of STAMP. -/
  stamp : Nat := 0
  /-- Reel angles: bits [11:0] angle, bits [15:12] revolutions. -/
  angLet : Nat := 0
  angTake : Nat := 0
  tenLet : Int := 0
  tenTake : Int := 0
  curLet : Int := 0
  curTake : Int := 0
  vbus : Nat := 0
  exc : Nat := 0
  seq : Nat := 0
  deriving DecidableEq, Repr

/-- The position reference (R313, R219); positions in 2^-32 frames. -/
inductive MRef where
  | still (x : Int)
  /-- Run-up to L_r: x_hold, t_s, L_r, Π in 2^-32 ticks, forward. -/
  | run (x : Int) (ts lr pi : Nat) (fwd : Bool)
  /-- Deceleration from `x` at time `t` from `v` (2^-32 frames per tick) at `acc` mm/s², then a move to `hold`. -/
  | slow (x : Int) (t : Nat) (v : Int) (acc : Nat) (hold : Int)
  /-- From `hold` across the run-up zone to `far` and back at 2.0 m/s, again and again, from time `t` on (R312). -/
  | sweep (hold far : Int) (t acc : Nat)
  deriving DecidableEq, Repr

/-- The control-law engines of a slice. -/
structure Cle where
  loops : Tab Loop := []
  servo : Tab ServoRd := []
  /-- Sampling instant of the last frame (R307), and t_F in ticks. -/
  frameAt : Nat := 0
  tF : Nat := 0
  /-- y and v of the last frame; consecutive valid frames; consecutive missing frames. -/
  y : Int := 0
  v : Int := 0
  goodFrames : Nat := 0
  missing : Nat := 0
  /-- Servo frames counted, in the direction of motion, and the position they stand for (R308, R315). -/
  frames : Int := 0
  /-- Two accepted words in a row have disagreed with the count: one so far. -/
  disagreed : Bool := false
  /-- The position source is the servo (R315); position by reel angle, 2^-32 frames. -/
  servoSrc : Bool := false
  xAngle : Int := 0
  /-- Offset that keeps x_ref continuous over changes of source. -/
  ref : MRef := .still 0
  /-- x_ref at which the next first preamble bit is due (R219, R220). -/
  startAt : Int := 0
  refAdd : Int := 0
  vRef : Int := 0
  /-- L_r last taken from the group or the run. -/
  lrTaken : Nat := 0
  /-- Positions and unwrapped angles of the last 10 ticks, latest first: x (2^-32 frames), let-off, take-up (R320). -/
  track : List (Int × Int × Int) := []
  /-- Unwrapped angles. -/
  aLet : Int := 0
  aTake : Int := 0
  /-- Frames within SETTLE in a row, and frames beyond OFFTRACK in a row (R312, R327). -/
  settled : Nat := 0
  offTrack : Nat := 0
  /-- A lateral move is in progress (R312): wrap and band aimed at. -/
  move : Bool := false
  /-- The settle condition has still to be met on the wrap moved to (R312). -/
  settling : Bool := false
  wrap : Nat := 0
  band : Nat := 0
  wraps : Nat := 1
  bandOk : Tab Bool := []
  /-- OFFLOAD in units of 10 nm, and the sum and number of FINE values since (R311). -/
  offload : Int := 0
  offSum : Int := 0
  offN : Nat := 0
  /-- Last CLE-A activity: a frame, missing frame or idle tick (R305). -/
  aAt : Nat := 0
  /-- SENSE cells, latest first, at most 5; a cell has come since the last CLE-B tick. -/
  sense : List Sense := []
  fresh : Bool := false
  /-- Next CLE-B tick number k (R304). -/
  tick : Nat := 0
  /-- Last healthy T_let (R344). -/
  tLet : Int := 0
  /-- Unhealthy cells in a row, and STAMP of the last healthy reading: let-off and take-up (R346). -/
  badLet : Nat := 0
  badTake : Nat := 0
  okLet : Nat := 0
  okTake : Nat := 0
  lostLet : Bool := false
  lostTake : Bool := false
  /-- Healthy let-off readings received in a row with no cell lost (R350). -/
  goodLet : Nat := 0
  /-- Test evaluation instant j passed (R346). -/
  vRefPrev : Int := 0
  tEst : Int := 0
  /-- Repetitive controllers to be cleared at their next tick (R322). -/
  rcClear : List Nat := []
  tunes : List Tune := []
  inj : Option Inject := none
  /-- A change of the tension source is due at the next CLE-B tick: to the estimate or back (R349, R350). -/
  toEst : Option Bool := none
  deriving DecidableEq, Repr

/-! ### Reel drive (spec/13_reel_drive.md) -/

/-- The edge compiler of a slice (R336 to R343). -/
structure EdgeC where
  /-- Voltage commands: issue time, take-up, let-off; latest first, at most 2 (R337). -/
  cmds : List (Nat × Int × Int) := []
  /-- End state by half-bridge: 0 off, 1 upper, 2 lower (R339). -/
  states : Tab Nat := []
  /-- EDGE_TEST request: bridge, state, periods left (0 none). -/
  testBridge : Nat := 0
  testState : Nat := 0
  testLeft : Nat := 0
  /-- Start of the last period compiled. -/
  last : Nat := 0
  deriving DecidableEq, Repr

/-! ### Functional safety (spec/20_safety.md) -/

/-- A controlled stop (R530). -/
structure Ctl where
  v0 : Int := 0
  tStop : Int := 0
  n : Nat := 0
  since : Nat := 0
  /-- Ticks in a row at standstill, and outside STOP_TOL; loom time since which overtension persists; of the MOTION. -/
  still : Nat := 0
  off : Nat := 0
  overAt : Option Nat := none
  brakeAt : Option Nat := none
  uTake : Int := 0
  uLet : Int := 0
  deriving DecidableEq, Repr

/-- The supervisor's view of a port (R525 to R532). -/
structure SafeP where
  /-- Latched causes (R531, R534). -/
  latched : List Nat := []
  /-- Stop-run causes in force: 3, 7 (R533). -/
  runStops : List Nat := []
  /-- Loom times of bridge conflicts of the last second, those not from EDGE_TEST (cause 9). -/
  conflicts : List Nat := []
  /-- Cells, and windows, in a row beyond the limit: tension, let-off and take-up speed (causes 4, 5). -/
  overT : Nat := 0
  overLet : Nat := 0
  overTake : Nat := 0
  /-- OWN = 1 heartbeats in a row out of RUN (R527). -/
  own : Nat := 0
  ctl : Option Ctl := none
  /-- The permit test last passed at this loom time (R538). -/
  permitAt : Option Nat := none
  /-- Last heartbeat of CLE-A and CLE-B. -/
  hbA : Nat := 0
  hbB : Nat := 0
  /-- r_let² + r_take² recorded in the first second of motion after MOUNT (R530), and when motion began. -/
  packs : Option Nat := none
  moving : Option Nat := none
  deriving DecidableEq, Repr

/-- The supervisors and the port slices' drives. -/
structure Slices where
  rdch : Tab Rdch := []
  cle : Tab Cle := []
  edge : Tab EdgeC := []
  safe : Tab SafeP := []
  /-- Look buffer regions held, by 4 × die + region: 1 + port; ports that wait, oldest first (R277). -/
  looks : Tab Nat := []
  lookWait : List Nat := []
  /-- A difference was found at the last comparison of a die's channels (R529). -/
  diff : Tab Bool := []
  /-- FAULT_N is driven low from outside (R534). -/
  faultLow : Bool := false
  deriving DecidableEq, Repr
/-! ### Shuttle fabric (spec/17_timebase_fabric.md) -/

/-- A shuttle port (R446 to R453). -/
structure Shut where
  /-- Training is under way, since loom time `start` (R448); last went DOWN at `downAt`. -/
  start : Nat := 0
  downAt : Nat := 0
  /-- Receive lanes locked: the LANE each carries and its polarity; READY seen on them. -/
  lanes : Tab (Option (Nat × Bool)) := []
  ready : List Nat := []
  /-- Both ends have switched to codewords and the own IDENT has been sent; the peer's IDENT has arrived. -/
  sent : Bool := false
  ident : Bool := false
  /-- The peer's IDENT, where it came before the own one was sent (R448). -/
  early : Option Bytes := none
  /-- Loom time of the last TIME cell (R448). -/
  timeAt : Nat := 0
  /-- Bulk credits held, by lane (R450). -/
  credits : Tab Nat := []
  /-- The last 3 heartbeats heard: EPOCH, HB_SEQ and HOPS, latest first; loom time of the latest (R453). -/
  heard : List (Nat × Nat × Nat) := []
  heardAt : Nat := 0
  /-- The peer has this part as its parent (R453). -/
  child : Bool := false
  /-- Next SEQ expected on each lane, codewords received since UP, and codeword numbers of the latest discards (R249, R448). -/
  upSeq : Tab Nat := []
  count : Tab Nat := []
  discards : Tab (List Nat) := []
  /-- The packet that is arriving on a lane, by 2 × lane + class: its cells so far (R449, R450). -/
  rx : Tab Bytes := []
  /-- Loom time of the first codeword sent, and codewords used for cells so far (R447). -/
  dnAt : Nat := 0
  dnCount : Nat := 0
  deriving DecidableEq, Repr

/-- What a part's HOPREP and TIMEFAULT have told the manager (R451, R456, R468). -/
structure HopRep where
  known : Bool := false
  parent : Nat := 0
  d : Nat := 0
  theta : Int := 0
  err : Nat := 0
  fault : Bool := false
  /-- A quote has been requested of it (R520). -/
  asked : Bool := false
  deriving DecidableEq, Repr

/-- A PLAN received or made (R451, R467). -/
structure Plan where
  g : Nat := 0
  weft : Nat := 0
  l : Nat := 0
  tw : Nat := 0
  step : Nat := 0
  owner : Nat := 0
  launch : Bool := true
  /-- The weft is caused by a forced launch; it is an aged launch; it is the first of a restart (R217, R218, R366). -/
  forced : Bool := false
  aged : Bool := false
  first : Bool := false
  /-- λ from the owner to this part, ticks (R383, R468). -/
  lam : Nat := 0
  /-- As owner: the weft has been made up (R467 step 2). As member part: its LAUNCH has arrived. -/
  madeUp : Bool := false
  launched : Bool := false
  deriving DecidableEq, Repr

/-- Bulk traffic that waits for credits (R450): a packet to send on, with the port and lane it arrived on, or the rows of a
role on their way to a member part, by codeword 16 × row + sub-dataset (R382, R383, R451). -/
structure Bulk where
  dest : Nat := 0
  pkt : Option (Bytes × Nat × Nat) := none
  g : Nat := 0
  weft : Nat := 0
  role : Nat := 0
  next : Nat := 0
  last : Nat := 3327
  regen : Bool := false
  deriving DecidableEq, Repr

/-- A weft in STATE (R462). -/
structure StWeft where
  no : Nat := 0
  owner : Nat := 0
  l : Nat := 0
  tw : Nat := 0
  grace : Nat := 0
  verdicts : List Nat := []
  deriving DecidableEq, Repr

/-- A group in STATE (R462). -/
structure StGroup where
  group : Nat := 0
  state : Nat := 0
  next : Nat := 0
  step : Nat := 0
  l : Nat := 0
  /-- Failed and LATE_RUN of each member. -/
  members : List (Bool × Nat) := []
  wefts : List StWeft := []
  deriving DecidableEq, Repr

/-- The fabric as the part takes part in it. -/
structure Fabric where
  /-- Shuttle ports by global number (R446). -/
  ports : Tab Shut := []
  /-- Candidates of the fabric record: DEVICE_ID and PRIORITY (R460). -/
  cands : List (Nat × Nat) := []
  /-- Quotes asked for while the random bit generator generates nothing: port and message (R163). -/
  attests : List (Nat × Bytes) := []
  /-- Flood copies seen: SRC, SEQ and loom time (R450). -/
  seen : List (Nat × Nat × Nat) := []
  /-- SEQ of the next control and bulk packet (R449). -/
  ctlSeq : Nat := 0
  bulkSeq : Nat := 0
  /-- Epoch recorded in the own ledger (R461), and highest heard. -/
  ledgerEpoch : Nat := 0
  heardEpoch : Nat := 0
  /-- Manager, PRIORITY and loom time of the last heartbeat of the epoch in force (R464). -/
  mgr : Option (Nat × Nat × Nat) := none
  /-- Last (EPOCH, HB_SEQ) relayed, and the next HB_SEQ sent (R452). -/
  relayed : Option (Nat × Nat) := none
  hbSeq : Nat := 0
  hbNext : Nat := 0
  /-- The EPOCH record is not yet durable: no heartbeat is sent (R461). -/
  epochPending : Bool := false
  /-- Leaderless hold: the epoch of the conflict, and since when (R464 to R466). -/
  hold : Option Nat := none
  holdAt : Nat := 0
  /-- Root of its time tree though in hold (R465). -/
  root : Bool := false
  /-- DEVICE_ID found twice: no part in cross-device wefts until reset (R460). -/
  dup : Bool := false
  /-- First UP link since reset (R461). -/
  firstUp : Option Nat := none
  /-- Parent port (R453). -/
  parent : Option Nat := none
  /-- Where packets of a source arrive: 1 + port (R450). -/
  routes : Tab Nat := []
  hops : Tab HopRep := []
  /-- Loom time at which the part became manager (R463). -/
  mgrAt : Nat := 0
  /-- Latest STATE, as standby (R462). -/
  state : List StGroup := []
  /-- VERDICT records sent whose weft no OUTCOME has named yet (R463). -/
  verdicts : List Bytes := []
  plans : List Plan := []
  bulk : List Bulk := []
  /-- Loom time of the last HOPREP, and of the last QUEUE of each group slot (R382, R451). -/
  hopAt : Nat := 0
  queueAt : Tab Nat := []
  /-- Group slots whose latency condition is logged as broken (R468). -/
  slow : List Nat := []
  deriving DecidableEq, Repr

/-! ### Start-up (spec/19_boot_trust.md) -/

/-- Start-up, identity and measurement. -/
structure Boot where
  /-- Loom time of reset release, moved with the steps of loom time. -/
  since : Nat := 0
  /-- Measurement registers: 48 bytes each; not listed: zeros (R515). -/
  pcrs : Tab Bytes := []
  /-- The roles and the die-to-die link have been confirmed (R496). -/
  roles : Bool := false
  /-- Die S has been released (R495, R497 step 4). -/
  dieS : Bool := false
  /-- The entropy source has been released (R163, R497 step 4). -/
  entropy : Bool := false
  /-- HOST_PORTS has been applied, and the PERST_N inputs last rose at (R498). -/
  hostPorts : Bool := false
  perst : Tab Nat := []
  /-- The ledger has been scanned (R497 step 7). -/
  scanned : Bool := false
  /-- DeviceID private key; attestation key and its Alias certificate (R516, R517). -/
  deviceKey : Bytes := []
  attKey : Option Bytes := none
  aliasCert : Bytes := []
  /-- Beam store trained (R417). -/
  beam : Bool := false
  /-- The boot ROM has made the checks of step 2; a Benak copy is in use; writes of link controls that the image gives and
  that are carried out at steps 10 and 11 (R497). -/
  rom : Bool := false
  image : Bool := false
  links : List (Nat × Nat) := []
  /-- IMAGE_SVN in use. -/
  imageSvn : Nat := 0
  /-- BUILD_SEQ of the booted slot, and digest of its image (R515, R547). -/
  build : Nat := 0
  slotDigest : Bytes := []
  /-- CONFIG_LOCK was set at (R497 step 14). -/
  lockAt : Nat := 0
  /-- Consecutive watchdog resets (R502). -/
  dogs : Nat := 0
  /-- Erase failures in a row, by slot (R511). -/
  rcvFails : Tab Nat := []
  deriving DecidableEq, Repr

/-! ### Warden (spec/21_warden.md) -/

/-- A decision rule's progress (R553). -/
structure RuleSt where
  count : Nat := 0
  /-- Fired and not re-armed. -/
  fired : Bool := false
  /-- OPEN_ACTION has been taken in this OPEN episode. -/
  opened : Bool := false
  deriving DecidableEq, Repr

/-- A converter input (R549 to R551). -/
structure WardCh where
  /-- Settings in use: GAIN, RATE, FIR, BURNOUT, ENABLE as the register lays them out (R550). -/
  cfg : Nat := 0
  /-- Boundaries in a row with a pin near a rail, and with the pins inside the window. -/
  near : Nat := 0
  clear : Nat := 0
  isOpen : Bool := false
  deriving DecidableEq, Repr

/-- The warden's power view (R561). -/
inductive WPower where
  | run | dormant | waking
  deriving DecidableEq, Repr

/-- The always-on domain. -/
structure Warden where
  power : WPower := .run
  /-- WARD_PWR_EN is high (R545, R547). -/
  pwrEn : Bool := true
  /-- Loom time at which DORMANT was entered, and WARD_PWR_EN rose for the wake in progress. -/
  dormantAt : Nat := 0
  wakeAt : Nat := 0
  /-- The resume block is held and has not been zeroized (R546): keyed by its digest. -/
  resume : Bool := false
  /-- Tamper record in NVM: TAMPER, cause bits, TAMPER_COUNT (R557); the latch's write to it is under way. -/
  nvm : Bool × Nat × Nat := (false, 0, 0)
  writing : Bool := false
  /-- TAMPER_COUNT in full. -/
  count : Nat := 0
  /-- Converter: channel being converted, invalid conversions still to come, inputs, rules. -/
  cur : Option Nat := none
  settle : Nat := 0
  chans : Tab WardCh := []
  rules : Tab RuleSt := []
  /-- FIR coefficients of the WARDEN_RULES record (R555). -/
  fir : List Int := []
  /-- CHALLENGE of this start, and failed clears since power-on (R559). -/
  challenge : Option Bytes := none
  clrFails : Nat := 0
  /-- I2C: register pointer, quote request bytes, quote and its state (R561). -/
  ptr : Nat := 0
  request : Bytes := []
  quote : Bytes := []
  quoteState : Nat := 0
  /-- Log entries made during DORMANT (R562), and the newest 16 of all. -/
  dormLog : List Bytes := []
  newest : List Bytes := []
  deriving DecidableEq, Repr

/-! ### Lands and the rest (spec/22_registers.md, spec/23_package_electrical.md) -/

/-- Lands and clocks. -/
structure Lands where
  /-- VID code driven by each die, and loom time of its last step (R591). -/
  vid : Tab Nat := []
  vidAt : Tab Nat := []
  /-- THERMTRIP_N is latched low (R604). -/
  therm : Bool := false
  /-- EXTEST is selected (R601); the instruction loaded. -/
  extest : Bool := false
  /-- WARD_ADDR as sampled (R598). -/
  wardAddr : Nat := 0
  deriving DecidableEq, Repr
/-! ### The part -/

/-- All the state of the part but the queue of waiting commands. -/
structure Block where
  /-- Register fields, by BAR0 address (R564 to R566); an address not listed holds its register's reset value. -/
  regs : Tab Nat := []
  /-- Log pages by page number (R577). -/
  logs : Tab LogPage := []
  /-- What the step sent out. -/
  out : List Output := []
  time : TimeSt := {}
  hq : Hq := {}
  ing : Ingest := {}
  card : Carding := {}
  ciph : Sealing := {}
  ds : Datasets := {}
  beam : Beam := {}
  weave : Weave := {}
  ledg : Ledger := {}
  fuse : Fuses := {}
  cons : Cons := {}
  heads : Heads := {}
  hdl : Heddle := {}
  sl : Slices := {}
  fab : Fabric := {}
  boot : Boot := {}
  ward : Warden := {}
  lands : Lands := {}
  deriving DecidableEq, Repr

/-- The state: the part, and the commands that wait, first in, first out. -/
structure State where
  blk : Block := {}
  pending : List Instr := []
  deriving DecidableEq, Repr

/-- Reasons the block stops with a fault. No rule of the spec stops the block, and no meaning raises one (log entry 3). -/
inductive Fault where
  /-- An operand does not have the size its rule gives it (R49, R235 to R237 and the like). No meaning raises it: such a command
  has the effect of one whose missing bytes are 0 (log entry 3). Safe: a claim about a fault says nothing of the hardware. -/
  | badOperand
  deriving DecidableEq, Repr

/-- Reasons the block gives a command no meaning. -/
inductive Refusal where
  /-- The command has no meaning in this model. Raised by Dispatch alone, for commands not modelled. Safe. -/
  | notModelled (mnemonic : String)
  deriving DecidableEq, Repr

/-- The part right after reset: every register at its reset value (R573), every table empty, nothing waiting.
The reset values the spec does not state are DESIGN CHOICE, log entry 5. -/
def State.reset : State := {}

end Sys2Proof.Machine
end

