-- ==== Sys2Proof/Machine/RegMap.lean ====
section
/-!
DEFINITION. Sys2Proof/Machine/RegMap.lean: the register map of the part (spec/22_registers.md R564 to R567, R582,
and the register tables of every chapter). `Reg.X` is the BAR0 address of register X (R564, R565, R566), `Fld.X_F`
the place of its field F, and `regDescs` the directory of R582: die, offset, replication and fields of every
register, each field with its access code (R10), its reset value and the encodings its table does not reserve (R11).
-/

namespace Sys2Proof.Machine

/-- The base of a die's window in BAR0 of FN 0 (R564). -/
def dieBase (die : Nat) : Nat := if die = 0 then 0 else 0x10000000

/-- The base of the loom slice of heddle port `port` (R566). -/
def portBase (port : Nat) : Nat := dieBase (port / 16) + 0x1000000 + (port % 16) * 0x100000

/-- The function page of function `fn` (R38): FN 0's lies at BAR0 offset 0x0010_0000 of FN 0. The page of any other
function is all of that function's own BAR0; the model numbers it from 0x4000_0000 up, 64 KiB a function. -/
def fnPage (fn : Nat) : Nat := if fn = 0 then 0x100000 else 0x40000000 + fn * 0x10000

/-! ### Register addresses (R565, R566) -/

def Reg.FN_INFO (fn : Nat) : Nat := fnPage fn + 0x0
def Reg.FN_QP_COUNT (fn : Nat) : Nat := fnPage fn + 0x4
def Reg.QP_SQ_BASE_LO (fn : Nat) (q : Nat) : Nat := fnPage fn + 0x2000 + q * 0x20
def Reg.QP_SQ_BASE_HI (fn : Nat) (q : Nat) : Nat := fnPage fn + 0x2004 + q * 0x20
def Reg.QP_CQ_BASE_LO (fn : Nat) (q : Nat) : Nat := fnPage fn + 0x2008 + q * 0x20
def Reg.QP_CQ_BASE_HI (fn : Nat) (q : Nat) : Nat := fnPage fn + 0x200c + q * 0x20
def Reg.QP_CTRL (fn : Nat) (q : Nat) : Nat := fnPage fn + 0x2010 + q * 0x20
def Reg.QP_STATUS (fn : Nat) (q : Nat) : Nat := fnPage fn + 0x2014 + q * 0x20
def Reg.QP_SQ_HEAD (fn : Nat) (q : Nat) : Nat := fnPage fn + 0x2018 + q * 0x20
def Reg.QP_SQ_TAIL_DB (fn : Nat) (q : Nat) : Nat := fnPage fn + 0xc000 + q * 0x8
def Reg.QP_CQ_HEAD_DB (fn : Nat) (q : Nat) : Nat := fnPage fn + 0xc004 + q * 0x8
def Reg.HQI_HOLD : Nat := 0x130000
def Reg.HQI_TENANT_WEIGHT (t : Nat) : Nat := 0x110000 + t * 0x20
def Reg.HQI_FN_MAP (fn : Nat) : Nat := 0x120000 + fn * 0x4
def Reg.HQI_TENANT_FORCE (t : Nat) : Nat := 0x110004 + t * 0x20
def Reg.HQI_TENANT_BEAM_QUOTA (t : Nat) : Nat := 0x110008 + t * 0x20
def Reg.HQI_TENANT_STATUS (t : Nat) : Nat := 0x11000c + t * 0x20
def Reg.BOB_OBJ_TABLE : Nat := 0x200000
def Reg.BOB_OBJ_HELD : Nat := 0x200004
def Reg.BOB_STREAMS : Nat := 0x200008
def Reg.BOB_ERR_COUNT (die : Nat) : Nat := dieBase die + 0x200010
def Reg.BOB_DROP_COUNT (die : Nat) : Nat := dieBase die + 0x200014
def Reg.BOB_STATUS (die : Nat) (b : Nat) : Nat := dieBase die + 0x201000 + b * 0x4
def Reg.CARD_ENG_ENABLE (die : Nat) : Nat := dieBase die + 0x300000
def Reg.CARD_ENG_FAILED (die : Nat) : Nat := dieBase die + 0x300004
def Reg.CARD_NOT_SHRUNK (die : Nat) : Nat := dieBase die + 0x300008
def Reg.CARD_CMP_MISMATCH (die : Nat) : Nat := dieBase die + 0x30000c
def Reg.CARD_SWITCHES (die : Nat) : Nat := dieBase die + 0x300010
def Reg.CARD_RESTORE_ERR (die : Nat) : Nat := dieBase die + 0x300014
def Reg.CARD_ENG_STATUS (die : Nat) (e : Nat) : Nat := dieBase die + 0x300100 + e * 0x4
def Reg.CIPH_PIPE_LOCK (die : Nat) (p : Nat) : Nat := dieBase die + 0x400000 + p * 0x4
def Reg.CIPH_PIPE_ENABLE (die : Nat) : Nat := dieBase die + 0x400010
def Reg.CIPH_NONCE_PREFIX : Nat := 0x400020
def Reg.CIPH_NONCE_NEXT_LO : Nat := 0x400024
def Reg.CIPH_NONCE_NEXT_HI : Nat := 0x400028
def Reg.CIPH_NONCE_STATUS : Nat := 0x40002c
def Reg.CIPH_ALARM_MASK : Nat := 0x400034
def Reg.CIPH_ERASE_STATUS (die : Nat) : Nat := dieBase die + 0x400038
def Reg.CIPH_DRBG_STATUS : Nat := 0x400040
def Reg.CIPH_ERR_COUNT : Nat := 0x400044
def Reg.CIPH_TENANT_SLOTS (t : Nat) : Nat := 0x401000 + t * 0x4
def Reg.CIPH_SLOT_STATUS (s : Nat) : Nat := 0x402000 + s * 0x4
def Reg.WEAVE_SPEED_STEP (i : Nat) : Nat := 0x508000 + i * 0x4
def Reg.WEAVE_SM_CTRL (g : Nat) : Nat := 0x508100 + g * 0x10
def Reg.WEAVE_SM_RAMP (g : Nat) : Nat := 0x508104 + g * 0x10
def Reg.WEAVE_SM_STATUS (g : Nat) : Nat := 0x508108 + g * 0x10
def Reg.WEAVE_SM_DEMAND (g : Nat) : Nat := 0x50810c + g * 0x10
def Reg.FMT_SEQ_STATUS (port : Nat) : Nat := portBase port + 0x40000
def Reg.FMT_LATE (port : Nat) : Nat := portBase port + 0x40004
def Reg.FMT_REGEN (port : Nat) : Nat := portBase port + 0x40008
def Reg.HDL_CTRL (port : Nat) : Nat := portBase port + 0x10000
def Reg.HDL_STATUS (port : Nat) : Nat := portBase port + 0x10004
def Reg.HDL_FEC_UNCORR (port : Nat) : Nat := portBase port + 0x10008
def Reg.HDL_FEC_CORR_LO (port : Nat) : Nat := portBase port + 0x1000c
def Reg.HDL_FEC_CORR_HI (port : Nat) : Nat := portBase port + 0x10010
def Reg.HDL_CELL_ERR (port : Nat) : Nat := portBase port + 0x10014
def Reg.HDL_TIME (port : Nat) : Nat := portBase port + 0x10018
def Reg.HDL_XPORT (port : Nat) : Nat := portBase port + 0x1001c
def Reg.HDL_SERIAL_LO (port : Nat) : Nat := portBase port + 0x10020
def Reg.HDL_SERIAL_HI (port : Nat) : Nat := portBase port + 0x10024
def Reg.RDCH_CTRL (port : Nat) : Nat := portBase port + 0x20000
def Reg.RDCH_LOOP (port : Nat) : Nat := portBase port + 0x20004
def Reg.RDCH_ITER (port : Nat) : Nat := portBase port + 0x20008
def Reg.RDCH_STATE (port : Nat) : Nat := portBase port + 0x2000c
def Reg.RDCH_LOCK_A (port : Nat) : Nat := portBase port + 0x20010
def Reg.RDCH_LOCK_B (port : Nat) : Nat := portBase port + 0x20014
def Reg.RDCH_GAIN (port : Nat) : Nat := portBase port + 0x20018
def Reg.RDCH_SLOTS_LO (port : Nat) : Nat := portBase port + 0x20020
def Reg.RDCH_SLOTS_HI (port : Nat) : Nat := portBase port + 0x20024
def Reg.RDCH_FAIL (port : Nat) : Nat := portBase port + 0x20028
def Reg.RDCH_TRUNC (port : Nat) : Nat := portBase port + 0x2002c
def Reg.RDCH_INVALID (port : Nat) : Nat := portBase port + 0x20030
def Reg.RDCH_TARGET (port : Nat) (i : Nat) : Nat := portBase port + 0x20040 + i * 0x4
def Reg.RDCH_READER (port : Nat) (r : Nat) : Nat := portBase port + 0x20080 + r * 0x4
def Reg.RDCH_COEF (port : Nat) (r : Nat) (b : Nat) (n : Nat) : Nat := portBase port + 0x21000 + r * 0x100 + b * 0x40 + n * 0x4
def Reg.RDCH_NPRED (port : Nat) (r : Nat) (b : Nat) : Nat := portBase port + 0x25000 + r * 0x10 + b * 0x4
def Reg.VFY_CTRL (port : Nat) : Nat := portBase port + 0x30000
def Reg.VFY_DEAD_A (port : Nat) : Nat := portBase port + 0x30004
def Reg.VFY_DEAD_B (port : Nat) : Nat := portBase port + 0x30008
def Reg.VFY_STATE (port : Nat) : Nat := portBase port + 0x3000c
def Reg.VFY_WEAK (port : Nat) : Nat := portBase port + 0x30010
def Reg.VFY_REWRITE (port : Nat) : Nat := portBase port + 0x30014
def Reg.VFY_RELOC (port : Nat) : Nat := portBase port + 0x30018
def Reg.VFY_RESIDUAL (port : Nat) : Nat := portBase port + 0x3001c
def Reg.VFY_CW_LO (port : Nat) : Nat := portBase port + 0x30020
def Reg.VFY_CW_HI (port : Nat) : Nat := portBase port + 0x30024
def Reg.CLE_MODE (port : Nat) : Nat := portBase port + 0x50000
def Reg.CLE_TRACK_CFG (port : Nat) : Nat := portBase port + 0x50004
def Reg.CLE_TRACK_BANKMAP (port : Nat) : Nat := portBase port + 0x50008
def Reg.CLE_TRACK_STATUS (port : Nat) : Nat := portBase port + 0x5000c
def Reg.CLE_LPOS (port : Nat) : Nat := portBase port + 0x50010
def Reg.CLE_RADIUS (port : Nat) : Nat := portBase port + 0x50014
def Reg.CLE_RADIUS_RANGE (port : Nat) : Nat := portBase port + 0x50018
def Reg.CLE_TENSION_SET (port : Nat) : Nat := portBase port + 0x5001c
def Reg.CLE_COARSE_ORIGIN (port : Nat) : Nat := portBase port + 0x50020
def Reg.CLE_BAND_PITCH (port : Nat) : Nat := portBase port + 0x50024
def Reg.CLE_TIMING (port : Nat) : Nat := portBase port + 0x50028
def Reg.CLE_INHIBIT (port : Nat) : Nat := portBase port + 0x5002c
def Reg.CLE_LOOP_CFG (port : Nat) (l : Nat) : Nat := portBase port + 0x50040 + l * 0x10
def Reg.CLE_LOOP_LIMIT (port : Nat) (l : Nat) : Nat := portBase port + 0x50044 + l * 0x10
def Reg.CLE_LOOP_MAN (port : Nat) (l : Nat) : Nat := portBase port + 0x50048 + l * 0x10
def Reg.CLE_LOOP_OUT (port : Nat) (l : Nat) : Nat := portBase port + 0x5004c + l * 0x10
def Reg.CLE_RC_CTRL (port : Nat) (i : Nat) : Nat := portBase port + 0x500a0 + i * 0x8
def Reg.CLE_RC_GAIN (port : Nat) (i : Nat) : Nat := portBase port + 0x500a4 + i * 0x8
def Reg.CLE_GM (port : Nat) (g : Nat) (p : Nat) : Nat := portBase port + 0x50100 + g * 0x84 + p * 0x4
def Reg.CLE_SEC (port : Nat) (l : Nat) (k : Nat) (n : Nat) (w : Nat) : Nat := portBase port + 0x51000 + l * 0x800 + k * 0x200 + n * 0x20 + w * 0x4
def Reg.CLE_RC_TABLE (port : Nat) (i : Nat) (p : Nat) : Nat := portBase port + 0x54000 + i * 0x4000 + p * 0x4
def Reg.EDGE_CARRIER (port : Nat) : Nat := portBase port + 0x60000
def Reg.EDGE_TIMING (port : Nat) : Nat := portBase port + 0x60004
def Reg.EDGE_CARRY (port : Nat) : Nat := portBase port + 0x60008
def Reg.EDGE_MAP (port : Nat) : Nat := portBase port + 0x6000c
def Reg.EDGE_TEST (port : Nat) : Nat := portBase port + 0x60010
def Reg.EDGE_COUNT (port : Nat) : Nat := portBase port + 0x60014
def Reg.EDGE_CONFLICT (port : Nat) : Nat := portBase port + 0x60018
def Reg.EDGE_TEN_SRC (port : Nat) : Nat := portBase port + 0x6001c
def Reg.EDGE_EST_BIAS (port : Nat) : Nat := portBase port + 0x60020
def Reg.EDGE_CARRY_STATE (port : Nat) (l : Nat) : Nat := portBase port + 0x60040 + l * 0x4
def Reg.EDGE_EST_TABLE (port : Nat) (g : Nat) (p : Nat) : Nat := portBase port + 0x60100 + g * 0x84 + p * 0x4
def Reg.WEAVE_GROUP_ID (g : Nat) : Nat := 0x500000 + g * 0x40
def Reg.WEAVE_GROUP_CFG (g : Nat) : Nat := 0x500004 + g * 0x40
def Reg.WEAVE_GROUP_TIMING (g : Nat) : Nat := 0x500008 + g * 0x40
def Reg.WEAVE_GROUP_STATUS (g : Nat) : Nat := 0x50000c + g * 0x40
def Reg.WEAVE_WEFT_NEXT_LO (g : Nat) : Nat := 0x500010 + g * 0x40
def Reg.WEAVE_WEFT_NEXT_HI (g : Nat) : Nat := 0x500014 + g * 0x40
def Reg.WEAVE_WEFT_DONE_LO (g : Nat) : Nat := 0x500018 + g * 0x40
def Reg.WEAVE_WEFT_DONE_HI (g : Nat) : Nat := 0x50001c + g * 0x40
def Reg.WEAVE_WEFT_EVENTS (g : Nat) : Nat := 0x500020 + g * 0x40
def Reg.WEAVE_DEFER (g : Nat) : Nat := 0x500024 + g * 0x40
def Reg.WEAVE_MEMBER (g : Nat) (i : Nat) : Nat := 0x501000 + g * 0x100 + i * 0x4
def Reg.WEAVE_MEMBER_CTRL (g : Nat) (i : Nat) : Nat := 0x503000 + g * 0x100 + i * 0x4
def Reg.WEAVE_REBUILD (p : Nat) : Nat := 0x506000 + p * 0x4
def Reg.WEAVE_CAT_CTRL : Nat := 0x507000
def Reg.WEAVE_RECOVERY : Nat := 0x507004
def Reg.WEAVE_CONS_STATUS : Nat := 0x507008
def Reg.BEAM_CTRL : Nat := 0x600000
def Reg.BEAM_STATUS : Nat := 0x600004
def Reg.BEAM_POOL : Nat := 0x600008
def Reg.BEAM_FREE_LO : Nat := 0x60000c
def Reg.BEAM_FREE_HI : Nat := 0x600010
def Reg.BEAM_RETIRED : Nat := 0x600014
def Reg.BEAM_ARB : Nat := 0x600018
def Reg.BEAM_TEST_CTRL (die : Nat) : Nat := dieBase die + 0x600020
def Reg.BEAM_TEST_LINE_LO (die : Nat) : Nat := dieBase die + 0x600024
def Reg.BEAM_TEST_LINE_HI (die : Nat) : Nat := dieBase die + 0x600028
def Reg.BEAM_TEST_RESULT (die : Nat) : Nat := dieBase die + 0x60002c
def Reg.BEAM_TEST_DATA (die : Nat) (i : Nat) : Nat := dieBase die + 0x600040 + i * 0x4
def Reg.BEAM_TEST_CHK (die : Nat) (i : Nat) : Nat := dieBase die + 0x600080 + i * 0x4
def Reg.BEAM_CH_STATUS (die : Nat) (c : Nat) : Nat := dieBase die + 0x601000 + c * 0x100
def Reg.BEAM_CH_BUCKET (die : Nat) (c : Nat) : Nat := dieBase die + 0x601004 + c * 0x100
def Reg.BEAM_CH_ERR (die : Nat) (c : Nat) : Nat := dieBase die + 0x601008 + c * 0x100
def Reg.BEAM_CH_MERGE (die : Nat) (c : Nat) : Nat := dieBase die + 0x60100c + c * 0x100
def Reg.TIME_NOW_LO : Nat := 0x700000
def Reg.TIME_NOW_HI : Nat := 0x700004
def Reg.TIME_CTRL : Nat := 0x700008
def Reg.TIME_STATUS : Nat := 0x70000c
def Reg.TIME_OFFSET : Nat := 0x700010
def Reg.TIME_ADJ : Nat := 0x700014
def Reg.TIME_DIE : Nat := 0x700018
def Reg.SHUT_ID : Nat := 0x701000
def Reg.SHUT_ROLE : Nat := 0x701004
def Reg.SHUT_EPOCH : Nat := 0x701008
def Reg.SHUT_CTRL : Nat := 0x70100c
def Reg.SHUT_PORT_CTRL (die : Nat) (j : Nat) : Nat := dieBase die + 0x701100 + j * 0x20
def Reg.SHUT_PORT_STATUS (die : Nat) (j : Nat) : Nat := dieBase die + 0x701104 + j * 0x20
def Reg.SHUT_PORT_DELAY (die : Nat) (j : Nat) : Nat := dieBase die + 0x701108 + j * 0x20
def Reg.SHUT_PORT_ERR (die : Nat) (j : Nat) : Nat := dieBase die + 0x70110c + j * 0x20
def Reg.SHUT_GROUP_LAT (g : Nat) : Nat := 0x701200 + g * 0x4
def Reg.LEDG_STATUS : Nat := 0x800000
def Reg.LEDG_WEAR : Nat := 0x800004
def Reg.LEDG_ERR : Nat := 0x800008
def Reg.LEDG_ECC : Nat := 0x80000c
def Reg.LEDG_LATENCY : Nat := 0x800010
def Reg.BOOT_STATE : Nat := 0xb00000
def Reg.BOOT_CTRL : Nat := 0xb00004
def Reg.BOOT_TIME : Nat := 0xb00008
def Reg.BOOT_SVN : Nat := 0xb0000c
def Reg.BOOT_IMAGE_ERR : Nat := 0xb00010
def Reg.BOOT_EXT_DATA (w : Nat) : Nat := 0xb00100 + w * 0x4
def Reg.BOOT_EXT_CTRL : Nat := 0xb00140
def Reg.BOOT_PROV_DATA (w : Nat) : Nat := 0xb00200 + w * 0x4
def Reg.BOOT_PROV_CTRL : Nat := 0xb00260
def Reg.BOOT_PROV_STATUS : Nat := 0xb00264
def Reg.BOOT_RCV_CTRL : Nat := 0xb00300
def Reg.BOOT_RCV_STATUS : Nat := 0xb00304
def Reg.BOOT_PCR (i : Nat) (w : Nat) : Nat := 0xb01000 + i * 0x40 + w * 0x4
def Reg.BOOT_RCV_BUF (w : Nat) : Nat := 0xb08000 + w * 0x4
def Reg.SAFE_STATUS (die : Nat) : Nat := dieBase die + 0x900000
def Reg.SAFE_LIMITS (die : Nat) : Nat := dieBase die + 0x900004
def Reg.SAFE_STOP_CFG (die : Nat) : Nat := dieBase die + 0x900008
def Reg.SAFE_STOP_GAIN (die : Nat) : Nat := dieBase die + 0x90000c
def Reg.SAFE_PORT_STATE (die : Nat) (p : Nat) : Nat := dieBase die + 0x901000 + p * 0x10
def Reg.SAFE_PORT_CTRL (die : Nat) (p : Nat) : Nat := dieBase die + 0x901004 + p * 0x10
def Reg.SAFE_PORT_COUNT (die : Nat) (p : Nat) : Nat := dieBase die + 0x901008 + p * 0x10
def Reg.WARD_STATUS : Nat := 0xa00000
def Reg.WARD_CTRL : Nat := 0xa00004
def Reg.WARD_TAMPER_EN : Nat := 0xa00008
def Reg.WARD_CLR_CTRL : Nat := 0xa0000c
def Reg.WARD_CLR_CHAL (w : Nat) : Nat := 0xa00010 + w * 0x4
def Reg.WARD_CH_CFG (c : Nat) : Nat := 0xa00040 + c * 0x4
def Reg.WARD_RESULT (c : Nat) : Nat := 0xa00080 + c * 0x4
def Reg.WARD_RULE (r : Nat) (w : Nat) : Nat := 0xa00100 + r * 0x10 + w * 0x4
def Reg.WARD_CLR_DATA (w : Nat) : Nat := 0xa00400 + w * 0x4
def Reg.SYS_ID (die : Nat) : Nat := dieBase die + 0x0
def Reg.SYS_REV (die : Nat) : Nat := dieBase die + 0x4
def Reg.SYS_SERIAL_LO (die : Nat) : Nat := dieBase die + 0x8
def Reg.SYS_SERIAL_HI (die : Nat) : Nat := dieBase die + 0xc
def Reg.SYS_FW (die : Nat) : Nat := dieBase die + 0x10
def Reg.SYS_CAPS (die : Nat) : Nat := dieBase die + 0x14
def Reg.SYS_SCRATCH (die : Nat) : Nat := dieBase die + 0x18
def Reg.SYS_EVENT : Nat := 0x20
def Reg.SYS_EVENT_EN : Nat := 0x24
def Reg.SYS_EVENT_VEC : Nat := 0x28
def Reg.SYS_POWER (die : Nat) : Nat := dieBase die + 0x30
def Reg.SYS_TEMP (die : Nat) : Nat := dieBase die + 0x34
def Reg.SYS_ERR (die : Nat) : Nat := dieBase die + 0x40
def Reg.SYS_D2D (die : Nat) : Nat := dieBase die + 0x44
def Reg.LOOM_ID (port : Nat) : Nat := portBase port + 0x0
def Reg.LOOM_STATE (port : Nat) : Nat := portBase port + 0x4
def Reg.LOOM_CART_LO (port : Nat) : Nat := portBase port + 0x8
def Reg.LOOM_CART_HI (port : Nat) : Nat := portBase port + 0xc
def Reg.LOOM_WRAP (port : Nat) : Nat := portBase port + 0x10
def Reg.LOOM_CORE (port : Nat) : Nat := portBase port + 0x14
def Reg.HQI_PORT_STATUS (die : Nat) : Nat := dieBase die + 0x140000
def Reg.HQI_TENANT_BEAM_USED (t : Nat) : Nat := 0x110010 + t * 0x20

/-! ### Register fields -/

def Fld.FN_INFO_FN_INDEX (fn : Nat) : Fld := ⟨Reg.FN_INFO fn, 0, 8⟩
def Fld.FN_INFO_TENANT (fn : Nat) : Fld := ⟨Reg.FN_INFO fn, 8, 8⟩
def Fld.FN_INFO_PORT (fn : Nat) : Fld := ⟨Reg.FN_INFO fn, 16, 1⟩
def Fld.FN_INFO_MGMT (fn : Nat) : Fld := ⟨Reg.FN_INFO fn, 17, 1⟩
def Fld.FN_QP_COUNT_QP_QUOTA (fn : Nat) : Fld := ⟨Reg.FN_QP_COUNT fn, 0, 11⟩
def Fld.QP_SQ_BASE_LO_ADDR (fn : Nat) (q : Nat) : Fld := ⟨Reg.QP_SQ_BASE_LO fn q, 12, 20⟩
def Fld.QP_SQ_BASE_HI_ADDR (fn : Nat) (q : Nat) : Fld := ⟨Reg.QP_SQ_BASE_HI fn q, 0, 32⟩
def Fld.QP_CQ_BASE_LO_ADDR (fn : Nat) (q : Nat) : Fld := ⟨Reg.QP_CQ_BASE_LO fn q, 12, 20⟩
def Fld.QP_CQ_BASE_HI_ADDR (fn : Nat) (q : Nat) : Fld := ⟨Reg.QP_CQ_BASE_HI fn q, 0, 32⟩
def Fld.QP_CTRL_ENABLE (fn : Nat) (q : Nat) : Fld := ⟨Reg.QP_CTRL fn q, 0, 1⟩
def Fld.QP_CTRL_SIZE_LOG2 (fn : Nat) (q : Nat) : Fld := ⟨Reg.QP_CTRL fn q, 1, 4⟩
def Fld.QP_CTRL_IE (fn : Nat) (q : Nat) : Fld := ⟨Reg.QP_CTRL fn q, 5, 1⟩
def Fld.QP_CTRL_VECTOR (fn : Nat) (q : Nat) : Fld := ⟨Reg.QP_CTRL fn q, 6, 11⟩
def Fld.QP_CTRL_AGG_COUNT (fn : Nat) (q : Nat) : Fld := ⟨Reg.QP_CTRL fn q, 17, 8⟩
def Fld.QP_CTRL_AGG_TIME (fn : Nat) (q : Nat) : Fld := ⟨Reg.QP_CTRL fn q, 25, 7⟩
def Fld.QP_STATUS_ACTIVE (fn : Nat) (q : Nat) : Fld := ⟨Reg.QP_STATUS fn q, 0, 1⟩
def Fld.QP_STATUS_IDLE (fn : Nat) (q : Nat) : Fld := ⟨Reg.QP_STATUS fn q, 1, 1⟩
def Fld.QP_STATUS_DOORBELL_ERR (fn : Nat) (q : Nat) : Fld := ⟨Reg.QP_STATUS fn q, 2, 1⟩
def Fld.QP_STATUS_DMA_ERR (fn : Nat) (q : Nat) : Fld := ⟨Reg.QP_STATUS fn q, 3, 1⟩
def Fld.QP_SQ_HEAD_HEAD (fn : Nat) (q : Nat) : Fld := ⟨Reg.QP_SQ_HEAD fn q, 0, 12⟩
def Fld.QP_SQ_TAIL_DB_INDEX (fn : Nat) (q : Nat) : Fld := ⟨Reg.QP_SQ_TAIL_DB fn q, 0, 12⟩
def Fld.QP_CQ_HEAD_DB_INDEX (fn : Nat) (q : Nat) : Fld := ⟨Reg.QP_CQ_HEAD_DB fn q, 0, 12⟩
def Fld.HQI_HOLD_OBJ_HOLD : Fld := ⟨Reg.HQI_HOLD, 0, 16⟩
def Fld.HQI_HOLD_BEAM_HOLD : Fld := ⟨Reg.HQI_HOLD, 16, 16⟩
def Fld.HQI_TENANT_WEIGHT_WEIGHT (t : Nat) : Fld := ⟨Reg.HQI_TENANT_WEIGHT t, 0, 16⟩
def Fld.HQI_FN_MAP_TENANT (fn : Nat) : Fld := ⟨Reg.HQI_FN_MAP fn, 0, 8⟩
def Fld.HQI_FN_MAP_QP_QUOTA (fn : Nat) : Fld := ⟨Reg.HQI_FN_MAP fn, 16, 11⟩
def Fld.HQI_TENANT_FORCE_FORCE_RATE (t : Nat) : Fld := ⟨Reg.HQI_TENANT_FORCE t, 0, 16⟩
def Fld.HQI_TENANT_FORCE_FORCE_BURST (t : Nat) : Fld := ⟨Reg.HQI_TENANT_FORCE t, 16, 10⟩
def Fld.HQI_TENANT_BEAM_QUOTA_QUOTA_GIB (t : Nat) : Fld := ⟨Reg.HQI_TENANT_BEAM_QUOTA t, 0, 16⟩
def Fld.HQI_TENANT_STATUS_READY (t : Nat) : Fld := ⟨Reg.HQI_TENANT_STATUS t, 0, 1⟩
def Fld.HQI_TENANT_STATUS_HELD (t : Nat) : Fld := ⟨Reg.HQI_TENANT_STATUS t, 1, 1⟩
def Fld.HQI_TENANT_STATUS_DEFERRED (t : Nat) : Fld := ⟨Reg.HQI_TENANT_STATUS t, 16, 16⟩
def Fld.BOB_OBJ_TABLE_USED : Fld := ⟨Reg.BOB_OBJ_TABLE, 0, 21⟩
def Fld.BOB_OBJ_HELD_HELD : Fld := ⟨Reg.BOB_OBJ_HELD, 0, 16⟩
def Fld.BOB_OBJ_HELD_TIMEOUTS : Fld := ⟨Reg.BOB_OBJ_HELD, 16, 16⟩
def Fld.BOB_STREAMS_OPEN : Fld := ⟨Reg.BOB_STREAMS, 0, 17⟩
def Fld.BOB_ERR_COUNT_PARITY_ERR (die : Nat) : Fld := ⟨Reg.BOB_ERR_COUNT die, 0, 16⟩
def Fld.BOB_ERR_COUNT_PCIE_ERR (die : Nat) : Fld := ⟨Reg.BOB_ERR_COUNT die, 16, 16⟩
def Fld.BOB_DROP_COUNT_DROPS (die : Nat) : Fld := ⟨Reg.BOB_DROP_COUNT die, 0, 12⟩
def Fld.BOB_DROP_COUNT_EMPTY_DROPS (die : Nat) : Fld := ⟨Reg.BOB_DROP_COUNT die, 12, 8⟩
def Fld.BOB_DROP_COUNT_EVT_OVERFLOW (die : Nat) : Fld := ⟨Reg.BOB_DROP_COUNT die, 20, 12⟩
def Fld.BOB_STATUS_FILL (die : Nat) (b : Nat) : Fld := ⟨Reg.BOB_STATUS die b, 0, 11⟩
def Fld.BOB_STATUS_DROPPING (die : Nat) (b : Nat) : Fld := ⟨Reg.BOB_STATUS die b, 11, 1⟩
def Fld.BOB_STATUS_CREDITED (die : Nat) (b : Nat) : Fld := ⟨Reg.BOB_STATUS die b, 12, 1⟩
def Fld.BOB_STATUS_BUSY (die : Nat) (b : Nat) : Fld := ⟨Reg.BOB_STATUS die b, 13, 1⟩
def Fld.CARD_ENG_ENABLE_ENABLE (die : Nat) : Fld := ⟨Reg.CARD_ENG_ENABLE die, 0, 32⟩
def Fld.CARD_ENG_FAILED_FAILED (die : Nat) : Fld := ⟨Reg.CARD_ENG_FAILED die, 0, 32⟩
def Fld.CARD_NOT_SHRUNK_COUNT (die : Nat) : Fld := ⟨Reg.CARD_NOT_SHRUNK die, 0, 32⟩
def Fld.CARD_CMP_MISMATCH_RETRIED (die : Nat) : Fld := ⟨Reg.CARD_CMP_MISMATCH die, 0, 16⟩
def Fld.CARD_CMP_MISMATCH_FAILED (die : Nat) : Fld := ⟨Reg.CARD_CMP_MISMATCH die, 16, 16⟩
def Fld.CARD_SWITCHES_COUNT (die : Nat) : Fld := ⟨Reg.CARD_SWITCHES die, 0, 32⟩
def Fld.CARD_RESTORE_ERR_RETRIED (die : Nat) : Fld := ⟨Reg.CARD_RESTORE_ERR die, 0, 16⟩
def Fld.CARD_RESTORE_ERR_FAILED (die : Nat) : Fld := ⟨Reg.CARD_RESTORE_ERR die, 16, 16⟩
def Fld.CARD_ENG_STATUS_STATE (die : Nat) (e : Nat) : Fld := ⟨Reg.CARD_ENG_STATUS die e, 0, 2⟩
def Fld.CARD_ENG_STATUS_HOLDS_CTX (die : Nat) (e : Nat) : Fld := ⟨Reg.CARD_ENG_STATUS die e, 2, 1⟩
def Fld.CARD_ENG_STATUS_LEVEL (die : Nat) (e : Nat) : Fld := ⟨Reg.CARD_ENG_STATUS die e, 3, 4⟩
def Fld.CARD_ENG_STATUS_SLOT (die : Nat) (e : Nat) : Fld := ⟨Reg.CARD_ENG_STATUS die e, 7, 16⟩
def Fld.CIPH_PIPE_LOCK_OWNER (die : Nat) (p : Nat) : Fld := ⟨Reg.CIPH_PIPE_LOCK die p, 0, 3⟩
def Fld.CIPH_PIPE_LOCK_SUSP_OWNER (die : Nat) (p : Nat) : Fld := ⟨Reg.CIPH_PIPE_LOCK die p, 3, 3⟩
def Fld.CIPH_PIPE_LOCK_KEY_SLOT (die : Nat) (p : Nat) : Fld := ⟨Reg.CIPH_PIPE_LOCK die p, 6, 12⟩
def Fld.CIPH_PIPE_ENABLE_ENABLE (die : Nat) : Fld := ⟨Reg.CIPH_PIPE_ENABLE die, 0, 4⟩
def Fld.CIPH_NONCE_PREFIX_PREFIX : Fld := ⟨Reg.CIPH_NONCE_PREFIX, 0, 32⟩
def Fld.CIPH_NONCE_NEXT_LO_VALUE : Fld := ⟨Reg.CIPH_NONCE_NEXT_LO, 0, 32⟩
def Fld.CIPH_NONCE_NEXT_HI_VALUE : Fld := ⟨Reg.CIPH_NONCE_NEXT_HI, 0, 32⟩
def Fld.CIPH_NONCE_STATUS_ENABLED : Fld := ⟨Reg.CIPH_NONCE_STATUS, 0, 1⟩
def Fld.CIPH_NONCE_STATUS_NONCE_LOST : Fld := ⟨Reg.CIPH_NONCE_STATUS, 1, 1⟩
def Fld.CIPH_NONCE_STATUS_RESERVING : Fld := ⟨Reg.CIPH_NONCE_STATUS, 2, 1⟩
def Fld.CIPH_ALARM_MASK_LOCKSTEP : Fld := ⟨Reg.CIPH_ALARM_MASK, 0, 1⟩
def Fld.CIPH_ALARM_MASK_FORMAT_PATH : Fld := ⟨Reg.CIPH_ALARM_MASK, 1, 1⟩
def Fld.CIPH_ALARM_MASK_TIME_ERROR : Fld := ⟨Reg.CIPH_ALARM_MASK, 2, 1⟩
def Fld.CIPH_ERASE_STATUS_ERASED (die : Nat) : Fld := ⟨Reg.CIPH_ERASE_STATUS die, 0, 1⟩
def Fld.CIPH_ERASE_STATUS_TAMPER (die : Nat) : Fld := ⟨Reg.CIPH_ERASE_STATUS die, 1, 1⟩
def Fld.CIPH_ERASE_STATUS_DURATION (die : Nat) : Fld := ⟨Reg.CIPH_ERASE_STATUS die, 16, 12⟩
def Fld.CIPH_DRBG_STATUS_STATE : Fld := ⟨Reg.CIPH_DRBG_STATUS, 0, 2⟩
def Fld.CIPH_DRBG_STATUS_RESTARTS : Fld := ⟨Reg.CIPH_DRBG_STATUS, 8, 8⟩
def Fld.CIPH_DRBG_STATUS_HEALTH_FAIL : Fld := ⟨Reg.CIPH_DRBG_STATUS, 16, 16⟩
def Fld.CIPH_ERR_COUNT_UNWRAP_FAIL : Fld := ⟨Reg.CIPH_ERR_COUNT, 0, 16⟩
def Fld.CIPH_ERR_COUNT_TAG_MISMATCH : Fld := ⟨Reg.CIPH_ERR_COUNT, 16, 16⟩
def Fld.CIPH_TENANT_SLOTS_BASE (t : Nat) : Fld := ⟨Reg.CIPH_TENANT_SLOTS t, 0, 12⟩
def Fld.CIPH_TENANT_SLOTS_COUNT (t : Nat) : Fld := ⟨Reg.CIPH_TENANT_SLOTS t, 12, 13⟩
def Fld.CIPH_SLOT_STATUS_FULL (s : Nat) : Fld := ⟨Reg.CIPH_SLOT_STATUS s, 0, 1⟩
def Fld.CIPH_SLOT_STATUS_TENANT (s : Nat) : Fld := ⟨Reg.CIPH_SLOT_STATUS s, 1, 8⟩
def Fld.CIPH_SLOT_STATUS_STREAMS (s : Nat) : Fld := ⟨Reg.CIPH_SLOT_STATUS s, 9, 17⟩
def Fld.WEAVE_SPEED_STEP_SPEED (i : Nat) : Fld := ⟨Reg.WEAVE_SPEED_STEP i, 0, 14⟩
def Fld.WEAVE_SM_CTRL_Q_HIGH_WEFTS (g : Nat) : Fld := ⟨Reg.WEAVE_SM_CTRL g, 0, 8⟩
def Fld.WEAVE_SM_CTRL_Q_RESUME_WEFTS (g : Nat) : Fld := ⟨Reg.WEAVE_SM_CTRL g, 8, 8⟩
def Fld.WEAVE_SM_CTRL_RESUME_AGE (g : Nat) : Fld := ⟨Reg.WEAVE_SM_CTRL g, 16, 8⟩
def Fld.WEAVE_SM_CTRL_MIN_STEP (g : Nat) : Fld := ⟨Reg.WEAVE_SM_CTRL g, 24, 4⟩
def Fld.WEAVE_SM_CTRL_MAX_STEP (g : Nat) : Fld := ⟨Reg.WEAVE_SM_CTRL g, 28, 4⟩
def Fld.WEAVE_SM_RAMP_ACCEL (g : Nat) : Fld := ⟨Reg.WEAVE_SM_RAMP g, 0, 6⟩
def Fld.WEAVE_SM_STATUS_STEP (g : Nat) : Fld := ⟨Reg.WEAVE_SM_STATUS g, 0, 4⟩
def Fld.WEAVE_SM_STATUS_EDGE (g : Nat) : Fld := ⟨Reg.WEAVE_SM_STATUS g, 4, 1⟩
def Fld.WEAVE_SM_STATUS_STATE (g : Nat) : Fld := ⟨Reg.WEAVE_SM_STATUS g, 5, 3⟩
def Fld.WEAVE_SM_STATUS_WANT (g : Nat) : Fld := ⟨Reg.WEAVE_SM_STATUS g, 8, 4⟩
def Fld.WEAVE_SM_DEMAND_LAMBDA (g : Nat) : Fld := ⟨Reg.WEAVE_SM_DEMAND g, 0, 16⟩
def Fld.WEAVE_SM_DEMAND_QUEUE (g : Nat) : Fld := ⟨Reg.WEAVE_SM_DEMAND g, 16, 16⟩
def Fld.FMT_SEQ_STATUS_ACTIVE (port : Nat) : Fld := ⟨Reg.FMT_SEQ_STATUS port, 0, 8⟩
def Fld.FMT_LATE_LATE_CW (port : Nat) : Fld := ⟨Reg.FMT_LATE port, 0, 16⟩
def Fld.FMT_LATE_REGEN_REFUSED (port : Nat) : Fld := ⟨Reg.FMT_LATE port, 16, 16⟩
def Fld.FMT_REGEN_COUNT (port : Nat) : Fld := ⟨Reg.FMT_REGEN port, 0, 32⟩
def Fld.HDL_CTRL_ENABLE (port : Nat) : Fld := ⟨Reg.HDL_CTRL port, 0, 1⟩
def Fld.HDL_CTRL_RETRAIN (port : Nat) : Fld := ⟨Reg.HDL_CTRL port, 1, 1⟩
def Fld.HDL_CTRL_RETRAIN_MAX (port : Nat) : Fld := ⟨Reg.HDL_CTRL port, 4, 4⟩
def Fld.HDL_CTRL_TIME_BOUND (port : Nat) : Fld := ⟨Reg.HDL_CTRL port, 8, 8⟩
def Fld.HDL_STATUS_STATE (port : Nat) : Fld := ⟨Reg.HDL_STATUS port, 0, 3⟩
def Fld.HDL_STATUS_US_OK (port : Nat) : Fld := ⟨Reg.HDL_STATUS port, 3, 4⟩
def Fld.HDL_STATUS_DS_OK (port : Nat) : Fld := ⟨Reg.HDL_STATUS port, 7, 4⟩
def Fld.HDL_STATUS_ROLE0 (port : Nat) : Fld := ⟨Reg.HDL_STATUS port, 11, 2⟩
def Fld.HDL_STATUS_ROLE1 (port : Nat) : Fld := ⟨Reg.HDL_STATUS port, 13, 2⟩
def Fld.HDL_STATUS_LOCKED (port : Nat) : Fld := ⟨Reg.HDL_STATUS port, 15, 1⟩
def Fld.HDL_STATUS_ATTEMPTS (port : Nat) : Fld := ⟨Reg.HDL_STATUS port, 16, 8⟩
def Fld.HDL_FEC_UNCORR_COUNT (port : Nat) : Fld := ⟨Reg.HDL_FEC_UNCORR port, 0, 32⟩
def Fld.HDL_FEC_CORR_LO_VALUE (port : Nat) : Fld := ⟨Reg.HDL_FEC_CORR_LO port, 0, 32⟩
def Fld.HDL_FEC_CORR_HI_VALUE (port : Nat) : Fld := ⟨Reg.HDL_FEC_CORR_HI port, 0, 32⟩
def Fld.HDL_CELL_ERR_LOST (port : Nat) : Fld := ⟨Reg.HDL_CELL_ERR port, 0, 16⟩
def Fld.HDL_CELL_ERR_BAD_TYPE (port : Nat) : Fld := ⟨Reg.HDL_CELL_ERR port, 16, 16⟩
def Fld.HDL_TIME_OFFSET (port : Nat) : Fld := ⟨Reg.HDL_TIME port, 0, 16⟩
def Fld.HDL_TIME_DELAY (port : Nat) : Fld := ⟨Reg.HDL_TIME port, 16, 16⟩
def Fld.HDL_XPORT_STATE (port : Nat) : Fld := ⟨Reg.HDL_XPORT port, 0, 2⟩
def Fld.HDL_XPORT_BRAKE (port : Nat) : Fld := ⟨Reg.HDL_XPORT port, 2, 1⟩
def Fld.HDL_XPORT_SAFE_STOP_SEEN (port : Nat) : Fld := ⟨Reg.HDL_XPORT port, 3, 1⟩
def Fld.HDL_XPORT_TEMP (port : Nat) : Fld := ⟨Reg.HDL_XPORT port, 16, 16⟩
def Fld.HDL_SERIAL_LO_VALUE (port : Nat) : Fld := ⟨Reg.HDL_SERIAL_LO port, 0, 32⟩
def Fld.HDL_SERIAL_HI_VALUE (port : Nat) : Fld := ⟨Reg.HDL_SERIAL_HI port, 0, 32⟩
def Fld.RDCH_CTRL_ADAPT_EQ (port : Nat) : Fld := ⟨Reg.RDCH_CTRL port, 0, 1⟩
def Fld.RDCH_CTRL_ADAPT_NP (port : Nat) : Fld := ⟨Reg.RDCH_CTRL port, 1, 1⟩
def Fld.RDCH_CTRL_ADAPT_GAIN (port : Nat) : Fld := ⟨Reg.RDCH_CTRL port, 2, 1⟩
def Fld.RDCH_CTRL_BANK_AUTO (port : Nat) : Fld := ⟨Reg.RDCH_CTRL port, 3, 1⟩
def Fld.RDCH_CTRL_BANK_FORCE (port : Nat) : Fld := ⟨Reg.RDCH_CTRL port, 4, 2⟩
def Fld.RDCH_CTRL_BANK_TARGET (port : Nat) : Fld := ⟨Reg.RDCH_CTRL port, 6, 8⟩
def Fld.RDCH_CTRL_RESTORE_STEP (port : Nat) : Fld := ⟨Reg.RDCH_CTRL port, 14, 4⟩
def Fld.RDCH_LOOP_KP_ACQ (port : Nat) : Fld := ⟨Reg.RDCH_LOOP port, 0, 4⟩
def Fld.RDCH_LOOP_KI_ACQ (port : Nat) : Fld := ⟨Reg.RDCH_LOOP port, 4, 4⟩
def Fld.RDCH_LOOP_KP_TRK (port : Nat) : Fld := ⟨Reg.RDCH_LOOP port, 8, 4⟩
def Fld.RDCH_LOOP_KI_TRK (port : Nat) : Fld := ⟨Reg.RDCH_LOOP port, 12, 4⟩
def Fld.RDCH_LOOP_MU_EQ (port : Nat) : Fld := ⟨Reg.RDCH_LOOP port, 16, 4⟩
def Fld.RDCH_LOOP_MU_NP (port : Nat) : Fld := ⟨Reg.RDCH_LOOP port, 20, 4⟩
def Fld.RDCH_LOOP_MU_GAIN (port : Nat) : Fld := ⟨Reg.RDCH_LOOP port, 24, 4⟩
def Fld.RDCH_ITER_G1_MAX (port : Nat) : Fld := ⟨Reg.RDCH_ITER port, 0, 4⟩
def Fld.RDCH_ITER_G2_MAX (port : Nat) : Fld := ⟨Reg.RDCH_ITER port, 4, 4⟩
def Fld.RDCH_ITER_G3_MAX (port : Nat) : Fld := ⟨Reg.RDCH_ITER port, 8, 4⟩
def Fld.RDCH_STATE_MODE (port : Nat) : Fld := ⟨Reg.RDCH_STATE port, 0, 2⟩
def Fld.RDCH_STATE_PERIOD (port : Nat) : Fld := ⟨Reg.RDCH_STATE port, 2, 5⟩
def Fld.RDCH_STATE_MODULE (port : Nat) : Fld := ⟨Reg.RDCH_STATE port, 7, 1⟩
def Fld.RDCH_STATE_LOOK_BUF (port : Nat) : Fld := ⟨Reg.RDCH_STATE port, 8, 1⟩
def Fld.RDCH_STATE_REGION (port : Nat) : Fld := ⟨Reg.RDCH_STATE port, 9, 2⟩
def Fld.RDCH_STATE_WAIT_BUF (port : Nat) : Fld := ⟨Reg.RDCH_STATE port, 11, 1⟩
def Fld.RDCH_LOCK_A_LOCKED (port : Nat) : Fld := ⟨Reg.RDCH_LOCK_A port, 0, 32⟩
def Fld.RDCH_LOCK_B_LOCKED (port : Nat) : Fld := ⟨Reg.RDCH_LOCK_B port, 0, 32⟩
def Fld.RDCH_GAIN_GAIN_A (port : Nat) : Fld := ⟨Reg.RDCH_GAIN port, 0, 6⟩
def Fld.RDCH_GAIN_GAIN_B (port : Nat) : Fld := ⟨Reg.RDCH_GAIN port, 8, 6⟩
def Fld.RDCH_GAIN_STEPS (port : Nat) : Fld := ⟨Reg.RDCH_GAIN port, 16, 16⟩
def Fld.RDCH_SLOTS_LO_VALUE (port : Nat) : Fld := ⟨Reg.RDCH_SLOTS_LO port, 0, 32⟩
def Fld.RDCH_SLOTS_HI_VALUE (port : Nat) : Fld := ⟨Reg.RDCH_SLOTS_HI port, 0, 32⟩
def Fld.RDCH_FAIL_NOT_CONV (port : Nat) : Fld := ⟨Reg.RDCH_FAIL port, 0, 16⟩
def Fld.RDCH_FAIL_NO_SYNC (port : Nat) : Fld := ⟨Reg.RDCH_FAIL port, 16, 16⟩
def Fld.RDCH_TRUNC_TRUNCATED (port : Nat) : Fld := ⟨Reg.RDCH_TRUNC port, 0, 16⟩
def Fld.RDCH_TRUNC_SYNC_MISS (port : Nat) : Fld := ⟨Reg.RDCH_TRUNC port, 16, 16⟩
def Fld.RDCH_INVALID_FLAGGED (port : Nat) : Fld := ⟨Reg.RDCH_INVALID port, 0, 24⟩
def Fld.RDCH_INVALID_EMERGENCY (port : Nat) : Fld := ⟨Reg.RDCH_INVALID port, 24, 8⟩
def Fld.RDCH_TARGET_T0 (port : Nat) (i : Nat) : Fld := ⟨Reg.RDCH_TARGET port i, 0, 8⟩
def Fld.RDCH_TARGET_T1 (port : Nat) (i : Nat) : Fld := ⟨Reg.RDCH_TARGET port i, 8, 8⟩
def Fld.RDCH_TARGET_T2 (port : Nat) (i : Nat) : Fld := ⟨Reg.RDCH_TARGET port i, 16, 8⟩
def Fld.RDCH_READER_DGAIN (port : Nat) (r : Nat) : Fld := ⟨Reg.RDCH_READER port r, 0, 12⟩
def Fld.RDCH_READER_LOCKED (port : Nat) (r : Nat) : Fld := ⟨Reg.RDCH_READER port r, 12, 1⟩
def Fld.RDCH_READER_GAIN_LIMIT (port : Nat) (r : Nat) : Fld := ⟨Reg.RDCH_READER port r, 13, 1⟩
def Fld.RDCH_READER_UNLOCK_EVT (port : Nat) (r : Nat) : Fld := ⟨Reg.RDCH_READER port r, 14, 1⟩
def Fld.RDCH_READER_MSE (port : Nat) (r : Nat) : Fld := ⟨Reg.RDCH_READER port r, 16, 16⟩
def Fld.RDCH_COEF_TAP (port : Nat) (r : Nat) (b : Nat) (n : Nat) : Fld := ⟨Reg.RDCH_COEF port r b n, 0, 12⟩
def Fld.RDCH_NPRED_P1 (port : Nat) (r : Nat) (b : Nat) : Fld := ⟨Reg.RDCH_NPRED port r b, 0, 8⟩
def Fld.RDCH_NPRED_P2 (port : Nat) (r : Nat) (b : Nat) : Fld := ⟨Reg.RDCH_NPRED port r b, 8, 8⟩
def Fld.VFY_CTRL_CORR_WEAK (port : Nat) : Fld := ⟨Reg.VFY_CTRL port, 0, 15⟩
def Fld.VFY_CTRL_DEAD_COUNT (port : Nat) : Fld := ⟨Reg.VFY_CTRL port, 16, 4⟩
def Fld.VFY_CTRL_RELOC_MAX (port : Nat) : Fld := ⟨Reg.VFY_CTRL port, 20, 2⟩
def Fld.VFY_CTRL_DEAD_CLEAR_A (port : Nat) : Fld := ⟨Reg.VFY_CTRL port, 22, 1⟩
def Fld.VFY_CTRL_DEAD_CLEAR_B (port : Nat) : Fld := ⟨Reg.VFY_CTRL port, 23, 1⟩
def Fld.VFY_DEAD_A_DEAD (port : Nat) : Fld := ⟨Reg.VFY_DEAD_A port, 0, 32⟩
def Fld.VFY_DEAD_B_DEAD (port : Nat) : Fld := ⟨Reg.VFY_DEAD_B port, 0, 32⟩
def Fld.VFY_STATE_HEALTH (port : Nat) : Fld := ⟨Reg.VFY_STATE port, 0, 2⟩
def Fld.VFY_STATE_PENDING (port : Nat) : Fld := ⟨Reg.VFY_STATE port, 8, 8⟩
def Fld.VFY_STATE_RELOC_QUEUE (port : Nat) : Fld := ⟨Reg.VFY_STATE port, 16, 8⟩
def Fld.VFY_WEAK_FIRST (port : Nat) : Fld := ⟨Reg.VFY_WEAK port, 0, 16⟩
def Fld.VFY_WEAK_REPEAT (port : Nat) : Fld := ⟨Reg.VFY_WEAK port, 16, 16⟩
def Fld.VFY_REWRITE_COUNT (port : Nat) : Fld := ⟨Reg.VFY_REWRITE port, 0, 32⟩
def Fld.VFY_RELOC_RELOCATED (port : Nat) : Fld := ⟨Reg.VFY_RELOC port, 0, 16⟩
def Fld.VFY_RELOC_FINAL_FAIL (port : Nat) : Fld := ⟨Reg.VFY_RELOC port, 16, 16⟩
def Fld.VFY_RESIDUAL_RESIDUAL (port : Nat) : Fld := ⟨Reg.VFY_RESIDUAL port, 0, 16⟩
def Fld.VFY_RESIDUAL_CANCELLED (port : Nat) : Fld := ⟨Reg.VFY_RESIDUAL port, 16, 16⟩
def Fld.VFY_CW_LO_VALUE (port : Nat) : Fld := ⟨Reg.VFY_CW_LO port, 0, 32⟩
def Fld.VFY_CW_HI_VALUE (port : Nat) : Fld := ⟨Reg.VFY_CW_HI port, 0, 32⟩
def Fld.CLE_MODE_MODE (port : Nat) : Fld := ⟨Reg.CLE_MODE port, 0, 12⟩
def Fld.CLE_TRACK_CFG_OFFTRACK (port : Nat) : Fld := ⟨Reg.CLE_TRACK_CFG port, 0, 12⟩
def Fld.CLE_TRACK_CFG_SETTLE (port : Nat) : Fld := ⟨Reg.CLE_TRACK_CFG port, 12, 12⟩
def Fld.CLE_TRACK_CFG_COARSE_SIGN (port : Nat) : Fld := ⟨Reg.CLE_TRACK_CFG port, 24, 1⟩
def Fld.CLE_TRACK_CFG_OFFLOAD_STEP (port : Nat) : Fld := ⟨Reg.CLE_TRACK_CFG port, 25, 4⟩
def Fld.CLE_TRACK_BANKMAP_BANK (port : Nat) : Fld := ⟨Reg.CLE_TRACK_BANKMAP port, 0, 32⟩
def Fld.CLE_TRACK_STATUS_PERR (port : Nat) : Fld := ⟨Reg.CLE_TRACK_STATUS port, 0, 16⟩
def Fld.CLE_TRACK_STATUS_MISSING (port : Nat) : Fld := ⟨Reg.CLE_TRACK_STATUS port, 16, 4⟩
def Fld.CLE_TRACK_STATUS_SETTLED (port : Nat) : Fld := ⟨Reg.CLE_TRACK_STATUS port, 20, 1⟩
def Fld.CLE_TRACK_STATUS_BAND_OK (port : Nat) : Fld := ⟨Reg.CLE_TRACK_STATUS port, 21, 1⟩
def Fld.CLE_TRACK_STATUS_BANK (port : Nat) : Fld := ⟨Reg.CLE_TRACK_STATUS port, 22, 2⟩
def Fld.CLE_LPOS_FRAMES (port : Nat) : Fld := ⟨Reg.CLE_LPOS port, 0, 26⟩
def Fld.CLE_LPOS_VALID (port : Nat) : Fld := ⟨Reg.CLE_LPOS port, 26, 1⟩
def Fld.CLE_LPOS_LPOS_MISMATCH (port : Nat) : Fld := ⟨Reg.CLE_LPOS port, 27, 1⟩
def Fld.CLE_LPOS_BAND (port : Nat) : Fld := ⟨Reg.CLE_LPOS port, 28, 4⟩
def Fld.CLE_RADIUS_R_LET (port : Nat) : Fld := ⟨Reg.CLE_RADIUS port, 0, 16⟩
def Fld.CLE_RADIUS_R_TAKE (port : Nat) : Fld := ⟨Reg.CLE_RADIUS port, 16, 16⟩
def Fld.CLE_RADIUS_RANGE_R_MIN (port : Nat) : Fld := ⟨Reg.CLE_RADIUS_RANGE port, 0, 16⟩
def Fld.CLE_RADIUS_RANGE_R_MAX (port : Nat) : Fld := ⟨Reg.CLE_RADIUS_RANGE port, 16, 16⟩
def Fld.CLE_TENSION_SET_T_SET (port : Nat) : Fld := ⟨Reg.CLE_TENSION_SET port, 0, 16⟩
def Fld.CLE_COARSE_ORIGIN_VALUE (port : Nat) : Fld := ⟨Reg.CLE_COARSE_ORIGIN port, 0, 32⟩
def Fld.CLE_BAND_PITCH_VALUE (port : Nat) : Fld := ⟨Reg.CLE_BAND_PITCH port, 0, 32⟩
def Fld.CLE_TIMING_MAX_A (port : Nat) : Fld := ⟨Reg.CLE_TIMING port, 0, 8⟩
def Fld.CLE_TIMING_MAX_B (port : Nat) : Fld := ⟨Reg.CLE_TIMING port, 8, 8⟩
def Fld.CLE_TIMING_OVERRUN (port : Nat) : Fld := ⟨Reg.CLE_TIMING port, 16, 16⟩
def Fld.CLE_INHIBIT_OFFTRACK (port : Nat) : Fld := ⟨Reg.CLE_INHIBIT port, 0, 8⟩
def Fld.CLE_INHIBIT_SERVO (port : Nat) : Fld := ⟨Reg.CLE_INHIBIT port, 8, 8⟩
def Fld.CLE_INHIBIT_POSITION (port : Nat) : Fld := ⟨Reg.CLE_INHIBIT port, 16, 8⟩
def Fld.CLE_INHIBIT_LPOS (port : Nat) : Fld := ⟨Reg.CLE_INHIBIT port, 24, 8⟩
def Fld.CLE_LOOP_CFG_SECTIONS (port : Nat) (l : Nat) : Fld := ⟨Reg.CLE_LOOP_CFG port l, 0, 5⟩
def Fld.CLE_LOOP_CFG_PRESET_OK (port : Nat) (l : Nat) : Fld := ⟨Reg.CLE_LOOP_CFG port l, 5, 1⟩
def Fld.CLE_LOOP_CFG_SLEW (port : Nat) (l : Nat) : Fld := ⟨Reg.CLE_LOOP_CFG port l, 16, 16⟩
def Fld.CLE_LOOP_LIMIT_OUT_LO (port : Nat) (l : Nat) : Fld := ⟨Reg.CLE_LOOP_LIMIT port l, 0, 16⟩
def Fld.CLE_LOOP_LIMIT_OUT_HI (port : Nat) (l : Nat) : Fld := ⟨Reg.CLE_LOOP_LIMIT port l, 16, 16⟩
def Fld.CLE_LOOP_MAN_MAN_OUT (port : Nat) (l : Nat) : Fld := ⟨Reg.CLE_LOOP_MAN port l, 0, 16⟩
def Fld.CLE_LOOP_OUT_OUT (port : Nat) (l : Nat) : Fld := ⟨Reg.CLE_LOOP_OUT port l, 0, 16⟩
def Fld.CLE_LOOP_OUT_MODE (port : Nat) (l : Nat) : Fld := ⟨Reg.CLE_LOOP_OUT port l, 16, 2⟩
def Fld.CLE_LOOP_OUT_SATURATED (port : Nat) (l : Nat) : Fld := ⟨Reg.CLE_LOOP_OUT port l, 18, 1⟩
def Fld.CLE_LOOP_OUT_BLEND_LONG (port : Nat) (l : Nat) : Fld := ⟨Reg.CLE_LOOP_OUT port l, 19, 1⟩
def Fld.CLE_RC_CTRL_ENABLE (port : Nat) (i : Nat) : Fld := ⟨Reg.CLE_RC_CTRL port i, 0, 1⟩
def Fld.CLE_RC_CTRL_LEARN (port : Nat) (i : Nat) : Fld := ⟨Reg.CLE_RC_CTRL port i, 1, 1⟩
def Fld.CLE_RC_CTRL_CLEAR (port : Nat) (i : Nat) : Fld := ⟨Reg.CLE_RC_CTRL port i, 2, 1⟩
def Fld.CLE_RC_CTRL_NB (port : Nat) (i : Nat) : Fld := ⟨Reg.CLE_RC_CTRL port i, 4, 4⟩
def Fld.CLE_RC_CTRL_LEAK (port : Nat) (i : Nat) : Fld := ⟨Reg.CLE_RC_CTRL port i, 8, 4⟩
def Fld.CLE_RC_CTRL_LEAD (port : Nat) (i : Nat) : Fld := ⟨Reg.CLE_RC_CTRL port i, 12, 12⟩
def Fld.CLE_RC_GAIN_LRN (port : Nat) (i : Nat) : Fld := ⟨Reg.CLE_RC_GAIN port i, 0, 15⟩
def Fld.CLE_GM_G (port : Nat) (g : Nat) (p : Nat) : Fld := ⟨Reg.CLE_GM port g p, 0, 16⟩
def Fld.CLE_SEC_B0 (port : Nat) (l : Nat) (k : Nat) (n : Nat) : Fld := ⟨Reg.CLE_SEC port l k n 0, 0, 16⟩
def Fld.CLE_SEC_B1 (port : Nat) (l : Nat) (k : Nat) (n : Nat) : Fld := ⟨Reg.CLE_SEC port l k n 0, 16, 16⟩
def Fld.CLE_SEC_B2 (port : Nat) (l : Nat) (k : Nat) (n : Nat) : Fld := ⟨Reg.CLE_SEC port l k n 1, 0, 16⟩
def Fld.CLE_SEC_A1 (port : Nat) (l : Nat) (k : Nat) (n : Nat) : Fld := ⟨Reg.CLE_SEC port l k n 1, 16, 16⟩
def Fld.CLE_SEC_A2 (port : Nat) (l : Nat) (k : Nat) (n : Nat) : Fld := ⟨Reg.CLE_SEC port l k n 2, 0, 16⟩
def Fld.CLE_SEC_SHIFT (port : Nat) (l : Nat) (k : Nat) (n : Nat) : Fld := ⟨Reg.CLE_SEC port l k n 2, 16, 3⟩
def Fld.CLE_SEC_INTEG (port : Nat) (l : Nat) (k : Nat) (n : Nat) : Fld := ⟨Reg.CLE_SEC port l k n 2, 19, 1⟩
def Fld.CLE_SEC_CLAMP_LO (port : Nat) (l : Nat) (k : Nat) (n : Nat) : Fld := ⟨Reg.CLE_SEC port l k n 3, 0, 16⟩
def Fld.CLE_SEC_CLAMP_HI (port : Nat) (l : Nat) (k : Nat) (n : Nat) : Fld := ⟨Reg.CLE_SEC port l k n 3, 16, 16⟩
def Fld.CLE_RC_TABLE_M (port : Nat) (i : Nat) (p : Nat) : Fld := ⟨Reg.CLE_RC_TABLE port i p, 0, 16⟩
def Fld.EDGE_CARRIER_CARRIER_HZ (port : Nat) : Fld := ⟨Reg.EDGE_CARRIER port, 0, 17⟩
def Fld.EDGE_TIMING_DEAD (port : Nat) : Fld := ⟨Reg.EDGE_TIMING port, 0, 11⟩
def Fld.EDGE_TIMING_MIN_PULSE (port : Nat) : Fld := ⟨Reg.EDGE_TIMING port, 11, 13⟩
def Fld.EDGE_CARRY_CARRY_MAX (port : Nat) : Fld := ⟨Reg.EDGE_CARRY port, 0, 16⟩
def Fld.EDGE_MAP_LET_A (port : Nat) : Fld := ⟨Reg.EDGE_MAP port, 0, 3⟩
def Fld.EDGE_MAP_LET_B (port : Nat) : Fld := ⟨Reg.EDGE_MAP port, 4, 3⟩
def Fld.EDGE_MAP_TAKE_A (port : Nat) : Fld := ⟨Reg.EDGE_MAP port, 8, 3⟩
def Fld.EDGE_MAP_TAKE_B (port : Nat) : Fld := ⟨Reg.EDGE_MAP port, 12, 3⟩
def Fld.EDGE_TEST_BRIDGE (port : Nat) : Fld := ⟨Reg.EDGE_TEST port, 0, 3⟩
def Fld.EDGE_TEST_STATE (port : Nat) : Fld := ⟨Reg.EDGE_TEST port, 4, 2⟩
def Fld.EDGE_TEST_PERIODS (port : Nat) : Fld := ⟨Reg.EDGE_TEST port, 16, 16⟩
def Fld.EDGE_COUNT_SUPPRESSED (port : Nat) : Fld := ⟨Reg.EDGE_COUNT port, 0, 16⟩
def Fld.EDGE_COUNT_CARRY_CLIP (port : Nat) : Fld := ⟨Reg.EDGE_COUNT port, 16, 16⟩
def Fld.EDGE_CONFLICT_COUNT (port : Nat) : Fld := ⟨Reg.EDGE_CONFLICT port, 0, 16⟩
def Fld.EDGE_CONFLICT_LAST_BRIDGES (port : Nat) : Fld := ⟨Reg.EDGE_CONFLICT port, 16, 8⟩
def Fld.EDGE_TEN_SRC_SOURCE (port : Nat) : Fld := ⟨Reg.EDGE_TEN_SRC port, 0, 1⟩
def Fld.EDGE_TEN_SRC_LET_HEALTHY (port : Nat) : Fld := ⟨Reg.EDGE_TEN_SRC port, 1, 1⟩
def Fld.EDGE_TEN_SRC_TAKE_HEALTHY (port : Nat) : Fld := ⟨Reg.EDGE_TEN_SRC port, 2, 1⟩
def Fld.EDGE_TEN_SRC_TAKE_FITTED (port : Nat) : Fld := ⟨Reg.EDGE_TEN_SRC port, 3, 1⟩
def Fld.EDGE_TEN_SRC_AUTO_RETURN (port : Nat) : Fld := ⟨Reg.EDGE_TEN_SRC port, 4, 1⟩
def Fld.EDGE_TEN_SRC_LOSS_EVT (port : Nat) : Fld := ⟨Reg.EDGE_TEN_SRC port, 5, 1⟩
def Fld.EDGE_TEN_SRC_TAKE_LOSS_EVT (port : Nat) : Fld := ⟨Reg.EDGE_TEN_SRC port, 6, 1⟩
def Fld.EDGE_EST_BIAS_BIAS (port : Nat) : Fld := ⟨Reg.EDGE_EST_BIAS port, 0, 16⟩
def Fld.EDGE_CARRY_STATE_CARRY (port : Nat) (l : Nat) : Fld := ⟨Reg.EDGE_CARRY_STATE port l, 0, 20⟩
def Fld.EDGE_CARRY_STATE_END_STATE (port : Nat) (l : Nat) : Fld := ⟨Reg.EDGE_CARRY_STATE port l, 20, 2⟩
def Fld.EDGE_EST_TABLE_K (port : Nat) (g : Nat) (p : Nat) : Fld := ⟨Reg.EDGE_EST_TABLE port g p, 0, 16⟩
def Fld.WEAVE_GROUP_ID_GROUP (g : Nat) : Fld := ⟨Reg.WEAVE_GROUP_ID g, 0, 16⟩
def Fld.WEAVE_GROUP_ID_K (g : Nat) : Fld := ⟨Reg.WEAVE_GROUP_ID g, 16, 6⟩
def Fld.WEAVE_GROUP_ID_M (g : Nat) : Fld := ⟨Reg.WEAVE_GROUP_ID g, 22, 3⟩
def Fld.WEAVE_GROUP_ID_VALID (g : Nat) : Fld := ⟨Reg.WEAVE_GROUP_ID g, 31, 1⟩
def Fld.WEAVE_GROUP_CFG_FLOOR (g : Nat) : Fld := ⟨Reg.WEAVE_GROUP_CFG g, 0, 7⟩
def Fld.WEAVE_GROUP_CFG_GRACE (g : Nat) : Fld := ⟨Reg.WEAVE_GROUP_CFG g, 8, 3⟩
def Fld.WEAVE_GROUP_CFG_LATE_LIMIT (g : Nat) : Fld := ⟨Reg.WEAVE_GROUP_CFG g, 12, 8⟩
def Fld.WEAVE_GROUP_TIMING_LEAD (g : Nat) : Fld := ⟨Reg.WEAVE_GROUP_TIMING g, 0, 14⟩
def Fld.WEAVE_GROUP_TIMING_RETAIN (g : Nat) : Fld := ⟨Reg.WEAVE_GROUP_TIMING g, 16, 16⟩
def Fld.WEAVE_GROUP_STATUS_STATE (g : Nat) : Fld := ⟨Reg.WEAVE_GROUP_STATUS g, 0, 3⟩
def Fld.WEAVE_GROUP_STATUS_CROSS (g : Nat) : Fld := ⟨Reg.WEAVE_GROUP_STATUS g, 3, 1⟩
def Fld.WEAVE_GROUP_STATUS_LIVE (g : Nat) : Fld := ⟨Reg.WEAVE_GROUP_STATUS g, 4, 7⟩
def Fld.WEAVE_GROUP_STATUS_OPEN (g : Nat) : Fld := ⟨Reg.WEAVE_GROUP_STATUS g, 11, 8⟩
def Fld.WEAVE_WEFT_NEXT_LO_VALUE (g : Nat) : Fld := ⟨Reg.WEAVE_WEFT_NEXT_LO g, 0, 32⟩
def Fld.WEAVE_WEFT_NEXT_HI_VALUE (g : Nat) : Fld := ⟨Reg.WEAVE_WEFT_NEXT_HI g, 0, 32⟩
def Fld.WEAVE_WEFT_DONE_LO_VALUE (g : Nat) : Fld := ⟨Reg.WEAVE_WEFT_DONE_LO g, 0, 32⟩
def Fld.WEAVE_WEFT_DONE_HI_VALUE (g : Nat) : Fld := ⟨Reg.WEAVE_WEFT_DONE_HI g, 0, 32⟩
def Fld.WEAVE_WEFT_EVENTS_SHORT (g : Nat) : Fld := ⟨Reg.WEAVE_WEFT_EVENTS g, 0, 16⟩
def Fld.WEAVE_WEFT_EVENTS_FAILED (g : Nat) : Fld := ⟨Reg.WEAVE_WEFT_EVENTS g, 16, 16⟩
def Fld.WEAVE_DEFER_WAITING (g : Nat) : Fld := ⟨Reg.WEAVE_DEFER g, 0, 16⟩
def Fld.WEAVE_DEFER_LONGEST (g : Nat) : Fld := ⟨Reg.WEAVE_DEFER g, 16, 16⟩
def Fld.WEAVE_MEMBER_DEVICE_ID (g : Nat) (i : Nat) : Fld := ⟨Reg.WEAVE_MEMBER g i, 0, 16⟩
def Fld.WEAVE_MEMBER_PORT (g : Nat) (i : Nat) : Fld := ⟨Reg.WEAVE_MEMBER g i, 16, 5⟩
def Fld.WEAVE_MEMBER_STATE (g : Nat) (i : Nat) : Fld := ⟨Reg.WEAVE_MEMBER g i, 21, 3⟩
def Fld.WEAVE_MEMBER_LATE_RUN (g : Nat) (i : Nat) : Fld := ⟨Reg.WEAVE_MEMBER g i, 24, 8⟩
def Fld.WEAVE_MEMBER_CTRL_REJOIN (g : Nat) (i : Nat) : Fld := ⟨Reg.WEAVE_MEMBER_CTRL g i, 0, 1⟩
def Fld.WEAVE_MEMBER_CTRL_DECLARE_FAILED (g : Nat) (i : Nat) : Fld := ⟨Reg.WEAVE_MEMBER_CTRL g i, 1, 1⟩
def Fld.WEAVE_REBUILD_GROUP (p : Nat) : Fld := ⟨Reg.WEAVE_REBUILD p, 0, 16⟩
def Fld.WEAVE_REBUILD_ACTIVE (p : Nat) : Fld := ⟨Reg.WEAVE_REBUILD p, 16, 1⟩
def Fld.WEAVE_CAT_CTRL_CAT_AGE : Fld := ⟨Reg.WEAVE_CAT_CTRL, 0, 16⟩
def Fld.WEAVE_RECOVERY_VOIDED_WEFTS : Fld := ⟨Reg.WEAVE_RECOVERY, 0, 16⟩
def Fld.WEAVE_RECOVERY_CAT_REDO : Fld := ⟨Reg.WEAVE_RECOVERY, 16, 8⟩
def Fld.WEAVE_CONS_STATUS_VOID_PENDING : Fld := ⟨Reg.WEAVE_CONS_STATUS, 0, 16⟩
def Fld.WEAVE_CONS_STATUS_PATROL : Fld := ⟨Reg.WEAVE_CONS_STATUS, 16, 1⟩
def Fld.WEAVE_CONS_STATUS_RESHAPE : Fld := ⟨Reg.WEAVE_CONS_STATUS, 17, 1⟩
def Fld.BEAM_CTRL_AUTO_FILL : Fld := ⟨Reg.BEAM_CTRL, 0, 1⟩
def Fld.BEAM_CTRL_LEGACY_TEST : Fld := ⟨Reg.BEAM_CTRL, 1, 1⟩
def Fld.BEAM_CTRL_SCRUB_HOURS : Fld := ⟨Reg.BEAM_CTRL, 2, 8⟩
def Fld.BEAM_CTRL_RETIRE_CE : Fld := ⟨Reg.BEAM_CTRL, 16, 4⟩
def Fld.BEAM_STATUS_CHANNELS : Fld := ⟨Reg.BEAM_STATUS, 0, 5⟩
def Fld.BEAM_STATUS_DPC : Fld := ⟨Reg.BEAM_STATUS, 5, 2⟩
def Fld.BEAM_STATUS_RATE : Fld := ⟨Reg.BEAM_STATUS, 7, 2⟩
def Fld.BEAM_STATUS_MRDIMM : Fld := ⟨Reg.BEAM_STATUS, 9, 1⟩
def Fld.BEAM_STATUS_DIMM_CAP : Fld := ⟨Reg.BEAM_STATUS, 10, 3⟩
def Fld.BEAM_STATUS_FILLING : Fld := ⟨Reg.BEAM_STATUS, 13, 1⟩
def Fld.BEAM_STATUS_LEGACY_DONE : Fld := ⟨Reg.BEAM_STATUS, 14, 1⟩
def Fld.BEAM_POOL_POOL_STEPS : Fld := ⟨Reg.BEAM_POOL, 0, 10⟩
def Fld.BEAM_POOL_RELEASED_STEPS : Fld := ⟨Reg.BEAM_POOL, 16, 10⟩
def Fld.BEAM_FREE_LO_VALUE : Fld := ⟨Reg.BEAM_FREE_LO, 0, 32⟩
def Fld.BEAM_FREE_HI_VALUE : Fld := ⟨Reg.BEAM_FREE_HI, 0, 32⟩
def Fld.BEAM_RETIRED_GRANULES : Fld := ⟨Reg.BEAM_RETIRED, 0, 17⟩
def Fld.BEAM_ARB_AGE_CAP : Fld := ⟨Reg.BEAM_ARB, 0, 8⟩
def Fld.BEAM_ARB_BG_RATE : Fld := ⟨Reg.BEAM_ARB, 8, 10⟩
def Fld.BEAM_TEST_CTRL_OP (die : Nat) : Fld := ⟨Reg.BEAM_TEST_CTRL die, 0, 2⟩
def Fld.BEAM_TEST_CTRL_BUSY (die : Nat) : Fld := ⟨Reg.BEAM_TEST_CTRL die, 2, 1⟩
def Fld.BEAM_TEST_CTRL_REFUSED (die : Nat) : Fld := ⟨Reg.BEAM_TEST_CTRL die, 3, 1⟩
def Fld.BEAM_TEST_LINE_LO_OFFSET (die : Nat) : Fld := ⟨Reg.BEAM_TEST_LINE_LO die, 6, 26⟩
def Fld.BEAM_TEST_LINE_HI_OFFSET (die : Nat) : Fld := ⟨Reg.BEAM_TEST_LINE_HI die, 0, 32⟩
def Fld.BEAM_TEST_RESULT_OUTCOME (die : Nat) : Fld := ⟨Reg.BEAM_TEST_RESULT die, 0, 2⟩
def Fld.BEAM_TEST_RESULT_DEVICE (die : Nat) : Fld := ⟨Reg.BEAM_TEST_RESULT die, 2, 4⟩
def Fld.BEAM_TEST_RESULT_CW_ERR (die : Nat) : Fld := ⟨Reg.BEAM_TEST_RESULT die, 6, 4⟩
def Fld.BEAM_TEST_RESULT_CW_SINGLE (die : Nat) : Fld := ⟨Reg.BEAM_TEST_RESULT die, 10, 4⟩
def Fld.BEAM_TEST_DATA_DATA (die : Nat) (i : Nat) : Fld := ⟨Reg.BEAM_TEST_DATA die i, 0, 32⟩
def Fld.BEAM_TEST_CHK_S8 (die : Nat) (i : Nat) : Fld := ⟨Reg.BEAM_TEST_CHK die i, 0, 16⟩
def Fld.BEAM_TEST_CHK_S9 (die : Nat) (i : Nat) : Fld := ⟨Reg.BEAM_TEST_CHK die i, 16, 16⟩
def Fld.BEAM_CH_STATUS_POPULATED (die : Nat) (c : Nat) : Fld := ⟨Reg.BEAM_CH_STATUS die c, 0, 1⟩
def Fld.BEAM_CH_STATUS_TRAINED (die : Nat) (c : Nat) : Fld := ⟨Reg.BEAM_CH_STATUS die c, 1, 1⟩
def Fld.BEAM_CH_STATUS_OVF (die : Nat) (c : Nat) : Fld := ⟨Reg.BEAM_CH_STATUS die c, 2, 1⟩
def Fld.BEAM_CH_STATUS_SELF_REFRESH (die : Nat) (c : Nat) : Fld := ⟨Reg.BEAM_CH_STATUS die c, 3, 1⟩
def Fld.BEAM_CH_BUCKET_LEVEL (die : Nat) (c : Nat) : Fld := ⟨Reg.BEAM_CH_BUCKET die c, 0, 16⟩
def Fld.BEAM_CH_BUCKET_THRESH (die : Nat) (c : Nat) : Fld := ⟨Reg.BEAM_CH_BUCKET die c, 16, 8⟩
def Fld.BEAM_CH_BUCKET_LEAK_S (die : Nat) (c : Nat) : Fld := ⟨Reg.BEAM_CH_BUCKET die c, 24, 8⟩
def Fld.BEAM_CH_ERR_CORRECTED (die : Nat) (c : Nat) : Fld := ⟨Reg.BEAM_CH_ERR die c, 0, 16⟩
def Fld.BEAM_CH_ERR_UNCORR (die : Nat) (c : Nat) : Fld := ⟨Reg.BEAM_CH_ERR die c, 16, 16⟩
def Fld.BEAM_CH_MERGE_RMW (die : Nat) (c : Nat) : Fld := ⟨Reg.BEAM_CH_MERGE die c, 0, 16⟩
def Fld.BEAM_CH_MERGE_FULL_FLUSH (die : Nat) (c : Nat) : Fld := ⟨Reg.BEAM_CH_MERGE die c, 16, 16⟩
def Fld.TIME_NOW_LO_VALUE : Fld := ⟨Reg.TIME_NOW_LO, 0, 32⟩
def Fld.TIME_NOW_HI_VALUE : Fld := ⟨Reg.TIME_NOW_HI, 0, 32⟩
def Fld.TIME_CTRL_SKEW_LIMIT : Fld := ⟨Reg.TIME_CTRL, 0, 10⟩
def Fld.TIME_CTRL_HOLDOVER_PPB : Fld := ⟨Reg.TIME_CTRL, 10, 10⟩
def Fld.TIME_CTRL_REF_EN : Fld := ⟨Reg.TIME_CTRL, 20, 1⟩
def Fld.TIME_CTRL_PPS_EN : Fld := ⟨Reg.TIME_CTRL, 21, 1⟩
def Fld.TIME_STATUS_STATE : Fld := ⟨Reg.TIME_STATUS, 0, 3⟩
def Fld.TIME_STATUS_FAULT : Fld := ⟨Reg.TIME_STATUS, 3, 1⟩
def Fld.TIME_STATUS_REF_LOCK : Fld := ⟨Reg.TIME_STATUS, 4, 1⟩
def Fld.TIME_STATUS_PPS_LOCK : Fld := ⟨Reg.TIME_STATUS, 5, 1⟩
def Fld.TIME_STATUS_HOPS : Fld := ⟨Reg.TIME_STATUS, 8, 8⟩
def Fld.TIME_STATUS_ERROR_EST : Fld := ⟨Reg.TIME_STATUS, 16, 16⟩
def Fld.TIME_OFFSET_THETA : Fld := ⟨Reg.TIME_OFFSET, 0, 16⟩
def Fld.TIME_OFFSET_DELAY : Fld := ⟨Reg.TIME_OFFSET, 16, 16⟩
def Fld.TIME_ADJ_ADJ : Fld := ⟨Reg.TIME_ADJ, 0, 32⟩
def Fld.TIME_DIE_ERROR : Fld := ⟨Reg.TIME_DIE, 0, 8⟩
def Fld.SHUT_ID_DEVICE_ID : Fld := ⟨Reg.SHUT_ID, 0, 16⟩
def Fld.SHUT_ID_FABRIC_ID : Fld := ⟨Reg.SHUT_ID, 16, 16⟩
def Fld.SHUT_ROLE_ROLE : Fld := ⟨Reg.SHUT_ROLE, 0, 2⟩
def Fld.SHUT_ROLE_PRIORITY : Fld := ⟨Reg.SHUT_ROLE, 2, 3⟩
def Fld.SHUT_ROLE_MANAGER : Fld := ⟨Reg.SHUT_ROLE, 16, 16⟩
def Fld.SHUT_EPOCH_EPOCH : Fld := ⟨Reg.SHUT_EPOCH, 0, 32⟩
def Fld.SHUT_CTRL_CLAIM : Fld := ⟨Reg.SHUT_CTRL, 0, 1⟩
def Fld.SHUT_CTRL_AUTO_CLAIM_MS : Fld := ⟨Reg.SHUT_CTRL, 1, 16⟩
def Fld.SHUT_PORT_CTRL_ENABLE (die : Nat) (j : Nat) : Fld := ⟨Reg.SHUT_PORT_CTRL die j, 0, 1⟩
def Fld.SHUT_PORT_CTRL_RETRAIN (die : Nat) (j : Nat) : Fld := ⟨Reg.SHUT_PORT_CTRL die j, 1, 1⟩
def Fld.SHUT_PORT_STATUS_STATE (die : Nat) (j : Nat) : Fld := ⟨Reg.SHUT_PORT_STATUS die j, 0, 3⟩
def Fld.SHUT_PORT_STATUS_PARENT (die : Nat) (j : Nat) : Fld := ⟨Reg.SHUT_PORT_STATUS die j, 3, 1⟩
def Fld.SHUT_PORT_STATUS_IN_TREE (die : Nat) (j : Nat) : Fld := ⟨Reg.SHUT_PORT_STATUS die j, 4, 1⟩
def Fld.SHUT_PORT_STATUS_PEER (die : Nat) (j : Nat) : Fld := ⟨Reg.SHUT_PORT_STATUS die j, 16, 16⟩
def Fld.SHUT_PORT_DELAY_D (die : Nat) (j : Nat) : Fld := ⟨Reg.SHUT_PORT_DELAY die j, 0, 16⟩
def Fld.SHUT_PORT_ERR_DISCARDED (die : Nat) (j : Nat) : Fld := ⟨Reg.SHUT_PORT_ERR die j, 0, 16⟩
def Fld.SHUT_PORT_ERR_BAD_TYPE (die : Nat) (j : Nat) : Fld := ⟨Reg.SHUT_PORT_ERR die j, 16, 16⟩
def Fld.SHUT_GROUP_LAT_LAT (g : Nat) : Fld := ⟨Reg.SHUT_GROUP_LAT g, 0, 24⟩
def Fld.LEDG_STATUS_STATE : Fld := ⟨Reg.LEDG_STATUS, 0, 2⟩
def Fld.LEDG_STATUS_ERASING : Fld := ⟨Reg.LEDG_STATUS, 2, 3⟩
def Fld.LEDG_STATUS_CONFIG_LOCKED : Fld := ⟨Reg.LEDG_STATUS, 5, 1⟩
def Fld.LEDG_WEAR_MAX_PCT : Fld := ⟨Reg.LEDG_WEAR, 0, 8⟩
def Fld.LEDG_WEAR_MEAN_PCT : Fld := ⟨Reg.LEDG_WEAR, 8, 8⟩
def Fld.LEDG_WEAR_SPARES : Fld := ⟨Reg.LEDG_WEAR, 16, 12⟩
def Fld.LEDG_ERR_TORN_FOUND : Fld := ⟨Reg.LEDG_ERR, 0, 8⟩
def Fld.LEDG_ERR_HALF_ERASED : Fld := ⟨Reg.LEDG_ERR, 8, 8⟩
def Fld.LEDG_ERR_PROG_FAIL : Fld := ⟨Reg.LEDG_ERR, 16, 7⟩
def Fld.LEDG_ERR_ERASE_FAIL : Fld := ⟨Reg.LEDG_ERR, 23, 7⟩
def Fld.LEDG_ERR_SLOT_ERR : Fld := ⟨Reg.LEDG_ERR, 30, 1⟩
def Fld.LEDG_ECC_CORRECTED : Fld := ⟨Reg.LEDG_ECC, 0, 16⟩
def Fld.LEDG_ECC_CORRUPT : Fld := ⟨Reg.LEDG_ECC, 16, 16⟩
def Fld.LEDG_LATENCY_MAX_US : Fld := ⟨Reg.LEDG_LATENCY, 0, 16⟩
def Fld.LEDG_LATENCY_LATE : Fld := ⟨Reg.LEDG_LATENCY, 16, 16⟩
def Fld.BOOT_STATE_STATE : Fld := ⟨Reg.BOOT_STATE, 0, 4⟩
def Fld.BOOT_STATE_CAUSE : Fld := ⟨Reg.BOOT_STATE, 4, 3⟩
def Fld.BOOT_STATE_RESET_CAUSE : Fld := ⟨Reg.BOOT_STATE, 7, 3⟩
def Fld.BOOT_STATE_SLOT : Fld := ⟨Reg.BOOT_STATE, 10, 1⟩
def Fld.BOOT_STATE_IMAGE_COPY : Fld := ⟨Reg.BOOT_STATE, 11, 1⟩
def Fld.BOOT_STATE_CONFIG_LOCK : Fld := ⟨Reg.BOOT_STATE, 12, 1⟩
def Fld.BOOT_STATE_HALF_ISOLATED : Fld := ⟨Reg.BOOT_STATE, 13, 1⟩
def Fld.BOOT_CTRL_RESET : Fld := ⟨Reg.BOOT_CTRL, 0, 1⟩
def Fld.BOOT_CTRL_RECOVERY_REQ : Fld := ⟨Reg.BOOT_CTRL, 1, 1⟩
def Fld.BOOT_CTRL_COMMIT_SVN : Fld := ⟨Reg.BOOT_CTRL, 2, 1⟩
def Fld.BOOT_TIME_MS : Fld := ⟨Reg.BOOT_TIME, 0, 16⟩
def Fld.BOOT_SVN_FW_MIN : Fld := ⟨Reg.BOOT_SVN, 0, 7⟩
def Fld.BOOT_SVN_FW : Fld := ⟨Reg.BOOT_SVN, 8, 7⟩
def Fld.BOOT_SVN_IMG_MIN : Fld := ⟨Reg.BOOT_SVN, 16, 7⟩
def Fld.BOOT_SVN_IMG : Fld := ⟨Reg.BOOT_SVN, 24, 7⟩
def Fld.BOOT_IMAGE_ERR_ERR0 : Fld := ⟨Reg.BOOT_IMAGE_ERR, 0, 4⟩
def Fld.BOOT_IMAGE_ERR_ERR1 : Fld := ⟨Reg.BOOT_IMAGE_ERR, 4, 4⟩
def Fld.BOOT_IMAGE_ERR_REC_OFFSET : Fld := ⟨Reg.BOOT_IMAGE_ERR, 8, 24⟩
def Fld.BOOT_EXT_DATA_DATA (w : Nat) : Fld := ⟨Reg.BOOT_EXT_DATA w, 0, 32⟩
def Fld.BOOT_EXT_CTRL_INDEX : Fld := ⟨Reg.BOOT_EXT_CTRL, 0, 5⟩
def Fld.BOOT_EXT_CTRL_GO : Fld := ⟨Reg.BOOT_EXT_CTRL, 5, 1⟩
def Fld.BOOT_EXT_CTRL_BUSY : Fld := ⟨Reg.BOOT_EXT_CTRL, 6, 1⟩
def Fld.BOOT_PROV_DATA_DATA (w : Nat) : Fld := ⟨Reg.BOOT_PROV_DATA w, 0, 32⟩
def Fld.BOOT_PROV_CTRL_GO : Fld := ⟨Reg.BOOT_PROV_CTRL, 0, 1⟩
def Fld.BOOT_PROV_CTRL_DECOMMISSION : Fld := ⟨Reg.BOOT_PROV_CTRL, 1, 1⟩
def Fld.BOOT_PROV_STATUS_STATUS : Fld := ⟨Reg.BOOT_PROV_STATUS, 0, 2⟩
def Fld.BOOT_RCV_CTRL_PAGE : Fld := ⟨Reg.BOOT_RCV_CTRL, 0, 13⟩
def Fld.BOOT_RCV_CTRL_SLOT : Fld := ⟨Reg.BOOT_RCV_CTRL, 13, 1⟩
def Fld.BOOT_RCV_CTRL_OP : Fld := ⟨Reg.BOOT_RCV_CTRL, 14, 2⟩
def Fld.BOOT_RCV_STATUS_BUSY : Fld := ⟨Reg.BOOT_RCV_STATUS, 0, 1⟩
def Fld.BOOT_RCV_STATUS_RESULT : Fld := ⟨Reg.BOOT_RCV_STATUS, 1, 3⟩
def Fld.BOOT_PCR_WORD (i : Nat) (w : Nat) : Fld := ⟨Reg.BOOT_PCR i w, 0, 32⟩
def Fld.BOOT_RCV_BUF_DATA (w : Nat) : Fld := ⟨Reg.BOOT_RCV_BUF w, 0, 32⟩
def Fld.SAFE_STATUS_CH_A_OK (die : Nat) : Fld := ⟨Reg.SAFE_STATUS die, 0, 1⟩
def Fld.SAFE_STATUS_CH_B_OK (die : Nat) : Fld := ⟨Reg.SAFE_STATUS die, 1, 1⟩
def Fld.SAFE_STATUS_FAULT (die : Nat) : Fld := ⟨Reg.SAFE_STATUS die, 2, 1⟩
def Fld.SAFE_STATUS_FAULT_N_IN (die : Nat) : Fld := ⟨Reg.SAFE_STATUS die, 3, 1⟩
def Fld.SAFE_STATUS_SELFTEST_PASS (die : Nat) : Fld := ⟨Reg.SAFE_STATUS die, 4, 1⟩
def Fld.SAFE_STATUS_FAULT_CAUSE (die : Nat) : Fld := ⟨Reg.SAFE_STATUS die, 8, 4⟩
def Fld.SAFE_LIMITS_T_MAX (die : Nat) : Fld := ⟨Reg.SAFE_LIMITS die, 0, 16⟩
def Fld.SAFE_LIMITS_V_LIMIT (die : Nat) : Fld := ⟨Reg.SAFE_LIMITS die, 16, 14⟩
def Fld.SAFE_STOP_CFG_STOP_DECEL (die : Nat) : Fld := ⟨Reg.SAFE_STOP_CFG die, 0, 6⟩
def Fld.SAFE_STOP_CFG_STOP_TOL (die : Nat) : Fld := ⟨Reg.SAFE_STOP_CFG die, 6, 10⟩
def Fld.SAFE_STOP_CFG_STOP_U_MAX (die : Nat) : Fld := ⟨Reg.SAFE_STOP_CFG die, 16, 16⟩
def Fld.SAFE_STOP_GAIN_STOP_KV (die : Nat) : Fld := ⟨Reg.SAFE_STOP_GAIN die, 0, 16⟩
def Fld.SAFE_STOP_GAIN_STOP_KT (die : Nat) : Fld := ⟨Reg.SAFE_STOP_GAIN die, 16, 16⟩
def Fld.SAFE_PORT_STATE_STATE (die : Nat) (p : Nat) : Fld := ⟨Reg.SAFE_PORT_STATE die p, 0, 3⟩
def Fld.SAFE_PORT_STATE_NO_RESTART (die : Nat) (p : Nat) : Fld := ⟨Reg.SAFE_PORT_STATE die p, 3, 1⟩
def Fld.SAFE_PORT_STATE_LAST_CAUSE (die : Nat) (p : Nat) : Fld := ⟨Reg.SAFE_PORT_STATE die p, 4, 4⟩
def Fld.SAFE_PORT_STATE_LATCHED (die : Nat) (p : Nat) : Fld := ⟨Reg.SAFE_PORT_STATE die p, 8, 1⟩
def Fld.SAFE_PORT_STATE_PIN (die : Nat) (p : Nat) : Fld := ⟨Reg.SAFE_PORT_STATE die p, 9, 1⟩
def Fld.SAFE_PORT_STATE_BRAKE (die : Nat) (p : Nat) : Fld := ⟨Reg.SAFE_PORT_STATE die p, 10, 1⟩
def Fld.SAFE_PORT_CTRL_CLEAR (die : Nat) (p : Nat) : Fld := ⟨Reg.SAFE_PORT_CTRL die p, 0, 1⟩
def Fld.SAFE_PORT_CTRL_SENSORLESS_RUN (die : Nat) (p : Nat) : Fld := ⟨Reg.SAFE_PORT_CTRL die p, 1, 1⟩
def Fld.SAFE_PORT_COUNT_STOPS (die : Nat) (p : Nat) : Fld := ⟨Reg.SAFE_PORT_COUNT die p, 0, 8⟩
def Fld.SAFE_PORT_COUNT_RUN_STOPS (die : Nat) (p : Nat) : Fld := ⟨Reg.SAFE_PORT_COUNT die p, 8, 8⟩
def Fld.SAFE_PORT_COUNT_ENC_FAIL (die : Nat) (p : Nat) : Fld := ⟨Reg.SAFE_PORT_COUNT die p, 16, 8⟩
def Fld.SAFE_PORT_COUNT_ABORTS (die : Nat) (p : Nat) : Fld := ⟨Reg.SAFE_PORT_COUNT die p, 24, 8⟩
def Fld.WARD_STATUS_TAMPER : Fld := ⟨Reg.WARD_STATUS, 0, 1⟩
def Fld.WARD_STATUS_CAUSE : Fld := ⟨Reg.WARD_STATUS, 1, 12⟩
def Fld.WARD_STATUS_TAMPER_COUNT : Fld := ⟨Reg.WARD_STATUS, 13, 8⟩
def Fld.WARD_STATUS_REFUSED : Fld := ⟨Reg.WARD_STATUS, 21, 1⟩
def Fld.WARD_CTRL_DORMANT : Fld := ⟨Reg.WARD_CTRL, 0, 1⟩
def Fld.WARD_CTRL_ALERT : Fld := ⟨Reg.WARD_CTRL, 1, 1⟩
def Fld.WARD_CTRL_WAKE_AFTER : Fld := ⟨Reg.WARD_CTRL, 2, 30⟩
def Fld.WARD_TAMPER_EN_EN : Fld := ⟨Reg.WARD_TAMPER_EN, 0, 11⟩
def Fld.WARD_CLR_CTRL_GO : Fld := ⟨Reg.WARD_CLR_CTRL, 0, 1⟩
def Fld.WARD_CLR_CTRL_STATUS : Fld := ⟨Reg.WARD_CLR_CTRL, 1, 2⟩
def Fld.WARD_CLR_CHAL_WORD (w : Nat) : Fld := ⟨Reg.WARD_CLR_CHAL w, 0, 32⟩
def Fld.WARD_CH_CFG_GAIN (c : Nat) : Fld := ⟨Reg.WARD_CH_CFG c, 0, 3⟩
def Fld.WARD_CH_CFG_RATE (c : Nat) : Fld := ⟨Reg.WARD_CH_CFG c, 3, 4⟩
def Fld.WARD_CH_CFG_FIR (c : Nat) : Fld := ⟨Reg.WARD_CH_CFG c, 7, 1⟩
def Fld.WARD_CH_CFG_BURNOUT (c : Nat) : Fld := ⟨Reg.WARD_CH_CFG c, 8, 2⟩
def Fld.WARD_CH_CFG_ENABLE (c : Nat) : Fld := ⟨Reg.WARD_CH_CFG c, 10, 1⟩
def Fld.WARD_RESULT_VALUE (c : Nat) : Fld := ⟨Reg.WARD_RESULT c, 0, 24⟩
def Fld.WARD_RESULT_SETTLE (c : Nat) : Fld := ⟨Reg.WARD_RESULT c, 24, 3⟩
def Fld.WARD_RESULT_VALID (c : Nat) : Fld := ⟨Reg.WARD_RESULT c, 27, 1⟩
def Fld.WARD_RESULT_OPEN (c : Nat) : Fld := ⟨Reg.WARD_RESULT c, 28, 1⟩
def Fld.WARD_RULE_CHANNEL (r : Nat) : Fld := ⟨Reg.WARD_RULE r 0, 0, 8⟩
def Fld.WARD_RULE_ACTION (r : Nat) : Fld := ⟨Reg.WARD_RULE r 0, 8, 3⟩
def Fld.WARD_RULE_BELOW (r : Nat) : Fld := ⟨Reg.WARD_RULE r 0, 11, 1⟩
def Fld.WARD_RULE_COUNT (r : Nat) : Fld := ⟨Reg.WARD_RULE r 0, 12, 8⟩
def Fld.WARD_RULE_OPEN_ACTION (r : Nat) : Fld := ⟨Reg.WARD_RULE r 0, 20, 3⟩
def Fld.WARD_RULE_THRESHOLD (r : Nat) : Fld := ⟨Reg.WARD_RULE r 1, 0, 32⟩
def Fld.WARD_RULE_HYST (r : Nat) : Fld := ⟨Reg.WARD_RULE r 2, 0, 24⟩
def Fld.WARD_CLR_DATA_DATA (w : Nat) : Fld := ⟨Reg.WARD_CLR_DATA w, 0, 32⟩
def Fld.SYS_ID_PART (die : Nat) : Fld := ⟨Reg.SYS_ID die, 0, 16⟩
def Fld.SYS_ID_VENDOR (die : Nat) : Fld := ⟨Reg.SYS_ID die, 16, 16⟩
def Fld.SYS_REV_MINOR (die : Nat) : Fld := ⟨Reg.SYS_REV die, 0, 4⟩
def Fld.SYS_REV_MAJOR (die : Nat) : Fld := ⟨Reg.SYS_REV die, 4, 4⟩
def Fld.SYS_REV_DIE (die : Nat) : Fld := ⟨Reg.SYS_REV die, 8, 1⟩
def Fld.SYS_REV_ROLE (die : Nat) : Fld := ⟨Reg.SYS_REV die, 9, 1⟩
def Fld.SYS_REV_ROM_VER (die : Nat) : Fld := ⟨Reg.SYS_REV die, 16, 8⟩
def Fld.SYS_SERIAL_LO_VALUE (die : Nat) : Fld := ⟨Reg.SYS_SERIAL_LO die, 0, 32⟩
def Fld.SYS_SERIAL_HI_VALUE (die : Nat) : Fld := ⟨Reg.SYS_SERIAL_HI die, 0, 32⟩
def Fld.SYS_FW_SVN (die : Nat) : Fld := ⟨Reg.SYS_FW die, 0, 7⟩
def Fld.SYS_FW_SLOT (die : Nat) : Fld := ⟨Reg.SYS_FW die, 7, 1⟩
def Fld.SYS_FW_BUILD (die : Nat) : Fld := ⟨Reg.SYS_FW die, 8, 24⟩
def Fld.SYS_CAPS_HEDDLE (die : Nat) : Fld := ⟨Reg.SYS_CAPS die, 0, 6⟩
def Fld.SYS_CAPS_SHUTTLE (die : Nat) : Fld := ⟨Reg.SYS_CAPS die, 6, 3⟩
def Fld.SYS_CAPS_BEAM_CH (die : Nat) : Fld := ⟨Reg.SYS_CAPS die, 9, 5⟩
def Fld.SYS_CAPS_CARD (die : Nat) : Fld := ⟨Reg.SYS_CAPS die, 14, 7⟩
def Fld.SYS_CAPS_GCM (die : Nat) : Fld := ⟨Reg.SYS_CAPS die, 21, 4⟩
def Fld.SYS_SCRATCH_VALUE (die : Nat) : Fld := ⟨Reg.SYS_SCRATCH die, 0, 32⟩
def Fld.SYS_EVENT_READY : Fld := ⟨Reg.SYS_EVENT, 0, 1⟩
def Fld.SYS_EVENT_INTERNAL_ERROR : Fld := ⟨Reg.SYS_EVENT, 1, 1⟩
def Fld.SYS_EVENT_BEAM_OVF : Fld := ⟨Reg.SYS_EVENT, 2, 1⟩
def Fld.SYS_EVENT_LEADERLESS_HOLD : Fld := ⟨Reg.SYS_EVENT, 3, 1⟩
def Fld.SYS_EVENT_D2D_LOST : Fld := ⟨Reg.SYS_EVENT, 4, 1⟩
def Fld.SYS_EVENT_WARDEN_ALARM : Fld := ⟨Reg.SYS_EVENT, 5, 1⟩
def Fld.SYS_EVENT_SAFETY_FAULT : Fld := ⟨Reg.SYS_EVENT, 6, 1⟩
def Fld.SYS_EVENT_TAMPER : Fld := ⟨Reg.SYS_EVENT, 7, 1⟩
def Fld.SYS_EVENT_LEDGER : Fld := ⟨Reg.SYS_EVENT, 8, 1⟩
def Fld.SYS_EVENT_EN_EN : Fld := ⟨Reg.SYS_EVENT_EN, 0, 9⟩
def Fld.SYS_EVENT_VEC_VECTOR : Fld := ⟨Reg.SYS_EVENT_VEC, 0, 11⟩
def Fld.SYS_POWER_STATE (die : Nat) : Fld := ⟨Reg.SYS_POWER die, 0, 2⟩
def Fld.SYS_POWER_GATED (die : Nat) : Fld := ⟨Reg.SYS_POWER die, 2, 7⟩
def Fld.SYS_POWER_VCORE (die : Nat) : Fld := ⟨Reg.SYS_POWER die, 9, 11⟩
def Fld.SYS_TEMP_TJ (die : Nat) : Fld := ⟨Reg.SYS_TEMP die, 0, 16⟩
def Fld.SYS_TEMP_TJ_MAX (die : Nat) : Fld := ⟨Reg.SYS_TEMP die, 16, 16⟩
def Fld.SYS_ERR_INTERNAL (die : Nat) : Fld := ⟨Reg.SYS_ERR die, 0, 16⟩
def Fld.SYS_ERR_BAD_ACCESS (die : Nat) : Fld := ⟨Reg.SYS_ERR die, 16, 8⟩
def Fld.SYS_ERR_LOCKED_WRITE (die : Nat) : Fld := ⟨Reg.SYS_ERR die, 24, 8⟩
def Fld.SYS_D2D_LINK_UP (die : Nat) : Fld := ⟨Reg.SYS_D2D die, 0, 1⟩
def Fld.SYS_D2D_LOST (die : Nat) : Fld := ⟨Reg.SYS_D2D die, 1, 1⟩
def Fld.SYS_D2D_FORWARD_ABORT (die : Nat) : Fld := ⟨Reg.SYS_D2D die, 16, 16⟩
def Fld.LOOM_ID_PORT (port : Nat) : Fld := ⟨Reg.LOOM_ID port, 0, 5⟩
def Fld.LOOM_ID_DIE (port : Nat) : Fld := ⟨Reg.LOOM_ID port, 5, 1⟩
def Fld.LOOM_ID_LOCAL (port : Nat) : Fld := ⟨Reg.LOOM_ID port, 6, 4⟩
def Fld.LOOM_STATE_MODE (port : Nat) : Fld := ⟨Reg.LOOM_STATE port, 0, 3⟩
def Fld.LOOM_STATE_IN_GROUP (port : Nat) : Fld := ⟨Reg.LOOM_STATE port, 3, 1⟩
def Fld.LOOM_STATE_GROUP_SLOT (port : Nat) : Fld := ⟨Reg.LOOM_STATE port, 4, 5⟩
def Fld.LOOM_STATE_MEMBER (port : Nat) : Fld := ⟨Reg.LOOM_STATE port, 9, 6⟩
def Fld.LOOM_STATE_MOUNTED (port : Nat) : Fld := ⟨Reg.LOOM_STATE port, 15, 1⟩
def Fld.LOOM_STATE_CAT_DEGRADED (port : Nat) : Fld := ⟨Reg.LOOM_STATE port, 16, 1⟩
def Fld.LOOM_CART_LO_VALUE (port : Nat) : Fld := ⟨Reg.LOOM_CART_LO port, 0, 32⟩
def Fld.LOOM_CART_HI_VALUE (port : Nat) : Fld := ⟨Reg.LOOM_CART_HI port, 0, 32⟩
def Fld.LOOM_WRAP_LWRAP (port : Nat) : Fld := ⟨Reg.LOOM_WRAP port, 0, 16⟩
def Fld.LOOM_WRAP_REVERSE (port : Nat) : Fld := ⟨Reg.LOOM_WRAP port, 16, 1⟩
def Fld.LOOM_WRAP_BAND (port : Nat) : Fld := ⟨Reg.LOOM_WRAP port, 17, 3⟩
def Fld.LOOM_WRAP_EDGE (port : Nat) : Fld := ⟨Reg.LOOM_WRAP port, 20, 1⟩
def Fld.LOOM_CORE_RESTARTS (port : Nat) : Fld := ⟨Reg.LOOM_CORE port, 0, 16⟩
def Fld.HQI_PORT_STATUS_LINK_UP (die : Nat) : Fld := ⟨Reg.HQI_PORT_STATUS die, 0, 1⟩
def Fld.HQI_PORT_STATUS_SPEED (die : Nat) : Fld := ⟨Reg.HQI_PORT_STATUS die, 1, 3⟩
def Fld.HQI_PORT_STATUS_WIDTH (die : Nat) : Fld := ⟨Reg.HQI_PORT_STATUS die, 4, 5⟩
def Fld.HQI_PORT_STATUS_FLIT (die : Nat) : Fld := ⟨Reg.HQI_PORT_STATUS die, 9, 1⟩
def Fld.HQI_PORT_STATUS_WINDOW (die : Nat) : Fld := ⟨Reg.HQI_PORT_STATUS die, 10, 6⟩
def Fld.HQI_PORT_STATUS_SECOND (die : Nat) : Fld := ⟨Reg.HQI_PORT_STATUS die, 16, 16⟩
def Fld.HQI_TENANT_BEAM_USED_COUNT (t : Nat) : Fld := ⟨Reg.HQI_TENANT_BEAM_USED t, 0, 32⟩

/-! ### The directory (R582) -/

/-- The access codes of R10; `rwTune` is "RW under R325", `rwEdge` "RW under R340". -/
inductive Acc where
  | ro | rw | rwl | w1c | wo | rc | rwTune | rwEdge
  deriving DecidableEq, Repr

/-- Which die's window, and which replication, a register has (R565, R566). -/
inductive Where where
  | n | both | slice | fn
  deriving DecidableEq, Repr

/-- The registers whose RO fields report state that has its home elsewhere in `Block`. -/
inductive View where
  | plain
  | fnInfo
  | fnQpCount
  | qpStatus
  | qpSqHead
  | hqiTenantStatus
  | bobObjTable
  | bobObjHeld
  | bobStreams
  | bobStatus
  | cardEngStatus
  | ciphPipeLock
  | ciphNonceNextLo
  | ciphNonceNextHi
  | ciphSlotStatus
  | vfyState
  | weaveGroupId
  | weaveGroupStatus
  | weaveWeftNextLo
  | weaveWeftNextHi
  | weaveWeftDoneLo
  | weaveWeftDoneHi
  | weaveDefer
  | weaveMember
  | weaveConsStatus
  | beamFreeLo
  | beamFreeHi
  | timeNowLo
  | timeNowHi
  | ledgStatus
  | bootSvn
  | bootPcr
  | wardClrChal
  | sysId
  | sysRev
  | sysSerialLo
  | sysSerialHi
  | sysCaps
  | loomId
  | loomCartLo
  | loomCartHi
  | hqiTenantBeamUsed
  | ciphDrbgStatus
  | weaveSmStatus
  | weaveSmDemand
  | fmtSeqStatus
  | rdchLockA
  | rdchLockB
  | cleLoopCfg
  | weaveRebuild
  | ledgWear
  | loomState
  | loomWrap
  | sysPower
  | hqiPortStatus
  deriving DecidableEq, Repr

/-- One field: lowest bit, width, access, reset value by instance index, and the encodings that are not reserved. -/
structure RegField where
  lo : Nat
  width : Nat
  acc : Acc
  rst : List Nat → Nat
  ok : Nat → Bool

/-- One register: its die, its offset in the window (or slice, or function page), its replication as (count, stride)
pairs, whether it reports other state, and its fields. Bits in no field are reserved (R10). -/
structure RegDesc where
  place : Where
  base : Nat
  dims : List (Nat × Nat)
  view : View
  fields : List RegField

/-- The function page (R43) registers. -/
def regDescsFN : List RegDesc := [
  -- FN_INFO
  ⟨.fn, 0x0, [], .fnInfo, [⟨0, 8, .ro, fun _ => 0, fun _ => true⟩, ⟨8, 8, .ro, fun _ => 0, fun _ => true⟩, ⟨16, 1, .ro, fun _ => 0, fun _ => true⟩, ⟨17, 1, .ro, fun _ => 0, fun _ => true⟩]⟩,
  -- FN_QP_COUNT
  ⟨.fn, 0x4, [], .fnQpCount, [⟨0, 11, .ro, fun _ => 4, fun _ => true⟩]⟩,
  -- QP_SQ_BASE_LO
  ⟨.fn, 0x2000, [(1024, 0x20)], .plain, [⟨12, 20, .rw, fun _ => 0, fun _ => true⟩]⟩,
  -- QP_SQ_BASE_HI
  ⟨.fn, 0x2004, [(1024, 0x20)], .plain, [⟨0, 32, .rw, fun _ => 0, fun _ => true⟩]⟩,
  -- QP_CQ_BASE_LO
  ⟨.fn, 0x2008, [(1024, 0x20)], .plain, [⟨12, 20, .rw, fun _ => 0, fun _ => true⟩]⟩,
  -- QP_CQ_BASE_HI
  ⟨.fn, 0x200c, [(1024, 0x20)], .plain, [⟨0, 32, .rw, fun _ => 0, fun _ => true⟩]⟩,
  -- QP_CTRL
  ⟨.fn, 0x2010, [(1024, 0x20)], .plain, [⟨0, 1, .rw, fun _ => 0, fun _ => true⟩, ⟨1, 4, .rw, fun _ => 4, fun v => 4 ≤ v && v ≤ 12⟩, ⟨5, 1, .rw, fun _ => 0, fun _ => true⟩, ⟨6, 11, .rw, fun _ => 0, fun _ => true⟩, ⟨17, 8, .rw, fun _ => 0, fun _ => true⟩, ⟨25, 7, .rw, fun _ => 0, fun _ => true⟩]⟩,
  -- QP_STATUS
  ⟨.fn, 0x2014, [(1024, 0x20)], .qpStatus, [⟨0, 1, .ro, fun _ => 0, fun _ => true⟩, ⟨1, 1, .ro, fun _ => 1, fun _ => true⟩, ⟨2, 1, .w1c, fun _ => 0, fun _ => true⟩, ⟨3, 1, .w1c, fun _ => 0, fun _ => true⟩]⟩,
  -- QP_SQ_HEAD
  ⟨.fn, 0x2018, [(1024, 0x20)], .qpSqHead, [⟨0, 12, .ro, fun _ => 0, fun _ => true⟩]⟩,
  -- QP_SQ_TAIL_DB
  ⟨.fn, 0xc000, [(1024, 0x8)], .plain, [⟨0, 12, .wo, fun _ => 0, fun _ => true⟩]⟩,
  -- QP_CQ_HEAD_DB
  ⟨.fn, 0xc004, [(1024, 0x8)], .plain, [⟨0, 12, .wo, fun _ => 0, fun _ => true⟩]⟩]

/-- The HQI_ registers. -/
def regDescsHQI : List RegDesc := [
  -- HQI_HOLD
  ⟨.n, 0x130000, [], .plain, [⟨0, 16, .rw, fun _ => 0xfa, fun v => 1 ≤ v⟩, ⟨16, 16, .rw, fun _ => 0x3e8, fun v => 1 ≤ v⟩]⟩,
  -- HQI_TENANT_WEIGHT
  ⟨.n, 0x110000, [(256, 0x20)], .plain, [⟨0, 16, .rw, fun _ => 0x100, fun _ => true⟩]⟩,
  -- HQI_FN_MAP
  ⟨.n, 0x120000, [(256, 0x4)], .plain, [⟨0, 8, .rw, fun ix => ix.getD 0 0, fun _ => true⟩, ⟨16, 11, .rw, fun _ => 4, fun v => v ≤ 1024⟩]⟩,
  -- HQI_TENANT_FORCE
  ⟨.n, 0x110004, [(256, 0x20)], .plain, [⟨0, 16, .rw, fun _ => 0x64, fun _ => true⟩, ⟨16, 10, .rw, fun _ => 0x10, fun v => 1 ≤ v⟩]⟩,
  -- HQI_TENANT_BEAM_QUOTA
  ⟨.n, 0x110008, [(256, 0x20)], .plain, [⟨0, 16, .rw, fun _ => 0, fun _ => true⟩]⟩,
  -- HQI_TENANT_STATUS
  ⟨.n, 0x11000c, [(256, 0x20)], .hqiTenantStatus, [⟨0, 1, .ro, fun _ => 0, fun _ => true⟩, ⟨1, 1, .ro, fun _ => 0, fun _ => true⟩, ⟨16, 16, .rc, fun _ => 0, fun _ => true⟩]⟩,
  -- HQI_PORT_STATUS
  ⟨.both, 0x140000, [], .hqiPortStatus, [⟨0, 1, .ro, fun _ => 0, fun _ => true⟩, ⟨1, 3, .ro, fun _ => 0, fun _ => true⟩, ⟨4, 5, .ro, fun _ => 0, fun _ => true⟩, ⟨9, 1, .ro, fun _ => 0, fun _ => true⟩, ⟨10, 6, .ro, fun _ => 0, fun _ => true⟩, ⟨16, 16, .ro, fun _ => 0, fun _ => true⟩]⟩,
  -- HQI_TENANT_BEAM_USED
  ⟨.n, 0x110010, [(256, 0x20)], .hqiTenantBeamUsed, [⟨0, 32, .ro, fun _ => 0, fun _ => true⟩]⟩]

/-- The BOB_ registers. -/
def regDescsBOB : List RegDesc := [
  -- BOB_OBJ_TABLE
  ⟨.n, 0x200000, [], .bobObjTable, [⟨0, 21, .ro, fun _ => 0, fun _ => true⟩]⟩,
  -- BOB_OBJ_HELD
  ⟨.n, 0x200004, [], .bobObjHeld, [⟨0, 16, .ro, fun _ => 0, fun _ => true⟩, ⟨16, 16, .rc, fun _ => 0, fun _ => true⟩]⟩,
  -- BOB_STREAMS
  ⟨.n, 0x200008, [], .bobStreams, [⟨0, 17, .ro, fun _ => 0, fun _ => true⟩]⟩,
  -- BOB_ERR_COUNT
  ⟨.both, 0x200010, [], .plain, [⟨0, 16, .rc, fun _ => 0, fun _ => true⟩, ⟨16, 16, .rc, fun _ => 0, fun _ => true⟩]⟩,
  -- BOB_DROP_COUNT
  ⟨.both, 0x200014, [], .plain, [⟨0, 12, .rc, fun _ => 0, fun _ => true⟩, ⟨12, 8, .rc, fun _ => 0, fun _ => true⟩, ⟨20, 12, .rc, fun _ => 0, fun _ => true⟩]⟩,
  -- BOB_STATUS
  ⟨.both, 0x201000, [(512, 0x4)], .bobStatus, [⟨0, 11, .ro, fun _ => 0, fun _ => true⟩, ⟨11, 1, .ro, fun _ => 0, fun _ => true⟩, ⟨12, 1, .ro, fun _ => 0, fun _ => true⟩, ⟨13, 1, .ro, fun _ => 0, fun _ => true⟩]⟩]

/-- The CARD_ registers. -/
def regDescsCARD : List RegDesc := [
  -- CARD_ENG_ENABLE
  ⟨.both, 0x300000, [], .plain, [⟨0, 32, .rw, fun _ => 0xffffffff, fun _ => true⟩]⟩,
  -- CARD_ENG_FAILED
  ⟨.both, 0x300004, [], .plain, [⟨0, 32, .ro, fun _ => 0, fun _ => true⟩]⟩,
  -- CARD_NOT_SHRUNK
  ⟨.both, 0x300008, [], .plain, [⟨0, 32, .rc, fun _ => 0, fun _ => true⟩]⟩,
  -- CARD_CMP_MISMATCH
  ⟨.both, 0x30000c, [], .plain, [⟨0, 16, .rc, fun _ => 0, fun _ => true⟩, ⟨16, 16, .rc, fun _ => 0, fun _ => true⟩]⟩,
  -- CARD_SWITCHES
  ⟨.both, 0x300010, [], .plain, [⟨0, 32, .rc, fun _ => 0, fun _ => true⟩]⟩,
  -- CARD_RESTORE_ERR
  ⟨.both, 0x300014, [], .plain, [⟨0, 16, .rc, fun _ => 0, fun _ => true⟩, ⟨16, 16, .rc, fun _ => 0, fun _ => true⟩]⟩,
  -- CARD_ENG_STATUS
  ⟨.both, 0x300100, [(32, 0x4)], .cardEngStatus, [⟨0, 2, .ro, fun _ => 0, fun _ => true⟩, ⟨2, 1, .ro, fun _ => 0, fun _ => true⟩, ⟨3, 4, .ro, fun _ => 0, fun _ => true⟩, ⟨7, 16, .ro, fun _ => 0, fun _ => true⟩]⟩]

/-- The CIPH_ registers. -/
def regDescsCIPH : List RegDesc := [
  -- CIPH_PIPE_LOCK
  ⟨.both, 0x400000, [(4, 0x4)], .ciphPipeLock, [⟨0, 3, .ro, fun _ => 0, fun _ => true⟩, ⟨3, 3, .ro, fun _ => 0, fun _ => true⟩, ⟨6, 12, .ro, fun _ => 0, fun _ => true⟩]⟩,
  -- CIPH_PIPE_ENABLE
  ⟨.both, 0x400010, [], .plain, [⟨0, 4, .rw, fun _ => 0xf, fun _ => true⟩]⟩,
  -- CIPH_NONCE_PREFIX
  ⟨.n, 0x400020, [], .plain, [⟨0, 32, .rwl, fun _ => 0, fun _ => true⟩]⟩,
  -- CIPH_NONCE_NEXT_LO
  ⟨.n, 0x400024, [], .ciphNonceNextLo, [⟨0, 32, .ro, fun _ => 0, fun _ => true⟩]⟩,
  -- CIPH_NONCE_NEXT_HI
  ⟨.n, 0x400028, [], .ciphNonceNextHi, [⟨0, 32, .ro, fun _ => 0, fun _ => true⟩]⟩,
  -- CIPH_NONCE_STATUS
  ⟨.n, 0x40002c, [], .plain, [⟨0, 1, .ro, fun _ => 0, fun _ => true⟩, ⟨1, 1, .ro, fun _ => 0, fun _ => true⟩, ⟨2, 1, .ro, fun _ => 0, fun _ => true⟩]⟩,
  -- CIPH_ALARM_MASK
  ⟨.n, 0x400034, [], .plain, [⟨0, 1, .rwl, fun _ => 1, fun _ => true⟩, ⟨1, 1, .rwl, fun _ => 1, fun _ => true⟩, ⟨2, 1, .rwl, fun _ => 0, fun _ => true⟩]⟩,
  -- CIPH_ERASE_STATUS
  ⟨.both, 0x400038, [], .plain, [⟨0, 1, .w1c, fun _ => 0, fun _ => true⟩, ⟨1, 1, .ro, fun _ => 0, fun _ => true⟩, ⟨16, 12, .ro, fun _ => 0, fun _ => true⟩]⟩,
  -- CIPH_DRBG_STATUS
  ⟨.n, 0x400040, [], .ciphDrbgStatus, [⟨0, 2, .ro, fun _ => 0, fun _ => true⟩, ⟨8, 8, .ro, fun _ => 0, fun _ => true⟩, ⟨16, 16, .rc, fun _ => 0, fun _ => true⟩]⟩,
  -- CIPH_ERR_COUNT
  ⟨.n, 0x400044, [], .plain, [⟨0, 16, .rc, fun _ => 0, fun _ => true⟩, ⟨16, 16, .rc, fun _ => 0, fun _ => true⟩]⟩,
  -- CIPH_TENANT_SLOTS
  ⟨.n, 0x401000, [(256, 0x4)], .plain, [⟨0, 12, .rw, fun _ => 0, fun _ => true⟩, ⟨12, 13, .rw, fun ix => if ix.getD 0 0 = 0 then 4096 else 0, fun _ => true⟩]⟩,
  -- CIPH_SLOT_STATUS
  ⟨.n, 0x402000, [(4096, 0x4)], .ciphSlotStatus, [⟨0, 1, .ro, fun _ => 0, fun _ => true⟩, ⟨1, 8, .ro, fun _ => 0, fun _ => true⟩, ⟨9, 17, .ro, fun _ => 0, fun _ => true⟩]⟩]

/-- The WEAVE_ registers. -/
def regDescsWEAVE : List RegDesc := [
  -- WEAVE_SPEED_STEP
  ⟨.n, 0x508000, [(16, 0x4)], .plain, [⟨0, 14, .rwl, fun ix => 2000 + 500 * ix.getD 0 0, fun v => 2000 ≤ v && v ≤ 10000⟩]⟩,
  -- WEAVE_SM_CTRL
  ⟨.n, 0x508100, [(32, 0x10)], .plain, [⟨0, 8, .rw, fun _ => 0x10, fun v => 1 ≤ v⟩, ⟨8, 8, .rw, fun _ => 4, fun v => 1 ≤ v⟩, ⟨16, 8, .rw, fun _ => 0xa, fun v => 1 ≤ v⟩, ⟨24, 4, .rw, fun _ => 0, fun _ => true⟩, ⟨28, 4, .rw, fun _ => 0xf, fun _ => true⟩]⟩,
  -- WEAVE_SM_RAMP
  ⟨.n, 0x508104, [(32, 0x10)], .plain, [⟨0, 6, .rw, fun _ => 0x14, fun v => 8 ≤ v && v ≤ 40⟩]⟩,
  -- WEAVE_SM_STATUS
  ⟨.n, 0x508108, [(32, 0x10)], .weaveSmStatus, [⟨0, 4, .ro, fun _ => 0, fun _ => true⟩, ⟨4, 1, .ro, fun _ => 0, fun _ => true⟩, ⟨5, 3, .ro, fun _ => 0, fun _ => true⟩, ⟨8, 4, .ro, fun _ => 0, fun _ => true⟩]⟩,
  -- WEAVE_SM_DEMAND
  ⟨.n, 0x50810c, [(32, 0x10)], .weaveSmDemand, [⟨0, 16, .ro, fun _ => 0, fun _ => true⟩, ⟨16, 16, .ro, fun _ => 0, fun _ => true⟩]⟩,
  -- WEAVE_GROUP_ID
  ⟨.n, 0x500000, [(32, 0x40)], .weaveGroupId, [⟨0, 16, .ro, fun _ => 0, fun _ => true⟩, ⟨16, 6, .ro, fun _ => 0, fun _ => true⟩, ⟨22, 3, .ro, fun _ => 0, fun _ => true⟩, ⟨31, 1, .ro, fun _ => 0, fun _ => true⟩]⟩,
  -- WEAVE_GROUP_CFG
  ⟨.n, 0x500004, [(32, 0x40)], .plain, [⟨0, 7, .rwl, fun _ => 0, fun _ => true⟩, ⟨8, 3, .rw, fun _ => 0, fun _ => true⟩, ⟨12, 8, .rw, fun _ => 0, fun v => 1 ≤ v⟩]⟩,
  -- WEAVE_GROUP_TIMING
  ⟨.n, 0x500008, [(32, 0x40)], .plain, [⟨0, 14, .rwl, fun _ => 0, fun v => 250 ≤ v && v ≤ 10000⟩, ⟨16, 16, .rw, fun _ => 0, fun _ => true⟩]⟩,
  -- WEAVE_GROUP_STATUS
  ⟨.n, 0x50000c, [(32, 0x40)], .weaveGroupStatus, [⟨0, 3, .ro, fun _ => 0, fun _ => true⟩, ⟨3, 1, .ro, fun _ => 0, fun _ => true⟩, ⟨4, 7, .ro, fun _ => 0, fun _ => true⟩, ⟨11, 8, .ro, fun _ => 0, fun _ => true⟩]⟩,
  -- WEAVE_WEFT_NEXT_LO
  ⟨.n, 0x500010, [(32, 0x40)], .weaveWeftNextLo, [⟨0, 32, .ro, fun _ => 0, fun _ => true⟩]⟩,
  -- WEAVE_WEFT_NEXT_HI
  ⟨.n, 0x500014, [(32, 0x40)], .weaveWeftNextHi, [⟨0, 32, .ro, fun _ => 0, fun _ => true⟩]⟩,
  -- WEAVE_WEFT_DONE_LO
  ⟨.n, 0x500018, [(32, 0x40)], .weaveWeftDoneLo, [⟨0, 32, .ro, fun _ => 0, fun _ => true⟩]⟩,
  -- WEAVE_WEFT_DONE_HI
  ⟨.n, 0x50001c, [(32, 0x40)], .weaveWeftDoneHi, [⟨0, 32, .ro, fun _ => 0, fun _ => true⟩]⟩,
  -- WEAVE_WEFT_EVENTS
  ⟨.n, 0x500020, [(32, 0x40)], .plain, [⟨0, 16, .rc, fun _ => 0, fun _ => true⟩, ⟨16, 16, .rc, fun _ => 0, fun _ => true⟩]⟩,
  -- WEAVE_DEFER
  ⟨.n, 0x500024, [(32, 0x40)], .weaveDefer, [⟨0, 16, .ro, fun _ => 0, fun _ => true⟩, ⟨16, 16, .ro, fun _ => 0, fun _ => true⟩]⟩,
  -- WEAVE_MEMBER
  ⟨.n, 0x501000, [(32, 0x100), (64, 0x4)], .weaveMember, [⟨0, 16, .ro, fun _ => 0, fun _ => true⟩, ⟨16, 5, .ro, fun _ => 0, fun _ => true⟩, ⟨21, 3, .ro, fun _ => 0, fun _ => true⟩, ⟨24, 8, .ro, fun _ => 0, fun _ => true⟩]⟩,
  -- WEAVE_MEMBER_CTRL
  ⟨.n, 0x503000, [(32, 0x100), (64, 0x4)], .plain, [⟨0, 1, .wo, fun _ => 0, fun _ => true⟩, ⟨1, 1, .wo, fun _ => 0, fun _ => true⟩]⟩,
  -- WEAVE_REBUILD
  ⟨.n, 0x506000, [(32, 0x4)], .weaveRebuild, [⟨0, 16, .ro, fun _ => 0, fun _ => true⟩, ⟨16, 1, .ro, fun _ => 0, fun _ => true⟩]⟩,
  -- WEAVE_CAT_CTRL
  ⟨.n, 0x507000, [], .plain, [⟨0, 16, .rw, fun _ => 0xe10, fun v => 1 ≤ v⟩]⟩,
  -- WEAVE_RECOVERY
  ⟨.n, 0x507004, [], .plain, [⟨0, 16, .ro, fun _ => 0, fun _ => true⟩, ⟨16, 8, .ro, fun _ => 0, fun _ => true⟩]⟩,
  -- WEAVE_CONS_STATUS
  ⟨.n, 0x507008, [], .weaveConsStatus, [⟨0, 16, .ro, fun _ => 0, fun _ => true⟩, ⟨16, 1, .ro, fun _ => 0, fun _ => true⟩, ⟨17, 1, .ro, fun _ => 0, fun _ => true⟩]⟩]

/-- The FMT_ registers. -/
def regDescsFMT : List RegDesc := [
  -- FMT_SEQ_STATUS
  ⟨.slice, 0x40000, [], .fmtSeqStatus, [⟨0, 8, .ro, fun _ => 0, fun _ => true⟩]⟩,
  -- FMT_LATE
  ⟨.slice, 0x40004, [], .plain, [⟨0, 16, .rc, fun _ => 0, fun _ => true⟩, ⟨16, 16, .rc, fun _ => 0, fun _ => true⟩]⟩,
  -- FMT_REGEN
  ⟨.slice, 0x40008, [], .plain, [⟨0, 32, .rc, fun _ => 0, fun _ => true⟩]⟩]

/-- The HDL_ registers. -/
def regDescsHDL : List RegDesc := [
  -- HDL_CTRL
  ⟨.slice, 0x10000, [], .plain, [⟨0, 1, .rw, fun _ => 0, fun _ => true⟩, ⟨1, 1, .wo, fun _ => 0, fun _ => true⟩, ⟨4, 4, .rw, fun _ => 3, fun v => 1 ≤ v⟩, ⟨8, 8, .rw, fun _ => 8, fun v => 1 ≤ v⟩]⟩,
  -- HDL_STATUS
  ⟨.slice, 0x10004, [], .plain, [⟨0, 3, .ro, fun _ => 0, fun _ => true⟩, ⟨3, 4, .ro, fun _ => 0, fun _ => true⟩, ⟨7, 4, .ro, fun _ => 0, fun _ => true⟩, ⟨11, 2, .ro, fun _ => 0, fun _ => true⟩, ⟨13, 2, .ro, fun _ => 0, fun _ => true⟩, ⟨15, 1, .ro, fun _ => 0, fun _ => true⟩, ⟨16, 8, .ro, fun _ => 0, fun _ => true⟩]⟩,
  -- HDL_FEC_UNCORR
  ⟨.slice, 0x10008, [], .plain, [⟨0, 32, .rc, fun _ => 0, fun _ => true⟩]⟩,
  -- HDL_FEC_CORR_LO
  ⟨.slice, 0x1000c, [], .plain, [⟨0, 32, .ro, fun _ => 0, fun _ => true⟩]⟩,
  -- HDL_FEC_CORR_HI
  ⟨.slice, 0x10010, [], .plain, [⟨0, 32, .ro, fun _ => 0, fun _ => true⟩]⟩,
  -- HDL_CELL_ERR
  ⟨.slice, 0x10014, [], .plain, [⟨0, 16, .rc, fun _ => 0, fun _ => true⟩, ⟨16, 16, .rc, fun _ => 0, fun _ => true⟩]⟩,
  -- HDL_TIME
  ⟨.slice, 0x10018, [], .plain, [⟨0, 16, .ro, fun _ => 0, fun _ => true⟩, ⟨16, 16, .ro, fun _ => 0, fun _ => true⟩]⟩,
  -- HDL_XPORT
  ⟨.slice, 0x1001c, [], .plain, [⟨0, 2, .ro, fun _ => 0, fun _ => true⟩, ⟨2, 1, .ro, fun _ => 0, fun _ => true⟩, ⟨3, 1, .ro, fun _ => 0, fun _ => true⟩, ⟨16, 16, .ro, fun _ => 0, fun _ => true⟩]⟩,
  -- HDL_SERIAL_LO
  ⟨.slice, 0x10020, [], .plain, [⟨0, 32, .ro, fun _ => 0, fun _ => true⟩]⟩,
  -- HDL_SERIAL_HI
  ⟨.slice, 0x10024, [], .plain, [⟨0, 32, .ro, fun _ => 0, fun _ => true⟩]⟩]

/-- The RDCH_ registers. -/
def regDescsRDCH : List RegDesc := [
  -- RDCH_CTRL
  ⟨.slice, 0x20000, [], .plain, [⟨0, 1, .rw, fun _ => 1, fun _ => true⟩, ⟨1, 1, .rw, fun _ => 1, fun _ => true⟩, ⟨2, 1, .rw, fun _ => 1, fun _ => true⟩, ⟨3, 1, .rw, fun _ => 1, fun _ => true⟩, ⟨4, 2, .rw, fun _ => 0, fun _ => true⟩, ⟨6, 8, .rw, fun _ => 0, fun _ => true⟩, ⟨14, 4, .rw, fun _ => 0xc, fun _ => true⟩]⟩,
  -- RDCH_LOOP
  ⟨.slice, 0x20004, [], .plain, [⟨0, 4, .rw, fun _ => 3, fun v => 1 ≤ v⟩, ⟨4, 4, .rw, fun _ => 8, fun v => 1 ≤ v⟩, ⟨8, 4, .rw, fun _ => 6, fun v => 1 ≤ v⟩, ⟨12, 4, .rw, fun _ => 0xd, fun v => 1 ≤ v⟩, ⟨16, 4, .rw, fun _ => 0xc, fun v => 1 ≤ v⟩, ⟨20, 4, .rw, fun _ => 0xa, fun v => 1 ≤ v⟩, ⟨24, 4, .rw, fun _ => 9, fun v => 4 ≤ v⟩]⟩,
  -- RDCH_ITER
  ⟨.slice, 0x20008, [], .plain, [⟨0, 4, .rw, fun _ => 6, fun v => 1 ≤ v⟩, ⟨4, 4, .rw, fun _ => 4, fun _ => true⟩, ⟨8, 4, .rw, fun _ => 2, fun _ => true⟩]⟩,
  -- RDCH_STATE
  ⟨.slice, 0x2000c, [], .plain, [⟨0, 2, .ro, fun _ => 0, fun _ => true⟩, ⟨2, 5, .ro, fun _ => 0, fun _ => true⟩, ⟨7, 1, .ro, fun _ => 0, fun _ => true⟩, ⟨8, 1, .ro, fun _ => 0, fun _ => true⟩, ⟨9, 2, .ro, fun _ => 0, fun _ => true⟩, ⟨11, 1, .ro, fun _ => 0, fun _ => true⟩]⟩,
  -- RDCH_LOCK_A
  ⟨.slice, 0x20010, [], .rdchLockA, [⟨0, 32, .ro, fun _ => 0, fun _ => true⟩]⟩,
  -- RDCH_LOCK_B
  ⟨.slice, 0x20014, [], .rdchLockB, [⟨0, 32, .ro, fun _ => 0, fun _ => true⟩]⟩,
  -- RDCH_GAIN
  ⟨.slice, 0x20018, [], .plain, [⟨0, 6, .ro, fun _ => 0, fun _ => true⟩, ⟨8, 6, .ro, fun _ => 0, fun _ => true⟩, ⟨16, 16, .rc, fun _ => 0, fun _ => true⟩]⟩,
  -- RDCH_SLOTS_LO
  ⟨.slice, 0x20020, [], .plain, [⟨0, 32, .ro, fun _ => 0, fun _ => true⟩]⟩,
  -- RDCH_SLOTS_HI
  ⟨.slice, 0x20024, [], .plain, [⟨0, 32, .ro, fun _ => 0, fun _ => true⟩]⟩,
  -- RDCH_FAIL
  ⟨.slice, 0x20028, [], .plain, [⟨0, 16, .rc, fun _ => 0, fun _ => true⟩, ⟨16, 16, .rc, fun _ => 0, fun _ => true⟩]⟩,
  -- RDCH_TRUNC
  ⟨.slice, 0x2002c, [], .plain, [⟨0, 16, .rc, fun _ => 0, fun _ => true⟩, ⟨16, 16, .rc, fun _ => 0, fun _ => true⟩]⟩,
  -- RDCH_INVALID
  ⟨.slice, 0x20030, [], .plain, [⟨0, 24, .rc, fun _ => 0, fun _ => true⟩, ⟨24, 8, .rc, fun _ => 0, fun _ => true⟩]⟩,
  -- RDCH_TARGET
  ⟨.slice, 0x20040, [(4, 0x4)], .plain, [⟨0, 8, .rw, fun _ => 0x40, fun _ => true⟩, ⟨8, 8, .rw, fun _ => 0, fun _ => true⟩, ⟨16, 8, .rw, fun _ => 0xc0, fun _ => true⟩]⟩,
  -- RDCH_READER
  ⟨.slice, 0x20080, [(64, 0x4)], .plain, [⟨0, 12, .ro, fun _ => 0x400, fun _ => true⟩, ⟨12, 1, .ro, fun _ => 0, fun _ => true⟩, ⟨13, 1, .ro, fun _ => 0, fun _ => true⟩, ⟨14, 1, .w1c, fun _ => 0, fun _ => true⟩, ⟨16, 16, .ro, fun _ => 0, fun _ => true⟩]⟩,
  -- RDCH_COEF
  ⟨.slice, 0x21000, [(64, 0x100), (4, 0x40), (16, 0x4)], .plain, [⟨0, 12, .rw, fun ix => if ix.getD 3 0 = 7 then 0x400 else 0, fun _ => true⟩]⟩,
  -- RDCH_NPRED
  ⟨.slice, 0x25000, [(64, 0x10), (4, 0x4)], .plain, [⟨0, 8, .rw, fun _ => 0, fun _ => true⟩, ⟨8, 8, .rw, fun _ => 0, fun _ => true⟩]⟩]

/-- The VFY_ registers. -/
def regDescsVFY : List RegDesc := [
  -- VFY_CTRL
  ⟨.slice, 0x30000, [], .plain, [⟨0, 15, .rw, fun _ => 0x15c, fun v => 1 ≤ v && v ≤ 17408⟩, ⟨16, 4, .rw, fun _ => 3, fun v => 1 ≤ v⟩, ⟨20, 2, .rw, fun _ => 2, fun _ => true⟩, ⟨22, 1, .wo, fun _ => 0, fun _ => true⟩, ⟨23, 1, .wo, fun _ => 0, fun _ => true⟩]⟩,
  -- VFY_DEAD_A
  ⟨.slice, 0x30004, [], .plain, [⟨0, 32, .ro, fun _ => 0, fun _ => true⟩]⟩,
  -- VFY_DEAD_B
  ⟨.slice, 0x30008, [], .plain, [⟨0, 32, .ro, fun _ => 0, fun _ => true⟩]⟩,
  -- VFY_STATE
  ⟨.slice, 0x3000c, [], .vfyState, [⟨0, 2, .ro, fun _ => 0, fun _ => true⟩, ⟨8, 8, .ro, fun _ => 0, fun _ => true⟩, ⟨16, 8, .ro, fun _ => 0, fun _ => true⟩]⟩,
  -- VFY_WEAK
  ⟨.slice, 0x30010, [], .plain, [⟨0, 16, .rc, fun _ => 0, fun _ => true⟩, ⟨16, 16, .rc, fun _ => 0, fun _ => true⟩]⟩,
  -- VFY_REWRITE
  ⟨.slice, 0x30014, [], .plain, [⟨0, 32, .rc, fun _ => 0, fun _ => true⟩]⟩,
  -- VFY_RELOC
  ⟨.slice, 0x30018, [], .plain, [⟨0, 16, .rc, fun _ => 0, fun _ => true⟩, ⟨16, 16, .rc, fun _ => 0, fun _ => true⟩]⟩,
  -- VFY_RESIDUAL
  ⟨.slice, 0x3001c, [], .plain, [⟨0, 16, .rc, fun _ => 0, fun _ => true⟩, ⟨16, 16, .rc, fun _ => 0, fun _ => true⟩]⟩,
  -- VFY_CW_LO
  ⟨.slice, 0x30020, [], .plain, [⟨0, 32, .ro, fun _ => 0, fun _ => true⟩]⟩,
  -- VFY_CW_HI
  ⟨.slice, 0x30024, [], .plain, [⟨0, 32, .ro, fun _ => 0, fun _ => true⟩]⟩]

/-- The CLE_ registers. -/
def regDescsCLE : List RegDesc := [
  -- CLE_MODE
  ⟨.slice, 0x50000, [], .plain, [⟨0, 12, .ro, fun _ => 0xaaa, fun _ => true⟩]⟩,
  -- CLE_TRACK_CFG
  ⟨.slice, 0x50004, [], .plain, [⟨0, 12, .rw, fun _ => 0x64, fun v => 1 ≤ v⟩, ⟨12, 12, .rw, fun _ => 0x28, fun v => 1 ≤ v⟩, ⟨24, 1, .rwl, fun _ => 0, fun _ => true⟩, ⟨25, 4, .rw, fun _ => 0xa, fun v => 1 ≤ v⟩]⟩,
  -- CLE_TRACK_BANKMAP
  ⟨.slice, 0x50008, [], .plain, [⟨0, 32, .rw, fun _ => 0, fun _ => true⟩]⟩,
  -- CLE_TRACK_STATUS
  ⟨.slice, 0x5000c, [], .plain, [⟨0, 16, .ro, fun _ => 0, fun _ => true⟩, ⟨16, 4, .ro, fun _ => 0, fun _ => true⟩, ⟨20, 1, .ro, fun _ => 0, fun _ => true⟩, ⟨21, 1, .ro, fun _ => 0, fun _ => true⟩, ⟨22, 2, .ro, fun _ => 0, fun _ => true⟩]⟩,
  -- CLE_LPOS
  ⟨.slice, 0x50010, [], .plain, [⟨0, 26, .ro, fun _ => 0, fun _ => true⟩, ⟨26, 1, .ro, fun _ => 0, fun _ => true⟩, ⟨27, 1, .w1c, fun _ => 0, fun _ => true⟩, ⟨28, 4, .ro, fun _ => 0, fun _ => true⟩]⟩,
  -- CLE_RADIUS
  ⟨.slice, 0x50014, [], .plain, [⟨0, 16, .ro, fun _ => 0, fun _ => true⟩, ⟨16, 16, .ro, fun _ => 0, fun _ => true⟩]⟩,
  -- CLE_RADIUS_RANGE
  ⟨.slice, 0x50018, [], .plain, [⟨0, 16, .rwl, fun _ => 0x2710, fun _ => true⟩, ⟨16, 16, .rwl, fun _ => 0xc350, fun _ => true⟩]⟩,
  -- CLE_TENSION_SET
  ⟨.slice, 0x5001c, [], .plain, [⟨0, 16, .rw, fun _ => 0, fun _ => true⟩]⟩,
  -- CLE_COARSE_ORIGIN
  ⟨.slice, 0x50020, [], .plain, [⟨0, 32, .rwl, fun _ => 0, fun _ => true⟩]⟩,
  -- CLE_BAND_PITCH
  ⟨.slice, 0x50024, [], .plain, [⟨0, 32, .rwl, fun _ => 0, fun _ => true⟩]⟩,
  -- CLE_TIMING
  ⟨.slice, 0x50028, [], .plain, [⟨0, 8, .rc, fun _ => 0, fun _ => true⟩, ⟨8, 8, .rc, fun _ => 0, fun _ => true⟩, ⟨16, 16, .rc, fun _ => 0, fun _ => true⟩]⟩,
  -- CLE_INHIBIT
  ⟨.slice, 0x5002c, [], .plain, [⟨0, 8, .rc, fun _ => 0, fun _ => true⟩, ⟨8, 8, .rc, fun _ => 0, fun _ => true⟩, ⟨16, 8, .rc, fun _ => 0, fun _ => true⟩, ⟨24, 8, .rc, fun _ => 0, fun _ => true⟩]⟩,
  -- CLE_LOOP_CFG
  ⟨.slice, 0x50040, [(6, 0x10)], .cleLoopCfg, [⟨0, 5, .rwTune, fun _ => 0, fun v => v ≤ 16⟩, ⟨5, 1, .ro, fun _ => 0, fun _ => true⟩, ⟨16, 16, .rw, fun _ => 0x40, fun v => 1 ≤ v⟩]⟩,
  -- CLE_LOOP_LIMIT
  ⟨.slice, 0x50044, [(6, 0x10)], .plain, [⟨0, 16, .rw, fun _ => 0x8000, fun _ => true⟩, ⟨16, 16, .rw, fun _ => 0x7fff, fun _ => true⟩]⟩,
  -- CLE_LOOP_MAN
  ⟨.slice, 0x50048, [(6, 0x10)], .plain, [⟨0, 16, .rw, fun _ => 0, fun _ => true⟩]⟩,
  -- CLE_LOOP_OUT
  ⟨.slice, 0x5004c, [(6, 0x10)], .plain, [⟨0, 16, .ro, fun _ => 0, fun _ => true⟩, ⟨16, 2, .ro, fun _ => 2, fun _ => true⟩, ⟨18, 1, .ro, fun _ => 0, fun _ => true⟩, ⟨19, 1, .w1c, fun _ => 0, fun _ => true⟩]⟩,
  -- CLE_RC_CTRL
  ⟨.slice, 0x500a0, [(3, 0x8)], .plain, [⟨0, 1, .rw, fun _ => 0, fun _ => true⟩, ⟨1, 1, .rw, fun _ => 1, fun _ => true⟩, ⟨2, 1, .wo, fun _ => 0, fun _ => true⟩, ⟨4, 4, .rw, fun _ => 0xc, fun v => 6 ≤ v && v ≤ 12⟩, ⟨8, 4, .rw, fun _ => 0xa, fun _ => true⟩, ⟨12, 12, .rw, fun _ => 0, fun _ => true⟩]⟩,
  -- CLE_RC_GAIN
  ⟨.slice, 0x500a4, [(3, 0x8)], .plain, [⟨0, 15, .rw, fun _ => 0x148, fun _ => true⟩]⟩,
  -- CLE_GM
  ⟨.slice, 0x50100, [(3, 0x84), (33, 0x4)], .plain, [⟨0, 16, .rwl, fun _ => 0x1000, fun _ => true⟩]⟩,
  -- CLE_SEC word 0
  ⟨.slice, 0x51000, [(6, 0x800), (4, 0x200), (16, 0x20)], .plain, [⟨0, 16, .rwTune, fun _ => 0, fun _ => true⟩, ⟨16, 16, .rwTune, fun _ => 0, fun _ => true⟩]⟩,
  -- CLE_SEC word 1
  ⟨.slice, 0x51004, [(6, 0x800), (4, 0x200), (16, 0x20)], .plain, [⟨0, 16, .rwTune, fun _ => 0, fun _ => true⟩, ⟨16, 16, .rwTune, fun _ => 0, fun _ => true⟩]⟩,
  -- CLE_SEC word 2
  ⟨.slice, 0x51008, [(6, 0x800), (4, 0x200), (16, 0x20)], .plain, [⟨0, 16, .rwTune, fun _ => 0, fun _ => true⟩, ⟨16, 3, .rwTune, fun _ => 0, fun _ => true⟩, ⟨19, 1, .rwTune, fun _ => 0, fun _ => true⟩]⟩,
  -- CLE_SEC word 3
  ⟨.slice, 0x5100c, [(6, 0x800), (4, 0x200), (16, 0x20)], .plain, [⟨0, 16, .rwTune, fun _ => 0x8000, fun _ => true⟩, ⟨16, 16, .rwTune, fun _ => 0x7fff, fun _ => true⟩]⟩,
  -- CLE_SEC word 4
  ⟨.slice, 0x51010, [(6, 0x800), (4, 0x200), (16, 0x20)], .plain, []⟩,
  -- CLE_SEC word 5
  ⟨.slice, 0x51014, [(6, 0x800), (4, 0x200), (16, 0x20)], .plain, []⟩,
  -- CLE_SEC word 6
  ⟨.slice, 0x51018, [(6, 0x800), (4, 0x200), (16, 0x20)], .plain, []⟩,
  -- CLE_SEC word 7
  ⟨.slice, 0x5101c, [(6, 0x800), (4, 0x200), (16, 0x20)], .plain, []⟩,
  -- CLE_RC_TABLE
  ⟨.slice, 0x54000, [(3, 0x4000), (4096, 0x4)], .plain, [⟨0, 16, .rwTune, fun _ => 0, fun _ => true⟩]⟩]

/-- The EDGE_ registers. -/
def regDescsEDGE : List RegDesc := [
  -- EDGE_CARRIER
  ⟨.slice, 0x60000, [], .plain, [⟨0, 17, .rwEdge, fun _ => 0xc350, fun v => 32000 ≤ v && v ≤ 100000⟩]⟩,
  -- EDGE_TIMING
  ⟨.slice, 0x60004, [], .plain, [⟨0, 11, .rwEdge, fun _ => 0x96, fun v => 20 ≤ v && v ≤ 2000⟩, ⟨11, 13, .rwEdge, fun _ => 0xc8, fun v => 40 ≤ v && v ≤ 5000⟩]⟩,
  -- EDGE_CARRY
  ⟨.slice, 0x60008, [], .plain, [⟨0, 16, .rw, fun _ => 0x4e20, fun _ => true⟩]⟩,
  -- EDGE_MAP
  ⟨.slice, 0x6000c, [], .plain, [⟨0, 3, .rwl, fun _ => 0, fun _ => true⟩, ⟨4, 3, .rwl, fun _ => 1, fun _ => true⟩, ⟨8, 3, .rwl, fun _ => 2, fun _ => true⟩, ⟨12, 3, .rwl, fun _ => 3, fun _ => true⟩]⟩,
  -- EDGE_TEST
  ⟨.slice, 0x60010, [], .plain, [⟨0, 3, .wo, fun _ => 0, fun _ => true⟩, ⟨4, 2, .wo, fun _ => 0, fun _ => true⟩, ⟨16, 16, .wo, fun _ => 0, fun _ => true⟩]⟩,
  -- EDGE_COUNT
  ⟨.slice, 0x60014, [], .plain, [⟨0, 16, .rc, fun _ => 0, fun _ => true⟩, ⟨16, 16, .rc, fun _ => 0, fun _ => true⟩]⟩,
  -- EDGE_CONFLICT
  ⟨.slice, 0x60018, [], .plain, [⟨0, 16, .rc, fun _ => 0, fun _ => true⟩, ⟨16, 8, .ro, fun _ => 0, fun _ => true⟩]⟩,
  -- EDGE_TEN_SRC
  ⟨.slice, 0x6001c, [], .plain, [⟨0, 1, .ro, fun _ => 0, fun _ => true⟩, ⟨1, 1, .ro, fun _ => 0, fun _ => true⟩, ⟨2, 1, .ro, fun _ => 0, fun _ => true⟩, ⟨3, 1, .ro, fun _ => 0, fun _ => true⟩, ⟨4, 1, .rw, fun _ => 1, fun _ => true⟩, ⟨5, 1, .w1c, fun _ => 0, fun _ => true⟩, ⟨6, 1, .w1c, fun _ => 0, fun _ => true⟩]⟩,
  -- EDGE_EST_BIAS
  ⟨.slice, 0x60020, [], .plain, [⟨0, 16, .ro, fun _ => 0, fun _ => true⟩]⟩,
  -- EDGE_CARRY_STATE
  ⟨.slice, 0x60040, [(4, 0x4)], .plain, [⟨0, 20, .ro, fun _ => 0, fun _ => true⟩, ⟨20, 2, .ro, fun _ => 0, fun _ => true⟩]⟩,
  -- EDGE_EST_TABLE
  ⟨.slice, 0x60100, [(2, 0x84), (33, 0x4)], .plain, [⟨0, 16, .rwl, fun _ => 0, fun _ => true⟩]⟩]

/-- The BEAM_ registers. -/
def regDescsBEAM : List RegDesc := [
  -- BEAM_CTRL
  ⟨.n, 0x600000, [], .plain, [⟨0, 1, .rwl, fun _ => 1, fun _ => true⟩, ⟨1, 1, .rwl, fun _ => 0, fun _ => true⟩, ⟨2, 8, .rw, fun _ => 0x18, fun _ => true⟩, ⟨16, 4, .rw, fun _ => 2, fun _ => true⟩]⟩,
  -- BEAM_STATUS
  ⟨.n, 0x600004, [], .plain, [⟨0, 5, .ro, fun _ => 0, fun _ => true⟩, ⟨5, 2, .ro, fun _ => 0, fun _ => true⟩, ⟨7, 2, .ro, fun _ => 0, fun _ => true⟩, ⟨9, 1, .ro, fun _ => 0, fun _ => true⟩, ⟨10, 3, .ro, fun _ => 0, fun _ => true⟩, ⟨13, 1, .ro, fun _ => 0, fun _ => true⟩, ⟨14, 1, .ro, fun _ => 0, fun _ => true⟩]⟩,
  -- BEAM_POOL
  ⟨.n, 0x600008, [], .plain, [⟨0, 10, .ro, fun _ => 0, fun _ => true⟩, ⟨16, 10, .ro, fun _ => 0, fun _ => true⟩]⟩,
  -- BEAM_FREE_LO
  ⟨.n, 0x60000c, [], .beamFreeLo, [⟨0, 32, .ro, fun _ => 0, fun _ => true⟩]⟩,
  -- BEAM_FREE_HI
  ⟨.n, 0x600010, [], .beamFreeHi, [⟨0, 32, .ro, fun _ => 0, fun _ => true⟩]⟩,
  -- BEAM_RETIRED
  ⟨.n, 0x600014, [], .plain, [⟨0, 17, .ro, fun _ => 0, fun _ => true⟩]⟩,
  -- BEAM_ARB
  ⟨.n, 0x600018, [], .plain, [⟨0, 8, .rw, fun _ => 4, fun v => 1 ≤ v⟩, ⟨8, 10, .rw, fun _ => 0x64, fun v => 1 ≤ v⟩]⟩,
  -- BEAM_TEST_CTRL
  ⟨.both, 0x600020, [], .plain, [⟨0, 2, .wo, fun _ => 0, fun _ => true⟩, ⟨2, 1, .ro, fun _ => 0, fun _ => true⟩, ⟨3, 1, .w1c, fun _ => 0, fun _ => true⟩]⟩,
  -- BEAM_TEST_LINE_LO
  ⟨.both, 0x600024, [], .plain, [⟨6, 26, .rw, fun _ => 0, fun _ => true⟩]⟩,
  -- BEAM_TEST_LINE_HI
  ⟨.both, 0x600028, [], .plain, [⟨0, 32, .rw, fun _ => 0, fun _ => true⟩]⟩,
  -- BEAM_TEST_RESULT
  ⟨.both, 0x60002c, [], .plain, [⟨0, 2, .ro, fun _ => 0, fun _ => true⟩, ⟨2, 4, .ro, fun _ => 0, fun _ => true⟩, ⟨6, 4, .ro, fun _ => 0, fun _ => true⟩, ⟨10, 4, .ro, fun _ => 0, fun _ => true⟩]⟩,
  -- BEAM_TEST_DATA
  ⟨.both, 0x600040, [(16, 0x4)], .plain, [⟨0, 32, .rw, fun _ => 0, fun _ => true⟩]⟩,
  -- BEAM_TEST_CHK
  ⟨.both, 0x600080, [(4, 0x4)], .plain, [⟨0, 16, .rw, fun _ => 0, fun _ => true⟩, ⟨16, 16, .rw, fun _ => 0, fun _ => true⟩]⟩,
  -- BEAM_CH_STATUS
  ⟨.both, 0x601000, [(8, 0x100)], .plain, [⟨0, 1, .ro, fun _ => 0, fun _ => true⟩, ⟨1, 1, .ro, fun _ => 0, fun _ => true⟩, ⟨2, 1, .w1c, fun _ => 0, fun _ => true⟩, ⟨3, 1, .ro, fun _ => 0, fun _ => true⟩]⟩,
  -- BEAM_CH_BUCKET
  ⟨.both, 0x601004, [(8, 0x100)], .plain, [⟨0, 16, .ro, fun _ => 0, fun _ => true⟩, ⟨16, 8, .rw, fun _ => 0x40, fun v => 1 ≤ v⟩, ⟨24, 8, .rw, fun _ => 1, fun v => 1 ≤ v⟩]⟩,
  -- BEAM_CH_ERR
  ⟨.both, 0x601008, [(8, 0x100)], .plain, [⟨0, 16, .rc, fun _ => 0, fun _ => true⟩, ⟨16, 16, .rc, fun _ => 0, fun _ => true⟩]⟩,
  -- BEAM_CH_MERGE
  ⟨.both, 0x60100c, [(8, 0x100)], .plain, [⟨0, 16, .rc, fun _ => 0, fun _ => true⟩, ⟨16, 16, .rc, fun _ => 0, fun _ => true⟩]⟩]

/-- The TIME_ registers. -/
def regDescsTIME : List RegDesc := [
  -- TIME_NOW_LO
  ⟨.n, 0x700000, [], .timeNowLo, [⟨0, 32, .ro, fun _ => 0, fun _ => true⟩]⟩,
  -- TIME_NOW_HI
  ⟨.n, 0x700004, [], .timeNowHi, [⟨0, 32, .ro, fun _ => 0, fun _ => true⟩]⟩,
  -- TIME_CTRL
  ⟨.n, 0x700008, [], .plain, [⟨0, 10, .rwl, fun _ => 0x64, fun v => 10 ≤ v && v ≤ 1000⟩, ⟨10, 10, .rwl, fun _ => 0x32, fun v => 1 ≤ v⟩, ⟨20, 1, .rwl, fun _ => 0, fun _ => true⟩, ⟨21, 1, .rwl, fun _ => 0, fun _ => true⟩]⟩,
  -- TIME_STATUS
  ⟨.n, 0x70000c, [], .plain, [⟨0, 3, .ro, fun _ => 0, fun _ => true⟩, ⟨3, 1, .ro, fun _ => 0, fun _ => true⟩, ⟨4, 1, .ro, fun _ => 0, fun _ => true⟩, ⟨5, 1, .ro, fun _ => 0, fun _ => true⟩, ⟨8, 8, .ro, fun _ => 0, fun _ => true⟩, ⟨16, 16, .ro, fun _ => 0, fun _ => true⟩]⟩,
  -- TIME_OFFSET
  ⟨.n, 0x700010, [], .plain, [⟨0, 16, .ro, fun _ => 0, fun _ => true⟩, ⟨16, 16, .ro, fun _ => 0, fun _ => true⟩]⟩,
  -- TIME_ADJ
  ⟨.n, 0x700014, [], .plain, [⟨0, 32, .ro, fun _ => 0, fun _ => true⟩]⟩,
  -- TIME_DIE
  ⟨.n, 0x700018, [], .plain, [⟨0, 8, .ro, fun _ => 0, fun _ => true⟩]⟩]

/-- The SHUT_ registers. -/
def regDescsSHUT : List RegDesc := [
  -- SHUT_ID
  ⟨.n, 0x701000, [], .plain, [⟨0, 16, .rwl, fun _ => 0, fun v => 1 ≤ v && v ≤ 65534⟩, ⟨16, 16, .rwl, fun _ => 0, fun v => 1 ≤ v⟩]⟩,
  -- SHUT_ROLE
  ⟨.n, 0x701004, [], .plain, [⟨0, 2, .ro, fun _ => 0, fun _ => true⟩, ⟨2, 3, .ro, fun _ => 0, fun _ => true⟩, ⟨16, 16, .ro, fun _ => 0, fun _ => true⟩]⟩,
  -- SHUT_EPOCH
  ⟨.n, 0x701008, [], .plain, [⟨0, 32, .ro, fun _ => 0, fun _ => true⟩]⟩,
  -- SHUT_CTRL
  ⟨.n, 0x70100c, [], .plain, [⟨0, 1, .wo, fun _ => 0, fun _ => true⟩, ⟨1, 16, .rw, fun _ => 0, fun _ => true⟩]⟩,
  -- SHUT_PORT_CTRL
  ⟨.both, 0x701100, [(2, 0x20)], .plain, [⟨0, 1, .rw, fun _ => 0, fun _ => true⟩, ⟨1, 1, .wo, fun _ => 0, fun _ => true⟩]⟩,
  -- SHUT_PORT_STATUS
  ⟨.both, 0x701104, [(2, 0x20)], .plain, [⟨0, 3, .ro, fun _ => 0, fun _ => true⟩, ⟨3, 1, .ro, fun _ => 0, fun _ => true⟩, ⟨4, 1, .ro, fun _ => 0, fun _ => true⟩, ⟨16, 16, .ro, fun _ => 0, fun _ => true⟩]⟩,
  -- SHUT_PORT_DELAY
  ⟨.both, 0x701108, [(2, 0x20)], .plain, [⟨0, 16, .ro, fun _ => 0, fun _ => true⟩]⟩,
  -- SHUT_PORT_ERR
  ⟨.both, 0x70110c, [(2, 0x20)], .plain, [⟨0, 16, .rc, fun _ => 0, fun _ => true⟩, ⟨16, 16, .rc, fun _ => 0, fun _ => true⟩]⟩,
  -- SHUT_GROUP_LAT
  ⟨.n, 0x701200, [(32, 0x4)], .plain, [⟨0, 24, .ro, fun _ => 0, fun _ => true⟩]⟩]

/-- The LEDG_ registers. -/
def regDescsLEDG : List RegDesc := [
  -- LEDG_STATUS
  ⟨.n, 0x800000, [], .ledgStatus, [⟨0, 2, .ro, fun _ => 0, fun _ => true⟩, ⟨2, 3, .ro, fun _ => 0, fun _ => true⟩, ⟨5, 1, .ro, fun _ => 0, fun _ => true⟩]⟩,
  -- LEDG_WEAR
  ⟨.n, 0x800004, [], .ledgWear, [⟨0, 8, .ro, fun _ => 0, fun _ => true⟩, ⟨8, 8, .ro, fun _ => 0, fun _ => true⟩, ⟨16, 12, .ro, fun _ => 0, fun _ => true⟩]⟩,
  -- LEDG_ERR
  ⟨.n, 0x800008, [], .plain, [⟨0, 8, .ro, fun _ => 0, fun _ => true⟩, ⟨8, 8, .ro, fun _ => 0, fun _ => true⟩, ⟨16, 7, .rc, fun _ => 0, fun _ => true⟩, ⟨23, 7, .rc, fun _ => 0, fun _ => true⟩, ⟨30, 1, .w1c, fun _ => 0, fun _ => true⟩]⟩,
  -- LEDG_ECC
  ⟨.n, 0x80000c, [], .plain, [⟨0, 16, .rc, fun _ => 0, fun _ => true⟩, ⟨16, 16, .rc, fun _ => 0, fun _ => true⟩]⟩,
  -- LEDG_LATENCY
  ⟨.n, 0x800010, [], .plain, [⟨0, 16, .rc, fun _ => 0, fun _ => true⟩, ⟨16, 16, .rc, fun _ => 0, fun _ => true⟩]⟩]

/-- The BOOT_ registers. -/
def regDescsBOOT : List RegDesc := [
  -- BOOT_STATE
  ⟨.n, 0xb00000, [], .plain, [⟨0, 4, .ro, fun _ => 0, fun _ => true⟩, ⟨4, 3, .ro, fun _ => 0, fun _ => true⟩, ⟨7, 3, .ro, fun _ => 0, fun _ => true⟩, ⟨10, 1, .ro, fun _ => 0, fun _ => true⟩, ⟨11, 1, .ro, fun _ => 0, fun _ => true⟩, ⟨12, 1, .ro, fun _ => 0, fun _ => true⟩, ⟨13, 1, .ro, fun _ => 0, fun _ => true⟩]⟩,
  -- BOOT_CTRL
  ⟨.n, 0xb00004, [], .plain, [⟨0, 1, .wo, fun _ => 0, fun _ => true⟩, ⟨1, 1, .rw, fun _ => 0, fun _ => true⟩, ⟨2, 1, .wo, fun _ => 0, fun _ => true⟩]⟩,
  -- BOOT_TIME
  ⟨.n, 0xb00008, [], .plain, [⟨0, 16, .ro, fun _ => 0, fun _ => true⟩]⟩,
  -- BOOT_SVN
  ⟨.n, 0xb0000c, [], .bootSvn, [⟨0, 7, .ro, fun _ => 0, fun _ => true⟩, ⟨8, 7, .ro, fun _ => 0, fun _ => true⟩, ⟨16, 7, .ro, fun _ => 0, fun _ => true⟩, ⟨24, 7, .ro, fun _ => 0, fun _ => true⟩]⟩,
  -- BOOT_IMAGE_ERR
  ⟨.n, 0xb00010, [], .plain, [⟨0, 4, .ro, fun _ => 0, fun _ => true⟩, ⟨4, 4, .ro, fun _ => 0, fun _ => true⟩, ⟨8, 24, .ro, fun _ => 0, fun _ => true⟩]⟩,
  -- BOOT_EXT_DATA
  ⟨.n, 0xb00100, [(12, 0x4)], .plain, [⟨0, 32, .wo, fun _ => 0, fun _ => true⟩]⟩,
  -- BOOT_EXT_CTRL
  ⟨.n, 0xb00140, [], .plain, [⟨0, 5, .wo, fun _ => 0, fun _ => true⟩, ⟨5, 1, .wo, fun _ => 0, fun _ => true⟩, ⟨6, 1, .ro, fun _ => 0, fun _ => true⟩]⟩,
  -- BOOT_PROV_DATA
  ⟨.n, 0xb00200, [(20, 0x4)], .plain, [⟨0, 32, .wo, fun _ => 0, fun _ => true⟩]⟩,
  -- BOOT_PROV_CTRL
  ⟨.n, 0xb00260, [], .plain, [⟨0, 1, .wo, fun _ => 0, fun _ => true⟩, ⟨1, 1, .wo, fun _ => 0, fun _ => true⟩]⟩,
  -- BOOT_PROV_STATUS
  ⟨.n, 0xb00264, [], .plain, [⟨0, 2, .ro, fun _ => 0, fun _ => true⟩]⟩,
  -- BOOT_RCV_CTRL
  ⟨.n, 0xb00300, [], .plain, [⟨0, 13, .wo, fun _ => 0, fun _ => true⟩, ⟨13, 1, .wo, fun _ => 0, fun _ => true⟩, ⟨14, 2, .wo, fun _ => 0, fun _ => true⟩]⟩,
  -- BOOT_RCV_STATUS
  ⟨.n, 0xb00304, [], .plain, [⟨0, 1, .ro, fun _ => 0, fun _ => true⟩, ⟨1, 3, .ro, fun _ => 0, fun _ => true⟩]⟩,
  -- BOOT_PCR
  ⟨.n, 0xb01000, [(24, 0x40), (12, 0x4)], .bootPcr, [⟨0, 32, .ro, fun _ => 0, fun _ => true⟩]⟩,
  -- BOOT_RCV_BUF
  ⟨.n, 0xb08000, [(4096, 0x4)], .plain, [⟨0, 32, .wo, fun _ => 0, fun _ => true⟩]⟩]

/-- The SAFE_ registers. -/
def regDescsSAFE : List RegDesc := [
  -- SAFE_STATUS
  ⟨.both, 0x900000, [], .plain, [⟨0, 1, .ro, fun _ => 0, fun _ => true⟩, ⟨1, 1, .ro, fun _ => 0, fun _ => true⟩, ⟨2, 1, .ro, fun _ => 0, fun _ => true⟩, ⟨3, 1, .ro, fun _ => 0, fun _ => true⟩, ⟨4, 1, .ro, fun _ => 0, fun _ => true⟩, ⟨8, 4, .ro, fun _ => 0, fun _ => true⟩]⟩,
  -- SAFE_LIMITS
  ⟨.both, 0x900004, [], .plain, [⟨0, 16, .rwl, fun _ => 0x7333, fun _ => true⟩, ⟨16, 14, .rwl, fun _ => 0x2af8, fun v => 2000 ≤ v && v ≤ 16000⟩]⟩,
  -- SAFE_STOP_CFG
  ⟨.both, 0x900008, [], .plain, [⟨0, 6, .rwl, fun _ => 0x14, fun v => 4 ≤ v && v ≤ 40⟩, ⟨6, 10, .rwl, fun _ => 0x1f4, fun v => 100 ≤ v && v ≤ 1000⟩, ⟨16, 16, .rwl, fun _ => 0x4000, fun _ => true⟩]⟩,
  -- SAFE_STOP_GAIN
  ⟨.both, 0x90000c, [], .plain, [⟨0, 16, .rwl, fun _ => 0x800, fun _ => true⟩, ⟨16, 16, .rwl, fun _ => 0x400, fun _ => true⟩]⟩,
  -- SAFE_PORT_STATE
  ⟨.both, 0x901000, [(16, 0x10)], .plain, [⟨0, 3, .ro, fun _ => 0, fun _ => true⟩, ⟨3, 1, .ro, fun _ => 0, fun _ => true⟩, ⟨4, 4, .ro, fun _ => 0, fun _ => true⟩, ⟨8, 1, .ro, fun _ => 0, fun _ => true⟩, ⟨9, 1, .ro, fun _ => 0, fun _ => true⟩, ⟨10, 1, .ro, fun _ => 0, fun _ => true⟩]⟩,
  -- SAFE_PORT_CTRL
  ⟨.both, 0x901004, [(16, 0x10)], .plain, [⟨0, 1, .wo, fun _ => 0, fun _ => true⟩, ⟨1, 1, .rw, fun _ => 0, fun _ => true⟩]⟩,
  -- SAFE_PORT_COUNT
  ⟨.both, 0x901008, [(16, 0x10)], .plain, [⟨0, 8, .rc, fun _ => 0, fun _ => true⟩, ⟨8, 8, .rc, fun _ => 0, fun _ => true⟩, ⟨16, 8, .rc, fun _ => 0, fun _ => true⟩, ⟨24, 8, .rc, fun _ => 0, fun _ => true⟩]⟩]

/-- The WARD_ registers. -/
def regDescsWARD : List RegDesc := [
  -- WARD_STATUS
  ⟨.n, 0xa00000, [], .plain, [⟨0, 1, .ro, fun _ => 0, fun _ => true⟩, ⟨1, 12, .ro, fun _ => 0, fun _ => true⟩, ⟨13, 8, .ro, fun _ => 0, fun _ => true⟩, ⟨21, 1, .w1c, fun _ => 0, fun _ => true⟩]⟩,
  -- WARD_CTRL
  ⟨.n, 0xa00004, [], .plain, [⟨0, 1, .wo, fun _ => 0, fun _ => true⟩, ⟨1, 1, .w1c, fun _ => 0, fun _ => true⟩, ⟨2, 30, .rw, fun _ => 0, fun _ => true⟩]⟩,
  -- WARD_TAMPER_EN
  ⟨.n, 0xa00008, [], .plain, [⟨0, 11, .rwl, fun _ => 0x7ff, fun _ => true⟩]⟩,
  -- WARD_CLR_CTRL
  ⟨.n, 0xa0000c, [], .plain, [⟨0, 1, .wo, fun _ => 0, fun _ => true⟩, ⟨1, 2, .ro, fun _ => 0, fun _ => true⟩]⟩,
  -- WARD_CLR_CHAL
  ⟨.n, 0xa00010, [(4, 0x4)], .wardClrChal, [⟨0, 32, .ro, fun _ => 0, fun _ => true⟩]⟩,
  -- WARD_CH_CFG
  ⟨.n, 0xa00040, [(16, 0x4)], .plain, [⟨0, 3, .rw, fun _ => 0, fun _ => true⟩, ⟨3, 4, .rw, fun _ => 0, fun v => v ≤ 9⟩, ⟨7, 1, .rw, fun _ => 0, fun _ => true⟩, ⟨8, 2, .rw, fun _ => 0, fun _ => true⟩, ⟨10, 1, .rw, fun _ => 0, fun _ => true⟩]⟩,
  -- WARD_RESULT
  ⟨.n, 0xa00080, [(16, 0x4)], .plain, [⟨0, 24, .ro, fun _ => 0, fun _ => true⟩, ⟨24, 3, .ro, fun _ => 0, fun _ => true⟩, ⟨27, 1, .ro, fun _ => 0, fun _ => true⟩, ⟨28, 1, .ro, fun _ => 0, fun _ => true⟩]⟩,
  -- WARD_RULE word 0
  ⟨.n, 0xa00100, [(32, 0x10)], .plain, [⟨0, 8, .rw, fun _ => 255, fun v => v ≤ 15 || v == 255⟩, ⟨8, 3, .rw, fun _ => 0, fun v => v ≤ 4⟩, ⟨11, 1, .rw, fun _ => 0, fun _ => true⟩, ⟨12, 8, .rw, fun _ => 0, fun v => 1 ≤ v⟩, ⟨20, 3, .rw, fun _ => 0, fun v => v ≤ 4⟩]⟩,
  -- WARD_RULE word 1
  ⟨.n, 0xa00104, [(32, 0x10)], .plain, [⟨0, 32, .rw, fun _ => 0, fun v => v < 8388608 || 4286578688 ≤ v⟩]⟩,
  -- WARD_RULE word 2
  ⟨.n, 0xa00108, [(32, 0x10)], .plain, [⟨0, 24, .rw, fun _ => 0, fun _ => true⟩]⟩,
  -- WARD_CLR_DATA
  ⟨.n, 0xa00400, [(49, 0x4)], .plain, [⟨0, 32, .wo, fun _ => 0, fun _ => true⟩]⟩]

/-- The SYS_ registers. -/
def regDescsSYS : List RegDesc := [
  -- SYS_ID
  ⟨.both, 0x0, [], .sysId, [⟨0, 16, .ro, fun _ => 0x3200, fun _ => true⟩, ⟨16, 16, .ro, fun _ => 0xa810, fun _ => true⟩]⟩,
  -- SYS_REV
  ⟨.both, 0x4, [], .sysRev, [⟨0, 4, .ro, fun _ => 0, fun _ => true⟩, ⟨4, 4, .ro, fun _ => 0xb, fun _ => true⟩, ⟨8, 1, .ro, fun _ => 0, fun _ => true⟩, ⟨9, 1, .ro, fun _ => 0, fun _ => true⟩, ⟨16, 8, .ro, fun _ => 0, fun _ => true⟩]⟩,
  -- SYS_SERIAL_LO
  ⟨.both, 0x8, [], .sysSerialLo, [⟨0, 32, .ro, fun _ => 0, fun _ => true⟩]⟩,
  -- SYS_SERIAL_HI
  ⟨.both, 0xc, [], .sysSerialHi, [⟨0, 32, .ro, fun _ => 0, fun _ => true⟩]⟩,
  -- SYS_FW
  ⟨.both, 0x10, [], .plain, [⟨0, 7, .ro, fun _ => 0, fun _ => true⟩, ⟨7, 1, .ro, fun _ => 0, fun _ => true⟩, ⟨8, 24, .ro, fun _ => 0, fun _ => true⟩]⟩,
  -- SYS_CAPS
  ⟨.both, 0x14, [], .sysCaps, [⟨0, 6, .ro, fun _ => 0x20, fun _ => true⟩, ⟨6, 3, .ro, fun _ => 4, fun _ => true⟩, ⟨9, 5, .ro, fun _ => 0x10, fun _ => true⟩, ⟨14, 7, .ro, fun _ => 0x40, fun _ => true⟩, ⟨21, 4, .ro, fun _ => 8, fun _ => true⟩]⟩,
  -- SYS_SCRATCH
  ⟨.both, 0x18, [], .plain, [⟨0, 32, .rw, fun _ => 0, fun _ => true⟩]⟩,
  -- SYS_EVENT
  ⟨.n, 0x20, [], .plain, [⟨0, 1, .w1c, fun _ => 0, fun _ => true⟩, ⟨1, 1, .w1c, fun _ => 0, fun _ => true⟩, ⟨2, 1, .w1c, fun _ => 0, fun _ => true⟩, ⟨3, 1, .w1c, fun _ => 0, fun _ => true⟩, ⟨4, 1, .w1c, fun _ => 0, fun _ => true⟩, ⟨5, 1, .w1c, fun _ => 0, fun _ => true⟩, ⟨6, 1, .w1c, fun _ => 0, fun _ => true⟩, ⟨7, 1, .w1c, fun _ => 0, fun _ => true⟩, ⟨8, 1, .w1c, fun _ => 0, fun _ => true⟩]⟩,
  -- SYS_EVENT_EN
  ⟨.n, 0x24, [], .plain, [⟨0, 9, .rw, fun _ => 0x1ff, fun _ => true⟩]⟩,
  -- SYS_EVENT_VEC
  ⟨.n, 0x28, [], .plain, [⟨0, 11, .rw, fun _ => 0, fun _ => true⟩]⟩,
  -- SYS_POWER
  ⟨.both, 0x30, [], .sysPower, [⟨0, 2, .ro, fun _ => 0, fun _ => true⟩, ⟨2, 7, .ro, fun _ => 0, fun _ => true⟩, ⟨9, 11, .ro, fun _ => 0, fun _ => true⟩]⟩,
  -- SYS_TEMP
  ⟨.both, 0x34, [], .plain, [⟨0, 16, .ro, fun _ => 0, fun _ => true⟩, ⟨16, 16, .rc, fun _ => 0, fun _ => true⟩]⟩,
  -- SYS_ERR
  ⟨.both, 0x40, [], .plain, [⟨0, 16, .rc, fun _ => 0, fun _ => true⟩, ⟨16, 8, .rc, fun _ => 0, fun _ => true⟩, ⟨24, 8, .rc, fun _ => 0, fun _ => true⟩]⟩,
  -- SYS_D2D
  ⟨.both, 0x44, [], .plain, [⟨0, 1, .ro, fun _ => 0, fun _ => true⟩, ⟨1, 1, .ro, fun _ => 0, fun _ => true⟩, ⟨16, 16, .rc, fun _ => 0, fun _ => true⟩]⟩]

/-- The LOOM_ registers. -/
def regDescsLOOM : List RegDesc := [
  -- LOOM_ID
  ⟨.slice, 0x0, [], .loomId, [⟨0, 5, .ro, fun _ => 0, fun _ => true⟩, ⟨5, 1, .ro, fun _ => 0, fun _ => true⟩, ⟨6, 4, .ro, fun _ => 0, fun _ => true⟩]⟩,
  -- LOOM_STATE
  ⟨.slice, 0x4, [], .loomState, [⟨0, 3, .ro, fun _ => 0, fun _ => true⟩, ⟨3, 1, .ro, fun _ => 0, fun _ => true⟩, ⟨4, 5, .ro, fun _ => 0, fun _ => true⟩, ⟨9, 6, .ro, fun _ => 0, fun _ => true⟩, ⟨15, 1, .ro, fun _ => 0, fun _ => true⟩, ⟨16, 1, .ro, fun _ => 0, fun _ => true⟩]⟩,
  -- LOOM_CART_LO
  ⟨.slice, 0x8, [], .loomCartLo, [⟨0, 32, .ro, fun _ => 0, fun _ => true⟩]⟩,
  -- LOOM_CART_HI
  ⟨.slice, 0xc, [], .loomCartHi, [⟨0, 32, .ro, fun _ => 0, fun _ => true⟩]⟩,
  -- LOOM_WRAP
  ⟨.slice, 0x10, [], .loomWrap, [⟨0, 16, .ro, fun _ => 0, fun _ => true⟩, ⟨16, 1, .ro, fun _ => 0, fun _ => true⟩, ⟨17, 3, .ro, fun _ => 0, fun _ => true⟩, ⟨20, 1, .ro, fun _ => 0, fun _ => true⟩]⟩,
  -- LOOM_CORE
  ⟨.slice, 0x14, [], .plain, [⟨0, 16, .rc, fun _ => 0, fun _ => true⟩]⟩]

/-- The register directory (R582). -/
def regDescs : List RegDesc :=
  regDescsFN ++ regDescsHQI ++ regDescsBOB ++ regDescsCARD ++ regDescsCIPH ++ regDescsWEAVE ++ regDescsFMT ++ regDescsHDL ++ regDescsRDCH ++ regDescsVFY ++ regDescsCLE ++ regDescsEDGE ++ regDescsBEAM ++ regDescsTIME ++ regDescsSHUT ++ regDescsLEDG ++ regDescsBOOT ++ regDescsSAFE ++ regDescsWARD ++ regDescsSYS ++ regDescsLOOM

end Sys2Proof.Machine
end

