-- ==== Sys2Proof/Machine/Ops.lean ====
section
/-!
DEFINITION. Sys2Proof/Machine/Ops.lean: the named operations every meaning is built from: tables by instance, byte
strings, register fields (R9 to R11), log pages (R577 to R579), events (R576), loom time (R443, R444) and outputs.
-/

namespace Sys2Proof.Machine

/-! ### Tables -/

/-- The value of instance `k`: the listed one, or `d`. -/
def tabGet {α : Type} (d : α) : Tab α → Nat → α
  | [], _ => d
  | (j, v) :: t, k => if k = j then v else tabGet d t k

/-- The listed value of instance `k`, if it is listed. -/
def tabFind {α : Type} : Tab α → Nat → Option α
  | [], _ => none
  | (j, v) :: t, k => if k = j then some v else tabFind t k

/-- The table without instance `k`. -/
def tabDrop {α : Type} (t : Tab α) (k : Nat) : Tab α := t.filter fun x => decide (x.1 ≠ k)

/-- List instance `k`, not listed so far, before the first larger key. -/
def tabPut {α : Type} (k : Nat) (v : α) : Tab α → Tab α
  | [] => [(k, v)]
  | (j, w) :: t => if k < j then (k, v) :: (j, w) :: t else (j, w) :: tabPut k v t

/-- Set instance `k` to `v`: keys stay rising, and a value equal to `d` is not listed. -/
def tabSet {α : Type} [DecidableEq α] (d : α) (t : Tab α) (k : Nat) (v : α) : Tab α :=
  if v = d then tabDrop t k else tabPut k v (tabDrop t k)

/-- Change instance `k` by `f`. -/
def tabUpd {α : Type} [DecidableEq α] (d : α) (t : Tab α) (k : Nat) (f : α → α) : Tab α :=
  tabSet d t k (f (tabGet d t k))

/-- The instances listed. -/
def tabKeys {α : Type} (t : Tab α) : List Nat := t.map Prod.fst

/-- The least number from 0 up to `n` whose instance satisfies `p`. -/
def leastSuch (p : Nat → Bool) (n : Nat) : Option Nat := (List.range n).find? p

/-- The least number not listed in rising keys, from `k` up. -/
def leastFree {α : Type} (k : Nat) : Tab α → Nat
  | [] => k
  | (j, _) :: t => if j < k then leastFree k t else if j = k then leastFree (k + 1) t else k

/-! ### Bytes and integers -/

/-- `n` bytes of `v`, least significant first (R8). -/
def leB : Nat → Nat → Bytes
  | 0, _ => []
  | n + 1, v => BitVec.ofNat 8 v :: leB n (v / 256)

/-- `n` bytes of `v`, most significant first. -/
def beB (n v : Nat) : Bytes := (leB n v).reverse

/-- The integer of bytes stored least significant first (R8). -/
def leN : Bytes → Nat
  | [] => 0
  | b :: t => b.toNat + 256 * leN t

/-- The integer of bytes stored most significant first. -/
def beN (bs : Bytes) : Nat := leN bs.reverse

/-- `n` bytes from offset `o`, missing bytes read as 0. -/
def slice (bs : Bytes) (o n : Nat) : Bytes :=
  let s := (bs.drop o).take n
  s ++ List.replicate (n - s.length) 0

/-- The integer in `n` bytes at offset `o` (R8). -/
def fieldAt (bs : Bytes) (o n : Nat) : Nat := leN (slice bs o n)

/-- `n` zero bytes. -/
def zeros (n : Nat) : Bytes := List.replicate n 0

/-- Bits [lo + w - 1 : lo] of `v` (R7). -/
def bitsOf (v lo w : Nat) : Nat := v / 2 ^ lo % 2 ^ w

/-- Bit `i` of `v`. -/
def bitOf (v i : Nat) : Bool := v.testBit i

/-- `v` as a signed value of `w` bits. -/
def toS (w v : Nat) : Int := if v % 2 ^ w < 2 ^ (w - 1) then (v % 2 ^ w : Nat) else (v % 2 ^ w : Nat) - (2 ^ w : Nat)

/-- The `w`-bit two's complement encoding of `i`. -/
def ofS (w : Nat) (i : Int) : Nat := (i % (2 ^ w : Nat)).toNat

/-- `i` limited to `lo` … `hi`. -/
def clampI (lo hi i : Int) : Int := if i < lo then lo else if hi < i then hi else i

/-- sat16 of R317: limited to the signed 16-bit range. -/
def sat16 (i : Int) : Int := clampI (-32768) 32767 i

/-- Limited to `w` unsigned bits. -/
def satN (w v : Nat) : Nat := min v (2 ^ w - 1)

/-- ⌈a / b⌉. -/
def ceilDiv (a b : Nat) : Nat := (a + b - 1) / b

/-- round(a / b), half up (R211). -/
def roundDiv (a b : Nat) : Nat := (2 * a + b) / (2 * b)

/-- Arithmetic right shift (spec/00_scope.md, Pseudocode). -/
def sar (i : Int) (n : Nat) : Int := Int.fdiv i (2 ^ n : Nat)

/-- 1 for true. -/
def b2n (b : Bool) : Nat := if b then 1 else 0

/-! ### Ticks -/

/-- Ticks in a microsecond and a millisecond: one tick is 0.25 ns. -/
def tUs : Nat := 4000
def tMs : Nat := 4000000
def tS : Nat := 4000000000

/-! ### Register fields -/

/-- The instance indices at relative offset `rel` under the replication `dims`, if a register lies there (R566). -/
def ixOf : List (Nat × Nat) → Nat → Option (List Nat)
  | [], rel => if rel = 0 then some [] else none
  | (count, stride) :: t, rel =>
    if stride = 0 then none
    else if rel / stride < count then (ixOf t (rel % stride)).map (fun l => rel / stride :: l) else none

/-- Where an address lies: its die, and the kinds of register with the offset each is looked up at (R564 to R566). -/
def placeOf (addr : Nat) : Nat × List (Where × Nat) :=
  if addr < 0x20000000 then
    let die := addr / 0x10000000
    let off := addr % 0x10000000
    if 0x1000000 ≤ off && off < 0x2000000 then (die, [(.slice, off % 0x100000)])
    else if die = 0 then
      (0, [(.n, off), (.both, off)] ++ (if 0x100000 ≤ off && off < 0x110000 then [(.fn, off - 0x100000)] else []))
    else (1, [(.both, off)])
  else if 0x40000000 ≤ addr then (0, [(.fn, addr % 0x10000)])
  else (0, [])

/-- The register at an address, with its instance indices; none where the address is unmapped (R567). -/
def regAt (addr : Nat) : Option (RegDesc × List Nat) :=
  (placeOf addr).2.findSome? fun (w, off) =>
    regDescs.findSome? fun d =>
      if d.place = w ∧ d.base ≤ off then (ixOf d.dims (off - d.base)).map fun ix => (d, ix) else none

/-- The reset value of the register at an address (R573). -/
def resetVal (addr : Nat) : Nat :=
  match regAt addr with
  | some (d, ix) => d.fields.foldl (fun a f => a + f.rst ix % 2 ^ f.width * 2 ^ f.lo) 0
  | none => 0

/-- A register's stored value, its reset value where nothing has been stored. -/
def regGet (b : Block) (addr : Nat) : Nat := tabGet (resetVal addr) b.regs addr

/-- Store a register's value; a value equal to the reset value is not listed. -/
def regPut (b : Block) (addr v : Nat) : Block := { b with regs := tabSet (resetVal addr) b.regs addr v }

/-- The value of a field. -/
def rd (b : Block) (f : Fld) : Nat := bitsOf (regGet b f.addr) f.lo f.width

/-- A field is nonzero. -/
def rdB (b : Block) (f : Fld) : Bool := rd b f != 0

/-- The value of a signed field. -/
def rdS (b : Block) (f : Fld) : Int := toS f.width (rd b f)

/-- Set a field of a word. -/
def setBits (w lo width v : Nat) : Nat :=
  w - bitsOf w lo width * 2 ^ lo + v % 2 ^ width * 2 ^ lo

/-- Set a field; the other fields of the register keep their values. -/
def wr (b : Block) (f : Fld) (v : Nat) : Block := regPut b f.addr (setBits (regGet b f.addr) f.lo f.width v)

/-- Set a field to a truth value. -/
def wrB (b : Block) (f : Fld) (v : Bool) : Block := wr b f (b2n v)

/-- Set a field to a signed value, saturating at the field's range. -/
def wrS (b : Block) (f : Fld) (v : Int) : Block :=
  wr b f (ofS f.width (clampI (-(2 ^ (f.width - 1) : Nat)) ((2 ^ (f.width - 1) : Nat) - 1) v))

/-- Add to a count that saturates (R10 and the field tables). -/
def inc (b : Block) (f : Fld) (n : Nat := 1) : Block := wr b f (satN f.width (rd b f + n))

/-! ### Outputs, logs and events -/

/-- Send something out. -/
def emit (b : Block) (o : Output) : Block := { b with out := b.out ++ [o] }

/-- The capacity and entry size of a log page (R577). -/
def logCap (page : Nat) : Nat := if page = 0x20 ∨ page = 0x30 then 4096 else 1024

/-- Write an entry to a ring page; a full ring loses its oldest entry (R577). -/
def logAppend (b : Block) (page : Nat) (entry : Bytes) : Block :=
  { b with logs := tabUpd {} b.logs page fun p =>
      { entries := (if p.entries.length < logCap page then p.entries else p.entries.drop 1) ++ [entry]
        written := min (p.written + 1) 0xFFFFFFFF } }

/-- Set a management event bit (R576); the message is sent by `settle`. -/
def setEvent (b : Block) (bit : Nat) : Block := wr b ⟨Reg.SYS_EVENT, bit, 1⟩ 1

/-- SYS_EVENT & SYS_EVENT_EN is nonzero (R576). -/
def eventsOn (b : Block) : Bool :=
  (List.range 9).any fun i => bitOf (regGet b Reg.SYS_EVENT) i && bitOf (rd b Fld.SYS_EVENT_EN_EN) i

/-- A function may send the message of a vector: MSI-X is enabled, and neither the function nor the vector is masked (R41, as
the PCI Express specification has it; PRESUMED, log entry 136). -/
def msixAble (b : Block) (fn v : Nat) : Bool :=
  let c := tabGet 0 b.hq.msixCtl fn
  bitOf c 15 && !bitOf c 14 && tabGet 1 b.hq.vecMask (2048 * fn + v) = 0

/-- Signal a vector: its message, or its pending bit where it may not be sent now (R41). -/
def sendMsix (b : Block) (fn v : Nat) : Block :=
  if msixAble b fn v then emit b (.msix fn v)
  else { b with hq := { b.hq with vecPend := b.hq.vecPend.filter (· ≠ 2048 * fn + v) ++ [2048 * fn + v] } }

/-- Send the management event message (R576). -/
def eventMsg (b : Block) : Block := sendMsix b 0 (rd b Fld.SYS_EVENT_VEC_VECTOR)

/-- Log INTERNAL_ERROR in page 0x0010 (R579): window block number `blk`, instance, reason and argument. -/
def internalError (b : Block) (die blk inst reason arg : Nat) : Block :=
  let b := logAppend b 0x10 (leB 8 b.time.now ++ leB 2 0xA001 ++ leB 1 die ++ leB 1 blk ++ leB 2 inst ++ leB 2 reason
    ++ leB 8 arg ++ zeros 8)
  setEvent (inc b (Fld.SYS_ERR_INTERNAL die)) 1

/-! ### Loom time -/

/-- Let `dt` ticks of the local time base pass (R443, R444): each advances loom time by 1 + ADJ × 2^-32 ticks. -/
def elapse (dt : Nat) (b : Block) : Block :=
  let u := dt * ((4294967296 : Int) + b.time.adj).toNat + b.time.frac
  { b with time := { b.time with now := (b.time.now + u / 4294967296) % 2 ^ 64, frac := u % 4294967296 } }

/-- Ticks from `t` to now, modulo 2^64. -/
def elapsed (b : Block) (t : Nat) : Nat := (b.time.now + 2 ^ 64 - t % 2 ^ 64) % 2 ^ 64

/-- Now is at or past `t`: loom times are compared modulo 2^64 (R443). -/
def reached (b : Block) (t : Nat) : Bool := elapsed b t < 2 ^ 63

/-- Ticks since `t`; 0 where `t` is still to come, as after a step back (R455). -/
def since (b : Block) (t : Nat) : Nat := if reached b t then elapsed b t else 0

/-! ### Field updates of the sub-states -/

def Block.qp (b : Block) (k : Nat) : Qp := tabGet {} b.hq.qps k
def Block.updQp (b : Block) (k : Nat) (f : Qp → Qp) : Block := { b with hq := { b.hq with qps := tabUpd {} b.hq.qps k f } }
def Block.cmd (b : Block) (k : Nat) : Cmd := tabGet {} b.hq.cmds k
def Block.updCmd (b : Block) (k : Nat) (f : Cmd → Cmd) : Block := { b with hq := { b.hq with cmds := tabUpd {} b.hq.cmds k f } }
def Block.stream (b : Block) (k : Nat) : Stream := tabGet {} b.ing.streams k
def Block.updStream (b : Block) (k : Nat) (f : Stream → Stream) : Block :=
  { b with ing := { b.ing with streams := tabUpd {} b.ing.streams k f } }
def Block.obj (b : Block) (k : Nat) : Obj := tabGet {} b.ing.objs k
def Block.updObj (b : Block) (k : Nat) (f : Obj → Obj) : Block := { b with ing := { b.ing with objs := tabUpd {} b.ing.objs k f } }
def Block.bobbin (b : Block) (k : Nat) : Bobbin := tabGet {} b.ing.bobbins k
def Block.updBobbin (b : Block) (k : Nat) (f : Bobbin → Bobbin) : Block :=
  { b with ing := { b.ing with bobbins := tabUpd {} b.ing.bobbins k f } }
def Block.engine (b : Block) (k : Nat) : Engine := tabGet {} b.card.engines k
def Block.updEngine (b : Block) (k : Nat) (f : Engine → Engine) : Block :=
  { b with card := { b.card with engines := tabUpd {} b.card.engines k f } }
def Block.ctx (b : Block) (k : Nat) : CardCtx := tabGet {} b.card.ctxs k
def Block.updCtx (b : Block) (k : Nat) (f : CardCtx → CardCtx) : Block :=
  { b with card := { b.card with ctxs := tabUpd {} b.card.ctxs k f } }
def Block.pipe (b : Block) (k : Nat) : Pipeline := tabGet {} b.ciph.pipes k
def Block.updPipe (b : Block) (k : Nat) (f : Pipeline → Pipeline) : Block :=
  { b with ciph := { b.ciph with pipes := tabUpd {} b.ciph.pipes k f } }
def Block.slot (b : Block) (k : Nat) : KeySlot := tabGet {} b.ciph.slots k
def Block.updSlot (b : Block) (k : Nat) (f : KeySlot → KeySlot) : Block :=
  { b with ciph := { b.ciph with slots := tabUpd {} b.ciph.slots k f } }
def Block.dataset (b : Block) (k : Nat) : Dataset := tabGet {} b.ds.tab k
def Block.updDataset (b : Block) (k : Nat) (f : Dataset → Dataset) : Block :=
  { b with ds := { b.ds with tab := tabUpd {} b.ds.tab k f } }
def Block.tenant (b : Block) (k : Nat) : Tenant := tabGet {} b.hq.tenants k
def Block.updTenant (b : Block) (k : Nat) (f : Tenant → Tenant) : Block :=
  { b with hq := { b.hq with tenants := tabUpd {} b.hq.tenants k f } }

/-- Fold a block operation over a list of instances. -/
def forEach {α : Type} (l : List α) (b : Block) (f : Block → α → Block) : Block := l.foldl f b

/-- Do `f` where `c` holds. -/
def when (c : Bool) (b : Block) (f : Block → Block) : Block := if c then f b else b

/-- A fresh free value (Config.freeNat): each use takes the next one. -/
def freshNat (b : Block) : Nat × Block :=
  (Config.freeNat b.ciph.fresh, { b with ciph := { b.ciph with fresh := b.ciph.fresh + 1 } })

/-- `n` fresh free bytes (Config.freeByte). -/
def freshBytes (b : Block) (n : Nat) : Bytes × Block :=
  ((List.range n).map (fun i => Config.freeByte (b.ciph.fresh + i)), { b with ciph := { b.ciph with fresh := b.ciph.fresh + n } })

end Sys2Proof.Machine
end

