-- ==== Sys2Proof/Machine/Codes.lean ====
section
/-!
DEFINITION. Sys2Proof/Machine/Codes.lean: the checks and codes the spec writes out: CRC-32C (spec/00_scope.md, the
standards table), XXH64 (R121), HCHK (R180), modulation (R182), C2 (R184), C1 (R185), the interleave (R186), the slot
positions (R172), the weft code (R360) and the beam store's symbol code (R418 to R421).
-/

namespace Sys2Proof.Machine

/-! ### CRC-32C and HCHK -/

/-- One bit step of the reflected CRC-32C (polynomial 0x1EDC_6F41, reflected 0x82F6_3B78). -/
def crcStep (c : Nat) : Nat := if c % 2 = 1 then (c / 2).xor 0x82F63B78 else c / 2

/-- One byte step. -/
def crcByte (c : Nat) (b : Byte) : Nat :=
  crcStep <| crcStep <| crcStep <| crcStep <| crcStep <| crcStep <| crcStep <| crcStep (c.xor b.toNat)

/-- CRC-32C of a byte string: initial value and final XOR 0xFFFF_FFFF. -/
def crc32c (bs : Bytes) : Nat := (bs.foldl crcByte 0xFFFFFFFF).xor 0xFFFFFFFF

/-- One bit step of HCHK (R180). -/
def hchkStep (c : Nat) : Nat := if 0x8000 ≤ c then (c * 2 % 0x10000).xor 0x1021 else c * 2

/-- The 16-bit check of R180 over a byte string. -/
def hchk (bs : Bytes) : Nat :=
  bs.foldl (fun c b => hchkStep <| hchkStep <| hchkStep <| hchkStep <| hchkStep <| hchkStep <| hchkStep <| hchkStep
    (c.xor (b.toNat * 256))) 0xFFFF

/-! ### XXH64, seed 0 (R121) -/

def xxP1 : BitVec 64 := 0x9E3779B185EBCA87#64
def xxP2 : BitVec 64 := 0xC2B2AE3D27D4EB4F#64
def xxP3 : BitVec 64 := 0x165667B19E3779F9#64
def xxP4 : BitVec 64 := 0x85EBCA77C2B2AE63#64
def xxP5 : BitVec 64 := 0x27D4EB2F165667C5#64

def xxRound (acc lane : BitVec 64) : BitVec 64 := (acc + lane * xxP2).rotateLeft 31 * xxP1

def xxMerge (acc v : BitVec 64) : BitVec 64 := (acc ^^^ xxRound 0 v) * xxP1 + xxP4

def xxLane (bs : Bytes) (o : Nat) : BitVec 64 := BitVec.ofNat 64 (fieldAt bs o 8)

/-- Take one byte: a full 32-byte stripe is absorbed. -/
def xxByte (x : Xxh) (b : Byte) : Xxh :=
  let buf := x.buf ++ [b]
  if buf.length < 32 then { x with buf := buf, total := x.total + 1 }
  else { v1 := xxRound x.v1 (xxLane buf 0), v2 := xxRound x.v2 (xxLane buf 8), v3 := xxRound x.v3 (xxLane buf 16),
         v4 := xxRound x.v4 (xxLane buf 24), buf := [], total := x.total + 1 }

/-- Take a byte string. -/
def xxUpdate (x : Xxh) (bs : Bytes) : Xxh := bs.foldl xxByte x

/-- The last bytes: 8 at a time, then 4, then single ones. -/
def xxTail : Nat → BitVec 64 → Bytes → BitVec 64
  | 0, h, _ => h
  | n + 1, h, bs =>
    if 8 ≤ bs.length then xxTail n ((h ^^^ xxRound 0 (xxLane bs 0)).rotateLeft 27 * xxP1 + xxP4) (bs.drop 8)
    else if 4 ≤ bs.length then
      xxTail n ((h ^^^ (BitVec.ofNat 64 (fieldAt bs 0 4) * xxP1)).rotateLeft 23 * xxP2 + xxP3) (bs.drop 4)
    else match bs with
      | [] => h
      | b :: t => xxTail n ((h ^^^ (BitVec.ofNat 64 b.toNat * xxP5)).rotateLeft 11 * xxP1) t

/-- The digest. -/
def xxDigest (x : Xxh) : Nat :=
  let h := if x.total < 32 then xxP5
    else xxMerge (xxMerge (xxMerge (xxMerge (x.v1.rotateLeft 1 + x.v2.rotateLeft 7 + x.v3.rotateLeft 12
      + x.v4.rotateLeft 18) x.v1) x.v2) x.v3) x.v4
  let h := xxTail 32 (h + BitVec.ofNat 64 x.total) x.buf
  let h := (h ^^^ (h >>> 33)) * xxP2
  let h := (h ^^^ (h >>> 29)) * xxP3
  (h ^^^ (h >>> 32)).toNat

/-- XXH64 with seed 0 of a byte string. -/
def xxh64 (bs : Bytes) : Nat := xxDigest (xxUpdate {} bs)

/-! ### GF(2^8), C2 and the weft code -/

/-- Multiply by x modulo 0x11D (R184). -/
def gfX (a : Nat) : Nat := if 128 ≤ a then (2 * a).xor 0x11D else 2 * a

/-- The product in GF(2^8) mod 0x11D, over the 8 bits of the second factor. -/
def gfMul (a c : Nat) : Nat :=
  ((List.range 8).foldl (fun (s : Nat × Nat) i => (if bitOf c i then s.1.xor s.2 else s.1, gfX s.2)) (0, a)).1

/-- a^n. -/
def gfPow (a : Nat) : Nat → Nat
  | 0 => 1
  | n + 1 => gfMul a (gfPow a n)

/-- The inverse: a^254. -/
def gfInv (a : Nat) : Nat := gfPow a 254

/-- The generator of R184, coefficients from x^32 down: the product of (x − α^i), i 0 to 31. -/
def rsGen : List Nat :=
  (List.range 32).foldl (fun g i =>
    let r := gfPow 2 i
    List.zipWith Nat.xor (g ++ [0]) (0 :: g.map (gfMul r))) [1]

/-- One step of the division by the generator: the remainder register takes one more data byte. -/
def rsStep (rem : List Nat) (d : Nat) : List Nat :=
  let f := d.xor (rem.headD 0)
  List.zipWith Nat.xor (rem.drop 1 ++ [0]) (rsGen.tail.map (gfMul f))

/-- The 32 check bytes of a column of 208 data bytes (R184). -/
def rsCheck (col : List Nat) : List Nat := col.foldl rsStep (List.replicate 32 0)

/-- The coefficient C[j][i] of the weft code (R360). -/
def weftCoef (j i : Nat) : Nat := gfMul (i + 4) (gfInv (j.xor (i + 4)))

/-- Parity byte j of the data bytes at one position (R360). -/
def weftParity (j : Nat) (ds : List Nat) : Nat :=
  (ds.zipIdx.foldl (fun a (d, i) => a.xor (gfMul (weftCoef j i) d)) 0)

/-- Parity dataset bytes j of the data datasets' bytes (R195, R360). -/
def weftParityBytes (j : Nat) (ds : List Bytes) : Bytes :=
  (List.range 6815744).map fun k => BitVec.ofNat 8 (weftParity j (ds.map fun d => (d.getD k 0).toNat))

/-- Eliminate: rows (coefficients, value) of a square system over GF(2^8), solved column by column. -/
def gfSolve : Nat → List (List Nat × Nat) → List Nat
  | 0, _ => []
  | n + 1, rows =>
    match rows.find? (fun r => r.1.headD 0 != 0) with
    | none => List.replicate (n + 1) 0
    | some p =>
      let iv := gfInv (p.1.headD 0)
      let pr := (p.1.map (gfMul iv), gfMul iv p.2)
      let rest := (rows.erase p).map fun r =>
        let f := r.1.headD 0
        (List.zipWith (fun a c => a.xor (gfMul f c)) r.1 pr.1 |>.drop 1, r.2.xor (gfMul f pr.2))
      let xs := gfSolve n rest
      (List.zipWith gfMul (pr.1.drop 1) xs).foldl Nat.xor pr.2 :: xs

/-- The data bytes of a weft at one position from any K roles that are readable (R379): `known` lists (role, byte). -/
def weftSolve (k : Nat) (known : List (Nat × Nat)) : List Nat :=
  gfSolve k ((known.take k).map fun (r, v) =>
    if r < k then ((List.range k).map fun i => if i = r then 1 else 0, v)
    else ((List.range k).map (weftCoef (r - k)), v))

/-- The bytes of role `role` from the bytes of K readable roles (R379). -/
def weftRebuild (k role : Nat) (known : List (Nat × Bytes)) : Bytes :=
  (List.range 6815744).map fun p =>
    let ds := weftSolve k (known.map fun (r, bs) => (r, (bs.getD p 0).toNat))
    BitVec.ofNat 8 (if role < k then ds.getD role 0 else weftParity (role - k) ds)

/-! ### Decoding C2 (R184): erased rows and rows in error -/

/-- The 32 syndromes of a column of 240 bytes. -/
def rsSyn (col : List Nat) : List Nat :=
  (List.range 32).map fun j => col.foldl (fun a c => (gfMul a (gfPow 2 j)).xor c) 0

/-- The locator of row i: α^(239 − i). -/
def rsLoc (i : Nat) : Nat := gfPow 2 (239 - i)

/-- Product of polynomials, constant term first, cut to `n` terms. -/
def polyMul (n : Nat) (a c : List Nat) : List Nat :=
  (List.range n).map fun k => (List.range (k + 1)).foldl (fun s i => s.xor (gfMul (a.getD i 0) (c.getD (k - i) 0))) 0

/-- Value of a polynomial, constant term first. -/
def polyAt (a : List Nat) (x : Nat) : Nat := a.foldr (fun c s => (gfMul s x).xor c) 0

/-- The shortest recurrence of a sequence (Berlekamp and Massey): current and previous polynomial, its length, last
discrepancy and steps since. -/
def bmGo (s : List Nat) : Nat → Nat → List Nat → List Nat → Nat → Nat → Nat → List Nat × Nat
  | 0, _, c, _, l, _, _ => (c, l)
  | f + 1, n, c, p, l, dp, m =>
    let d := (List.range (l + 1)).foldl (fun a i => a.xor (gfMul (c.getD i 0) (if i ≤ n then s.getD (n - i) 0 else 0))) 0
    if d = 0 then bmGo s f (n + 1) c p l dp (m + 1)
    else
      let k := gfMul d (gfInv dp)
      let sh := List.replicate m 0 ++ p.map (gfMul k)
      let len := max c.length sh.length
      let c' := (List.range len).map fun i => (c.getD i 0).xor (sh.getD i 0)
      if 2 * l ≤ n then bmGo s f (n + 1) c' c (n + 1 - l) d 1 else bmGo s f (n + 1) c' p l dp (m + 1)

/-- Decode a column of 240 rows, none where the row is an erasure: up to 32 erasures, or with e erasures up to
(32 − e) / 2 rows in error. -/
def rsDecode (col : List (Option Nat)) : Option (List Nat) :=
  let r := col.map (·.getD 0)
  let er := (List.range 240).filter fun i => (col.getD i none).isNone
  let syn := rsSyn r
  if 32 < er.length then none
  else if er = [] ∧ syn.all (· = 0) then some r
  else
    let gamma := er.foldl (fun g i => polyMul 33 g [1, rsLoc i]) [1]
    let t := (polyMul 32 gamma syn).drop er.length
    let (lam, l) := bmGo t t.length 0 [1] [1] 0 1 1
    let bad := if (32 - er.length) / 2 < l then [] else
      (List.range 240).filter fun i => !er.contains i && polyAt lam (gfInv (rsLoc i)) = 0
    let pos := er ++ bad
    let mags := gfSolve pos.length ((List.range pos.length).map fun j => (pos.map fun i => gfPow (rsLoc i) j, syn.getD j 0))
    let fixed := (List.range 240).map fun i => match pos.findIdx? (· = i) with
      | some k => (r.getD i 0).xor (mags.getD k 0)
      | none => r.getD i 0
    if pos.length ≤ 32 ∧ (rsSyn fixed).all (· = 0) then some fixed else none

/-- The data rows of a sub-dataset from the rows received, by row number; none where a column does not decode. -/
def sdsDecode (rows : Nat → Option Bytes) : Option Bytes :=
  let got := (List.range 240).map rows
  let cols := (List.range 2048).map fun j => rsDecode (got.map fun r => r.map fun bs => (bs.getD j 0).toNat)
  if cols.any (·.isNone) then none
  else
    let cs := cols.map (·.getD [])
    some ((List.range 208).flatMap fun i => cs.map fun c => BitVec.ofNat 8 (c.getD i 0))

/-! ### C1 (R185), slots and modulation (R172 to R182) -/

/-- The shifts S[1][j], j 0 to 31, of R185. -/
def c1Shift : List Nat := [1, 7, 19, 38, 61, 90, 127, 158, 201, 233, 270, 309, 341, 384, 422, 467, 503, 12, 49, 83,
  112, 146, 177, 214, 252, 287, 325, 360, 398, 437, 479, 26]

/-- The bits of a byte, most significant first. -/
def bitsMsb (b : Byte) : List Bool := (List.range 8).map fun i => b.getLsbD (7 - i)

/-- The 16,384 information bits of a row (R185). -/
def rowBits (row : Bytes) : List Bool := row.flatMap bitsMsb

/-- Block j of a bit string: 512 bits. -/
def c1Block (bits : List Bool) (j : Nat) : List Bool := (bits.drop (512 * j)).take 512

/-- XOR of bit strings. -/
def xorBits (a c : List Bool) : List Bool := List.zipWith xor a c

/-- A block with index i holding bit (i + s) mod 512. -/
def c1Rot (bits : List Bool) (s : Nat) : List Bool := bits.drop s ++ bits.take s

/-- The C1 codeword of a row: information bits and the two parity blocks (R185). -/
def c1Encode (row : Bytes) : List Bool :=
  let bits := rowBits row
  let z := List.replicate 512 false
  let p0 := (List.range 32).foldl (fun a j => xorBits a (c1Block bits j)) z
  let p1 := (List.range 32).foldl (fun a j => xorBits a (c1Rot (c1Block bits j) (c1Shift.getD j 0))) (c1Rot p0 300)
  bits ++ p0 ++ p1

/-- The checks of H hold (R185). -/
def c1Ok (cw : List Bool) : Bool :=
  let z := List.replicate 512 false
  let r0 := (List.range 33).foldl (fun a j => xorBits a (c1Block cw j)) z
  let r1 := (List.range 32).foldl (fun a j => xorBits a (c1Rot (c1Block cw j) (c1Shift.getD j 0)))
    (xorBits (c1Rot (c1Block cw 32) 300) (c1Block cw 33))
  !r0.any id && !r1.any id

/-- The codeword header (R177): six bytes and HCHK. -/
def cwHeader (datasetNo desc sds kind row : Nat) : Bytes :=
  let h := leB 3 datasetNo ++ leB 1 desc ++ leB 1 (sds % 16 + 16 * (kind % 16)) ++ leB 1 row
  h ++ leB 2 (hchk h)

/-- The 17,472 bits of a slot (R176). -/
def slotBits (header row : Bytes) : List Bool := header.flatMap bitsMsb ++ c1Encode row

/-- The modulator's state within a slot: scrambler bits y[i−1], y[i−2], y[i−3], magnetization and digital sum. -/
structure ModState where
  y1 : Bool := false
  y2 : Bool := false
  y3 : Bool := false
  mag : Bool := false
  rds : Int := 0
  deriving DecidableEq, Repr

/-- One bit through scrambler and NRZI (R182). -/
def modBit (m : ModState) (u : Bool) : ModState × Bool :=
  let y := xor u (xor m.y2 m.y3)
  let mag := xor m.mag y
  ({ y1 := y, y2 := m.y1, y3 := m.y2, mag := mag, rds := m.rds + (if mag then 1 else -1) }, mag)

/-- A string of bits through scrambler and NRZI. -/
def modBits (m : ModState) : List Bool → ModState × List Bool
  | [] => (m, [])
  | u :: t => let (m1, o) := modBit m u; let (m2, os) := modBits m1 t; (m2, o :: os)

/-- One 32-bit word: the candidate with the smaller digital sum, a tie keeping a = 0 (R182). -/
def modWord (m : ModState) (w : List Bool) : ModState × List Bool :=
  let c0 := modBits m (false :: w)
  let c1 := modBits m (true :: w)
  if c1.1.rds.natAbs < c0.1.rds.natAbs then c1 else c0

/-- `n` words. -/
def modWords : Nat → ModState → List Bool → List Bool
  | 0, _, _ => []
  | n + 1, m, bits => let (m1, o) := modWord m (bits.take 32); o ++ modWords n m1 (bits.drop 32)

/-- The 18,018 channel bits of a slot after a channel bit `mag` (R182). -/
def modulate (mag : Bool) (bits : List Bool) : List Bool := modWords 546 { mag := mag } bits

/-- The preamble and postamble pattern (R173). -/
def ambleBits (n : Nat) : List Bool := (List.replicate n [true, true, false, false]).flatten

/-- The sync mark (R173), bit 63 first. -/
def syncBits : List Bool := (List.range 64).map fun i => bitOf 0xF03C0FF03CC3F00F (63 - i)

/-- First channel bit of slot k of a segment (R172). -/
def slotStart (k : Nat) : Nat := 1024 + 64 * (k / 8 + 1) + 18018 * k

/-- Channel bits of a segment (R172). -/
def segBits : Nat := 2236792

/-- The track of slot k that carries codeword (s, r) (R186). -/
def trackOf (s r : Nat) : Nat := let e := 16 * r + s; (e + 11 * (e / 32)) % 32

/-- The slot that carries codeword (s, r) (R186). -/
def slotOf (s r : Nat) : Nat := (16 * r + s) / 32

/-- The codeword (sub-dataset, row) in slot k of track t (R186). -/
def cwAt (k t : Nat) : Nat × Nat :=
  let x := (t + 32 * 11 * 4 - 11 * k) % 32
  (x % 16, if 16 ≤ x then 2 * k + 1 else 2 * k)

/-- The DESC byte number of codeword (s, r) (R179). -/
def descIndex (s r : Nat) : Nat := (16 * r + s) % 32

/-- The placement descriptor (R179). -/
def descriptor (datasetNo weftNo group k m member flags : Nat) : Bytes :=
  let d := leB 8 datasetNo ++ leB 8 weftNo ++ leB 2 group ++ leB 1 k ++ leB 1 m ++ leB 1 member ++ leB 1 flags
    ++ leB 2 1 ++ zeros 4
  d ++ leB 4 (crc32c d)

/-- Data row r of sub-dataset s of a dataset of 6,815,744 bytes (R183). -/
def dataRow (ds : Bytes) (s r : Nat) : Bytes := slice ds (s * 425984 + r * 2048) 2048

/-- Row r of sub-dataset s, check rows included (R183, R184). -/
def dsRow (ds : Bytes) (s r : Nat) : Bytes :=
  if r < 208 then dataRow ds s r
  else (List.range 2048).map fun j =>
    BitVec.ofNat 8 ((rsCheck ((List.range 208).map fun i => (ds.getD (s * 425984 + i * 2048 + j) 0).toNat)).getD (r - 208) 0)

/-- A fill codeword's slot bits (R175): slot k, dataset number. -/
def fillSlot (k datasetNo : Nat) : List Bool := slotBits (cwHeader datasetNo 0 0 5 k) (zeros 2048)

/-! ### The beam store's symbol code (R418 to R421) -/

/-- Multiply by x in GF(2^16) modulo 0x1_100B (R419). -/
def gf16X (a : Nat) : Nat := if 0x8000 ≤ a then (2 * a).xor 0x1100B else 2 * a

/-- x^n times a. -/
def gf16Pow (a : Nat) : Nat → Nat
  | 0 => a
  | n + 1 => gf16X (gf16Pow a n)

/-- The data symbols s_(j,d), d 0 to 7, of codeword j of a line (R418). -/
def lineSyms (line : Bytes) (j : Nat) : List Nat := (List.range 8).map fun d => fieldAt line (16 * j + 2 * d) 2

/-- One step of the division by g(x) = (x + 1)(x + α) = x² + (α + 1)x + α: remainder (r1, r0) takes a symbol. -/
def beamStep (r : Nat × Nat) (s : Nat) : Nat × Nat :=
  let f := s.xor r.1
  (r.2.xor (f.xor (gf16X f)), gf16X f)

/-- The check symbols of codeword j before the fold (R419). -/
def beamCheck (syms : List Nat) : Nat × Nat := syms.foldl beamStep (0, 0)

/-- The syndromes at α^0 and α^1 of ten symbols (R419). -/
def beamSyn (syms : List Nat) : Nat × Nat :=
  syms.foldl (fun (a : Nat × Nat) s => (a.1.xor s, (gf16X a.2).xor s)) (0, 0)

/-- How one codeword reads (R420): none where its syndrome is zero, some (some (d, e)) for a single-symbol error of
value e at device d, some none where it is uncorrectable. -/
def beamCw (syms : List Nat) : Option (Option (Nat × Nat)) :=
  let (s0, s1) := beamSyn syms
  if s0 = 0 ∧ s1 = 0 then none
  else if s0 = 0 then some none
  else some (((List.range 10).find? fun d => gf16Pow s0 (9 - d) = s1).map fun d => (d, s0))

/-- The class of a line read (R420). -/
inductive BeamClass where
  | clean
  | corrected (device : Nat)
  | uncorrectable
  | storedPoison
  deriving DecidableEq, Repr

/-- Class of a line from its four codewords' readings (R420, R421). -/
def beamClass (cws : List (Option (Option (Nat × Nat)))) : BeamClass :=
  let bad := cws.filterMap id
  if bad = [] then .clean
  else match bad.head? with
    | some (some (d, _)) =>
      if bad.all fun c => match c with | some (d', _) => d' = d | none => false then .corrected d
      else if cws = [some (some (0, 1)), some (some (1, 1)), none, none] then .storedPoison else .uncorrectable
    | _ => .uncorrectable

end Sys2Proof.Machine
end

