-- ==== Sys2Proof/Machine/LinkCode.lean ====
section
/-!
DEFINITION. Sys2Proof/Machine/LinkCode.lean: the codewords of a heddle or shuttle lane (spec/09_heddle_link.md R228, R229): the
RS(544,514) code over GF(2^10), the scrambler, and where header and cells lie. IEEE 802.3's code is presumed to be the one with
field polynomial x^10 + x^3 + 1 and the roots 1, α, ..., α^29 (PRESUMED, log entry 149).
-/

namespace Sys2Proof.Machine

/-! ### GF(2^10) -/

/-- Multiply by α = x modulo x^10 + x^3 + 1. -/
def lcTwice (a : Nat) : Nat := let d := 2 * a; if 1024 ≤ d then d.xor 1033 else d

/-- Product. -/
def lcMul (a c : Nat) : Nat :=
  ((List.range 10).foldl (fun (s : Nat × Nat) i => (if bitOf c i then s.1.xor s.2 else s.1, lcTwice s.2)) (0, a)).1

/-- Power, by squaring over `fuel` exponent bits. -/
def lcPow : Nat → Nat → Nat → Nat
  | 0, _, _ => 1
  | f + 1, a, e => let h := lcPow f (lcMul a a) (e / 2); if e % 2 = 1 then lcMul a h else h

/-- Inverse of a nonzero element. -/
def lcInv (a : Nat) : Nat := lcPow 10 a 1022
/-- α^e. -/
def lcAlpha (e : Nat) : Nat := lcPow 10 2 (e % 1023)

/-! ### Polynomials, lowest power first -/

def lcAdd : List Nat → List Nat → List Nat
  | [], c => c
  | a, [] => a
  | x :: a, y :: c => x.xor y :: lcAdd a c
def lcScale (k : Nat) (a : List Nat) : List Nat := a.map (lcMul k)
/-- Value at x. -/
def lcEval (a : List Nat) (x : Nat) : Nat := a.foldr (fun c s => c.xor (lcMul s x)) 0
def lcPolyMul (a c : List Nat) : List Nat := a.foldr (fun k s => lcAdd (lcScale k c) (0 :: s)) []

/-! ### RS(544,514) (R228) -/

/-- The generator polynomial without its leading 1, highest power first: 30 coefficients. -/
def lcGenerator : List Nat :=
  (((List.range 30).foldl (fun g j => lcPolyMul g [lcAlpha j, 1]) [1]).take 30).reverse

/-- The 30 check symbols of 514 message symbols, the first symbol sent being that of the highest power. -/
def lcChecks (msg : List Nat) : List Nat :=
  let g := lcGenerator
  msg.foldl (fun reg m =>
    let f := m.xor (reg.headD 0)
    List.zipWith (fun r k => r.xor (lcMul f k)) (reg.drop 1 ++ [0]) g) (List.replicate 30 0)

/-- The 30 syndromes of a received word. -/
def lcSyndromes (word : List Nat) : List Nat :=
  (List.range 30).map fun j => let a := lcAlpha j; word.foldl (fun s c => c.xor (lcMul s a)) 0

/-- The state of the Berlekamp–Massey iteration. -/
structure BmState where
  c : List Nat := [1]
  b : List Nat := [1]
  l : Nat := 0
  m : Nat := 1
  d : Nat := 1
  deriving DecidableEq, Repr

/-- One step of the iteration, on syndrome n. -/
def bmStep (syn : List Nat) (s : BmState) (n : Nat) : BmState :=
  let d := (List.range (s.l + 1)).foldl (fun a i => a.xor (lcMul (s.c.getD i 0) (syn.getD (n - i) 0))) 0
  let next := lcAdd s.c (lcScale (lcMul d (lcInv s.d)) (List.replicate s.m 0 ++ s.b))
  if d = 0 then { s with m := s.m + 1 }
  else if 2 * s.l ≤ n then { c := next, b := s.c, l := n + 1 - s.l, m := 1, d := d }
  else { s with c := next, m := s.m + 1 }

/-- The error locator. -/
def lcLocator (syn : List Nat) : BmState := (List.range 30).foldl (bmStep syn) {}

/-- Odd-power part of a polynomial, divided by x: its formal derivative. -/
def lcDerivative (a : List Nat) : List Nat := (a.drop 1).zipIdx.map fun x => if x.2 % 2 = 0 then x.1 else 0

/-- Correct a received word: its 544 symbols and the number of symbols corrected, where at most 15 are wrong. -/
def lcCorrect (word : List Nat) : Option (List Nat × Nat) :=
  let syn := lcSyndromes word
  if syn.all (· = 0) then some (word, 0)
  else
    let s := lcLocator syn
    let omega := (lcPolyMul syn s.c).take 30
    let der := lcDerivative s.c
    let fixed := word.zipIdx.map fun x =>
      let inv := lcAlpha (1023 - (543 - x.2))
      if lcEval s.c inv = 0 then
        (x.1.xor (lcMul (lcAlpha (543 - x.2)) (lcMul (lcEval omega inv) (lcInv (lcEval der inv)))), true)
      else (x.1, false)
    let n := (fixed.filter (·.2)).length
    let out := fixed.map (·.1)
    if n = s.l ∧ n ≤ 15 ∧ (lcSyndromes out).all (· = 0) then some (out, n) else none

/-! ### Bits (R228) -/

/-- The first n bits of the scrambler's output: x^31 + x^28 + 1 from all ones, each output the bit shifted in (DESIGN CHOICE, log
entry 149). Bit 0 of the register is the newest. -/
def lcScramble : Nat → Nat → List Bool
  | 0, _ => []
  | n + 1, r => let o := xor (bitOf r 30) (bitOf r 27); o :: lcScramble n ((2 * r + b2n o) % 2147483648)

/-- The 10-bit symbols of a bit string, lowest-numbered bit first. -/
def lcSymbols : Nat → List Bool → List Nat
  | 0, _ => []
  | n + 1, bs => ((bs.take 10).foldr (fun x a => b2n x + 2 * a) 0) :: lcSymbols n (bs.drop 10)

/-- The bits of symbols, bit 0 first. -/
def lcBits (syms : List Nat) : List Bool := syms.flatMap fun s => (List.range 10).map (bitOf s)

/-- The bits of bytes, bit 0 first. -/
def bitsLsb (bs : Bytes) : List Bool := bs.flatMap fun x => (List.range 8).map x.toNat.testBit

/-- Bytes of a bit string, bit 0 first. -/
def packLsb : Nat → List Bool → Bytes
  | 0, _ => []
  | n + 1, bs => BitVec.ofNat 8 ((bs.take 8).foldr (fun x a => b2n x + 2 * a) 0) :: packLsb n (bs.drop 8)

/-- A codeword of 680 bytes from the 276-bit lane header and 19 cells. -/
def lcEncode (header : Nat) (cells : List Bytes) : Bytes :=
  let bits := (List.range 276).map (bitOf header) ++ cells.flatMap bitsLsb
  let msg := lcSymbols 514 (List.zipWith xor bits (lcScramble 5140 2147483647))
  packLsb 680 (lcBits (msg ++ lcChecks msg))

/-- What a codeword of 680 bytes holds: symbols corrected, lane header and 19 cells; none where the decoder cannot correct it. -/
def lcDecode (word : Bytes) : Option (Nat × Nat × List Bytes) :=
  (lcCorrect (lcSymbols 544 (bitsLsb word))).map fun (syms, n) =>
    let bits := List.zipWith xor (lcBits (syms.take 514)) (lcScramble 5140 2147483647)
    (n, (bits.take 276).foldr (fun x a => b2n x + 2 * a) 0,
      (List.range 19).map fun c => packLsb 32 (bits.drop (276 + 256 * c)))

/-- The 680 bytes of a codeword as it arrives, bit 0 of each byte first (R228): the bits where the lane header lies, those of the 19
cells, and those of the check symbols. -/
def wireWord (header : BitVec 276) (cells : BitVec 4864) (check : BitVec 300) : Bytes :=
  leB 680 (header.toNat + 2 ^ 276 * (cells.toNat + 2 ^ 4864 * check.toNat))

/-! ### Lane header (R229) -/

/-- The lane header of a codeword: SEQ, LANE, DIR, the types of its cells, BASE and HCRC. -/
def laneHeader (seq lane dir : Nat) (types : List Nat) (base : Nat) : Nat :=
  let low := seq % 65536 + 65536 * (lane % 4) + 262144 * dir + (types.zipIdx.map fun x => x.1 % 16 * 2 ^ (20 + 4 * x.2)).sum
    + base % 65536 * 2 ^ 96
  low + hchk (leB 33 low) * 2 ^ 260

/-- A lane header's HCRC holds. -/
def headerHolds (h : Nat) : Bool := bitsOf h 260 16 = hchk (leB 33 (h % 2 ^ 260))

/-- The type of cell c in a lane header. -/
def cellType (h c : Nat) : Nat := bitsOf h (20 + 4 * c) 4

end Sys2Proof.Machine
end

