-- ==== Sys2Proof/Machine/BeamOps.lean ====
section
/-!
DEFINITION. Sys2Proof/Machine/BeamOps.lean: the beam store's allocator and free counts (spec/16_beam_store.md R422,
R430, R435, R436), used by every unit that takes or returns granules.
-/

namespace Sys2Proof.Machine

/-- Granules of 4 KiB in one release step of 64 GiB (R422). -/
def stepGranules : Nat := 16777216

/-- Populated channels C (R416). -/
def beamC (b : Block) : Nat := rd b Fld.BEAM_STATUS_CHANNELS

/-- Channels in service: Die N's alone once the die-to-die link is lost (R505). -/
def beamChans (b : Block) : Nat := if b.beam.half then beamC b / 2 else beamC b

/-- Released granules in each channel: released steps × 64 GiB over the channels in service (R422, R435). -/
def beamLimit (b : Block) : Nat := rd b Fld.BEAM_POOL_RELEASED_STEPS * stepGranules / beamChans b

def Block.beamCh (b : Block) (c : Nat) : BeamCh := tabGet {} b.beam.chs c
def Block.updBeam (b : Block) (f : Beam → Beam) : Block := { b with beam := f b.beam }
def Block.updBeamCh (b : Block) (c : Nat) (f : BeamCh → BeamCh) : Block :=
  b.updBeam fun m => { m with chs := tabUpd {} m.chs c f }

/-- Free granules: released, neither allocated nor retired (BEAM_FREE). -/
def beamFree (b : Block) : Nat :=
  let c := beamC b
  let lim := beamLimit b
  let free := ((List.range (beamChans b)).map fun i => let h := b.beamCh i; lim - h.bump + h.back.length).sum
  free - (b.beam.retired.filter fun g => g % c < beamChans b && (b.beamCh (g % c)).bump ≤ g / c && g / c < lim).length

/-- The first index from `i` up in channel `c` of `n` that is not retired; `fuel` is the number of retired granules. -/
def skipRetired (retired : List Nat) (n c : Nat) : Nat → Nat → Nat
  | 0, i => i
  | fuel + 1, i => if retired.contains (n * i + c) then skipRetired retired n c fuel (i + 1) else i

/-- Take one granule from a channel's free list, lowest first, if it has one (R436; DESIGN CHOICE, log entry 8). -/
def takeGranule (b : Block) (c : Nat) : Option (Nat × Block) :=
  let n := beamC b
  let h := b.beamCh c
  match h.back with
  | i :: t => some (n * i + c, b.updBeamCh c fun h => { h with back := t })
  | [] =>
    let i := skipRetired b.beam.retired n c b.beam.retired.length h.bump
    if i < beamLimit b then some (n * i + c, b.updBeamCh c fun h => { h with bump := i + 1 }) else none

/-- The first of `k` channels from `c` on that gives a granule; the granule, the channel after it, the block. -/
def takeAny (b : Block) (c : Nat) : Nat → Option (Nat × Nat × Block)
  | 0 => none
  | k + 1 =>
    match takeGranule b c with
    | some (g, b') => some (g, (c + 1) % beamChans b, b')
    | none => takeAny b ((c + 1) % beamChans b) k

/-- Take `k` granules, one a channel in turn from channel `c` (R436). -/
def takeMany (b : Block) (c : Nat) : Nat → Option (List Nat × Block)
  | 0 => some ([], b)
  | k + 1 =>
    match takeAny b c (beamChans b) with
    | none => none
    | some (g, c', b') => (takeMany b' c' k).map fun (l, b'') => (g :: l, b'')

/-- Allocation number a: `k` granules from channel a mod C on (R436); none where the pool has not that many. -/
def allocGranules (b : Block) (k : Nat) : Option (List Nat × Block) :=
  if beamC b = 0 ∨ beamFree b < k then none
  else (takeMany b (b.beam.allocNo % beamChans b) k).map fun (l, b') =>
    (l, b'.updBeam fun m => { m with allocNo := m.allocNo + 1 })

/-- Insert into a rising list. -/
def insertNat (x : Nat) : List Nat → List Nat
  | [] => [x]
  | y :: t => if x < y then x :: y :: t else if x = y then y :: t else y :: insertNat x t

/-- Pool byte offset of a granule (R435): index × C + (channel XOR H(index) mod C), H the keyed function of HASH_KEY. -/
def granuleOffset (b : Block) (g : Nat) : Nat :=
  let c := beamC b
  4096 * (c * (g / c) + (g % c).xor (Config.beamHash (b.beam.hashKey.getD []) (g / c) % c))

/-- The granule at a pool byte offset (R435). -/
def granuleAt (b : Block) (off : Nat) : Nat :=
  let c := beamC b
  let p := off / 4096
  c * (p / c) + (p % c).xor (Config.beamHash (b.beam.hashKey.getD []) (p / c) % c)

/-- Write an entry of log page 0x00E0 (R429). -/
def beamLog (b : Block) (kind chan dev src count off row bank : Nat) : Block :=
  logAppend b 0xE0 (leB 8 b.time.now ++ leB 1 kind ++ leB 1 chan ++ leB 1 dev ++ leB 1 src ++ leB 4 count ++ leB 8 off
    ++ leB 4 row ++ leB 2 bank ++ zeros 2)

/-- A granule leaves service: it is retired and KIND 5 logged (R430). -/
def retireNow (b : Block) (g src : Nat) : Block :=
  let b := b.updBeam fun m => { m with retired := insertNat g m.retired, pendRetire := m.pendRetire.erase g }
  let b := b.updBeamCh (g % beamC b) fun h => { h with back := h.back.erase (g / beamC b) }
  let b := wr b Fld.BEAM_RETIRED_GRANULES b.beam.retired.length
  beamLog b 5 (g % beamC b) (32 * (Config.dramRank (b.beam.hashKey.getD []) (granuleOffset b g) % 8)) src 0 (granuleOffset b g) (Config.dramRow (b.beam.hashKey.getD []) (granuleOffset b g))
    (Config.dramBank (b.beam.hashKey.getD []) (granuleOffset b g))

/-- Return granules to their free lists; one whose retirement is pending is retired instead (R430). What their lines held
is not kept: the next owner writes them before it reads them (R422). -/
def freeGranules (b : Block) (gs : List Nat) : Block :=
  let keep := b.beam.lines.filter fun (x : Nat × BeamLine) => !gs.contains (granuleAt b (64 * x.1))
  let b := b.updBeam fun m => { m with lines := keep }
  forEach gs b fun b g =>
    if b.beam.pendRetire.contains g then retireNow b g 4
    else b.updBeamCh (g % beamC b) fun h => { h with back := insertNat (g / beamC b) h.back }

end Sys2Proof.Machine
end

