-- ==== Sys2Proof/Machine/HostOps.lean ====
section
/-!
DEFINITION. Sys2Proof/Machine/HostOps.lean: queue pairs, completions and tenants as the other units use them
(spec/02_host_queues.md R36 to R74): the fetch checks of R55, the posting of completions (R45, R59, R60) and the
tenant scheduler (R65, R66).
-/

namespace Sys2Proof.Machine

/-! ### Functions, tenants and queue pairs -/

/-- Index of queue pair q of function fn in the table of pairs. -/
def qpKey (fn q : Nat) : Nat := 1024 * fn + q

/-- QP_QUOTA of a function (R41). -/
def quotaOf (b : Block) (fn : Nat) : Nat := rd b (Fld.HQI_FN_MAP_QP_QUOTA fn)

/-- Tenant of a function (R39). -/
def tenantOf (b : Block) (fn : Nat) : Nat := if fn = 0 then 0 else rd b (Fld.HQI_FN_MAP_TENANT fn)

/-- The function is on port B (R36, R37). -/
def onPortB (b : Block) (fn : Nat) : Bool := 2 ≤ (tabGet {} b.hq.fns fn : FnCfg).endpoint

/-- A die works with the other: Die S does not once the part is half isolated (R504, R505). -/
def dieUp (b : Block) (die : Nat) : Bool := die = 0 || !rdB b Fld.BOOT_STATE_HALF_ISOLATED

/-- Die of the host port that carries a function's data. -/
def dieOfFn (b : Block) (fn : Nat) : Nat := b2n (onPortB b fn)

/-- Global queue pair index (R41). -/
def globalQp (b : Block) (fn q : Nat) : Nat := ((List.range fn).map (quotaOf b)).sum + q

/-- Entries of each queue of a pair. -/
def qpSize (p : Qp) : Nat := 2 ^ p.sizeLog2

/-- Entries in the SQ, and unfreed entries in the CQ (R44, R45). -/
def sqCount (p : Qp) : Nat := (p.sqTail + qpSize p - p.sqHead) % qpSize p
def cqCount (p : Qp) : Nat := (p.cqTail + qpSize p - p.cqHead) % qpSize p

/-- The CQ is full (R45). -/
def cqFull (p : Qp) : Bool := cqCount p + 1 == qpSize p

/-- ENABLE of a pair (R43). -/
def qpOn (b : Block) (fn q : Nat) : Bool := rdB b (Fld.QP_CTRL_ENABLE fn q)

/-- DMA_ERR of a pair (R48). -/
def dmaErr (b : Block) (fn q : Nat) : Bool := rdB b (Fld.QP_STATUS_DMA_ERR fn q)

/-- The pair is enabled and fetching (QP_STATUS.ACTIVE). -/
def qpActive (b : Block) (fn q : Nat) : Bool := qpOn b fn q && (b.qp (qpKey fn q)).fetching

/-- QP_STATUS.IDLE: disabled, and every command taken from it has completed or been dropped (R44, R47, R48). -/
def qpIdle (b : Block) (fn q : Nat) : Bool :=
  let p := b.qp (qpKey fn q)
  !qpOn b fn q && p.fetched.isEmpty && p.running == 0 && p.waiting.isEmpty

/-! ### Completions -/

/-- The 32 bytes of a completion entry (R51). -/
def cqEntry (p : Qp) (c : Completion) : Bytes :=
  leB 2 c.cid ++ leB 2 c.status ++ leB 2 p.sqHead ++ leB 1 c.level ++ zeros 1 ++ leB 8 c.seq ++ slice c.result 0 12
    ++ leB 2 c.detail ++ leB 2 (if p.phase then 0x8000 else 0)

/-- Free an in-flight object entry (R84). -/
def freeObj (b : Block) (i : Nat) : Block := b.updObj i fun _ => {}

/-- A stream's slot becomes free; its generation stays (R76, R78). Its carding context goes with it, and a set of granules that waits
to be attached to a dataset of the stream returns to the pool (R105; DESIGN CHOICE, log entry 139). -/
def freeStream (b : Block) (slot : Nat) : Block :=
  let saved : SavedCtx := tabGet {} b.card.saved slot
  let b := if saved.dataset = none then freeGranules b saved.granules else b
  let b := { b with card := { b.card with
    saved := tabSet {} b.card.saved slot {}, ctxs := tabSet {} b.card.ctxs slot {}
    engines := b.card.engines.map fun (x : Nat × Engine) => if x.2.ctx = some slot then (x.1, { x.2 with ctx := none }) else x } }
  b.updStream slot fun s => { gen := s.gen }

/-- What the posting, or the discarding under R48, of a completion brings with it (R78, R84). -/
def afterCompletion (b : Block) (c : Completion) : Block :=
  let b := match c.frees with | some i => freeObj b i | none => b
  match c.closes with | some s => freeStream b s | none => b

/-- Signal the CQ's vector if its condition holds (R41). -/
def signalCq (b : Block) (fn q : Nat) (timeUp : Bool) : Block :=
  let p := b.qp (qpKey fn q)
  if rdB b (Fld.QP_CTRL_IE fn q) ∧ 0 < p.unsignalled ∧
      (rd b (Fld.QP_CTRL_AGG_COUNT fn q) + 1 ≤ min p.unsignalled (cqCount p) ∨ rd b (Fld.QP_CTRL_AGG_TIME fn q) = 0 ∨ timeUp) then
    sendMsix (b.updQp (qpKey fn q) fun p => { p with unsignalled := 0, unsigSince := none })
      fn (rd b (Fld.QP_CTRL_VECTOR fn q))
  else b

/-- Log page 0x0020 (R74). -/
def logFailure (b : Block) (fn q : Nat) (c : Completion) : Block :=
  if c.status / 4096 = 0 then b
  else logAppend b 0x20 (leB 8 b.time.now ++ leB 2 c.status ++ leB 1 c.opcode ++ leB 1 fn ++ leB 2 (globalQp b fn q)
    ++ leB 2 c.cid ++ leB 8 c.seq ++ leB 4 c.handle ++ leB 2 c.detail ++ leB 1 c.level ++ zeros 1)

/-- A completion joins those that wait for their CQ slot. -/
def pushCompletion (b : Block) (fn q : Nat) (c : Completion) : Block :=
  b.updQp (qpKey fn q) fun p => { p with waiting := p.waiting ++ [c] }

/-- The completion of an entry that is not accepted (R51, R62): SEQ all ones, LEVEL 0. -/
def failEntry (b : Block) (fn q : Nat) (e : Sqe) (status detail : Nat) (result : Bytes := []) : Block :=
  pushCompletion b fn q { cid := e.cid, status := status, seq := 0xFFFFFFFFFFFFFFFF, detail := detail, result := result,
                          opcode := e.opcode, handle := e.handle }

/-- The order class of a stream command's completion (R60): 1 STAGED, 2 TAPED, 0 neither. -/
def orderClass (c : Cmd) : Nat :=
  if c.stream.isNone then 0
  else if c.e.opcode = 4 ∨ c.e.opcode = 5 ∨ c.e.opcode = 2 ∨ c.e.opcode = 6 then (if c.taped then 2 else 1) else 0

/-- Take a finished command out of the part: its completion waits for its CQ slot, or is discarded (R48, R59). -/
def releaseCmd (b : Block) (n : Nat) : Block :=
  let c := b.cmd n
  match c.fin with
  | none => b
  | some f =>
    let b := { b with hq := { b.hq with cmds := tabSet {} b.hq.cmds n {} } }
    let b := if c.implicit then b else b.updQp (qpKey c.fn c.q) fun p => { p with running := p.running - 1 }
    if c.drop then afterCompletion b f else pushCompletion b c.fn c.q f

/-- A completion of a class of the stream has been handed to its pair and is not yet in its CQ (R60). -/
def unposted (b : Block) (handle cls : Nat) : Bool :=
  b.hq.qps.any fun (x : Nat × Qp) => x.2.waiting.any fun c => c.stream = some handle && c.cls = cls

/-- Hand out the finished completions of a stream, in SEQ order within each class: on whatever queues they lie, the next of a
class goes to its pair only once the one before it has been posted or discarded (R60). -/
def flushDone (b : Block) (handle : Nat) : Block :=
  ((b.hq.cmds.filter fun (_, c) => c.stream = some handle).foldl (fun (a : Block × Bool × Bool) (n, c) =>
    let k := orderClass c
    let held := (k = 1 && a.2.1) || (k = 2 && a.2.2)
    if c.fin.isSome && !held then (releaseCmd a.1 n, a.2.1 || (k = 1 && !c.drop), a.2.2 || (k = 2 && !c.drop))
    else (a.1, a.2.1 || k = 1, a.2.2 || k = 2)) (b, unposted b handle 1, unposted b handle 2)).1

/-- Write the first waiting completion of a pair to its CQ, if a slot is free and no failed write holds the entries back (R45,
R48, R61); the next of its stream may then follow (R60). -/
def postOne (b : Block) (fn q : Nat) : Block :=
  let k := qpKey fn q
  let p := b.qp k
  match p.waiting with
  | [] => b
  | c :: rest =>
    if cqFull p ∨ p.cqHeld then b
    else
      let b := emit b (.hostWrite fn (p.cqBase + 32 * p.cqTail) (cqEntry p c))
      let b := logFailure b fn q c
      let last := p.cqTail + 1 = qpSize p
      let b := b.updQp k fun p => { p with
        waiting := rest, cqTail := (p.cqTail + 1) % qpSize p, phase := xor p.phase last,
        unsignalled := p.unsignalled + 1, unsigSince := p.unsigSince.orElse fun _ => some b.time.now }
      let b := signalCq (afterCompletion b c) fn q false
      match c.stream with | some h => flushDone b h | none => b

/-- A command ends: its completion is known, and is handed out in its turn (R59, R60). -/
def finishCmd (b : Block) (n status level : Nat) (result : Bytes := []) (detail : Nat := 0) (frees closes : Option Nat := none) :
    Block :=
  let c := b.cmd n
  let f : Completion := { cid := c.e.cid, status := status, level := level, seq := c.seq, result := result,
                          detail := detail, opcode := c.e.opcode, handle := c.e.handle, frees := frees, closes := closes,
                          stream := c.stream, cls := orderClass c }
  let b := b.updCmd n fun c => { c with fin := some f, phase := .done }
  match c.stream with
  | some h => flushDone b h
  | none => releaseCmd b n

/-! ### Fetch checks (R12, R40, R50, R52, R55) -/

/-- The opcodes of R52. -/
def opcodes : List Nat := [0x01, 0x02, 0x03, 0x04, 0x05, 0x06, 0x07, 0x10, 0x11, 0x12, 0x13, 0x14, 0x20, 0x21, 0x22,
  0x30, 0x31, 0x32, 0x33, 0x40, 0x41, 0x42, 0x50, 0x51]

/-- Opcodes marked FN 0 (R40). -/
def fn0Ops : List Nat := [0x10, 0x11, 0x20, 0x21, 0x22, 0x41, 0x42, 0x50, 0x51]

/-- Opcodes that use HANDLE, OBJECT_ID, a data buffer, PARAM0, PARAM1, PARAM2. -/
def usesHandle (o : Nat) : Bool := [2, 3, 4, 5, 6, 7].contains o
def usesObject (o : Nat) : Bool := [3, 7, 0x12, 0x13, 0x14].contains o
def usesBuffer (o : Nat) : Bool := [4, 0x13, 0x14, 0x30, 0x32, 0x33, 0x40, 0x41, 0x42].contains o
def usesForce (o : Nat) : Bool := [2, 4, 5, 6].contains o

/-- The bits of PARAM0, PARAM1 and PARAM2 that an opcode uses (R52 and the chapters it names). -/
def paramMask (o : Nat) : Nat × Nat × Nat :=
  let all := 0xFFFFFFFFFFFFFFFF
  match o with
  | 0x01 => (0xFFFFFFFF, 0, 0)
  | 0x03 => (1, 0, 0)
  | 0x10 => (0x1F, 0, 0)
  | 0x11 => (0x1F, 0, 0)
  | 0x13 => (all, 1, 0)
  | 0x14 => (0xFFFFFFFF, 1, 0)
  | 0x20 => (0x3FFFFFF, all, all)
  | 0x21 => (0x3F1FFFFF, all, all)
  | 0x22 => (0xFFFFFFFFF, all, all)
  | 0x30 => (0xFFF, all, 0)
  | 0x31 => (0xFFF, 0, 0)
  | 0x32 => (0x1FFFFFF, all, all)
  | 0x40 => (0xFFFF, all, 0)
  | 0x41 => (0x3371F, 0x1FFFF, 0)
  | 0x42 => (0x7FFF0003FF1F, all, 0x1FFFFFFFFFF)
  | 0x50 => (0x3FF, 0, 0)
  | 0x51 => (all, 3, 0)
  | _ => (0, 0, 0)

/-- The first fault of a scatter list (R50): offset 24 for the alignment, a descriptor or the count, 32 for the total. -/
def sglFault (e : Sqe) (sgl : List Sgl) : Option Nat :=
  if e.dataAddr % 16 ≠ 0 then some 24
  else if sgl.length = 0 ∨ 4096 < sgl.length ∨ sgl.any (fun d => d.len = 0 ∨ 67108864 < d.len ∨ d.rsv ≠ 0) then some 24
  else if (sgl.map (·.len)).sum ≠ e.length then some 32
  else none

/-- LENGTH is one the opcode allows (R52 and the chapters it names). -/
def lengthOk (o len : Nat) : Bool :=
  match o with
  | 0x04 => 1 ≤ len && len ≤ 67108864
  | 0x13 => 1 ≤ len
  | 0x30 => len = 40
  | 0x33 => 1 ≤ len && len ≤ 65536
  | 0x40 => 1 ≤ len
  | 0x42 => len = 131136
  | _ => true

/-- The reserved bits of a PARAM are 0. -/
def maskOk (mask v : Nat) : Bool := v.land mask = v

/-- INJECT_CAPTURE (R329, R330): a reserved loop or node; a frequency or hold time of its KIND outside its range; DECIM 0 or a
reserved selector. -/
def injectFault0 (e : Sqe) : Bool := 6 ≤ bitsOf e.param0 8 3 || 20 ≤ bitsOf e.param0 11 5
def injectFault1 (e : Sqe) : Bool :=
  let kind := bitsOf e.param0 16 2
  let bad (lo hi v : Nat) : Bool := v < lo || hi < v
  ((kind = 1 || kind = 2) && bad 1 20000 (bitsOf e.param1 0 16)) || (kind = 2 && bad 1 20000 (bitsOf e.param1 16 16))
    || (kind = 3 && bad 1 1024 (bitsOf e.param1 16 16))
def injectFault2 (e : Sqe) : Bool :=
  bitsOf e.param2 32 8 = 0 || (List.range 4).any fun i =>
    let node := bitsOf e.param2 (8 * i) 5
    match bitsOf e.param2 (8 * i + 5) 3 with
    | 6 => 12 < node
    | 7 => true
    | _ => 20 < node

/-- The first field of an entry in error, by ascending offset, beside what later checks of the opcode find (R12, R55). -/
def fieldFault (e : Sqe) (sgl : List Sgl) : Option Nat :=
  let o := e.opcode
  let (m0, m1, m2) := paramMask o
  let useSgl := usesBuffer o && bitOf e.flags 1
  let sf := if useSgl then sglFault e sgl else none
  if e.rsv ≠ 0 then some 1
  else if !usesHandle o && e.handle ≠ 0 then some 4
  else if !usesObject o && e.objectId.any (· ≠ 0) then some 8
  else if (!usesBuffer o && e.dataAddr ≠ 0) || sf = some 24 then some 24
  else if (!usesBuffer o && e.length ≠ 0) || (usesBuffer o && !lengthOk o e.length) || sf = some 32 then some 32
  else if 4 ≤ e.flags || (bitOf e.flags 0 && !usesForce o) || (bitOf e.flags 1 && !usesBuffer o) then some 36
  else if !maskOk m0 e.param0 || (o = 1 && 10 ≤ bitsOf e.param0 16 4) || (o = 0x41 && 6 ≤ bitsOf e.param0 8 3)
      || (o = 0x42 && injectFault0 e) then some 40
  else if !maskOk m1 e.param1 || (o = 0x42 && injectFault1 e) || (o = 0x21 && bitsOf e.param0 28 2 = 0 && e.param1 ≠ 0) then some 48
  else if !maskOk m2 e.param2 || (o = 0x42 && injectFault2 e) then some 56
  else none

/-- The fetch checks of R55 in their order: status and DETAIL of the first that fails. -/
def fetchFault (fn : Nat) (e : Sqe) (sgl : List Sgl) : Option (Nat × Nat) :=
  if !opcodes.contains e.opcode then some (0x1001, 0)
  else if fn0Ops.contains e.opcode && fn ≠ 0 then some (0x1006, 0)
  else (fieldFault e sgl).map fun d => (0x1002, d)

/-- The fields of a submission entry (R49). -/
def sqeOf (raw : Bytes) : Sqe :=
  { opcode := fieldAt raw 0 1, rsv := fieldAt raw 1 1, cid := fieldAt raw 2 2, handle := fieldAt raw 4 4,
    objectId := slice raw 8 16, dataAddr := fieldAt raw 24 8, length := fieldAt raw 32 4, flags := fieldAt raw 36 4,
    param0 := fieldAt raw 40 8, param1 := fieldAt raw 48 8, param2 := fieldAt raw 56 8 }

/-- The reads of an entry: its 64 bytes at the SQ head, and its scatter list where it names one (R42, R50). -/
def fetchReads (b : Block) (fn q : Nat) (e : Sqe) (sgl : List Sgl) : Block :=
  let p := b.qp (qpKey fn q)
  let b := emit b (.hostRead fn (p.sqBase + 64 * p.sqHead) 64)
  if usesBuffer e.opcode && bitOf e.flags 1 && e.dataAddr % 16 = 0 then emit b (.hostRead fn e.dataAddr (16 * sgl.length)) else b

/-- A host queue core has read the entry at the SQ head (R42, R55): the head advances; an entry that fails the fetch checks
completes at once, as does every entry on port B of a half isolated part (R504); another waits for the scheduler. -/
def fetchEntry (b : Block) (fn q : Nat) (e : Sqe) (sgl : List Sgl) : Block :=
  let b := fetchReads b fn q e sgl
  let b := b.updQp (qpKey fn q) fun p => { p with sqHead := (p.sqHead + 1) % qpSize p }
  match fetchFault fn e sgl with
  | some (st, d) => failEntry b fn q e st d
  | none =>
    if rdB b Fld.BOOT_STATE_HALF_ISOLATED && onPortB b fn then failEntry b fn q e 0x9002 0
    else b.updQp (qpKey fn q) fun p => { p with fetched := p.fetched ++ [⟨e, sgl⟩] }

/-- An entry can be fetched: the pair fetches, its SQ is not empty and its CQ is not full (R44, R45). -/
def canFetch (b : Block) (fn q : Nat) : Bool :=
  let p := b.qp (qpKey fn q)
  qpActive b fn q && sqCount p != 0 && !cqFull p

/-- Host addresses of `n` bytes from byte `o` of a command's buffer: pieces (address, length) (R50). -/
def bufPieces (e : Sqe) (sgl : List Sgl) (o n : Nat) : List (Nat × Nat) :=
  if bitOf e.flags 1 then
    ((sgl.foldl (fun (a : List (Nat × Nat) × Nat) d =>
      let lo := max o a.2
      let hi := min (o + n) (a.2 + d.len)
      (if lo < hi then a.1 ++ [(d.addr + (lo - a.2), hi - lo)] else a.1, a.2 + d.len)) ([], 0)).1)
  else if n = 0 then [] else [(e.dataAddr + o, n)]

/-- Write bytes to a command's buffer from byte `o` on (R61). -/
def writeBuf (b : Block) (fn : Nat) (e : Sqe) (sgl : List Sgl) (o : Nat) (data : Bytes) : Block :=
  ((bufPieces e sgl o data.length).foldl (fun (a : Block × Nat) (p : Nat × Nat) =>
    (emit a.1 (.hostWrite fn p.1 ((data.drop a.2).take p.2)), a.2 + p.2)) (b, 0)).1

/-- Read bytes of a command's buffer: the requests go out; the data are an operand of the command. -/
def readBuf (b : Block) (fn : Nat) (e : Sqe) (sgl : List Sgl) (o n : Nat) : Block :=
  forEach (bufPieces e sgl o n) b fun b p => emit b (.hostRead fn p.1 p.2)

/-! ### Acceptance window and scheduler (R57, R65, R66) -/

/-- Commands that move host data through the port's acceptance window (R57). -/
def movesData (o : Nat) : Bool := usesBuffer o

/-- The command's data have not all been transferred (R57). -/
def transferring (c : Cmd) : Bool :=
  if c.e.opcode = 4 then c.arrived < c.e.length && !c.ended && c.fin.isNone
  else movesData c.e.opcode && c.fin.isNone

/-- LENGTH of commands accepted on a port and not yet fully transferred (R57). -/
def windowUse (b : Block) (portB : Bool) : Nat :=
  ((b.hq.cmds.filter fun (_, c) => onPortB b c.fn = portB && transferring c).map fun (_, c) => c.e.length).sum

/-- A command of the entry has room in its port's window (R57). -/
def windowRoom (b : Block) (fn : Nat) (e : Sqe) : Bool :=
  !movesData e.opcode || windowUse b (onPortB b fn) < 16777216

/-- Some held command of another queue of the same tenant, who alone can hold the stream, names the same stream (R39, R55). -/
def streamHeld (b : Block) (tenant : Nat) (e : Sqe) : Bool :=
  usesHandle e.opcode && b.hq.qps.any fun (k, p) =>
    p.held.isSome && tenantOf b (k / 1024) = tenant && match p.fetched with | f :: _ => f.e.handle = e.handle | [] => false

/-- Commands that run before READY, in recovery and when TAMPERED: ATTEST_QUOTE and GET_LOG (R498, R499, R512). -/
def early (o : Nat) : Bool := o = 0x32 || o = 0x40

/-- Start-up is on its way to READY: other commands wait (R498). -/
def starting (b : Block) : Bool := let s := rd b Fld.BOOT_STATE_STATE; s = 1 || s = 2

/-- The queue's head entry is fetched, not held, not behind a held command of its stream, has window room (R65), and may run
before READY where the part is not READY yet (R498). DESIGN CHOICE (log entry 137): an entry that waits for window room alone
is not ready, and is not counted among the held commands: it blocks its queue, and no later command of its stream on another
queue. -/
def queueReady (b : Block) (k : Nat) : Bool :=
  let p := b.qp k
  match p.fetched with
  | f :: _ => p.held.isNone && windowRoom b (k / 1024) f.e && !streamHeld b (tenantOf b (k / 1024)) f.e && (early f.e.opcode || !starting b)
  | [] => false

/-- WEIGHT of a tenant. -/
def weightOf (b : Block) (t : Nat) : Nat := rd b (Fld.HQI_TENANT_WEIGHT_WEIGHT t)

/-- Ready queues of a tenant: keys in table order, which is global index order. -/
def readyQueues (b : Block) (t : Nat) : List Nat :=
  (tabKeys b.hq.qps).filter fun k => tenantOf b (k / 1024) = t && queueReady b k

/-- The tenant is ready (R65). -/
def tenantReady (b : Block) (t : Nat) : Bool := weightOf b t != 0 && !(readyQueues b t).isEmpty

/-- Tenants with a fetched entry, rising. -/
def activeTenants (b : Block) : List Nat :=
  ((b.hq.qps.filter fun (x : Nat × Qp) => !x.2.fetched.isEmpty).map fun x => tenantOf b (x.1 / 1024)).foldr insertNat []

/-- The ready tenants, rising (R65). -/
def readyTenants (b : Block) : List Nat := (activeTenants b).filter (tenantReady b)

/-- Tenants that become ready take S[t] = max(S[t], V) (R65). -/
def refreshReady (b : Block) : Block :=
  let now := readyTenants b
  let fresh := now.filter fun t => !b.hq.ready.contains t
  let b := forEach fresh b fun b t => b.updTenant t fun x => { x with tag := max x.tag b.hq.vtime }
  { b with hq := { b.hq with ready := now } }

/-- Bytes a command is charged for (R65). -/
def costOf (e : Sqe) : Nat := if [4, 0x13, 0x14, 0x40].contains e.opcode then max e.length 4096 else 4096

/-- Charge a tenant for an accepted command (R65, R66). -/
def charge (b : Block) (t weight : Nat) (e : Sqe) : Block :=
  b.updTenant t fun x => { x with tag := (x.tag + ceilDiv (costOf e * 65536) weight) % 2 ^ 64 }

/-- The first ready queue after last_q in global index order, wrapping (R65). -/
def nextQueue (b : Block) (t : Nat) : Option Nat :=
  let qs := readyQueues b t
  let lq := (b.tenant t).lastQ
  (qs.find? fun k => lq < globalQp b (k / 1024) (k % 1024)).orElse fun _ => qs.head?

/-- The scheduler's choice (R65): the ready tenant with the least start tag, ties to the lowest, and its queue. -/
def schedPick (b : Block) : Option (Nat × Nat) :=
  let ts := readyTenants b
  match ts with
  | [] => none
  | t0 :: _ =>
    let t := ts.foldl (fun a t => if (b.tenant t).tag < (b.tenant a).tag then t else a) t0
    (nextQueue b t).map fun k => (t, k)

/-- The pick sets V and last_q (R65, R66). -/
def schedTake (b : Block) (t k : Nat) : Block :=
  let v := (b.tenant t).tag
  let b := { b with hq := { b.hq with vtime := v } }
  b.updTenant t fun x => { x with lastQ := globalQp b (k / 1024) (k % 1024) }

/-- Remove the head entry of a queue and its hold. -/
def popHead (b : Block) (k : Nat) : Block := b.updQp k fun p => { p with fetched := p.fetched.drop 1, held := none }

/-- Take a command into the part: its acceptance number (R51, R59). -/
def newCmd (b : Block) (k : Nat) (f : Fetched) (stream obj : Option Nat) (seq : Nat) (taped : Bool) (phase : Phase) :
    Nat × Block :=
  let n := b.hq.nextCmd
  let c : Cmd := { e := f.e, sgl := f.sgl, fn := k / 1024, q := k % 1024, tenant := tenantOf b (k / 1024),
                   stream := stream, obj := obj, seq := seq, taped := taped, phase := phase }
  let b := { b with hq := { b.hq with cmds := tabSet {} b.hq.cmds n c, nextCmd := n + 1 } }
  (n, b.updQp k fun p => { p with running := p.running + 1 })

end Sys2Proof.Machine
end

