-- ==== Sys2Proof/Machine/BobOps.lean ====
section
/-!
DEFINITION. Sys2Proof/Machine/BobOps.lean: wide words and the bobbin FIFOs (spec/03_ingest.md R87 to R101).
-/

namespace Sys2Proof.Machine

/-! ### Wide words (R88 to R92) -/

/-- Parity of the bits of a number below 2^n. -/
def parityN (n v : Nat) : Nat := ((List.range n).filter (bitOf v)).length % 2

/-- Parity of a byte string. -/
def parityB (bs : Bytes) : Nat := parityN 8 (bs.foldl (fun a x => a.xor x.toNat) 0)

/-- The parity bits [24:16] of the side band for data and tag bits [15:0] (R90). -/
def sideParity (data : Bytes) (tag : Nat) : Nat :=
  parityN 16 tag * 2 ^ 16 + ((List.range 8).map fun j => parityB (slice data (8 * j) 8) * 2 ^ (17 + j)).sum

/-- The side band of a wide word (R90). -/
def sideBand (data : Bytes) (valid : Nat) (last poison idle term : Bool) : Nat :=
  let tag := valid + 128 * b2n last + 256 * b2n poison + 512 * b2n idle + 1024 * b2n term
  tag + sideParity data tag

/-- A wide word of data bytes, the rest 0x00 (R89). -/
def wideWord (bs : Bytes) (last poison term : Bool) : WideWord :=
  { data := slice bs 0 64, side := sideBand (slice bs 0 64) bs.length last poison false term }

/-- The idle word (R92). -/
def idleWord : WideWord := { data := zeros 64, side := sideBand (zeros 64) 0 false false true false }

/-- Pack bytes into wide words (R89): the words complete, and the bytes left over; with `last`, nothing is left over and
the last word carries LAST. -/
def packWords (last : Bool) : Nat → Bytes → List WideWord × Bytes
  | 0, bs => ([], bs)
  | n + 1, bs =>
    if bs.length < 64 ∨ (last ∧ bs.length = 64) then
      if last ∧ bs ≠ [] then ([wideWord bs true false false], []) else if bs.length = 64 then ([wideWord bs false false false], [])
      else ([], bs)
    else
      let (ws, r) := packWords last n (bs.drop 64)
      (wideWord (bs.take 64) false false false :: ws, r)

/-- Wide words that `n` further bytes of a record can fill after `o` bytes (R95). -/
def wordsFor (o n : Nat) : Nat := ceilDiv (o + n) 64 - ceilDiv o 64

/-! ### Record bobbins (R91 to R96) -/

/-- A record bobbin is released: its record no longer holds it (R96). -/
def releaseBobbin (b : Block) (k : Nat) : Block :=
  let x := b.bobbin k
  let b := b.updBobbin k fun _ => {}
  match x.owner with
  | some n => if (b.cmd n).bobbin = some k then b.updCmd n fun c => { c with bobbin := none } else b
  | none => b

/-- What follows in a record bobbin (R91, R93, R94, R96): while a drop is under way the words stored are discarded, and it ends,
counted in DROPS, with the last word the DMA engine writes for the packet; a bobbin whose packet has been read or discarded whole is
released. -/
def settleBobbin (b : Block) (k : Nat) : Block :=
  let x := b.bobbin k
  if x.dropping then
    if x.allIn then inc (releaseBobbin b k) (Fld.BOB_DROP_COUNT_DROPS (k / 512))
    else b.updBobbin k fun x => { x with words := [], taken := x.wrote }
  else if x.allIn && x.taken = x.wrote then releaseBobbin b k
  else b

/-- A drop begins on the packet in progress (R91, R93): its words are discarded up to the last. -/
def dropRest (b : Block) (k : Nat) : Block :=
  settleBobbin (b.updBobbin k fun x => { x with dropping := true, inPacket := false }) k

/-- Words reach a record bobbin's write side (R94, R95): each gives its reservation back. -/
def storeWords (b : Block) (k : Nat) (ws : List WideWord) (allIn : Bool) : Block :=
  settleBobbin (b.updBobbin k fun x => { x with
    words := x.words ++ ws, wrote := x.wrote + ws.length, reserved := x.reserved - ws.length, allIn := x.allIn || allIn }) k

/-- The packet is closed with a terminator word (R98, R100): bytes of whole narrow words still being packed go before it in its wide
word, and no issued read is waited for any more. -/
def terminate (b : Block) (k : Nat) (poison : Bool) : Block :=
  let p := (b.bobbin k).packing
  let b := b.updBobbin k fun x => { x with packing := [], reserved := 1, due := 0 }
  storeWords b k [wideWord (p.take (16 * (p.length / 16))) true poison true] true

/-- The record bobbin that serves a record. -/
def bobbinOf (b : Block) (n : Nat) : Option Nat :=
  (b.ing.bobbins.find? fun (x : Nat × Bobbin) => x.2.owner = some n).map Prod.fst

/-- The packet of a record of an ended object (R99, R100). No further read is issued for it. A transfer that has not begun leaves
nothing; one that has begun and not ended is closed with a terminator word once the reads already issued have come in (DESIGN
CHOICE, log entry 138); the consumer orders DROP_REST for a packet it has begun, and drops another whole when it reaches it. -/
def dropPacket (b : Block) (n : Nat) : Block :=
  let b := b.updCmd n fun c => { c with ended := true }
  match (b.cmd n).bobbin with
  | none => b
  | some k =>
    let b := b.updBobbin k fun x => { x with dead := true, dropping := x.dropping || x.inPacket, inPacket := false }
    let x := b.bobbin k
    if x.wrote = 0 ∧ x.due = 0 ∧ x.packing = [] then releaseBobbin b k
    else if x.due = 0 ∧ !x.allIn then terminate b k false
    else settleBobbin b k

/-- Bytes of an issued read arrive in order and are packed into wide words (R88, R89); the last ones end the packet, which the
object's ending closes with a terminator word where not all of the record was read (R100). -/
def recordBytes (b : Block) (k n : Nat) (data : Bytes) : Block :=
  let x := b.bobbin k
  let last := x.due = data.length ∧ x.left = 0
  let buf := x.packing ++ data
  let p := packWords last (buf.length / 64 + 1) buf
  let b := b.updBobbin k fun x => { x with packing := p.2, due := x.due - data.length }
  let b := if (b.cmd n).e.opcode = 4 then b.updCmd n fun c => { c with arrived := c.arrived + data.length } else b
  let b := storeWords b k p.1 last
  let y := b.bobbin k
  if y.dead && y.due = 0 && !y.allIn then terminate b k false else b

/-- XOR a flip pattern onto bytes. -/
def flipBytes (bs f : Bytes) : Bytes := bs.zipIdx.map fun (x, i) => x ^^^ f.getD i 0

/-- A word leaves a bobbin: its fields after the check of R91 (data, side band, poisoned, last), and the block. A mismatch in
TAG_PAR forces LAST, and the rest of a record's packet is then discarded, unless the word is its true last. -/
def readWord (b : Block) (k : Nat) (w : WideWord) (flipData : Bytes) (flipSide : Nat) : (Bytes × Nat × Bool × Bool) × Block :=
  let data := flipBytes w.data flipData
  let side := w.side.xor (flipSide % 2 ^ 25)
  let par := sideParity data (side % 65536)
  let tagBad := bitOf par 16 != bitOf side 16
  let bad := tagBad || (List.range 8).any fun j => bitOf par (17 + j) != bitOf side (17 + j)
  let side := if bad then side.lor 256 else side
  let side := if tagBad then side.lor 128 else side
  let b := if bad then inc b (Fld.BOB_ERR_COUNT_PARITY_ERR (k / 512)) else b
  let b := emit b (.wide data side)
  ((data, side, bitOf side 8, bitOf side 7), b.updBobbin k fun x => { x with
    words := x.words.drop 1, taken := x.taken + 1, inPacket := !bitOf side 7
    dropping := 10 ≤ k % 512 && tagBad && !(x.allIn && x.taken + 1 = x.wrote) })

/-- The consumer reaches the packet of an object that has ended: it reads the first word and orders DROP_REST for the rest (R100,
R101). -/
def readDead (b : Block) (k : Nat) (w : WideWord) (flipData : Bytes) (flipSide : Nat) : Block :=
  let r := readWord b k w flipData flipSide
  if r.1.2.2.2 then settleBobbin r.2 k else dropRest r.2 k

end Sys2Proof.Machine
end

