-- ==== Sys2Proof/Machine/Zstd.lean ====
section
/-!
DEFINITION. Sys2Proof/Machine/Zstd.lean: the carding engine's compressor (spec/05_match_finding.md R127 to R139,
spec/04_carding.md R109 to R113) and the decoder of the accepted frames (R122). The forms and constants the spec
leaves to RFC 8878 are those of that standard (log entry 7).
-/

namespace Sys2Proof.Machine

/-- ⌊log2 n⌋, 0 for 0. -/
def log2 (n : Nat) : Nat := n.log2

/-- ⌈log2 n⌉. -/
def clog2 (n : Nat) : Nat := if n ≤ 1 then 0 else (n - 1).log2 + 1

/-! ### Match finding (R127 to R131) -/

/-- The hash of position p (R127). -/
def hash4 (c : Bytes) (p : Nat) : Nat := fieldAt c p 4 * 0x9E3779B1 % 4294967296 / 32768

/-- Common bytes of positions a and q, at most limit (R129). -/
def common (a q : Bytes) : Nat → Nat
  | 0 => 0
  | n + 1 => match a, q with
    | x :: a', y :: q' => if x = y then common a' q' n + 1 else 0
    | _, _ => 0

/-- A match: length 0 for none, and offset. -/
structure Mat where
  len : Nat := 0
  off : Nat := 0
  deriving DecidableEq, Repr

/-- NONE of R128. -/
def posNone : Nat := 0xFFFFFFFF

/-- The tables of the match finder while a block is parsed (R128), and the index from which positions are not yet inserted. Indices
count from the first byte of the window; `base` is its frame position. -/
structure Finder where
  head : Tab Nat
  chain : Tab Nat
  next : Nat

/-- The frame position of an index (R127). -/
def posOf (base p : Nat) : Nat := (base + p) % 4294967296

/-- Insert one position (R128). -/
def insertPos (c : Bytes) (base : Nat) (f : Finder) (p : Nat) : Finder :=
  let h := hash4 c p
  { head := tabSet posNone f.head h (posOf base p)
    chain := tabSet 0 f.chain (posOf base p % 1048576) (tabGet posNone f.head h), next := p + 1 }

/-- Insert every position below q that is not yet inserted (R128). -/
def insertTo (c : Bytes) (base q : Nat) (f : Finder) : Finder :=
  ((List.range (q - f.next)).map (f.next + ·)).foldl (insertPos c base) f

/-- The walk of R129 from candidate `cand`, with at most `d` candidates to take. -/
def walk (c : Bytes) (base q limit : Nat) (f : Finder) : Nat → Nat → Mat → Mat
  | 0, _, m => m
  | d + 1, cand, m =>
    let back := (posOf base q + 4294967296 - cand) % 4294967296
    if cand = posNone ∨ 1048576 < back then m
    else
      let l := common (c.drop (q - back)) (c.drop q) limit
      walk c base q limit f d (tabGet 0 f.chain (cand % 1048576)) (if 4 ≤ l ∧ m.len < l then ⟨l, back⟩ else m)

/-- best(q) of R129: content, content end b1 of the block, depth and rep1; the tables after its insertions. -/
def bestMatch (c : Bytes) (base depth rep1 b1 q : Nat) (f : Finder) : Mat × Finder :=
  let f := insertTo c base q f
  let limit := b1 - q
  let m : Mat := if rep1 ≤ posOf base q then
      let r := common (c.drop (q - rep1)) (c.drop q) limit
      if 4 ≤ r then ⟨r, rep1⟩ else {}
    else {}
  (walk c base q limit f depth (tabGet posNone f.head (hash4 c q)) m, f)

/-- A sequence: literal length, match length, offset, and the offset value written for it (R139). -/
structure SeqZ where
  ll : Nat
  ml : Nat
  off : Nat
  value : Nat
  deriving DecidableEq, Repr

/-- The repeat offset named by code 1, 2 or 3 for a literal length (RFC 8878). -/
def repOf (r1 r2 r3 ll code : Nat) : Nat :=
  if ll = 0 then (if code = 1 then r2 else if code = 2 then r3 else r1 - 1)
  else (if code = 1 then r1 else if code = 2 then r2 else r3)

/-- The offset value of an offset: the lowest repeat code that names it, else offset + 3 (R139). -/
def offValue (r1 r2 r3 ll off : Nat) : Nat :=
  if off = repOf r1 r2 r3 ll 1 then 1 else if off = repOf r1 r2 r3 ll 2 then 2
  else if off = repOf r1 r2 r3 ll 3 then 3 else off + 3

/-- The repeat offsets after a sequence (RFC 8878). -/
def repNext (r1 r2 r3 ll off value : Nat) : Nat × Nat × Nat :=
  if 3 < value then (off, r1, r2)
  else
    let k := if ll = 0 then value + 1 else value
    if k = 1 then (r1, r2, r3) else if k = 2 then (r2, r1, r3) else (off, r1, r2)

/-- Lazy steps of the parse (R130): `k` steps left. -/
def lazyStep (c : Bytes) (base depth r1 b1 : Nat) : Nat → Nat → Mat → Finder → Nat × Mat × Finder
  | 0, q, m, f => (q, m, f)
  | k + 1, q, m, f =>
    if q + 5 ≤ b1 then
      let (n, f) := bestMatch c base depth r1 b1 (q + 1) f
      if n.len ≤ m.len then (q, m, f) else lazyStep c base depth r1 b1 k (q + 1) n f
    else (q, m, f)

/-- The parse of a block (R130): fuel, repeat offsets, position and literal start, and the tables; answers the sequences, the start of
the last literals and the repeat offsets at the end. -/
def parse (c : Bytes) (base depth lz b1 : Nat) : Nat → Nat → Nat → Nat → Nat → Nat → Finder → List SeqZ × Nat × Nat × Nat × Nat
  | 0, r1, r2, r3, _, ls, _ => ([], ls, r1, r2, r3)
  | n + 1, r1, r2, r3, q, ls, f =>
    if q + 4 ≤ b1 then
      let (m, f) := bestMatch c base depth r1 b1 q f
      if m.len = 0 then parse c base depth lz b1 n r1 r2 r3 (q + 1) ls f
      else
        let (q', m', f) := lazyStep c base depth r1 b1 lz q m f
        let ll := q' - ls
        let v := offValue r1 r2 r3 ll m'.off
        let (s1, s2, s3) := repNext r1 r2 r3 ll m'.off v
        let (t, e) := parse c base depth lz b1 n s1 s2 s3 (q' + m'.len) (q' + m'.len) f
        (⟨ll, m'.len, m'.off, v⟩ :: t, e)
    else ([], ls, r1, r2, r3)

/-- Chain depth of a level (R107). -/
def depthOf (level : Nat) : Nat := if level = 0 then 0 else 2 ^ (level - 1)

/-- LAZY of a level (R130). -/
def lazyOf (level : Nat) : Nat := if level ≤ 1 then 0 else if level ≤ 5 then 1 else 2

/-! ### Bit strings -/

/-- Bytes of an integer of `bits` bits, least significant first. -/
def bitBytes (bits x : Nat) : Bytes := leB ((bits + 7) / 8) x

/-- A forward bit string: (value, width) in writing order, least significant bit first. -/
def fwdBits (l : List (Nat × Nat)) : Bytes :=
  let (x, n) := l.foldl (fun (a : Nat × Nat) e => (a.1 + e.1 * 2 ^ a.2, a.2 + e.2)) (0, 0)
  bitBytes n x

/-- A backward bit string: (value, width) in the decoder's reading order, with the final marker bit (RFC 8878). -/
def backBits (l : List (Nat × Nat)) : Bytes :=
  let (x, n) := l.foldl (fun (a : Nat × Nat) e => (a.1 * 2 ^ e.2 + e.1, a.2 + e.2)) (1, 1)
  bitBytes n x

/-! ### FSE tables (R137, RFC 8878) -/

/-- Normalized counts of R137 from counts by symbol, MAXLOG given: the table log and the counts. -/
def fseNorm (maxLog : Nat) (c : List Nat) : Nat × List Int :=
  let n := c.sum
  let d := (c.filter (· != 0)).length
  let l := min maxLog (max 5 (max (log2 n - 2) (clog2 d + 1)))
  let norm := c.map fun x => if x = 0 then 0 else max 1 (x * 2 ^ l / n)
  let total := norm.sum
  let argmax (xs : List Nat) : Nat := (xs.zipIdx.foldl (fun (b : Nat × Nat) (x, i) => if b.1 < x then (x, i) else b) (0, 0)).2
  let norm :=
    if total ≤ 2 ^ l then norm.modify (argmax c) (· + (2 ^ l - total))
    else (List.range (total - 2 ^ l)).foldl (fun (xs : List Nat) _ => xs.modify (argmax xs) (· - 1)) norm
  (l, norm.map Int.ofNat)

/-- The table log of a distribution: its counts, −1 counted as 1, total 2^log. -/
def fseLog (norm : List Int) : Nat := log2 (norm.map Int.natAbs).sum

/-- The spreading of RFC 8878: the symbol of each state. -/
def fseSpread (norm : List Int) : List Nat :=
  let size := 2 ^ fseLog norm
  let low := (norm.zipIdx.filter (fun (p, _) => p = -1)).map Prod.snd
  let high := size - low.length
  let tbl0 := List.replicate high 0 ++ low.reverse
  let occ := norm.zipIdx.flatMap fun (p, s) => if 0 < p then List.replicate p.toNat s else []
  let stp := size / 2 + size / 8 + 3
  let rec next : Nat → Nat → Nat
    | 0, p => p
    | n + 1, p => let q := (p + stp) % size; if q < high then q else next n q
  (occ.foldl (fun (a : List Nat × Nat) s => (a.1.set a.2 s, next size a.2)) (tbl0, 0)).1

/-- One state of a decoding table: symbol, bits to read, base of the next state. -/
structure FseEntry where
  sym : Nat
  bits : Nat
  base : Nat
  deriving DecidableEq, Repr

/-- The decoding table (RFC 8878). -/
def fseTable (norm : List Int) : List FseEntry :=
  let l := fseLog norm
  let cnt := norm.map Int.natAbs
  ((fseSpread norm).foldl (fun (a : List FseEntry × List Nat) s =>
    let x := a.2.getD s 1
    let nb := l - log2 x
    (a.1 ++ [⟨s, nb, x * 2 ^ nb - 2 ^ l⟩], a.2.set s (x + 1))) ([], cnt)).1

/-- The lowest-numbered state that decodes a symbol (R137). -/
def fseStart (t : List FseEntry) (s : Nat) : Nat := (t.findIdx? (·.sym = s)).getD 0

/-- The state that decodes `s` and leads to `next`, and the bits read there. -/
def fsePrev (t : List FseEntry) (s next : Nat) : Nat × Nat × Nat :=
  match t.zipIdx.find? (fun (e, _) => e.sym = s ∧ e.base ≤ next ∧ next < e.base + 2 ^ e.bits) with
  | some (e, i) => (i, next - e.base, e.bits)
  | none => (0, 0, 0)

/-- Encode a string of symbols through one state, last symbol first: the first state, and for each symbol but the last
the bits its state update reads. -/
def fseEnc (t : List FseEntry) : List Nat → Nat × List (Nat × Nat)
  | [] => (0, [])
  | [s] => (fseStart t s, [])
  | s :: rest =>
    let (nx, bs) := fseEnc t rest
    let (i, v, n) := fsePrev t s nx
    (i, (v, n) :: bs)

/-- The table description (RFC 8878): (value, width) in writing order for the counts, `rem` points left. -/
def fseDescGo : List Int → Nat → Nat → List (Nat × Nat)
  | [], _, _ => []
  | p :: t, rem, zr =>
    if rem = 0 then []
    else if zr ≠ 0 ∧ p = 0 then fseDescGo t rem (zr - 1)
    else
      let m := rem + 1
      let nb := log2 m + 1
      let low := 2 ^ nb - 1 - m
      let v := (p + 1).toNat
      let w := if v < low then (v, nb - 1) else if v < 2 ^ (nb - 1) then (v, nb) else (v + low, nb)
      if p = 0 then
        let z := (t.takeWhile (· = 0)).length
        w :: (List.replicate (z / 3) (3, 2) ++ [(z % 3, 2)]) ++ fseDescGo t rem z
      else w :: fseDescGo t (rem - p.natAbs) 0

/-- The table description in bytes. -/
def fseDesc (norm : List Int) : Bytes :=
  fwdBits ((fseLog norm - 5, 4) :: fseDescGo norm (2 ^ fseLog norm) 0)

/-! ### Huffman (R135, R136) -/

/-- A node of the two-queue construction: weight and the leaves under it with their depths. -/
structure HNode where
  w : Nat
  leaves : List (Nat × Nat)
  deriving DecidableEq, Repr

/-- Take the front node of lower weight, of equal weight from queue1 (R135). -/
def hTake (q1 q2 : List HNode) : Option (HNode × List HNode × List HNode) :=
  match q1, q2 with
  | a :: t, [] => some (a, t, [])
  | [], c :: u => some (c, [], u)
  | a :: t, c :: u => if a.w ≤ c.w then some (a, t, c :: u) else some (c, a :: t, u)
  | [], [] => none

/-- The merges of R135. -/
def hMerge : Nat → List HNode → List HNode → List (Nat × Nat)
  | 0, _, _ => []
  | n + 1, q1, q2 =>
    match hTake q1 q2 with
    | none => []
    | some (a, t, u) =>
      match hTake t u with
      | none => a.leaves
      | some (c, t', u') =>
        hMerge n t' (u' ++ [⟨a.w + c.w, (a.leaves ++ c.leaves).map fun (s, d) => (s, d + 1)⟩])

/-- Lengths after the limit of 11 and the two debt loops of R135: entries (value, count, length). -/
def hLimit : Nat → Int → List (Nat × Nat × Nat) → List (Nat × Nat × Nat)
  | 0, _, l => l
  | n + 1, debt, l =>
    if 0 < debt then
      let better (a c : Nat × Nat × Nat) : Bool :=  -- a before c: largest length, least count, highest value
        c.2.2 < a.2.2 || (c.2.2 = a.2.2 && (a.2.1 < c.2.1 || (a.2.1 = c.2.1 && c.1 < a.1)))
      match (l.filter (·.2.2 < 11)).foldl (fun (b : Option (Nat × Nat × Nat)) x =>
          match b with | none => some x | some y => if better x y then some x else some y) none with
      | none => l
      | some (v, _, len) => hLimit n (debt - (2 ^ (10 - len) : Nat)) (l.map fun x => if x.1 = v then (x.1, x.2.1, len + 1) else x)
    else if debt < 0 then
      let better (a c : Nat × Nat × Nat) : Bool := c.2.1 < a.2.1 || (a.2.1 = c.2.1 && a.1 < c.1)
      match (l.filter (fun x => 1 < x.2.2 ∧ ((2 ^ (11 - x.2.2) : Nat) : Int) ≤ -debt)).foldl
          (fun (b : Option (Nat × Nat × Nat)) x =>
          match b with | none => some x | some y => if better x y then some x else some y) none with
      | none => l
      | some (v, _, len) => hLimit n (debt + (2 ^ (11 - len) : Nat)) (l.map fun x => if x.1 = v then (x.1, x.2.1, len - 1) else x)
    else l

/-- Insert a leaf in the order count ascending, value ascending. -/
def hInsert (x : Nat × Nat) : List (Nat × Nat) → List (Nat × Nat)
  | [] => [x]
  | y :: t => if x.2 < y.2 ∨ (x.2 = y.2 ∧ x.1 < y.1) then x :: y :: t else y :: hInsert x t

/-- Huffman code lengths by value from counts by value (R135). -/
def huffLens (c : List Nat) : List Nat :=
  let used := (c.zipIdx.filter (fun (n, _) => n != 0)).map fun (n, v) => (v, n)
  let leaves := used.foldl (fun l x => hInsert x l) []
  let depths := hMerge 512 (leaves.map fun (v, n) => ⟨n, [(v, 0)]⟩) []
  let l := used.map fun (v, n) => (v, n, min 11 ((depths.find? (·.1 = v)).map (·.2) |>.getD 0))
  let debt : Int := ((l.map fun x => 2 ^ (11 - x.2.2)).sum : Nat) - 2048
  let l := hLimit 4096 debt l
  (List.range c.length).map fun v => ((l.find? (·.1 = v)).map (·.2.2)).getD 0

/-- The codes: (code, length) by value, from lengths (RFC 8878: longest codes first, values ascending). -/
def huffCodes (lens : List Nat) : List (Nat × Nat) :=
  let mx := lens.foldl max 0
  let go := (List.range mx).foldl (fun (a : List (Nat × Nat × Nat) × Nat) i =>
      let len := mx - i
      let syms := (lens.zipIdx.filter (fun (n, _) => n = len)).map Prod.snd
      let out := syms.zipIdx.map fun (s, k) => (s, a.2 + k, len)
      (a.1 ++ out, (a.2 + syms.length) / 2)) ([], 0)
  (List.range lens.length).map fun v => ((go.1.find? (·.1 = v)).map (·.2)).getD (0, 0)

/-- The transmitted weights (R136): every value below the highest present. -/
def huffWeights (lens : List Nat) : List Nat :=
  let mx := lens.foldl max 0
  let hi := (lens.zipIdx.filter (fun (n, _) => n != 0)).foldl (fun a (_, i) => max a i) 0
  (lens.take hi).map fun n => if n = 0 then 0 else mx + 1 - n

/-- The FSE form of the weights: table description and the two interleaved states (R136, R137). -/
def huffFse (ws : List Nat) : Bytes :=
  let cnt := (List.range 12).map fun s => ws.count s
  let (_, norm) := fseNorm 6 cnt
  let t := fseTable norm
  let ev := (ws.zipIdx.filter (fun (_, i) => i % 2 = 0)).map Prod.fst
  let od := (ws.zipIdx.filter (fun (_, i) => i % 2 = 1)).map Prod.fst
  let (s1, b1) := fseEnc t ev
  let (s2, b2) := fseEnc t od
  let l := fseLog norm
  let rec weave : List (Nat × Nat) → List (Nat × Nat) → List (Nat × Nat)
    | [], y => y
    | x :: xs, ys => match ys with | [] => x :: xs | y :: ys' => x :: y :: weave xs ys'
  fseDesc norm ++ backBits ((s1, l) :: (s2, l) :: weave b1 b2)

/-- The tree description: header byte and weights, where a form is available (R136). -/
def huffDesc (lens : List Nat) : Option Bytes :=
  let ws := huffWeights lens
  let direct : Option Bytes := if ws.length ≤ 128 then
      some (leB 1 (127 + ws.length) ++ (List.range ((ws.length + 1) / 2)).map fun i =>
        BitVec.ofNat 8 (ws.getD (2 * i) 0 * 16 + ws.getD (2 * i + 1) 0))
    else none
  let f := huffFse ws
  let fse : Option Bytes := if 3 ≤ ws.length ∧ 2 ≤ ws.dedup.length ∧ f.length ≤ 127 then some (leB 1 f.length ++ f) else none
  match direct, fse with
  | some d, some e => if d.length ≤ e.length then some d else some e
  | some d, none => some d
  | none, x => x

/-- One Huffman stream of literals. -/
def huffStream (codes : List (Nat × Nat)) (lits : Bytes) : Bytes :=
  backBits (lits.map fun b => codes.getD b.toNat (0, 0))

/-- The streams of a section (R134): one up to 1,023 literals, else four with the jump table. -/
def huffStreams (codes : List (Nat × Nat)) (lits : Bytes) : Bytes :=
  if lits.length ≤ 1023 then huffStream codes lits
  else
    let n := (lits.length + 3) / 4
    let ss := (List.range 4).map fun i => huffStream codes (if i < 3 then (lits.drop (i * n)).take n else lits.drop (3 * n))
    (ss.take 3).flatMap (fun s => leB 2 s.length) ++ ss.flatten

/-- Header of a Raw or RLE literals section (RFC 8878). -/
def litHead (typ n : Nat) : Bytes :=
  if n < 32 then leB 1 (typ + 8 * n) else if n < 4096 then leB 2 (typ + 4 + 16 * n) else leB 3 (typ + 12 + 16 * n)

/-- Header of a Compressed or Treeless literals section (RFC 8878). -/
def litHeadC (typ n comp : Nat) : Bytes :=
  let m := max n comp
  if n ≤ 1023 then leB 3 (typ + 16 * n + 2 ^ 14 * comp)
  else if m < 1024 then leB 3 (typ + 4 + 16 * n + 2 ^ 14 * comp)
  else if m < 16384 then leB 4 (typ + 8 + 16 * n + 2 ^ 18 * comp)
  else leB 5 (typ + 12 + 16 * n + 2 ^ 22 * comp)

/-- Counts by byte value. -/
def byteCounts (bs : Bytes) : List Nat := (List.range 256).map fun v => bs.countP (fun b => b.toNat = v)

/-- The literals section in its smallest eligible form, ties RLE, Raw, Treeless, Compressed (R134); with the Huffman
lengths that are the previous table after it. -/
def litSection (prev : List Nat) (lits : Bytes) : Bytes × List Nat :=
  let n := lits.length
  let raw := litHead 0 n ++ lits
  let rle : Option Bytes := match lits with
    | x :: y :: t => if (y :: t).all (· = x) then some (litHead 1 n ++ [x]) else none
    | _ => none
  let cnt := byteCounts lits
  let distinct := (cnt.filter (· != 0)).length
  let lens := huffLens cnt
  let comp : Option Bytes := if 64 ≤ n ∧ 2 ≤ distinct then
      (huffDesc lens).bind fun d =>
        let body := d ++ huffStreams (huffCodes lens) lits
        if n ≤ 1023 ∧ 1023 < body.length then none else some (litHeadC 2 n body.length ++ body)
    else none
  let tl : Option Bytes := if 64 ≤ n ∧ 2 ≤ distinct ∧ prev ≠ [] ∧ cnt.zipIdx.all (fun (k, v) => k = 0 || prev.getD v 0 != 0) then
      let body := huffStreams (huffCodes prev) lits
      if n ≤ 1023 ∧ 1023 < body.length then none else some (litHeadC 3 n body.length ++ body)
    else none
  let pick (best : Bytes × List Nat) (c : Option Bytes) (t : List Nat) : Bytes × List Nat :=
    match c with | some s => if s.length < best.1.length then (s, t) else best | none => best
  let best : Bytes × List Nat := match rle with
    | some s => if s.length ≤ raw.length then (s, prev) else (raw, prev)
    | none => (raw, prev)
  pick (pick best tl prev) comp lens

/-! ### Sequences (R138, R139) -/

/-- Literal length codes 16 to 35: base and extra bits (RFC 8878). -/
def llBase : List (Nat × Nat) := [(16,1),(18,1),(20,1),(22,1),(24,2),(28,2),(32,3),(40,3),(48,4),(64,6),(128,7),(256,8),
  (512,9),(1024,10),(2048,11),(4096,12),(8192,13),(16384,14),(32768,15),(65536,16)]
/-- Match length codes 32 to 52: base and extra bits (RFC 8878). -/
def mlBase : List (Nat × Nat) := [(35,1),(37,1),(39,1),(41,1),(43,2),(47,2),(51,3),(59,3),(67,4),(83,4),(99,5),(131,7),
  (259,8),(515,9),(1027,10),(2051,11),(4099,12),(8195,13),(16387,14),(32771,15),(65539,16)]

/-- The highest row of a table whose base does not exceed v. -/
def codeIn (t : List (Nat × Nat)) (v : Nat) : Nat := (t.filter (fun r => r.1 ≤ v)).length - 1

/-- Code, extra value and extra bits of a literal length. -/
def llCode (v : Nat) : Nat × Nat × Nat :=
  if v < 16 then (v, 0, 0) else let i := codeIn llBase v; let r := llBase.getD i (0, 0); (16 + i, v - r.1, r.2)
/-- Code, extra value and extra bits of a match length. -/
def mlCode (v : Nat) : Nat × Nat × Nat :=
  if v < 35 then (v - 3, 0, 0) else let i := codeIn mlBase v; let r := mlBase.getD i (0, 0); (32 + i, v - r.1, r.2)
/-- Code, extra value and extra bits of an offset value. -/
def ofCode (v : Nat) : Nat × Nat × Nat := let k := log2 v; (k, v - 2 ^ k, k)

/-- The default distributions (RFC 8878). -/
def llDefault : List Int := [4,3,2,2,2,2,2,2,2,2,2,2,2,1,1,1,2,2,2,2,2,2,2,2,2,3,2,1,1,1,1,1,-1,-1,-1,-1]
def mlDefault : List Int := [1,4,3,2,2,2,2,2,2,1,1,1,1,1,1,1,1,1,1,1,1,1,1,1,1,1,1,1,1,1,1,1,1,1,1,1,1,1,1,1,1,1,1,1,1,1,
  -1,-1,-1,-1,-1,-1,-1]
def ofDefault : List Int := [1,1,1,1,1,1,2,2,2,1,1,1,1,1,1,1,1,1,1,1,1,1,1,1,-1,-1,-1,-1,-1]

/-- Cost in bits of codes under a distribution (R138). -/
def fseCost (norm : List Int) (cnt : List Nat) : Nat :=
  (cnt.zipIdx.map fun (c, s) => c * (fseLog norm - log2 (norm.getD s 0).natAbs)).sum

/-- The mode of a field (R138): mode number, the table used, and the bytes written for it. -/
def fieldMode (maxLog : Nat) (dflt prev : List Int) (codes : List Nat) : Nat × List Int × Bytes :=
  let mx := codes.foldl max 0
  let cnt := (List.range (mx + 1)).map fun s => codes.count s
  let used := cnt.zipIdx.filter (fun (c, _) => c != 0)
  let covers (t : List Int) : Bool := used.all fun (_, s) => t.getD s 0 != 0
  let (_, norm) := fseNorm maxLog cnt
  let desc := fseDesc norm
  let rep : Option Nat := if prev ≠ [] ∧ covers prev then some (fseCost prev cnt) else none
  let rle : Option Nat := if used.length = 1 then some 8 else none
  let pre : Option Nat := if covers dflt then some (fseCost dflt cnt) else none
  let fse := fseCost norm cnt + 8 * desc.length
  let rleT : List Int := (List.range (mx + 1)).map fun s => if s = mx then 1 else 0
  let c0 : Nat × Nat × List Int × Bytes := (fse, 2, norm, desc)
  let c1 := match pre with | some k => if k ≤ c0.1 then (k, 0, dflt, []) else c0 | none => c0
  let c2 := match rle with | some k => if k ≤ c1.1 then (k, 1, rleT, leB 1 mx) else c1 | none => c1
  let c3 := match rep with | some k => if k ≤ c2.1 then (k, 3, prev, []) else c2 | none => c2
  c3.2

/-- The sequences section and the tables after it (R138). -/
def seqSection (prev : PrevTables) (ss : List SeqZ) : Bytes × PrevTables :=
  let n := ss.length
  if n = 0 then (leB 1 0, prev)
  else
    let head := if n < 128 then leB 1 n
      else if n < 0x7F00 then leB 1 (n / 256 + 128) ++ leB 1 n
      else leB 1 255 ++ leB 2 (n - 0x7F00)
    let lls := ss.map fun s => llCode s.ll
    let ofs := ss.map fun s => ofCode s.value
    let mls := ss.map fun s => mlCode s.ml
    let (lm, lt, ld) := fieldMode 9 llDefault prev.ll (lls.map (·.1))
    let (om, ot, od) := fieldMode 8 ofDefault prev.off (ofs.map (·.1))
    let (mm, mt, md) := fieldMode 9 mlDefault prev.ml (mls.map (·.1))
    let (l0, lb) := fseEnc (fseTable lt) (lls.map (·.1))
    let (o0, ob) := fseEnc (fseTable ot) (ofs.map (·.1))
    let (m0, mb) := fseEnc (fseTable mt) (mls.map (·.1))
    let body := (List.range n).flatMap fun i =>
      let o := ofs.getD i (0, 0, 0); let m := mls.getD i (0, 0, 0); let l := lls.getD i (0, 0, 0)
      [(o.2.1, o.2.2), (m.2.1, m.2.2), (l.2.1, l.2.2)] ++
        (if i + 1 < n then [lb.getD i (0, 0), mb.getD i (0, 0), ob.getD i (0, 0)] else [])
    let bits := backBits ([(l0, fseLog lt), (o0, fseLog ot), (m0, fseLog mt)] ++ body)
    (head ++ leB 1 (lm * 64 + om * 16 + mm * 4) ++ ld ++ od ++ md ++ bits,
     { prev with ll := lt, off := ot, ml := mt })

/-- The frame position of the window's first byte, and the match finder as a block finds it: of the window's positions all but the last
three are inserted, which had not four bytes of content yet (R128). -/
def baseOf (x : CardCtx) : Nat := (x.position + 4294967296 - x.window.length) % 4294967296
def finderOf (x : CardCtx) : Finder := { head := x.head, chain := x.chain, next := x.window.length - 3 }

/-- The match finder's tables at the end of a block of content (R128). -/
def insertBlock (x : CardCtx) (content : Bytes) : Finder :=
  let all := x.window ++ content
  insertTo all (baseOf x) (all.length - 3) (finderOf x)

/-- The compressed data of a block of `c` content bytes at the end of `hist`, and the context after it (R113, R131). -/
def compressBlock (x : CardCtx) (level : Nat) (content : Bytes) : Bytes × CardCtx :=
  let all := x.window ++ content
  let b0 := x.window.length
  let b1 := all.length
  let (ss, ls, r1, r2, r3) := parse all (baseOf x) (depthOf level) (lazyOf level) b1 (content.length + 1) x.rep1 x.rep2 x.rep3 b0 b0
    (finderOf x)
  let lits := (ss.foldl (fun (a : Bytes × Nat) s => (a.1 ++ (all.drop a.2).take s.ll, a.2 + s.ll + s.ml)) ([], b0)).1
    ++ all.drop ls
  let (lsec, huff) := litSection x.prev.huff lits
  let (ssec, prev) := seqSection x.prev ss
  (lsec ++ ssec, { x with rep1 := r1, rep2 := r2, rep3 := r3, prev := { prev with huff := huff } })

/-- Distinct byte values of a chunk (R133). -/
def distinctBytes (bs : Bytes) : Nat := ((byteCounts bs).filter (· != 0)).length

/-- The content length of the next block out of `inp`, the record's bytes not yet in a block, of which `full` says
that 131,072 are there or the record ends (R112, R133). -/
def blockLen (level : Nat) (inp : Bytes) : Nat :=
  let c := min inp.length 131072
  if 5 ≤ level ∧ level ≤ 9 then
    let v (j : Nat) : Int := distinctBytes ((inp.drop (32768 * j)).take 32768)
    match [1, 2, 3].find? fun j => decide (32768 * (j + 1) ≤ c ∧ 96 ≤ (v j - v (j - 1)).natAbs) with
    | some j => 32768 * j
    | none => c
  else c

/-- The frame header of R109. -/
def frameHeader : Bytes := leB 4 0xFD2FB528 ++ leB 1 0x04 ++ leB 1 0x50

/-- A block header (R110). -/
def blockHeader (last : Bool) (typ size : Nat) : Bytes := leB 3 (b2n last + 2 * typ + 8 * size)

/-- End block and checksum of a frame (R109). -/
def frameClose (h : Xxh) : Bytes := blockHeader true 0 0 ++ leB 4 (xxDigest h)

/-! ### Decoding (R122) -/

/-- A backward bit reader: the integer and the bits left. -/
structure BackRd where
  x : Nat
  left : Nat

/-- Open a backward bit string: its highest set bit is the marker. -/
def backOpen (bs : Bytes) : Option BackRd :=
  match bs.getLast? with
  | none => none
  | some l => if l = 0 then none else some ⟨leN bs, 8 * (bs.length - 1) + log2 l.toNat⟩

/-- Read n bits from the end; bits past the start read as 0 and leave none. -/
def backRead (r : BackRd) (n : Nat) : Option (Nat × BackRd) :=
  if n ≤ r.left then some (r.x / 2 ^ (r.left - n) % 2 ^ n, ⟨r.x, r.left - n⟩) else none

/-- Read an FSE table description: distribution and bytes used. -/
def fseRead (bs : Bytes) (maxLog : Nat) : Option (List Int × Nat) :=
  let x := leN (bs.take 600)
  let l := x % 16 + 5
  if maxLog < l then none
  else
    let rec go : Nat → Nat → Nat → List Int → Option (List Int × Nat)
      | 0, _, _, _ => none
      | f + 1, pos, rem, acc =>
        if rem = 0 then some (acc, (pos + 7) / 8)
        else
          let m := rem + 1
          let nb := log2 m + 1
          let low := 2 ^ nb - 1 - m
          let s := x / 2 ^ pos % 2 ^ (nb - 1)
          let (v, n) := if s < low then (s, nb - 1)
            else let w := x / 2 ^ pos % 2 ^ nb; (if 2 ^ (nb - 1) ≤ w then w - low else w, nb)
          let p : Int := (v : Int) - 1
          let pos := pos + n
          if p = 0 then
            let rec reps : Nat → Nat → Nat → Nat × Nat
              | 0, pos, z => (pos, z)
              | g + 1, pos, z => let q := x / 2 ^ pos % 4; if q = 3 then reps g (pos + 2) (z + 3) else (pos + 2, z + q)
            let (pos', z) := reps 128 pos 0
            go f pos' rem (acc ++ List.replicate (z + 1) 0)
          else if rem < p.natAbs then none
          else go f pos (rem - p.natAbs) (acc ++ [p])
    (go 300 4 (2 ^ l) []).bind fun (d, n) => if n ≤ bs.length ∧ d.length ≤ 256 then some (d, n) else none

/-- Decode the two interleaved weight states until the bits run out (RFC 8878). -/
def weightsGo (t : List FseEntry) : Nat → Nat → Nat → BackRd → List Nat
  | 0, _, _, _ => []
  | f + 1, s1, s2, r =>
    let e := t.getD s1 ⟨0, 0, 0⟩
    match backRead r e.bits with
    | some (v, r') => e.sym :: weightsGo t f s2 (e.base + v) r'
    | none => [e.sym, (t.getD s2 ⟨0, 0, 0⟩).sym]

/-- Code lengths from transmitted weights: the last weight is the one that completes a power of two. -/
def lensOf (ws : List Nat) : Option (List Nat) :=
  let tot := (ws.map fun w => if w = 0 then 0 else 2 ^ (w - 1)).sum
  if tot = 0 then none
  else
    let mx := log2 tot + 1
    let rest := 2 ^ mx - tot
    if rest ≠ 2 ^ log2 rest ∨ 11 < mx then none
    else some ((ws ++ [log2 rest + 1]).map fun w => if w = 0 then 0 else mx + 1 - w)

/-- Read a Huffman tree description: lengths by value and bytes used. -/
def huffRead (bs : Bytes) : Option (List Nat × Nat) :=
  match bs with
  | [] => none
  | h :: t =>
    let hb := h.toNat
    if 128 ≤ hb then
      let n := hb - 127
      let nb := (n + 1) / 2
      if t.length < nb then none
      else
        let ws := (List.range n).map fun i =>
          let v := (t.getD (i / 2) 0).toNat; if i % 2 = 0 then v / 16 else v % 16
        (lensOf ws).map fun l => (l, 1 + nb)
    else
      let body := t.take hb
      if body.length < hb then none
      else (fseRead body 6).bind fun (norm, k) =>
        (backOpen (body.drop k)).bind fun r =>
        let l := fseLog norm
        (backRead r l).bind fun (s1, r) => (backRead r l).bind fun (s2, r) =>
          (lensOf (weightsGo (fseTable norm) 256 s1 s2 r)).map fun ls => (ls, 1 + hb)

/-- Decode n literals of one stream. -/
def huffDec (codes : List (Nat × Nat)) : Nat → BackRd → Option Bytes
  | 0, r => if r.left = 0 then some [] else none
  | n + 1, r =>
    (codes.zipIdx.findSome? fun ((c, len), v) =>
      if len = 0 then none else (backRead r len).bind fun (x, r') => if x = c then some (v, r') else none).bind
      fun (v, r') => (huffDec codes n r').map fun t => BitVec.ofNat 8 v :: t

/-- Decode the literals section: literals, Huffman lengths after it, bytes used. -/
def litDec (prev : List Nat) (bs : Bytes) : Option (Bytes × List Nat × Nat) :=
  let h := fieldAt bs 0 5
  let typ := h % 4
  let sf := h / 4 % 4
  if typ < 2 then
    let (n, hl) := if sf % 2 = 0 then (h / 8 % 32, 1) else if sf = 1 then (h / 16 % 4096, 2) else (h / 16 % 1048576, 3)
    if typ = 0 then if bs.length < hl + n then none else some ((bs.drop hl).take n, prev, hl + n)
    else if bs.length < hl + 1 then none else some (List.replicate n (bs.getD hl 0), prev, hl + 1)
  else
    let w := if sf ≤ 1 then 10 else if sf = 2 then 14 else 18
    let hl := if sf ≤ 1 then 3 else if sf = 2 then 4 else 5
    let n := h / 16 % 2 ^ w
    let comp := h / 2 ^ (4 + w) % 2 ^ w
    let body := (bs.drop hl).take comp
    if body.length < comp ∨ 131072 < n then none
    else
      let tree : Option (List Nat × Nat) := if typ = 2 then huffRead body else if prev = [] then none else some (prev, 0)
      tree.bind fun (lens, k) =>
        let codes := huffCodes lens
        let st := body.drop k
        let lits : Option Bytes :=
          if sf = 0 then (backOpen st).bind (huffDec codes n)
          else if st.length < 6 then none
          else
            let z := (List.range 3).map fun i => fieldAt st (2 * i) 2
            let d := st.drop 6
            let q := (n + 3) / 4
            let part (o len m : Nat) : Option Bytes := (backOpen ((d.drop o).take len)).bind (huffDec codes m)
            let a := z.getD 0 0; let b := z.getD 1 0; let c := z.getD 2 0
            (part 0 a q).bind fun p0 => (part a b q).bind fun p1 => (part (a + b) c q).bind fun p2 =>
              (part (a + b + c) (d.length - (a + b + c)) (n - 3 * q)).map fun p3 => p0 ++ p1 ++ p2 ++ p3
        lits.map fun l => (l, lens, hl + comp)

/-- The table of a field by its mode: distribution and bytes used. -/
def modeRead (mode maxLog : Nat) (dflt prev : List Int) (bs : Bytes) : Option (List Int × Nat) :=
  if mode = 0 then some (dflt, 0)
  else if mode = 1 then match bs with
    | [] => none
    | x :: _ => some ((List.range (x.toNat + 1)).map (fun s => if s = x.toNat then 1 else 0), 1)
  else if mode = 2 then fseRead bs maxLog
  else if prev = [] then none else some (prev, 0)

/-- Copy a match byte by byte. -/
def copyMatch : Nat → Nat → Bytes → Bytes
  | 0, _, out => out
  | n + 1, off, out => copyMatch n off (out ++ [out.getD (out.length - off) 0])

/-- Execute n sequences in a window of `win` bytes on the output so far and the literals left. -/
def seqExec (lt ot mt : List FseEntry) (win : Nat) : Nat → Nat → Nat → Nat → BackRd → Nat → Nat → Nat → Bytes → Bytes →
    Option (Bytes × Bytes × Nat × Nat × Nat)
  | 0, _, _, _, r, r1, r2, r3, lits, out => if r.left = 0 then some (out, lits, r1, r2, r3) else none
  | n + 1, ls, os, ms, r, r1, r2, r3, lits, out =>
    let le := lt.getD ls ⟨0, 0, 0⟩
    let oe := ot.getD os ⟨0, 0, 0⟩
    let me := mt.getD ms ⟨0, 0, 0⟩
    let lb := if le.sym < 16 then (le.sym, 0) else llBase.getD (le.sym - 16) (0, 0)
    let mb := if me.sym < 32 then (me.sym + 3, 0) else mlBase.getD (me.sym - 32) (0, 0)
    (backRead r oe.sym).bind fun (ox, r) => (backRead r mb.2).bind fun (mx, r) => (backRead r lb.2).bind fun (lx, r) =>
      let ll := lb.1 + lx
      let ml := mb.1 + mx
      let value := 2 ^ oe.sym + ox
      let off := if 3 < value then value - 3 else repOf r1 r2 r3 ll value
      let (s1, s2, s3) := repNext r1 r2 r3 ll off value
      let out := out ++ lits.take ll
      if lits.length < ll ∨ off = 0 ∨ win < off ∨ out.length < off then none
      else
        let out := copyMatch ml off out
        if n = 0 then seqExec lt ot mt win 0 0 0 0 r s1 s2 s3 (lits.drop ll) out
        else
          (backRead r le.bits).bind fun (a, r) => (backRead r me.bits).bind fun (c, r) => (backRead r oe.bits).bind fun (d, r) =>
            seqExec lt ot mt win n (le.base + a) (oe.base + d) (me.base + c) r s1 s2 s3 (lits.drop ll) out

/-- Decode the content of a Compressed block; the content follows the frame's content so far in `out`. -/
def compDec (win : Nat) (x : CardCtx) (out body : Bytes) : Option (Bytes × CardCtx) :=
  (litDec x.prev.huff body).bind fun (lits, huff, k) =>
    let s := body.drop k
    let b0 := (s.getD 0 0).toNat
    let (n, hl) := if b0 < 128 then (b0, 1) else if b0 < 255 then ((b0 - 128) * 256 + (s.getD 1 0).toNat, 2)
      else (fieldAt s 1 2 + 0x7F00, 3)
    if s.length < hl then none
    else if n = 0 then
      if s.length = 1 then some (out ++ lits, { x with prev := { x.prev with huff := huff } }) else none
    else if s.length < hl + 1 then none
    else
      let modes := (s.getD hl 0).toNat
      let t := s.drop (hl + 1)
      if modes % 4 ≠ 0 then none
      else
      (modeRead (modes / 64) 9 llDefault x.prev.ll t).bind fun (lt, a) =>
      (modeRead (modes / 16 % 4) 8 ofDefault x.prev.off (t.drop a)).bind fun (ot, c) =>
      (modeRead (modes / 4 % 4) 9 mlDefault x.prev.ml (t.drop (a + c))).bind fun (mt, d) =>
      -- No code above 35, 31 and 52 exists (RFC 8878).
      if 36 < lt.length ∨ 32 < ot.length ∨ 53 < mt.length then none else
      (backOpen (t.drop (a + c + d))).bind fun r =>
      (backRead r (fseLog lt)).bind fun (l0, r) => (backRead r (fseLog ot)).bind fun (o0, r) =>
      (backRead r (fseLog mt)).bind fun (m0, r) =>
      (seqExec (fseTable lt) (fseTable ot) (fseTable mt) win n l0 o0 m0 r x.rep1 x.rep2 x.rep3 lits out).bind
        fun (o, rest, r1, r2, r3) =>
        some (o ++ rest, { x with rep1 := r1, rep2 := r2, rep3 := r3,
                                  prev := { huff := huff, ll := lt, off := ot, ml := mt } })

/-- Decode one block: whether it is the last, the content so far, the tables, and what follows. -/
def blockStep (win : Nat) (x : CardCtx) (out bs : Bytes) : Option (Bool × Bytes × CardCtx × Bytes) :=
  if bs.length < 3 then none
  else
    let h := fieldAt bs 0 3
    let typ := h / 2 % 4
    let size := h / 8
    let rest := bs.drop 3
    let last := h % 2 = 1
    if 131072 < size then none
    else if typ = 0 then if rest.length < size then none else some (last, out ++ rest.take size, x, rest.drop size)
    else if typ = 1 then match rest with | [] => none | v :: t => some (last, out ++ List.replicate size v, x, t)
    else if typ = 2 then
      if rest.length < size then none
      else (compDec win x out (rest.take size)).bind fun (o, y) =>
        if 131072 < o.length - out.length then none else some (last, o, y, rest.drop size)
    else none

/-- Decode blocks until the last one: content and what follows the frame's blocks. -/
def blocksDec (win : Nat) : Nat → CardCtx → Bytes → Bytes → Option (Bytes × Bytes)
  | 0, _, _, _ => none
  | f + 1, x, out, bs => (blockStep win x out bs).bind fun (last, o, y, t) => if last then some (o, t) else blocksDec win f y o t

/-- Content bytes before the block header that lies `n` bytes into the blocks `bs` (R190). -/
def contentBefore (win : Nat) : Nat → CardCtx → Bytes → Bytes → Nat → Nat
  | 0, _, out, _, _ => out.length
  | f + 1, x, out, bs, n =>
    if n = 0 then out.length
    else match blockStep win x out bs with
      | none => out.length
      | some (_, o, y, t) => contentBefore win f y o t (n - (bs.length - t.length))

/-- Header length and window of a frame, and its content size where the header gives one (R122). -/
def frameInfo (bs : Bytes) : Nat × Nat × Option Nat :=
  let d := (bs.getD 4 0).toNat
  let single := bitOf d 5
  let fcsFlag := d / 64
  let fcs := if fcsFlag = 0 then (if single then 1 else 0) else 2 ^ fcsFlag
  let hl := 5 + (if single then 0 else 1) + fcs
  let wd := (bs.getD 5 0).toNat
  let win := let base := 2 ^ (10 + wd / 8); base + base / 8 * (wd % 8)
  let raw := fieldAt bs (hl - fcs) fcs
  let size := if fcsFlag = 1 then raw + 256 else raw
  (hl, if single then size else win, if fcs = 0 then none else some size)

/-- Decode one frame that fills a segment's message (R122): its content, or none where it is rejected. -/
def frameDec (bs : Bytes) : Option Bytes :=
  let d := (bs.getD 4 0).toNat
  let (hl, win, size) := frameInfo bs
  if fieldAt bs 0 4 ≠ 0xFD2FB528 ∨ !bitOf d 2 ∨ d % 4 ≠ 0 ∨ bitOf d 3 ∨ bs.length < hl ∨ 1048576 < win then none
  else
    (blocksDec win (bs.length + 1) {} [] (bs.drop hl)).bind fun (content, rest) =>
      if rest.length = 4 ∧ leN rest = xxh64 content % 4294967296 ∧ size.getD content.length = content.length then some content
      else none

/-- Content bytes of a frame before the block header at frame offset `off` (R190). -/
def contentAt (frame : Bytes) (off : Nat) : Nat :=
  let (hl, win, _) := frameInfo frame
  contentBefore win (frame.length + 1) {} [] (frame.drop hl) (off - hl)

end Sys2Proof.Machine
end

