-- ==== Sys2Proof/Machine/StreamOps.lean ====
section
/-!
DEFINITION. Sys2Proof/Machine/StreamOps.lean: streams, objects, the packer and the endings of an object, as the other
units use them (spec/01_architecture.md R33, R34; spec/02_host_queues.md R59 to R63; spec/03_ingest.md R76 to R101;
spec/04_carding.md R108, R116, R120; spec/07_dataset_format.md R187 to R194; spec/08_formatting.md R202 to R204).
-/

namespace Sys2Proof.Machine

/-! ### Streams -/

/-- Slot and generation of a handle (R76). -/
def slotOfHandle (h : Nat) : Nat := h % 65536
def genOfHandle (h : Nat) : Nat := h / 65536

/-- The handle is valid for a command of tenant t (R39, R53, R76). -/
def handleOk (b : Block) (t h : Nat) : Bool :=
  let s := b.stream (slotOfHandle h)
  s.isOpen && s.gen = genOfHandle h && genOfHandle h != 0 && !s.closing && s.tenant = t

/-- Open streams under R78. -/
def openStreams (b : Block) : Nat := (b.ing.streams.filter fun (x : Nat × Stream) => x.2.isOpen).length

/-- In-flight entries in use. -/
def usedObjs (b : Block) : Nat := (b.ing.objs.filter fun (x : Nat × Obj) => x.2.used).length

/-- The lowest number whose instance does not satisfy `p`, where a table lists rising keys. -/
def lowestNot {α : Type} (p : α → Bool) (k : Nat) : Tab α → Nat
  | [] => k
  | (j, v) :: t => if j = k then (if p v then lowestNot p (k + 1) t else k) else k

def Block.grp (b : Block) (g : Nat) : Grp := tabGet {} b.weave.groups g
def Block.updGrp (b : Block) (g : Nat) (f : Grp → Grp) : Block :=
  { b with weave := { b.weave with groups := tabUpd {} b.weave.groups g f } }

/-- The slot of a warp group of the image, by its number. -/
def groupSlot (b : Block) (number : Nat) : Option Nat :=
  (List.range 32).find? fun g => (b.grp g).valid && (b.grp g).number = number

/-- The next SEQ of a stream (R51). -/
def takeSeq (b : Block) (slot : Nat) : Nat × Block :=
  ((b.stream slot).nextSeq, b.updStream slot fun s => { s with nextSeq := (s.nextSeq + 1) % 2 ^ 64 })

/-! ### Datasets -/

/-- Datasets charged to a tenant (R71). -/
def tenantDatasets (b : Block) (t : Nat) : Nat :=
  (b.ds.tab.filter fun (x : Nat × Dataset) => x.2.live && x.2.tenant = t).length

/-- Datasets a record of `len` bytes can open (R120). -/
def recordDatasets (len : Nat) : Nat := ceilDiv len 6733824

/-- Datasets that accepted records, of one tenant or of all, may still open (R56, R71; DEDUCED, log entry 9). -/
def promised (b : Block) (tenant : Option Nat) : Nat :=
  ((b.hq.cmds.filter fun (x : Nat × Cmd) => x.2.e.opcode = 4 && (x.2.phase = .waitBobbin || x.2.phase = .transfer)
      && (tenant = none || tenant = some x.2.tenant)).map fun x => recordDatasets (x.2.e.length - x.2.consumed)).sum

/-- The pool can take every dataset a record could open: 1,664 + 260 granules each (R56, R105). -/
def poolRoom (b : Block) (len : Nat) : Bool := (recordDatasets len + promised b none) * 1924 ≤ beamFree b

/-- The tenant's quota can take them: 6,799,360 bytes each (R56, R71). -/
def quotaRoom (b : Block) (t len : Nat) : Bool :=
  let q := rd b (Fld.HQI_TENANT_BEAM_QUOTA_QUOTA_GIB t)
  q = 0 || (tenantDatasets b t + promised b (some t) + recordDatasets len) * 6799360 ≤ q * 1073741824

/-- One more dataset keeps the tenant's charge within its quota (R71). -/
def quotaOne (b : Block) (t : Nat) : Bool :=
  let q := rd b (Fld.HQI_TENANT_BEAM_QUOTA_QUOTA_GIB t)
  q = 0 || (tenantDatasets b t + 1) * 6799360 ≤ q * 1073741824

/-- Open the stream's next dataset: 1,660 payload and 4 DIT granules (R202); none where the pool has not that many, or the tenant's
quota has no room for it (R71). A context set that waits is attached to it (R105). -/
def openDataset (b : Block) (slot : Nat) : Option Block :=
  (if quotaOne b (b.stream slot).tenant then allocGranules b 1664 else none).map fun (gs, b) =>
    let s := b.stream slot
    let saved : SavedCtx := tabGet {} b.card.saved slot
    let d := b.ds.next
    let x : Dataset := { live := true, stream := s.gen * 65536 + slot, tenant := s.tenant, group := s.group, granules := gs,
                         ctxGranules := if saved.dataset = none then saved.granules else [] }
    let b := { b with ds := { tab := tabSet {} b.ds.tab d x, next := d + 1 } }
    let b := if saved.dataset = none ∧ saved.granules ≠ [] then
      { b with card := { b.card with saved := tabSet {} b.card.saved slot { saved with dataset := some d } } } else b
    b.updStream slot fun s => { s with dataset := some d }

/-- Release a dataset: its granules, and those attached to it, return to the pool (R105, R202, R377). -/
def releaseDataset (b : Block) (d : Nat) : Block :=
  let x := b.dataset d
  if x.live then
    let b := freeGranules b (x.granules ++ x.ctxGranules)
    let slot := slotOfHandle x.stream
    let saved : SavedCtx := tabGet {} b.card.saved slot
    let b := if saved.dataset = some d then { b with card := { b.card with saved := tabSet {} b.card.saved slot {} } } else b
    b.updDataset d fun x => { x with live := false, ctxGranules := [] }
  else b

/-- The seal work not yet done, waiting or in a pipeline. -/
def sealWorks (b : Block) : List SealWork :=
  let of (j : QueuedJob) : List SealWork := match j.job with | .seal w => [w] | _ => []
  (b.ciph.pipes.flatMap fun (x : Nat × Pipeline) => (x.2.running.toList ++ x.2.suspended.toList).flatMap of)
    ++ b.ciph.queue.flatMap of

/-- A closing dataset whose bytes are all sealed gets its pad and DIT and joins its group's ready queue (R203). -/
def tryReady (b : Block) (d : Nat) : Block :=
  let x := b.dataset d
  if x.live && x.state = .closing && !(sealWorks b).any (fun w => w.dataset = d) then
    let b := b.updDataset d fun x => { x with state := .ready, closedAt := b.time.now }
    match groupSlot b x.group with
    | some g => b.updGrp g fun q => { q with queue := q.queue ++ [d], closes := q.closes ++ [b.time.now], closed := q.closed + 1 }
    | none => b
  else b

/-- Seal jobs that wait and end a segment of the dataset are of class 1, as it is closing (R151). -/
def raiseSeals (b : Block) (d : Nat) : Block :=
  { b with ciph := { b.ciph with queue := b.ciph.queue.map fun j => match j.job with
    | .seal w => if w.dataset = d && w.last then { j with job := .seal { w with urgent := true } } else j
    | _ => j } }

/-- Close the stream's open dataset for a cause (R33, R193, R204). -/
def beginClose (b : Block) (slot cause : Nat) (forced : Option (Nat × Nat) := none) : Block :=
  match (b.stream slot).dataset with
  | none => b
  | some d =>
    if (b.dataset d).segs = [] then b
    else
      let b := b.updDataset d fun x => { x with state := .closing, cause := cause, forcedBy := forced }
      let b := b.updStream slot fun s => { s with dataset := none }
      tryReady (raiseSeals b d) d

/-! ### Frames and segments -/

/-- The index of the open segment: the last of the open dataset (R187). -/
def curSeg (x : Dataset) : Nat := x.segs.length - 1

/-- Change segment i of a dataset. -/
def updSeg (b : Block) (d i : Nat) (f : Seg → Seg) : Block :=
  b.updDataset d fun x => { x with segs := x.segs.modify i f }

/-- FRAME_ROOM of the open frame (R191 rule 3). -/
def frameRoom (b : Block) (slot : Nat) : Int :=
  let s := b.stream slot
  let x := b.dataset (s.dataset.getD 0)
  let g := x.segs.getD (curSeg x) {}
  (6799360 - 16 : Int) - (g.offset + 128 + (b.ctx slot).frameBytes : Nat)

/-- Queue seal work for a pipeline (R151, R152): its bytes are emitted (R188). -/
def enqueueSeal (b : Block) (w : SealWork) (die : Nat) : Block :=
  let b := updSeg b w.dataset w.seg fun g => { g with emitted := g.emitted + w.data.length }
  { b with ciph := { b.ciph with queue := b.ciph.queue ++ [{ job := .seal w, since := b.time.now, die := die }] } }

/-- Write an entry of the carding log, page 0x0030 (R125). -/
def cardLog (b : Block) (code kind engine handle : Nat) (objectId : Bytes) (position count : Nat) : Block :=
  logAppend b 0x30 (leB 8 b.time.now ++ leB 2 code ++ leB 1 kind ++ leB 1 engine ++ leB 4 handle ++ slice objectId 0 16
    ++ leB 8 position ++ leB 4 count ++ zeros 4)

/-- Close the stream's open frame: end block and checksum (R109, R115); a frame with NOT_SHRUNK blocks is logged (R125). -/
def closeFrame (b : Block) (slot : Nat) : Bytes × Block :=
  let x := b.ctx slot
  let s := b.stream slot
  let g := let y := b.dataset (s.dataset.getD 0); y.segs.getD (curSeg y) {}
  let b := if x.notShrunk = 0 then b
    else cardLog b 0x2004 1 x.engine (s.gen * 65536 + slot) g.objectId x.seq x.notShrunk
  (frameClose x.frameHash, b.updCtx slot fun x => { x with frameOpen := false, window := [], frameBytes := x.frameBytes + 7 })

/-- End the open segment (R191 rule 5): the frame is closed, the trailer follows where there is one, and the bytes go
to sealing with those in `pre`. -/
def finishSegment (b : Block) (slot : Nat) (pre trailer : Bytes) (cmd : Option Nat) (recordEnd urgent : Bool)
    (close : Bool := true) : Block :=
  match (b.stream slot).dataset with
  | none => b
  | some d =>
    let i := curSeg (b.dataset d)
    let (cl, b) := if close then closeFrame b slot else ([], b.updCtx slot fun x => { x with frameOpen := false, window := [] })
    let fb := (b.ctx slot).frameBytes + trailer.length
    let b := updSeg b d i fun g => { g with last := trailer ≠ [] }
    let g := (b.dataset d).segs.getD i {}
    let b := b.updDataset d fun x => { x with payloadEnd := g.offset + 128 + fb }
    enqueueSeal b { stream := (b.stream slot).gen * 65536 + slot, cmd := cmd, dataset := d, seg := i, key := (b.stream slot).keySlot,
                    data := pre ++ cl ++ trailer, last := true, urgent := urgent, recordEnd := recordEnd } ((b.ctx slot).engine / 32)

/-- The carding engine that holds a stream's context (R104). -/
def ctxEngine (b : Block) (slot : Nat) : Option Nat :=
  (b.card.engines.find? fun (x : Nat × Engine) => x.2.ctx = some slot && x.2.state != .failed).map Prod.fst

/-- The engine that runs a record's job. -/
def jobEngine (b : Block) (n : Nat) : Option Nat :=
  (b.card.engines.find? fun (x : Nat × Engine) => x.2.job = some n).map Prod.fst

/-- A job ends: the engine idles and keeps its context, or `stay`s for the record's next job; the report is made, `close` bytes of the
frame's close among those produced (R104, R118). -/
def endJob (b : Block) (e n : Nat) (how : JobEnd) (stay : Bool) (close : Nat) : Block :=
  let c := b.cmd n
  b.updEngine e fun x => { x with
    state := (if stay then x.state else .idle), job := (if stay then x.job else none), idleSince := b.time.now,
    output := [], jobConsumed := 0, jobShrunk := 0,
    report := some { stream := slotOfHandle (c.stream.getD 0), seq := c.seq, ended := how, consumed := x.jobConsumed,
                     produced := x.output.length + close, notShrunk := x.jobShrunk } }

/-- The frame runs out of room (R117, R119, R191 rule 4): it is closed, the dataset with it, and the job reports
FRAME_FULL; the record goes on in the stream's next dataset on the same engine. -/
def frameFull (b : Block) (e n slot cause : Nat) : Block :=
  let b1 := finishSegment b slot (b.engine e).output [] (some n) false true
  endJob (beginClose b1 slot cause) e n .frameFull true 7

/-- The object of a stream ends at CLOSE_OBJECT: the engine that holds its context reports OBJECT_END (R118; DEDUCED, log entry
140). -/
def reportClose (b : Block) (slot n produced : Nat) : Block :=
  match ctxEngine b slot with
  | some e => b.updEngine e fun x => { x with
      report := some { stream := slot, seq := (b.cmd n).seq, ended := .objectEnd, consumed := 0, produced := produced, notShrunk := 0 } }
  | none => b

/-! ### Endings of an object -/

/-- The running job of an ended object's record stops: its block in progress is discarded and the emitted frame bytes
are handed over (R99, R100, R115, R118). -/
def stopJob (b : Block) (n : Nat) (how : JobEnd) : Bytes × Block :=
  match jobEngine b n with
  | none => ([], b)
  | some e =>
    let x := b.engine e
    let c := b.cmd n
    (x.output, b.updEngine e fun x => { x with
      state := (if how = .engineFailed then .failed else .idle), job := none, input := [], inputEnd := false, output := [],
      ctx := if how = .engineFailed then none else x.ctx, idleSince := b.time.now,
      report := some { stream := (c.stream.getD 0) % 65536, seq := c.seq, ended := how, consumed := x.jobConsumed,
                       produced := x.output.length + (if (b.ctx ((c.stream.getD 0) % 65536)).frameOpen && how ≠ .engineFailed then 7 else 0),
                       notShrunk := x.jobShrunk } })

/-- Commands of an object that are accepted and not completed. -/
def objCmds (b : Block) (o : Nat) : List Nat :=
  (b.hq.cmds.filter fun (x : Nat × Cmd) => x.2.obj = some o && x.2.fin.isNone).map Prod.fst

/-- Complete commands with a status, at the level each has reached; the last frees the object's entry (R63, R84). -/
def finishAll (b : Block) (status o : Nat) (free : Bool) : List Nat → Block
  | [] => b
  | [n] => finishCmd b n status (b.cmd n).level (frees := if free then some o else none)
  | n :: t => finishAll (finishCmd b n status (b.cmd n).level) status o free t

/-- Commands of the stream below an acceptance number have still to take their effect on carding (R34, R103). -/
def busyBefore (b : Block) (handle m : Nat) : Bool :=
  b.hq.cmds.any fun (x : Nat × Cmd) =>
    x.2.stream = some handle && x.1 < m && x.2.fin.isNone
      && ((x.2.e.opcode = 4 && (x.2.phase = .waitBobbin || x.2.phase = .transfer)) || x.2.phase = .working)

/-- Close the stream's open dataset where an object ends (R34). A frame that is open in it belongs to another object, which goes on
in the next dataset. -/
def closeEnded (b : Block) (slot : Nat) : Block :=
  if (b.ctx slot).frameOpen then
    match (b.card.engines.find? fun (x : Nat × Engine) => x.2.state = .compressing && x.2.ctx = some slot) with
    | some (e, x) => frameFull b e (x.job.getD 0) slot 7
    | none => beginClose (finishSegment b slot [] [] none false true) slot 7
  else beginClose b slot 7

/-- The point of the accepted sequence at which an ended object's dataset closes has come, before command `n` (R34). -/
def endMark (b : Block) (slot n : Nat) : Block :=
  match (b.stream slot).endAt with
  | some m => if m ≤ n then closeEnded (b.updStream slot fun s => { s with endAt := none }) slot else b
  | none => b

/-- End object o by an ending other than CLOSE_OBJECT (R34, R62, R63, R99, R100, R115): packets dropped, the block in
progress discarded, the segment in the open dataset marked aborted, the dataset closed and padded, the object's
commands completed. Where earlier objects of the stream are still in carding, the object has no byte in the dataset, and the dataset
closes once they have taken their effect, so that they are unaffected. `abort` is the command that ends it, which then completes itself with its own status and DETAIL. -/
def endObject (b : Block) (o status : Nat) (how : JobEnd) (abort : Option (Nat × Nat × Nat) := none) : Block :=
  let x := b.obj o
  if !x.used || x.ended.isSome then b
  else
    let slot := slotOfHandle x.stream
    let cmds := (objCmds b o).filter fun n => some n ≠ abort.map Prod.fst
    let recs := cmds.filter fun n => (b.cmd n).e.opcode = 4
    let b := forEach recs b dropPacket
    let (pre, b) := recs.foldl (fun (a : Bytes × Block) n =>
      let (p, b) := stopJob a.2 n how; (a.1 ++ p, b)) ([], b)
    let b := match (b.stream slot).dataset with
      | none => b
      | some d =>
        let i := curSeg (b.dataset d)
        let own := ((b.dataset d).segs.getD i {}).obj = o && (b.dataset d).segs ≠ []
        let b := if own then updSeg b d i fun g => { g with aborted := true, tag := [] } else b
        if own && (b.ctx slot).frameOpen then finishSegment b slot pre [] none false true (how ≠ .engineFailed) else b
    let b := if busyBefore b x.stream x.openCmd then b.updStream slot fun s => { s with endAt := some x.openCmd } else closeEnded b slot
    let b := b.updObj o fun x => { x with ended := some status }
    let b := b.updStream slot fun s => { s with obj := if s.obj = some o then none else s.obj }
    match abort with
    | some (n, st, detail) => finishCmd (finishAll b status o false cmds) n st 0 [] detail (some o)
    | none => if cmds = [] then freeObj b o else finishAll b status o true cmds

/-! ### Levels (R22, R59, R64) -/

/-- Every byte of the command's scope up to it is in committed wefts (R59): the object's for PUT_RECORD and
CLOSE_OBJECT, the stream's for FLUSH and CLOSE_STREAM. -/
def tapedReached (b : Block) (c : Cmd) : Bool :=
  b.ds.tab.all fun (x : Nat × Dataset) =>
    !x.2.live || x.2.state = .committed || some x.2.stream != c.stream
      || !x.2.segs.any fun g => g.seqLo ≤ c.seq && ((c.e.opcode != 4 && c.e.opcode != 5) || c.obj = some g.obj)

/-- Members not failed (R375). -/
def liveCount (q : Grp) : Nat := (q.members.filter fun m => !m.failed).length

/-- The group in slot g is BELOW_FLOOR (R375). -/
def belowFloor (b : Block) (g : Nat) : Bool := (b.grp g).valid && liveCount (b.grp g) < rd b (Fld.WEAVE_GROUP_CFG_FLOOR g)

/-- The status with which a FORCE, FLUSH or CLOSE_STREAM ends at its STAGED point while nothing can commit: ledger FAILED
(R489), group FULL (R221) or BELOW_FLOOR (R375). -/
def groupBars (b : Block) (handle : Nat) : Option Nat :=
  if b.ledg.state = .failed then some 0xA002
  else match groupSlot b (b.stream (slotOfHandle handle)).group with
    | some g => if (b.grp g).full then some 0x3005 else if belowFloor b g then some 0x5001 else none
    | none => none

/-- The slot a CLOSE_STREAM closes. -/
def closesOf (c : Cmd) : Option Nat := if c.e.opcode = 2 then c.stream.map slotOfHandle else none

/-- Complete the stream's commands that have reached TAPED (R59). -/
def checkTaped (b : Block) (handle : Nat) : Block :=
  forEach ((b.hq.cmds.filter fun (x : Nat × Cmd) => x.2.stream = some handle && x.2.phase = .taping).map Prod.fst) b
    fun b n =>
      let c := b.cmd n
      if c.fin.isNone && tapedReached b c then finishCmd b n 0 2 c.result 0 none (closesOf c) else b

/-- A command reaches its STAGED point (R59): it completes with LEVEL 1, or waits for TAPED. -/
def staged (b : Block) (n : Nat) : Block :=
  let c := b.cmd n
  let b := b.updCmd n fun c => { c with level := 1 }
  let h := c.stream.getD 0
  match (if c.e.opcode = 2 || c.taped then groupBars b h else none) with
  | some st => finishCmd b n st 1 c.result 0 none (closesOf c)
  | none =>
  if c.taped then checkTaped (b.updCmd n fun c => { c with phase := .taping }) h
  else finishCmd b n 0 1 c.result 0 none (closesOf c)

/-! ### The packer at the commands that end frames and datasets -/

/-- The trailer of an object (R189). -/
def trailerOf (x : Obj) : Bytes := beB 8 (xxDigest x.hash) ++ leB 8 x.emitted

/-- Sealing may use a counter value, now or after a reservation (R149, R150). -/
def nonceMay (b : Block) : Bool :=
  b.ledg.state ≠ .failed && rdB b Fld.CIPH_NONCE_STATUS_ENABLED
    && (b.ciph.nonceNext < b.ciph.nonceEnd || b.ciph.pipes.any (fun (x : Nat × Pipeline) => x.2.subNext < x.2.subEnd)
        || b.ciph.nonceEnd < 2 ^ 64 - 2 ^ 20)

/-- The status of the nonce ending (R63, R150). -/
def nonceStatus (b : Block) : Nat := if b.ledg.state = .failed then 0xA002 else 0xA001

/-- How a segment start went. -/
inductive SegStart where
  | started
  | objectEnded
  | poolEmpty
  deriving DecidableEq, Repr

/-- Make sure the stream has an open dataset in which a segment can start (R116, R191 rule 2). -/
def roomForSegment (b : Block) (slot : Nat) : Option Block :=
  match (b.stream slot).dataset with
  | none => openDataset b slot
  | some d =>
    let x := b.dataset d
    if x.segs.length < 510 ∧ x.map.length < 2304 ∧ x.payloadEnd + 161 ≤ 6799360 then some b
    else openDataset (beginClose b slot (if 510 ≤ x.segs.length then 3 else if 2304 ≤ x.map.length then 2 else 1)) slot

/-- Start the object's next segment and its frame (R108, R144, R188, R191): `n` the command whose bytes start it,
`cont` that its first record began earlier, `first` the index of that record. -/
def startSegment (b : Block) (slot o n first : Nat) (cont : Bool) : SegStart × Block :=
  let s := b.stream slot
  let key := b.slot s.keySlot
  if !nonceMay b then (.objectEnded, endObject b o (nonceStatus b) .aborted)
  else if key.key.isNone then (.objectEnded, endObject b o 0x6001 .aborted)
  else match roomForSegment b slot with
    | none => (.poolEmpty, b)
    | some b =>
      match (b.stream slot).dataset with
      | none => (.poolEmpty, b)
      | some d =>
        let x := b.obj o
        let seq := (b.cmd n).seq
        let g : Seg := { obj := o, seqLo := seq, seqHi := seq, mode := b2n x.gmacOnly, continues := cont,
                         objectId := x.objectId, objectOffset := x.emitted, firstRecord := first,
                         segmentNo := x.segments, keyLabel := key.label, offset := (b.dataset d).payloadEnd }
        let b := b.updDataset d fun y => { y with segs := y.segs ++ [g] }
        let b := b.updObj o fun x => { x with segments := x.segments + 1 }
        let b := b.updCtx slot fun c => { frameOpen := true, frameBytes := 6, engine := c.engine, seq := seq }
        (.started, b)

/-- The FORCE or FLUSH that closes a dataset (R70). -/
def forcedBy (b : Block) (n : Nat) : Option (Nat × Nat) := some (n, (b.stream (slotOfHandle ((b.cmd n).stream.getD 0))).tenant)

/-- The effect of CLOSE_OBJECT at its place in the sequence (R108, R121, R189): frame closed, or an empty frame made,
and the trailer. Answers none where it must wait for the pool. -/
def closeObjectEffect (b : Block) (n : Nat) : Option Block :=
  let c := b.cmd n
  let slot := slotOfHandle (c.stream.getD 0)
  let o := c.obj.getD 0
  let x := b.obj o
  let fin (b : Block) (pre : Bytes) : Block :=
    let b := b.updCmd n fun c => { c with phase := .staging, result := leB 8 x.emitted ++ leB 4 x.started }
    let b := reportClose (finishSegment b slot pre (trailerOf x) (some n) true c.taped) slot n (pre.length + 7)
    let b := b.updObj o fun x => { x with trailer := true }
    if c.taped then beginClose b slot 4 (forcedBy b n) else b
  if (b.ctx slot).frameOpen then some (fin b [])
  else match startSegment b slot o n x.started false with
    | (.started, b) => some (fin b frameHeader)
    | (.objectEnded, b) => some b
    | (.poolEmpty, _) => none

/-- End the stream's open frame, if there is one, and close its open dataset (R33, R108, R204). -/
def closeStreamDataset (b : Block) (slot n cause : Nat) (forced : Bool) : Block :=
  let b := if (b.ctx slot).frameOpen then finishSegment b slot [] [] (some n) false true else b
  beginClose b slot cause (if forced then forcedBy b n else none)

/-- Every byte the stream accepted is in the beam store (R59). -/
def streamStaged (b : Block) (handle : Nat) : Bool :=
  !(sealWorks b).any (fun w => w.stream = handle)
    && !b.hq.cmds.any (fun (x : Nat × Cmd) => x.2.stream = some handle && x.2.e.opcode = 4 && x.2.fin.isNone
        && x.2.phase != .taping && x.2.phase != .done)

/-- CLOSE_STREAM reaches its STAGED point once every byte of the stream is in the beam store (R59, R158). -/
def checkCloseStream (b : Block) (handle : Nat) : Block :=
  match b.hq.cmds.find? fun (x : Nat × Cmd) =>
      x.2.stream = some handle && x.2.e.opcode = 2 && x.2.phase = .staging && x.2.level = 0 && x.2.fin.isNone with
  | some (n, _) =>
    if streamStaged b handle then staged (b.updStream (slotOfHandle handle) fun s => { s with bound := false }) n else b
  | none => b

/-- One command of the stream takes its effect, if it is the first that has not and nothing before it is unfinished
(R33, R59): the block, and whether the next may follow. -/
def pumpOne (b : Block) (n : Nat) : Block × Bool :=
  let c := b.cmd n
  let slot := slotOfHandle (c.stream.getD 0)
  if c.fin.isSome then (b, true)
  else match c.e.opcode, c.phase with
    | 4, .waitBobbin => (b, false)
    | 4, .transfer => (b, false)
    | 5, .working => match closeObjectEffect b n with | some b => (b, true) | none => (b, false)
    | 6, .working =>
      (staged (closeStreamDataset (b.updCmd n fun c => { c with phase := .staging }) slot n 5 true) n, true)
    | 2, .working =>
      (closeStreamDataset (b.updCmd n fun c => { c with phase := .staging }) slot n 6 c.taped, true)
    | _, _ => (b, true)

/-- The stream's commands take their effects in SEQ order as far as they can. -/
def pumpStream (b : Block) (handle : Nat) : Block :=
  let ns := (b.hq.cmds.filter fun (x : Nat × Cmd) => x.2.stream = some handle).map Prod.fst
  let slot := slotOfHandle handle
  let r := ns.foldl (fun (a : Block × Bool) n => if a.2 then pumpOne (endMark a.1 slot n) n else a) (b, true)
  checkCloseStream (if r.2 then endMark r.1 slot r.1.hq.nextCmd else r.1) handle

/-- A stream is ended by a Function Level Reset or for want of a function (R48, R68): its open object takes the effect
of ABORT_OBJECT, and the stream that of CLOSE_STREAM without FORCE. -/
def endStream (b : Block) (slot : Nat) : Block :=
  let s := b.stream slot
  if !s.isOpen || s.closing then b
  else
    let h := s.gen * 65536 + slot
    let b := match s.obj with
      | some o => endObject (takeSeq b slot).2 o 0x2001 .aborted
      | none => b
    let (seq, b) := takeSeq b slot
    let n := b.hq.nextCmd
    let c : Cmd := { e := { opcode := 2, handle := h }, fn := s.fn, tenant := s.tenant, stream := some h, seq := seq,
                     phase := .working, implicit := true, drop := true }
    let b := { b with hq := { b.hq with cmds := tabSet {} b.hq.cmds n c, nextCmd := n + 1 } }
    pumpStream (b.updStream slot fun s => { s with closing := true }) h

end Sys2Proof.Machine
end

