-- ==== Sys2Proof/Machine/LedgerOps.lean ====
section
/-!
DEFINITION. Sys2Proof/Machine/LedgerOps.lean: handing a record to the ledger island (spec/18_ledger_flash.md R477,
R480, R481, R487, R489), as every unit that writes the ledger does it.
-/

namespace Sys2Proof.Machine

/-- Regions of R487. -/
def regNonceA : Nat := 4
def regNonceB : Nat := 5
def regControl : Nat := 6
def regJournal : Nat := 7
def regIndex : Nat := 8

/-- First die and number of dies a region lists, and its blocks (R487). -/
def regionDies (r : Nat) : Nat × Nat :=
  if r = 1 ∨ r = 4 then (0, 8) else if r = 2 ∨ r = 5 then (8, 8) else (0, 16)
def regionBlocks (r : Nat) : Nat := [0, 16, 16, 8, 4, 4, 16, 10240, 33408].getD r 0

/-- Record types of the URGENT class (R480): INTENT, COMMIT, VOIDED, CAT_UPDATE, LAYOUT_SWITCH, NONCE_RESERVE,
PREFIX_USED and EPOCH, by the type codes of R388 and R477. -/
def urgentType (t : Nat) : Bool := [0x01, 0x02, 0x03, 0x07, 0x08, 0x10, 0x11, 0x13].contains t

/-- A record is URGENT. -/
def urgentRec (r : LRec) : Bool := urgentType ((r.data.getD 0 0).toNat)

/-- Record bytes a page's records take, with their 2-byte LENGTH (R477). -/
def pageUsed (rs : List LRec) : Nat := (rs.map fun r => r.data.length + 2).sum

def Block.ndie (b : Block) (d : Nat) : NDie := tabGet {} b.ledg.dies d
def Block.updNdie (b : Block) (d : Nat) (f : NDie → NDie) : Block := { b with ledg := { b.ledg with dies := tabUpd {} b.ledg.dies d f } }
def Block.nblock (b : Block) (k : Nat) : NBlock := tabGet {} b.ledg.blocks k
def Block.updNblock (b : Block) (k : Nat) (f : NBlock → NBlock) : Block :=
  { b with ledg := { b.ledg with blocks := tabUpd {} b.ledg.blocks k f } }
def Block.openPage (b : Block) (r d : Nat) : OpenPage := tabGet {} b.ledg.pages (16 * r + d)
def Block.updOpenPage (b : Block) (r d : Nat) (f : OpenPage → OpenPage) : Block :=
  { b with ledg := { b.ledg with pages := tabUpd {} b.ledg.pages (16 * r + d) f } }

/-- The dies of a region. -/
def diesOf (r : Nat) : List Nat := (List.range (regionDies r).2).map ((regionDies r).1 + ·)

/-- The die whose open page of a region takes the next record (R481): the open page that already holds records, oldest
first record first, if it is not already due, or due and the record an URGENT one that fits; else a die with no erase in
progress; else the lowest. -/
def pickDie (b : Block) (r : Nat) (x : LRec) : Nat :=
  let ds := diesOf r
  let joins (d : Nat) : Bool := !(b.openPage r d).due || (urgentRec x && pageUsed (b.openPage r d).recs + x.data.length + 2 ≤ 16384)
  let held := ds.filter fun d => (b.openPage r d).recs ≠ [] && joins d
  match held with
  | d0 :: _ => held.foldl (fun a d =>
      if since b (b.openPage r a).first < since b (b.openPage r d).first then d else a) d0
  | [] =>
    let free := ds.filter fun d => (b.openPage r d).recs = []
    let idle := free.filter fun d => (b.ndie d).state = .idle || (b.ndie d).state = .program || (b.ndie d).state = .programSuspended
    (idle.head?.orElse fun _ => free.head?).getD (regionDies r).1

/-- Put a record into the open page of a region on a die; an erase in progress there is suspended at once for an URGENT
one (R480, R483). -/
def intoPage (b : Block) (r d : Nat) (x : LRec) : Block :=
  let b := if urgentRec x ∧ (b.ndie d).state = .erase then b.updNdie d fun n => { n with state := .eraseSuspending } else b
  b.updOpenPage r d fun p => { p with
    recs := p.recs ++ [x], first := if p.recs = [] then b.time.now else p.first,
    urgentAt := if urgentRec x then p.urgentAt.orElse (fun _ => some b.time.now) else p.urgentAt }

/-- A record reaches the ledger island (R480, R481): nothing is taken in FAILED (R489). -/
def ledgerSubmit (b : Block) (r : Nat) (data : Bytes) (hook : LHook := .nothing) : Block :=
  if b.ledg.state = .failed then b
  else
    let x : LRec := { data := data, hook := hook, since := b.time.now }
    let d := pickDie b r x
    if 16384 < pageUsed (b.openPage r d).recs + data.length + 2 then
      let b := b.updOpenPage r d fun p => { p with due := true }
      intoPage b r (pickDie b r x) x
    else intoPage b r d x

/-- A record goes to a given die's open page, for copies that must lie on different dies (R150). -/
def ledgerSubmitAt (b : Block) (r d : Nat) (data : Bytes) (hook : LHook) : Block :=
  if b.ledg.state = .failed then b
  else
    let x : LRec := { data := data, hook := hook, since := b.time.now }
    let b := if 16384 < pageUsed (b.openPage r d).recs + data.length + 2 then b.updOpenPage r d fun p => { p with due := true } else b
    intoPage b r d x

/-- The valid records of a region that the ledger holds, by rising page SEQ (R478). -/
def ledgerRecords (b : Block) (r : Nat) : List Bytes :=
  let ps := (b.ledg.blocks.flatMap fun (x : Nat × NBlock) => if x.2.half then [] else x.2.pages).filter fun p =>
    p.kind = 1 && p.region = r && !p.torn
  (ps.foldr (fun p (acc : List NPage) =>
    (acc.takeWhile fun q => q.seq < p.seq) ++ p :: acc.dropWhile fun q => q.seq < p.seq) []).flatMap (·.recs)

end Sys2Proof.Machine
end

