-- ==== Sys2Proof/Machine/IngestOps.lean ====
section
/-!
DEFINITION. Sys2Proof/Machine/IngestOps.lean: records that wait for bobbins and jobs, DMA in acceptance order, and the credited
bobbins (spec/03_ingest.md R87, R95 to R97; spec/02_host_queues.md R57; spec/04_carding.md R103).
-/

namespace Sys2Proof.Machine

/-! ### Records -/

/-- The stream's earlier commands have all taken their effect on carding (R103). -/
def jobFree (b : Block) (n : Nat) : Bool :=
  let c := b.cmd n
  !b.hq.cmds.any fun (x : Nat × Cmd) =>
    x.2.stream = c.stream && x.1 < n && x.2.fin.isNone
      && ((x.2.e.opcode = 4 && (x.2.phase = .waitBobbin || x.2.phase = .transfer)) || x.2.phase = .working)

/-- Records whose jobs have become ready since the last look note the time (R104). -/
def noteReady (b : Block) : Block :=
  forEach ((b.hq.cmds.filter fun (x : Nat × Cmd) => x.2.e.opcode = 4 && x.2.phase = .transfer && x.2.readySince = none).map Prod.fst)
    b fun b n => if jobFree b n then b.updCmd n fun c => { c with readySince := some b.time.now } else b

/-- The oldest accepted record of a die that waits for a bobbin (R96). -/
def waitingRecord (b : Block) (die : Nat) : Option Nat :=
  (b.hq.cmds.find? fun (x : Nat × Cmd) => x.2.e.opcode = 4 && x.2.phase = .waitBobbin && x.2.fin.isNone
    && dieOfFn b x.2.fn = die).map Prod.fst

/-- The lowest free record bobbin of a die: 10 to 511 (R87, R96). -/
def freeBobbin (b : Block) (die : Nat) : Option Nat :=
  if dieUp b die then ((List.range 512).drop 10).find? fun n => (b.bobbin (512 * die + n)).owner.isNone else none

/-! ### DMA of a port (R57, R95) -/

/-- The record could issue its next read request now: what is left of it, `len` bytes at most, fits its bobbin (R95). -/
def canRequest (b : Block) (n len : Nat) : Bool :=
  let c := b.cmd n
  c.e.opcode = 4 && c.fin.isNone && !c.ended && match c.bobbin with
    | some k =>
      let x := b.bobbin k
      let m := min len (c.e.length - c.requested)
      0 < m && x.words.length + x.reserved + wordsFor c.requested m ≤ 1024
    | none => false

/-- It is the record's turn on its port: commands are served in acceptance order, one whose bobbin cannot take its next request being
passed over (R57, R95). -/
def dmaTurn (b : Block) (n len : Nat) : Bool :=
  canRequest b n len && !b.hq.cmds.any fun (x : Nat × Cmd) =>
    x.1 < n && onPortB b x.2.fn = onPortB b (b.cmd n).fn && canRequest b x.1 len

/-! ### Credited bobbins (R87, R97) -/

/-- Narrow words of a wide word, and of a packet of `n` bytes. -/
def narrowWords (w : WideWord) : Nat := ceilDiv (max 1 (w.side % 128)) 16

/-- A packet can be written to a credited bobbin: the producer holds credits for all of it, and the bobbin's 1,024 wide words can take
it (R97; DESIGN CHOICE, log entry 72). -/
def creditRoom (b : Block) (k len : Nat) : Bool :=
  ceilDiv len 16 ≤ (b.bobbin k).credits && (b.bobbin k).words.length + ceilDiv len 64 ≤ 1024

/-- Write a packet to a credited bobbin. -/
def creditedPacket (b : Block) (k : Nat) (data : Bytes) : Block :=
  let ws := (packWords true (data.length / 64 + 1) data).1
  b.updBobbin k fun x => { x with
    words := x.words ++ ws, packets := x.packets ++ [ws.length], credits := x.credits - ceilDiv data.length 16 }

/-- A safety event path with returned credits writes its overflow event (R97): one narrow word that holds the count, least significant
byte first (DESIGN CHOICE, log entry 72). -/
def overflowEvent (b : Block) (k : Nat) : Block :=
  let x := b.bobbin k
  if k % 512 < 2 ∧ 0 < x.missed ∧ creditRoom b k 16 then
    inc ((creditedPacket b k (leB 16 x.missed)).updBobbin k fun x => { x with missed := 0 }) (Fld.BOB_DROP_COUNT_EVT_OVERFLOW (k / 512))
  else b

/-- Records that wait in the ledger writer are written, in order, as far as credits reach (R97). -/
def writePend (k : Nat) : List Bytes → Block → Block
  | [], b => b.updBobbin k fun x => { x with pend := [] }
  | d :: t, b => if creditRoom b k d.length then writePend k t (creditedPacket b k d) else b.updBobbin k fun x => { x with pend := d :: t }

/-- Credits for `n` narrow words return to a producer (R97), and what waits for them is written. -/
def creditsBack (b : Block) (k n : Nat) : Block :=
  let b := b.updBobbin k fun x => { x with credits := min 4096 (x.credits + n) }
  if k % 512 < 2 then overflowEvent b k else writePend k (b.bobbin k).pend b

/-- The region that takes a record, by its type (R388, R477, R487): a nonce reservation goes to both copies. -/
def regionsOf (data : Bytes) : List Nat :=
  let t := (data.getD 0 0).toNat
  if t = 0x10 then [regNonceA, regNonceB] else if t = 0x11 ∨ t = 0x12 ∨ t = 0x13 then [regControl] else [regJournal]

/-- A packet has been read whole from a credited bobbin (R87): a safety event enters the event log, page 0x0120, a record the ledger
island; a packet with a poisoned word is not taken (DESIGN CHOICE, log entry 72). -/
def creditedEnd (b : Block) (k : Nat) : Block :=
  let x := b.bobbin k
  let b := b.updBobbin k fun x => { x with taking := [], spoiled := false }
  if x.spoiled then b
  else if k % 512 < 2 then logAppend b 0x120 (slice x.taking 0 32)
  else forEach (regionsOf x.taking) b fun b r => ledgerSubmit b r x.taking

/-- The rest of the packet at the head of a credited bobbin is discarded, its credits return, and it counts in DROPS (R91, R93). -/
def discardCredited (b : Block) (k : Nat) : Block :=
  let x := b.bobbin k
  let n := x.packets.headD 0 - x.taken
  let gone := x.words.take n
  let b := b.updBobbin k fun x => { x with
    words := x.words.drop n, packets := x.packets.drop 1, taken := 0, inPacket := false, taking := [], spoiled := false }
  let b := if n = 0 then b else inc b (Fld.BOB_DROP_COUNT_DROPS (k / 512))
  creditsBack b k (gone.map narrowWords).sum

/-- The consumer of a credited bobbin reads its first word (R87, R91, R97). -/
def readCredited (b : Block) (k : Nat) (w : WideWord) (flipData : Bytes) (flipSide : Nat) : Block :=
  let r := readWord b k w flipData flipSide
  let b := r.2.updBobbin k fun x => { x with taking := x.taking ++ r.1.1.take (r.1.2.1 % 128), spoiled := x.spoiled || r.1.2.2.1 }
  let b := if r.1.2.2.2 then
      if (b.bobbin k).taken < (b.bobbin k).packets.headD 0 then discardCredited b k
      else creditedEnd (b.updBobbin k fun x => { x with packets := x.packets.drop 1, taken := 0 }) k
    else b
  creditsBack b k (narrowWords w)

end Sys2Proof.Machine
end

