-- ==== Sys2Proof/Machine/CardOps.lean ====
section
/-!
DEFINITION. Sys2Proof/Machine/CardOps.lean: engine assignment and carding contexts (spec/04_carding.md R102 to R106).
-/

namespace Sys2Proof.Machine

/-- Die of an engine, and its number on the die (R102). -/
def dieOfEngine (e : Nat) : Nat := e / 32

/-- The engine may take jobs: enabled and not failed (R104, R114). -/
def engineUp (b : Block) (e : Nat) : Bool :=
  dieUp b (e / 32) && bitOf (rd b (Fld.CARD_ENG_ENABLE_ENABLE (e / 32))) (e % 32) && !bitOf (rd b (Fld.CARD_ENG_FAILED_FAILED (e / 32))) (e % 32)

/-- Write back the context an engine holds (R105): 260 granules, reused while their set is attached to the dataset that
is open. None where the pool has not that many. -/
def writeBack (b : Block) (e : Nat) : Option Block :=
  match (b.engine e).ctx with
  | none => some b
  | some slot =>
    let s := b.stream slot
    let saved : SavedCtx := tabGet {} b.card.saved slot
    let drop (b : Block) : Block := b.updEngine e fun x => { x with ctx := none }
    let count (b : Block) : Block := inc (drop b) (Fld.CARD_SWITCHES_COUNT (e / 32))
    let put (b : Block) (v : SavedCtx) : Block := { b with card := { b.card with saved := tabSet {} b.card.saved slot v } }
    if !s.isOpen then some (drop b)
    else if saved.granules ≠ [] ∧ saved.dataset = s.dataset then some (count b)
    else (allocGranules b 260).map fun (gs, b) =>
      let b := match s.dataset with
        | some d => b.updDataset d fun x => { x with ctxGranules := x.ctxGranules ++ gs }
        | none => b
      count (put b { dataset := s.dataset, granules := gs })

/-- The engine of a die that has been idle longest, ties to the lowest (R104). -/
def idlestEngine (b : Block) (die : Nat) : Option Nat :=
  let es := ((List.range 32).map (32 * die + ·)).filter fun e => engineUp b e && (b.engine e).state = .idle
  match es with
  | [] => none
  | e0 :: _ => some (es.foldl (fun a e => if since b (b.engine a).idleSince < since b (b.engine e).idleSince then e else a) e0)

/-- The engine a record's job goes to, with the contexts written back that must be (R104). -/
def assignEngine (b : Block) (die slot : Nat) : Option (Nat × Block) :=
  match ctxEngine b slot with
  | some h =>
    if h / 32 = die then (if engineUp b h ∧ (b.engine h).state = .idle then some (h, b) else none)
    else if (b.engine h).state ≠ .idle then none
    else match idlestEngine b die with
      | none => none
      | some e => ((writeBack b h).bind fun b => writeBack b e).map fun b => (e, b)
  | none => match idlestEngine b die with
    | none => none
    | some e => (writeBack b e).map fun b => (e, b)

/-- The jobs of a die that wait for an engine (R103, R104): acceptance number and the time it became ready, of records and of opened
segments of restores. -/
def cardJobs (b : Block) (die : Nat) : List (Nat × Nat) :=
  b.hq.cmds.filterMap fun (x : Nat × Cmd) =>
    let c := x.2
    if c.fin.isSome || dieOfFn b c.fn ≠ die then none
    else if c.phase = .transfer && c.readySince.isSome && c.bobbin.isSome && (jobEngine b x.1).isNone then some (x.1, c.readySince.getD 0)
    else if c.rst.frame.isSome then some (x.1, c.rst.frameAt)
    else none

/-- The job of a die that became ready first, of equals the one accepted first: compression and decompression jobs are started in that
order (R104). -/
def oldestCard (b : Block) (die : Nat) : Option Nat :=
  match cardJobs b die with
  | [] => none
  | j0 :: js => some (js.foldl (fun a j => if since b a.2 < since b j.2 then j else a) j0).1

/-- The record whose job starts next on a die (R103, R104). -/
def oldestJob (b : Block) (die : Nat) : Option Nat := (oldestCard b die).filter fun n => (b.cmd n).phase = .transfer

/-- A disabled idle engine writes its context back (CARD_ENG_ENABLE), as soon as the pool can take it. -/
def parkEngine (b : Block) (e : Nat) : Block :=
  if (b.engine e).state = .idle ∧ !bitOf (rd b (Fld.CARD_ENG_ENABLE_ENABLE (e / 32))) (e % 32) then (writeBack b e).getD b else b

/-- Every disabled engine that is idle (R104, R105). -/
def parkEngines (b : Block) : Block :=
  forEach ((b.card.engines.filter fun (x : Nat × Engine) => x.2.state = .idle && x.2.ctx.isSome).map Prod.fst) b parkEngine

/-- A write of CARD_ENG_ENABLE (R104). -/
def writeEngEnable (b : Block) (die data : Nat) : Block :=
  forEach ((List.range 32).map (32 * die + ·)) (regPut b (Reg.CARD_ENG_ENABLE die) data) parkEngine

end Sys2Proof.Machine
end

