-- ==== Sys2Proof/Machine/Crypto.lean ====
section
/-!
DEFINITION. Sys2Proof/Machine/Crypto.lean: the parts of the external standards that spec/00_scope.md R6 names as used: SHA-384
(FIPS 180-4), HMAC over it, AES-256 (FIPS 197) with GCM (SP 800-38D), key unwrap (RFC 3394) and CTR_DRBG (SP 800-90A), the
health tests of SP 800-90B, and ECDSA over P-384 (FIPS 186-5). Numbers are used for words: a word of w bits is below 2^w.
-/

namespace Sys2Proof.Machine

/-! ### SHA-384 (FIPS 180-4) -/

/-- The constants K of SHA-512 and SHA-384. -/
def shaK : List Nat :=
  [0x428A2F98D728AE22, 0x7137449123EF65CD, 0xB5C0FBCFEC4D3B2F, 0xE9B5DBA58189DBBC]
    ++ [0x3956C25BF348B538, 0x59F111F1B605D019, 0x923F82A4AF194F9B, 0xAB1C5ED5DA6D8118]
    ++ [0xD807AA98A3030242, 0x12835B0145706FBE, 0x243185BE4EE4B28C, 0x550C7DC3D5FFB4E2]
    ++ [0x72BE5D74F27B896F, 0x80DEB1FE3B1696B1, 0x9BDC06A725C71235, 0xC19BF174CF692694]
    ++ [0xE49B69C19EF14AD2, 0xEFBE4786384F25E3, 0x0FC19DC68B8CD5B5, 0x240CA1CC77AC9C65]
    ++ [0x2DE92C6F592B0275, 0x4A7484AA6EA6E483, 0x5CB0A9DCBD41FBD4, 0x76F988DA831153B5]
    ++ [0x983E5152EE66DFAB, 0xA831C66D2DB43210, 0xB00327C898FB213F, 0xBF597FC7BEEF0EE4]
    ++ [0xC6E00BF33DA88FC2, 0xD5A79147930AA725, 0x06CA6351E003826F, 0x142929670A0E6E70]
    ++ [0x27B70A8546D22FFC, 0x2E1B21385C26C926, 0x4D2C6DFC5AC42AED, 0x53380D139D95B3DF]
    ++ [0x650A73548BAF63DE, 0x766A0ABB3C77B2A8, 0x81C2C92E47EDAEE6, 0x92722C851482353B]
    ++ [0xA2BFE8A14CF10364, 0xA81A664BBC423001, 0xC24B8B70D0F89791, 0xC76C51A30654BE30]
    ++ [0xD192E819D6EF5218, 0xD69906245565A910, 0xF40E35855771202A, 0x106AA07032BBD1B8]
    ++ [0x19A4C116B8D2D0C8, 0x1E376C085141AB53, 0x2748774CDF8EEB99, 0x34B0BCB5E19B48A8]
    ++ [0x391C0CB3C5C95A63, 0x4ED8AA4AE3418ACB, 0x5B9CCA4F7763E373, 0x682E6FF3D6B2B8A3]
    ++ [0x748F82EE5DEFB2FC, 0x78A5636F43172F60, 0x84C87814A1F0AB72, 0x8CC702081A6439EC]
    ++ [0x90BEFFFA23631E28, 0xA4506CEBDE82BDE9, 0xBEF9A3F7B2C67915, 0xC67178F2E372532B]
    ++ [0xCA273ECEEA26619C, 0xD186B8C721C0C207, 0xEADA7DD6CDE0EB1E, 0xF57D4F7FEE6ED178]
    ++ [0x06F067AA72176FBA, 0x0A637DC5A2C898A6, 0x113F9804BEF90DAE, 0x1B710B35131C471B]
    ++ [0x28DB77F523047D84, 0x32CAAB7B40C72493, 0x3C9EBE0A15C9BEBC, 0x431D67C49C100D4C]
    ++ [0x4CC5D4BECB3E42B6, 0x597F299CFC657E2A, 0x5FCB6FAB3AD6FAEC, 0x6C44198C4A475817]

/-- The initial hash value of SHA-384. -/
def shaIv : List Nat := [0xCBBB9D5DC1059ED8, 0x629A292A367CD507, 0x9159015A3070DD17, 0x152FECD8F70E5939, 0x67332667FFC00B31, 0x8EB44A8768581511, 0xDB0C2E0D64F98FA7, 0x47B5481DBEFA4FA4]

/-- Addition modulo 2^64, rotation to the right, and the six functions. -/
def add64 (x y : Nat) : Nat := (x + y) % 18446744073709551616
def rotr64 (x n : Nat) : Nat := x / 2 ^ n + x % 2 ^ n * 2 ^ (64 - n)
def shaCh (e f g : Nat) : Nat := (e.land f).xor ((18446744073709551615 - e).land g)
def shaMaj (a b c : Nat) : Nat := ((a.land b).xor (a.land c)).xor (b.land c)
def shaSig0 (a : Nat) : Nat := ((rotr64 a 28).xor (rotr64 a 34)).xor (rotr64 a 39)
def shaSig1 (e : Nat) : Nat := ((rotr64 e 14).xor (rotr64 e 18)).xor (rotr64 e 41)
def shaSmall0 (w : Nat) : Nat := ((rotr64 w 1).xor (rotr64 w 8)).xor (w / 128)
def shaSmall1 (w : Nat) : Nat := ((rotr64 w 19).xor (rotr64 w 61)).xor (w / 64)

/-- The message schedule, latest word first: `n` further words. -/
def shaSchedule : Nat → List Nat → List Nat
  | 0, w => w
  | n + 1, w =>
    shaSchedule n (add64 (add64 (shaSmall1 (w.getD 1 0)) (w.getD 6 0)) (add64 (shaSmall0 (w.getD 14 0)) (w.getD 15 0)) :: w)

/-- One round on the eight working variables a to h, with K + W. -/
def shaRound (v : List Nat) (kw : Nat) : List Nat :=
  match v with
  | [a, b, c, d, e, f, g, h] =>
    let t1 := add64 (add64 h (shaSig1 e)) (add64 (shaCh e f g) kw)
    [add64 t1 (add64 (shaSig0 a) (shaMaj a b c)), a, b, c, add64 d t1, e, f, g]
  | _ => v

/-- A block of 128 bytes is taken into the hash value. -/
def shaBlock (h : List Nat) (blk : Bytes) : List Nat :=
  let w := ((List.range 16).map fun i => beN (slice blk (8 * i) 8)).reverse
  let ws := (shaSchedule 64 w).reverse
  (h.zip ((shaK.zip ws).foldl (fun v x => shaRound v (add64 x.1 x.2)) h)).map fun x => add64 x.1 x.2

/-- A message padded to whole blocks: 0x80, zeros, and its length in bits in 16 bytes. -/
def shaPad (m : Bytes) : Bytes :=
  m ++ [0x80] ++ zeros ((239 - m.length % 128) % 128) ++ beB 16 (8 * m.length)

/-- SHA-384: 48 bytes. -/
def sha384 (m : Bytes) : Bytes :=
  let p := shaPad m
  let h := (List.range (p.length / 128)).foldl (fun h i => shaBlock h (slice p (128 * i) 128)) shaIv
  (h.take 6).flatMap (beB 8)

/-- Bytewise exclusive or. -/
def xorBytes (x y : Bytes) : Bytes := (x.zip y).map fun z => z.1 ^^^ z.2

/-- HMAC-SHA-384 (R516), with the block of 128 bytes. -/
def hmac384 (key m : Bytes) : Bytes :=
  let k := slice (if 128 < key.length then sha384 key else key) 0 128
  sha384 (k.map (· ^^^ 0x5C) ++ sha384 (k.map (· ^^^ 0x36) ++ m))

/-! ### AES-256 (FIPS 197) -/

/-- The S-box. -/
def aesSbox : List Nat :=
  [0x63, 0x7C, 0x77, 0x7B, 0xF2, 0x6B, 0x6F, 0xC5, 0x30, 0x01, 0x67, 0x2B, 0xFE, 0xD7, 0xAB, 0x76]
    ++ [0xCA, 0x82, 0xC9, 0x7D, 0xFA, 0x59, 0x47, 0xF0, 0xAD, 0xD4, 0xA2, 0xAF, 0x9C, 0xA4, 0x72, 0xC0]
    ++ [0xB7, 0xFD, 0x93, 0x26, 0x36, 0x3F, 0xF7, 0xCC, 0x34, 0xA5, 0xE5, 0xF1, 0x71, 0xD8, 0x31, 0x15]
    ++ [0x04, 0xC7, 0x23, 0xC3, 0x18, 0x96, 0x05, 0x9A, 0x07, 0x12, 0x80, 0xE2, 0xEB, 0x27, 0xB2, 0x75]
    ++ [0x09, 0x83, 0x2C, 0x1A, 0x1B, 0x6E, 0x5A, 0xA0, 0x52, 0x3B, 0xD6, 0xB3, 0x29, 0xE3, 0x2F, 0x84]
    ++ [0x53, 0xD1, 0x00, 0xED, 0x20, 0xFC, 0xB1, 0x5B, 0x6A, 0xCB, 0xBE, 0x39, 0x4A, 0x4C, 0x58, 0xCF]
    ++ [0xD0, 0xEF, 0xAA, 0xFB, 0x43, 0x4D, 0x33, 0x85, 0x45, 0xF9, 0x02, 0x7F, 0x50, 0x3C, 0x9F, 0xA8]
    ++ [0x51, 0xA3, 0x40, 0x8F, 0x92, 0x9D, 0x38, 0xF5, 0xBC, 0xB6, 0xDA, 0x21, 0x10, 0xFF, 0xF3, 0xD2]
    ++ [0xCD, 0x0C, 0x13, 0xEC, 0x5F, 0x97, 0x44, 0x17, 0xC4, 0xA7, 0x7E, 0x3D, 0x64, 0x5D, 0x19, 0x73]
    ++ [0x60, 0x81, 0x4F, 0xDC, 0x22, 0x2A, 0x90, 0x88, 0x46, 0xEE, 0xB8, 0x14, 0xDE, 0x5E, 0x0B, 0xDB]
    ++ [0xE0, 0x32, 0x3A, 0x0A, 0x49, 0x06, 0x24, 0x5C, 0xC2, 0xD3, 0xAC, 0x62, 0x91, 0x95, 0xE4, 0x79]
    ++ [0xE7, 0xC8, 0x37, 0x6D, 0x8D, 0xD5, 0x4E, 0xA9, 0x6C, 0x56, 0xF4, 0xEA, 0x65, 0x7A, 0xAE, 0x08]
    ++ [0xBA, 0x78, 0x25, 0x2E, 0x1C, 0xA6, 0xB4, 0xC6, 0xE8, 0xDD, 0x74, 0x1F, 0x4B, 0xBD, 0x8B, 0x8A]
    ++ [0x70, 0x3E, 0xB5, 0x66, 0x48, 0x03, 0xF6, 0x0E, 0x61, 0x35, 0x57, 0xB9, 0x86, 0xC1, 0x1D, 0x9E]
    ++ [0xE1, 0xF8, 0x98, 0x11, 0x69, 0xD9, 0x8E, 0x94, 0x9B, 0x1E, 0x87, 0xE9, 0xCE, 0x55, 0x28, 0xDF]
    ++ [0x8C, 0xA1, 0x89, 0x0D, 0xBF, 0xE6, 0x42, 0x68, 0x41, 0x99, 0x2D, 0x0F, 0xB0, 0x54, 0xBB, 0x16]

/-- The inverse S-box: where a value stands in the S-box. -/
def aesInvSub (x : Nat) : Nat := aesSbox.idxOf x
def aesSub (x : Nat) : Nat := aesSbox.getD x 0

/-- Multiplication by x, and in general, in GF(2^8) modulo x^8 + x^4 + x^3 + x + 1. -/
def xtime (a : Nat) : Nat := if a < 128 then 2 * a else (2 * a).xor 0x11B
def gmul (a b : Nat) : Nat :=
  ((List.range 8).foldl (fun (s : Nat × Nat) i => (if bitOf b i then s.1.xor s.2 else s.1, xtime s.2)) (0, a)).1

/-- Bytes as numbers, and back. -/
def nums (bs : Bytes) : List Nat := bs.map BitVec.toNat
def ofNums (l : List Nat) : Bytes := l.map (BitVec.ofNat 8)

/-- Elementwise exclusive or. -/
def xorNums (x y : List Nat) : List Nat := (x.zip y).map fun z => z.1.xor z.2

/-- Key expansion for a 32-byte key: the words so far, latest first; `i` is the number of the next word and `n` are to come. -/
def aesExpand : Nat → Nat → Nat → List (List Nat) → List (List Nat)
  | 0, _, _, ws => ws
  | n + 1, i, rcon, ws =>
    let t := ws.getD 0 []
    let t' := if i % 8 = 0 then xorNums ((t.drop 1 ++ t.take 1).map aesSub) [rcon, 0, 0, 0]
      else if i % 8 = 4 then t.map aesSub else t
    aesExpand n (i + 1) (if i % 8 = 0 then xtime rcon else rcon) (xorNums (ws.getD 7 []) t' :: ws)

/-- The 15 round keys, of 16 bytes. -/
def aesRoundKeys (key : Bytes) : List (List Nat) :=
  let ws := (aesExpand 52 8 1 ((List.range 8).map fun i => nums (slice key (4 * i) 4)).reverse).reverse
  (List.range 15).map fun r => (List.range 4).flatMap fun c => ws.getD (4 * r + c) []

/-- ShiftRows and its inverse: byte r + 4c comes from column c + r, or c − r. -/
def aesShift (s : List Nat) : List Nat := (List.range 16).map fun i => s.getD (i % 4 + 4 * ((i / 4 + i % 4) % 4)) 0
def aesInvShift (s : List Nat) : List Nat := (List.range 16).map fun i => s.getD (i % 4 + 4 * ((i / 4 + 4 - i % 4) % 4)) 0

/-- MixColumns with the coefficients of row 0: (2, 3, 1, 1), and (14, 11, 13, 9) for the inverse. -/
def aesMix (m : List Nat) (s : List Nat) : List Nat :=
  (List.range 16).map fun i => (List.range 4).foldl (fun a j => a.xor (gmul (s.getD (i / 4 * 4 + j) 0) (m.getD ((j + 4 - i % 4) % 4) 0))) 0

/-- The cipher on a block of 16 bytes. -/
def aesEncrypt (key block : Bytes) : Bytes :=
  let ks := aesRoundKeys key
  let s := xorNums (nums (slice block 0 16)) (ks.getD 0 [])
  let s := ((ks.drop 1).take 13).foldl (fun s k => xorNums (aesMix [2, 3, 1, 1] (aesShift (s.map aesSub))) k) s
  ofNums (xorNums (aesShift (s.map aesSub)) (ks.getD 14 []))

/-- The inverse cipher. -/
def aesDecrypt (key block : Bytes) : Bytes :=
  let ks := aesRoundKeys key
  let s := xorNums (nums (slice block 0 16)) (ks.getD 14 [])
  let s := ((ks.drop 1).take 13).reverse.foldl (fun s k => aesMix [14, 11, 13, 9] (xorNums ((aesInvShift s).map aesInvSub) k)) s
  ofNums (xorNums ((aesInvShift s).map aesInvSub) (ks.getD 0 []))

/-! ### GCM (SP 800-38D) -/

/-- The product of two blocks, each a number of 128 bits whose first bit is the most significant. -/
def ghashMul (x y : Nat) : Nat :=
  ((List.range 128).foldl (fun (s : Nat × Nat) i =>
    (if bitOf x (127 - i) then s.1.xor s.2 else s.1,
     if s.2 % 2 = 0 then s.2 / 2 else (s.2 / 2).xor (0xE1 * 2 ^ 120))) (0, y)).1

/-- Bytes cut into blocks of 16, the last filled with zeros. -/
def blocks16 (bs : Bytes) : List Nat := (List.range (ceilDiv bs.length 16)).map fun i => beN (slice bs (16 * i) 16)

/-- GHASH over AAD and ciphertext with their lengths. -/
def ghash (h : Nat) (aad cipher : Bytes) : Nat :=
  (blocks16 aad ++ blocks16 cipher ++ [8 * aad.length * 2 ^ 64 + 8 * cipher.length]).foldl (fun y x => ghashMul (y.xor x) h) 0

/-- J0 for a 96-bit nonce: the nonce followed by 0x0000_0001 (R145). -/
def gcmJ0 (nonce : Bytes) : Bytes := slice nonce 0 12 ++ [0, 0, 0, 1]

/-- The counter block i after J0: the last 32 bits advance modulo 2^32. -/
def gcmCounter (nonce : Bytes) (i : Nat) : Bytes := slice nonce 0 12 ++ beB 4 (1 + i)

/-- The stream of the counter blocks 1, 2, … as many bytes as `n`. -/
def gcmStream (key nonce : Bytes) (n : Nat) : Bytes :=
  ((List.range (ceilDiv n 16)).flatMap fun i => aesEncrypt key (gcmCounter nonce (1 + i))).take n

/-- Encryption, which is also decryption: the message combined with the stream. It keeps the length. -/
def gcmCrypt (key nonce message : Bytes) : Bytes := xorBytes message (gcmStream key nonce message.length)

/-- The tag of 128 bits over AAD and ciphertext (R145). -/
def gcmTag (key nonce aad cipher : Bytes) : Bytes :=
  let h := beN (aesEncrypt key (zeros 16))
  xorBytes (beB 16 (ghash h aad cipher)) (aesEncrypt key (gcmJ0 nonce))

/-! ### Key unwrap (RFC 3394) -/

/-- One step of the unwrap on the register A and the four semiblocks, for step number t and semiblock i. -/
def kwStep (kek : Bytes) (s : Nat × List Nat) (t : Nat) : Nat × List Nat :=
  let i := (t + 3) % 4
  let x := beN (aesDecrypt kek (beB 8 (s.1.xor t) ++ beB 8 (s.2.getD i 0)))
  (x / 2 ^ 64, s.2.set i (x % 2 ^ 64))

/-- Unwrap of a 40-byte blob (R157): the 32-byte key, or none where A does not end as the initial value
0xA6A6_A6A6_A6A6_A6A6. -/
def kwUnwrap (kek blob : Bytes) : Option Bytes :=
  let s := ((List.range 24).map (24 - ·)).foldl (kwStep kek)
    (beN (slice blob 0 8), (List.range 4).map fun i => beN (slice blob (8 + 8 * i) 8))
  if s.1 = 0xA6A6A6A6A6A6A6A6 then some (s.2.flatMap (beB 8)) else none

/-! ### CTR_DRBG with AES-256 and the derivation function (SP 800-90A) -/

/-- BCC: the chained cipher over blocks. -/
def drbgBcc (key : Bytes) (data : Bytes) : Bytes :=
  (List.range (data.length / 16)).foldl (fun c i => aesEncrypt key (xorBytes c (slice data (16 * i) 16))) (zeros 16)

/-- Block_Cipher_df: 48 bytes from an input string. -/
def drbgDf (input : Bytes) : Bytes :=
  let s := beB 4 input.length ++ beB 4 48 ++ input ++ [0x80]
  let s := s ++ zeros ((16 - s.length % 16) % 16)
  let k0 : Bytes := (List.range 32).map (BitVec.ofNat 8)
  let t := (List.range 3).flatMap fun i => drbgBcc k0 (beB 4 i ++ zeros 12 ++ s)
  let k := slice t 0 32
  let x1 := aesEncrypt k (slice t 32 16)
  let x2 := aesEncrypt k x1
  x1 ++ x2 ++ aesEncrypt k x2

/-- `n` blocks of output from Key and V. -/
def drbgBlocks (key : Bytes) (v n : Nat) : Bytes := (List.range n).flatMap fun i => aesEncrypt key (beB 16 ((v + 1 + i) % 2 ^ 128))

/-- The update of Key and V with 48 bytes. -/
def drbgUpdate (key : Bytes) (v : Nat) (data : Bytes) : Bytes × Nat :=
  let t := xorBytes (drbgBlocks key v 3) (slice data 0 48)
  (slice t 0 32, beN (slice t 32 16))

/-- Instantiation, and a reseed, from a seed (R163). -/
def drbgInit (seed : Bytes) : Bytes × Nat := drbgUpdate (zeros 32) 0 (drbgDf seed)
def drbgReseed (key : Bytes) (v : Nat) (seed : Bytes) : Bytes × Nat := drbgUpdate key v (drbgDf seed)

/-- A generate call: `n` bytes, and the state after it. -/
def drbgGenerate (key : Bytes) (v n : Nat) : Bytes × Bytes × Nat :=
  let k := ceilDiv n 16
  ((drbgBlocks key v k).take n, drbgUpdate key ((v + k) % 2 ^ 128) (zeros 48))

/-- The seed from 2,048 raw samples (R163): two SHA-384 computations over 1,024 samples each, each cut to 256 bits. -/
def seedOf (samples : Bytes) : Bytes :=
  (sha384 (slice samples 0 1024)).take 32 ++ (sha384 (slice samples 1024 1024)).take 32

/-! ### Health tests (SP 800-90B, R163) -/

/-- A sample passes through the repetition count test and the adaptive proportion test; the flag says that a test has failed. -/
def noiseStep (x : Noise × Bool) (s : Byte) : Noise × Bool :=
  let n := x.1
  let v := s.toNat
  let run := if n.last = some v then n.run + 1 else 1
  let (first, pos, cnt) := if n.pos = 0 then (v, 1, 1) else (n.first, n.pos + 1, n.count + b2n (n.first = v))
  ({ last := some v, run := run, first := first, pos := pos % 512, count := cnt }, x.2 || 11 ≤ run || 176 ≤ cnt)

/-- The tests over samples: their state after them, and whether one failed. -/
def noiseTest (n : Noise) (samples : Bytes) : Noise × Bool := samples.foldl noiseStep (n, false)

/-! ### ECDSA over P-384 (FIPS 186-5, SP 800-186) -/

def pMod : Nat := 2 ^ 384 - 2 ^ 128 - 2 ^ 96 + 2 ^ 32 - 1
def pOrder : Nat := 0xFFFFFFFFFFFFFFFFFFFFFFFFFFFFFFFFFFFFFFFFFFFFFFFFC7634D81F4372DDF581A0DB248B0A77AECEC196ACCC52973
def pB : Nat := 0xB3312FA7E23EE7E4988E056BE3F82D19181D9C6EFE8141120314088F5013875AC656398D8A2ED19D2A85C8EDD3EC2AEF
def pG : Nat × Nat :=
  (0xAA87CA22BE8B05378EB1C71EF320AD746E1D3B628BA79B9859F741E082542A385502F25DBF55296C3A545E3872760AB7,
   0x3617DE4A96262C6F5D9E98BF9292DC29F8F41DBD289A147CE9DA3113B5F0B8C00A60B1CE1D7E819D7A431D7C90EA0E5F)

/-- x^e modulo m, over the bits of e below 2^n. -/
def powMod (m x e : Nat) : Nat → Nat
  | 0 => 1 % m
  | n + 1 => let r := powMod m (x * x % m) (e / 2) n; if e % 2 = 1 then r * x % m else r

/-- The inverse modulo a prime of 384 bits. -/
def invMod (m x : Nat) : Nat := powMod m (x % m) (m - 2) 384

/-- The sum of two points; none is the point at infinity. -/
def ecAdd (p q : Option (Nat × Nat)) : Option (Nat × Nat) :=
  match p, q with
  | none, q => q
  | p, none => p
  | some (x1, y1), some (x2, y2) =>
    if x1 = x2 ∧ (y1 + y2) % pMod = 0 then none
    else
      let l := if x1 = x2 then (3 * x1 * x1 + (pMod - 3)) * invMod pMod (2 * y1) % pMod
        else (y2 + (pMod - y1)) * invMod pMod (x2 + (pMod - x1)) % pMod
      let x3 := (l * l + 2 * pMod - x1 - x2) % pMod
      some (x3, (l * (x1 + (pMod - x3)) + (pMod - y1)) % pMod)

/-- k times a point, over the bits of k below 2^n. -/
def ecMul (p : Option (Nat × Nat)) (k : Nat) : Nat → Option (Nat × Nat)
  | 0 => none
  | n + 1 => let r := ecMul (ecAdd p p) (k / 2) n; if k % 2 = 1 then ecAdd p r else r

/-- The point is on the curve. -/
def ecOn (p : Nat × Nat) : Bool :=
  p.1 < pMod && p.2 < pMod && p.2 * p.2 % pMod = (p.1 * p.1 * p.1 + (pMod - 3) * p.1 + pB) % pMod

/-- A public key in uncompressed SEC1 form, and back. -/
def sec1 (p : Nat × Nat) : Bytes := [0x04] ++ beB 48 p.1 ++ beB 48 p.2
def sec1Point (k : Bytes) : Option (Nat × Nat) :=
  let p := (beN (slice k 1 48), beN (slice k 49 48))
  if slice k 0 1 = [0x04] ∧ ecOn p then some p else none

/-- A number from 1 to n − 1 from random bytes (R516). -/
def scalarOf (bs : Bytes) : Nat := beN bs % (pOrder - 1) + 1

/-- The public key of a private key. -/
def publicKey (d : Nat) : Bytes := match ecMul (some pG) d 384 with | some p => sec1 p | none => []

/-- The signature of a digest of 48 bytes under private key d with the per-signature value k: r then s. -/
def ecdsaSign (d : Nat) (digest : Bytes) (k : Nat) : Bytes :=
  match ecMul (some pG) k 384 with
  | some p =>
    let r := p.1 % pOrder
    beB 48 r ++ beB 48 (invMod pOrder k * (beN digest + r * d) % pOrder)
  | none => zeros 96

/-- Verification of a signature, r then s, of a digest under a public key in SEC1 form. -/
def ecdsaVerify (key digest sig : Bytes) : Bool :=
  let r := beN (slice sig 0 48)
  let s := beN (slice sig 48 48)
  match sec1Point key with
  | none => false
  | some q =>
    0 < r && r < pOrder && 0 < s && s < pOrder &&
      match ecAdd (ecMul (some pG) (beN digest * invMod pOrder s % pOrder) 384)
          (ecMul (some q) (r * invMod pOrder s % pOrder) 384) with
      | some p => p.1 % pOrder = r
      | none => false

end Sys2Proof.Machine
end

