-- ==== Sys2Proof/Machine/SealOps.lean ====
section
/-!
DEFINITION. Sys2Proof/Machine/SealOps.lean: pipelines, nonces, keys and the DRBG as the cipher units run them
(spec/06_sealing.md R144 to R164).
-/

namespace Sys2Proof.Machine

/-! ### Jobs and pipelines (R151 to R153) -/

/-- Priority class of a job (R151). -/
def jobClass : PipeJob → Nat
  | .unwrap _ _ => 0
  | .seal w => if w.urgent then 1 else 2
  | .openSeg _ _ => 3

/-- Which of the three kinds a job is: 0 seal, 1 open, 2 unwrap. -/
def jobKind : PipeJob → Nat
  | .seal _ => 0
  | .openSeg _ _ => 1
  | .unwrap _ _ => 2

/-- The pipeline takes jobs (CIPH_PIPE_ENABLE). -/
def pipeUp (b : Block) (p : Nat) : Bool := dieUp b (p / 4) && bitOf (rd b (Fld.CIPH_PIPE_ENABLE_ENABLE (p / 4))) (p % 4)

/-- The pipeline is in service and free. -/
def pipeFree (b : Block) (p : Nat) : Bool := pipeUp b p && (b.pipe p).running.isNone

/-- The SEAL_STATE entry of a stream slot (R146). -/
def Block.sealState (b : Block) (slot : Nat) : SealState := tabGet {} b.ciph.sealStates slot
def Block.updSealState (b : Block) (slot : Nat) (f : SealState → SealState) : Block :=
  { b with ciph := { b.ciph with sealStates := tabUpd {} b.ciph.sealStates slot f } }

/-- Jobs in the pipelines. -/
def pipeJobs (b : Block) : List QueuedJob := b.ciph.pipes.flatMap fun (x : Nat × Pipeline) => x.2.running.toList ++ x.2.suspended.toList

/-- A seal job may run: it is its stream's first, none of its stream runs, and a counter value is at hand where its
segment has none yet (R103, R149, R153). -/
def sealEligible (b : Block) (p : Nat) (w : SealWork) : Bool :=
  let first := (b.ciph.queue.findSome? fun j => match j.job with
    | .seal v => if v.stream = w.stream then some v else none | _ => none) = some w
  let busy := (pipeJobs b).any fun j => match j.job with | .seal v => v.stream = w.stream | _ => false
  let nonce := (b.sealState (slotOfHandle w.stream)).active || (b.pipe p).subNext < (b.pipe p).subEnd
    || (b.ciph.nonceNext < b.ciph.nonceEnd && b.ledg.state ≠ .failed)
  first && !busy && nonce

/-- A waiting job may start on a pipeline. -/
def jobEligible (b : Block) (p : Nat) (j : QueuedJob) : Bool :=
  match j.job with
  | .seal w => sealEligible b p w
  | .openSeg n tried => tried ≠ some p && (b.cmd n).fin.isNone && (b.cmd n).rst.segs ≠ []
  | .unwrap n _ => (b.cmd n).e.opcode = 0x30 && (b.cmd n).fin.isNone

/-- The waiting job that starts next on a pipeline: lowest class, then oldest (R152). -/
def nextJob (b : Block) (p : Nat) : Option QueuedJob :=
  match b.ciph.queue.filter (jobEligible b p) with
  | [] => none
  | j0 :: t => some (t.foldl (fun a j =>
      if jobClass j.job < jobClass a.job || (jobClass j.job = jobClass a.job && since b a.since < since b j.since) then j else a) j0)

/-- The job may start on pipeline p: p is free and on the job's die, or free while that die has none free; or p's job is
suspended for it, while no pipeline is free (R152, R153). -/
def mayStart (b : Block) (p : Nat) (j : QueuedJob) : Bool :=
  let free := (List.range 8).filter (pipeFree b)
  if pipeFree b p then p / 4 = j.die || !free.any fun q => q / 4 = j.die
  else free = [] && pipeUp b p && (b.pipe p).suspended.isNone
    && match (b.pipe p).running with | some r => jobClass j.job < jobClass r.job | none => false

/-- Put a job on a pipeline, suspending the one that runs (R153). -/
def placeJob (b : Block) (p : Nat) (j : QueuedJob) : Block :=
  let b := { b with ciph := { b.ciph with queue := b.ciph.queue.erase j } }
  b.updPipe p fun x => { x with suspended := x.running.orElse fun _ => x.suspended, running := some j }

/-- The running job of a pipeline ends; a suspended one resumes (R153). -/
def freePipe (b : Block) (p : Nat) : Block := b.updPipe p fun x => { x with running := x.suspended, suspended := none }

/-! ### Sealing (R144 to R149) -/

/-- The AAD of a segment (R144). -/
def aadOf (g : Seg) : Bytes :=
  slice g.objectId 0 16 ++ leB 8 g.objectOffset ++ leB 4 g.firstRecord ++ leB 4 g.segmentNo ++ leB 8 g.keyLabel
    ++ leB 1 g.mode ++ zeros 1 ++ leB 2 1 ++ zeros 4

/-- The nonce of a counter value (R147). -/
def nonceOf (b : Block) (v : Nat) : Bytes := beB 4 (rd b Fld.CIPH_NONCE_PREFIX_PREFIX) ++ beB 8 v

/-- A pipeline takes a counter value, drawing a new sub-block where its own is used up (R149). -/
def drawNonce (b : Block) (p : Nat) : Nat × Block :=
  let x := b.pipe p
  if x.subNext < x.subEnd then (x.subNext, b.updPipe p fun x => { x with subNext := x.subNext + 1 })
  else
    let lo := b.ciph.nonceNext
    let hi := min (lo + 4096) b.ciph.nonceEnd
    let b := { b with ciph := { b.ciph with nonceNext := hi } }
    (lo, b.updPipe p fun x => { x with subNext := lo + 1, subEnd := hi })

/-- A seal job starts: the segment's first one takes its nonce and makes its SEAL_STATE (R146, R147, R149). -/
def sealStart (b : Block) (p : Nat) (w : SealWork) : Block :=
  let slot := slotOfHandle w.stream
  if (b.sealState slot).active then b
  else
    let (v, b) := drawNonce b p
    let b := updSeg b w.dataset w.seg fun g => { g with nonce := nonceOf b v }
    let g := (b.dataset w.dataset).segs.getD w.seg {}
    b.updSealState slot fun _ => { active := true, keySlot := w.key, nonce := g.nonce, aad := aadOf g, gmac := g.mode = 1 }

/-- A record or trailer is sealed: the command is STAGED, with its RESULT (R22, R52, R59). -/
def sealedEnd (b : Block) (n : Nat) : Block :=
  let c := b.cmd n
  if c.fin.isSome || c.e.opcode = 0 then b
  else
    let b := if c.e.opcode = 4 then
      match c.firstAt with
      | some (d, i) => b.updCmd n fun c => { c with result := ((b.dataset d).segs.getD i {}).nonce }
      | none => b
      else b
    staged b n

/-- A seal job ends (R145, R146): the bytes are in the beam store; at the segment's end its tag is written, unless the
segment is aborted. -/
def sealEnd (b : Block) (w : SealWork) : Block :=
  let slot := slotOfHandle w.stream
  let ss := b.sealState slot
  let msg := ss.msg ++ w.data
  let key := (b.slot w.key).key.getD []
  let stored := if ss.gmac then msg else gcmCrypt key ss.nonce msg
  let tag := if ss.gmac then gcmTag key ss.nonce (ss.aad ++ msg) [] else gcmTag key ss.nonce ss.aad stored
  let b := updSeg b w.dataset w.seg fun g => { g with
    message := stored, sealed := w.last, tag := if w.last && !g.aborted then tag else [] }
  let b := b.updSealState slot fun s => if w.last then {} else { s with msg := msg, len := msg.length }
  let b := match w.cmd with | some n => if w.recordEnd then sealedEnd b n else b | none => b
  checkCloseStream (tryReady b w.dataset) w.stream

/-- Bytes of a segment that were emitted and will not be sealed: what the beam store holds in their place is a free value, and the
message keeps the length emitted (R188; log entry 141). -/
def fillUnsealed (b : Block) (d i : Nat) : Block :=
  let g := (b.dataset d).segs.getD i {}
  let (bs, b) := freshBytes b (g.emitted - g.message.length)
  updSeg b d i fun g => { g with message := g.message ++ bs }

/-- Drop the seal work of a stream that has not begun, and what runs of it (R150, R161). -/
def dropSeals (b : Block) (handle : Nat) : Block :=
  let works := ((sealWorks b).filter fun w => w.stream = handle).map fun w => (w.dataset, w.seg)
  let is (j : QueuedJob) : Bool := match j.job with | .seal w => w.stream = handle | _ => false
  let b := { b with ciph := { b.ciph with queue := b.ciph.queue.filter fun j => !is j } }
  let b := forEach (List.range 8) b fun b p => b.updPipe p fun x =>
    let r := x.running.filter fun j => !is j
    let t := x.suspended.filter fun j => !is j
    { x with running := r.orElse fun _ => t, suspended := if r.isSome then t else none }
  forEach works.eraseDups (b.updSealState (slotOfHandle handle) fun _ => {}) fun b x => fillUnsealed b x.1 x.2

/-- The objects of a stream whose seal work has been dropped end with a status (R34, R150, R161); its datasets that
close then close. -/
def endSealed (b : Block) (handle status : Nat) : Block :=
  let works := (sealWorks b).filter fun w => w.stream = handle
  let b := dropSeals b handle
  let objs := (works.map fun w => ((b.dataset w.dataset).segs.getD w.seg {}).obj).eraseDups
  let b := forEach works b fun b w => updSeg b w.dataset w.seg fun g => { g with aborted := true, tag := [] }
  let b := forEach objs b fun b o => endObject b o status .aborted
  let b := dropSeals b handle
  let b := forEach (works.map (·.dataset)).eraseDups b tryReady
  noteReady (pumpStream b handle)

/-! ### Nonce reservations (R149, R150) -/

/-- NONCE_RESERVE and PREFIX_USED records (R477). -/
def nonceRecord (b : Block) (endValue : Nat) : Bytes :=
  leB 1 0x10 ++ zeros 3 ++ leB 4 (rd b Fld.CIPH_NONCE_PREFIX_PREFIX) ++ leB 8 endValue ++ zeros 16
def prefixRecord (b : Block) : Bytes :=
  leB 1 0x13 ++ zeros 3 ++ leB 4 (rd b Fld.CIPH_NONCE_PREFIX_PREFIX) ++ leB 8 b.time.now ++ zeros 16

/-- The two copies of the reservation go to the ledger (R149, R481). -/
def submitReservation (b : Block) : Block :=
  let want := b.ciph.nonceEnd + 2 ^ 20
  let b := { b with ciph := { b.ciph with nonceWant := want, nonceCopies := 2 } }
  let r := nonceRecord b want
  ledgerSubmit (ledgerSubmit b regNonceA r .nonce) regNonceB r .nonce

/-- A reservation is begun where one is due: PREFIX_USED first, in two copies on different dies (R150). -/
def reserveNonces (b : Block) : Block :=
  if rdB b Fld.CIPH_NONCE_STATUS_ENABLED ∧ !rdB b Fld.CIPH_NONCE_STATUS_RESERVING ∧ b.ledg.state ≠ .failed
      ∧ b.ciph.nonceEnd - b.ciph.nonceNext ≤ 524288 ∧ b.ciph.nonceEnd < 2 ^ 64 - 2 ^ 20 then
    let b := wr b Fld.CIPH_NONCE_STATUS_RESERVING 1
    if b.ciph.prefixUsed then submitReservation b
    else
      let r := prefixRecord b
      let d := pickDie b regControl { data := r }
      let b := { b with ciph := { b.ciph with prefixCopies := 2 } }
      ledgerSubmitAt (ledgerSubmitAt b regControl d r .prefixUsed) regControl ((d + 1) % 16) r .prefixUsed
  else b

/-- A copy of the reservation is durable (R149). -/
def nonceDurable (b : Block) : Block :=
  if b.ciph.nonceCopies = 1 then
    wr { b with ciph := { b.ciph with nonceCopies := 0, nonceEnd := b.ciph.nonceWant } } Fld.CIPH_NONCE_STATUS_RESERVING 0
  else { b with ciph := { b.ciph with nonceCopies := b.ciph.nonceCopies - 1 } }

/-- A copy of PREFIX_USED is durable; after the second the reservation is written (R150). -/
def prefixDurable (b : Block) : Block :=
  if b.ciph.prefixCopies = 1 then submitReservation { b with ciph := { b.ciph with prefixCopies := 0, prefixUsed := true } }
  else { b with ciph := { b.ciph with prefixCopies := b.ciph.prefixCopies - 1 } }

/-- NONCE_START (R150): the counter starts from the records of both NONCE regions; sealing is enabled, or disabled where
the prefix was used and its reservations are lost. -/
def nonceStart (b : Block) : Block :=
  let pre := rd b Fld.CIPH_NONCE_PREFIX_PREFIX
  let own := (ledgerRecords b regNonceA ++ ledgerRecords b regNonceB).filter fun r => fieldAt r 0 1 = 0x10 && fieldAt r 4 4 = pre
  let used := (ledgerRecords b regControl).any fun r => fieldAt r 0 1 = 0x13 && fieldAt r 4 4 = pre
  let start := (own.map fun r => fieldAt r 8 8).foldl max 0
  if own = [] && used then
    let b := wr (wr b Fld.CIPH_NONCE_STATUS_ENABLED 0) Fld.CIPH_NONCE_STATUS_NONCE_LOST 1
    internalError b 0 4 0xFFFF 2 0
  else
    let b := wr (wr b Fld.CIPH_NONCE_STATUS_ENABLED 1) Fld.CIPH_NONCE_STATUS_NONCE_LOST 0
    { b with ciph := { b.ciph with nonceNext := start, nonceEnd := start, nonceWant := start, prefixUsed := used } }

/-! ### Keys (R154 to R159) -/

/-- The slot range of a tenant: base and count (R155). -/
def slotRange (b : Block) (t : Nat) : Nat × Nat := (rd b (Fld.CIPH_TENANT_SLOTS_BASE t), rd b (Fld.CIPH_TENANT_SLOTS_COUNT t))

/-- The slot lies in the tenant's range. -/
def inRange (b : Block) (t slot : Nat) : Bool := let (base, n) := slotRange b t; base ≤ slot && slot < base + n

/-- Open streams bound to a slot (R158). -/
def boundStreams (b : Block) (slot : Nat) : Nat :=
  (b.ing.streams.filter fun (x : Nat × Stream) => x.2.bound && x.2.keySlot = slot).length

/-- The slot of a tenant whose key carries a label, if one holds it and is open to new jobs (R157, R159). -/
def slotWithLabel (b : Block) (t label : Nat) : Option Nat :=
  (b.ciph.slots.find? fun (x : Nat × KeySlot) => x.2.key.isSome && x.2.label = label && inRange b t x.1).map Prod.fst

/-- An open job that has started: it runs, is suspended, or waits for its second check (R159). -/
def openStarted (b : Block) : List Nat :=
  (pipeJobs b).filterMap (fun j => match j.job with | .openSeg n _ => some n | _ => none)
    ++ b.ciph.queue.filterMap fun j => match j.job with | .openSeg n (some _) => some n | _ => none

/-- A job holds the slot: a seal job of a stream on it, or a started open job with its key (R158). -/
def slotHeld (b : Block) (slot : Nat) : Bool :=
  (sealWorks b).any (fun w => w.key = slot)
    || (openStarted b).any fun n => match (b.cmd n).rst.segs with
      | g :: _ => slotWithLabel b (b.cmd n).tenant g.keyLabel = some slot
      | [] => false

/-- KEK_t: the first 32 bytes of SHA-384 over KEY_ROOT, "GVXKEK" and t (R154). -/
def kekOf (b : Block) (t : Nat) : Bytes :=
  (sha384 (b.fuse.keyRoot ++ [0x47, 0x56, 0x58, 0x4B, 0x45, 0x4B] ++ leB 1 t)).take 32

/-- A safety alarm that names keys stands (R157 check 6, R160, R162): one that the dies have still to answer, or one of a
masked class whose cause is in force (R532, R533). DEDUCED (log entry 114): a FORMAT_PATH alarm is cleared once answered. -/
def alarmStands (b : Block) : Bool :=
  b.ciph.eraseDue ≠ []
    || (rdB b Fld.CIPH_ALARM_MASK_LOCKSTEP
      && ([0, 1].any (fun d => rdB b (Fld.SAFE_STATUS_FAULT d) && rd b (Fld.SAFE_STATUS_FAULT_CAUSE d) = 1)
        || b.sl.safe.any fun (x : Nat × SafeP) => x.2.latched.contains 1))
    || (rdB b Fld.CIPH_ALARM_MASK_TIME_ERROR && b.sl.safe.any fun (x : Nat × SafeP) => x.2.runStops.contains 7)

/-- Checks 2 to 6 of KEY_LOAD (R157): status and DETAIL of the first that fails. -/
def keyLoadFault (b : Block) (t slot label : Nat) : Option (Nat × Nat) :=
  if !inRange b t slot then some (0x1002, 40)
  else if (b.slot slot).key.isSome then some (0x1002, 40)
  else if (slotWithLabel b t label).isSome then some (0x1002, 48)
  else if rdB b (Fld.CIPH_ERASE_STATUS_TAMPER 0) then some (0x6004, 0)
  else if alarmStands b then some (0x6001, 0)
  else none

/-- KEY_LOAD accepted (R157): the blob is read from the host, and its unwrap job waits for its bytes. -/
def acceptKeyLoad (b : Block) (n : Nat) : Block :=
  let c := b.cmd n
  match keyLoadFault b c.tenant (bitsOf c.e.param0 0 12) c.e.param1 with
  | some (st, d) => finishCmd b n st 0 [] d
  | none => readBuf b c.fn c.e c.sgl 0 40

/-- KEY_DROP accepted (R158). A second one for a slot that is already closing waits with the first (DESIGN CHOICE, log entry 21). -/
def acceptKeyDrop (b : Block) (n : Nat) : Block :=
  let c := b.cmd n
  let k := bitsOf c.e.param0 0 12
  if !inRange b c.tenant k || boundStreams b k != 0 then finishCmd b n 0x1002 0 [] 40
  else if (b.slot k).key.isNone then finishCmd b n 0x6005 0
  else b.updSlot k fun s => { s with closing := true, drops := s.drops ++ [n] }

/-- KEY_DROP of a closing slot completes once no job holds it (R158). -/
def zeroizeSlot (b : Block) (k : Nat) : Block :=
  let s := b.slot k
  if s.closing && !slotHeld b k then
    forEach s.drops (b.updSlot k fun _ => {}) fun b n => finishCmd b n 0 0
  else b

/-! ### DRBG (R163, R164) -/

/-- Output may be generated: the DRBG is ready, and no reseed is due (R163). -/
def drbgOk (b : Block) : Bool := b.ciph.drbg = .ready && b.ciph.genCalls < 65536 && since b b.ciph.seedTime < 10 * tS

/-- One generate call of at most 4,096 bytes (R163). -/
def drbgCall (b : Block) (n : Nat) : Bytes × Block :=
  let r := drbgGenerate b.ciph.drbgKey b.ciph.drbgV n
  (r.1, { b with ciph := { b.ciph with drbgKey := r.2.1, drbgV := r.2.2, genCalls := b.ciph.genCalls + 1 } })

/-- `n` bytes of DRBG output, at most 4,096. -/
def drbgBytes (b : Block) (n : Nat) : Bytes × Block := drbgCall b (min n 4096)

/-- A number from 1 to n − 1 of the group order, from 48 bytes of DRBG output (DESIGN CHOICE, log entry 142): a private key, or the
per-signature value of a signature. -/
def drbgScalar (b : Block) : Nat × Block := let r := drbgBytes b 48; (scalarOf r.1, r.2)

/-- A GET_ENTROPY draws calls until it has its bytes or a reseed is due (R156, R163, R164). -/
def drawEntropy (n : Nat) : Nat → Block → Block
  | 0, b => b
  | f + 1, b =>
    let got := (b.cmd n).rst.acc.length
    let want := (b.cmd n).e.length
    if got < want ∧ drbgOk b then
      let r := drbgCall b (min 4096 (want - got))
      drawEntropy n f (r.2.updCmd n fun c => { c with rst := { c.rst with acc := c.rst.acc ++ r.1 } })
    else b

/-- GET_ENTROPY: its output goes to the host when it is whole; while a reseed is due it waits (R163, R164). -/
def serveEntropy (b : Block) (n : Nat) : Block :=
  let b := drawEntropy n (ceilDiv (b.cmd n).e.length 4096) b
  let c := b.cmd n
  if c.rst.acc.length = c.e.length then finishCmd (writeBuf b c.fn c.e c.sgl 0 c.rst.acc) n 0 0 (leB 8 c.e.length) else b

/-- GET_ENTROPY accepted (R156, R164). -/
def acceptGetEntropy (b : Block) (n : Nat) : Block :=
  if b.ciph.drbg ≠ .ready then finishCmd b n 0x6003 0 else serveEntropy b n

/-- Commands that wait for DRBG output. -/
def entropyWaiters (b : Block) : List Nat :=
  (b.hq.cmds.filter fun (x : Nat × Cmd) => (x.2.e.opcode = 0x32 || x.2.e.opcode = 0x33) && x.2.fin.isNone).map Prod.fst

/-- The DRBG goes out of use (R164): its state is cleared. -/
def drbgGone (b : Block) (st : DrbgState) : Block :=
  { b with ciph := { b.ciph with drbg := st, drbgKey := [], drbgV := 0, genCalls := 0 } }

end Sys2Proof.Machine
end

