-- ==== Sys2Proof/Machine/FormatOps.lean ====
section
/-!
DEFINITION. Sys2Proof/Machine/FormatOps.lean: datasets as bytes, tape geometry, weft periods and the segments that a
port writes (spec/07_dataset_format.md R166 to R199; spec/08_formatting.md R202 to R214; spec/14_weave.md R358, R360).
-/

namespace Sys2Proof.Machine

/-! ### Datasets as bytes -/

/-- FLAGS of a segment (R188, R193). -/
def segFlags (g : Seg) : Nat := b2n g.last + 2 * b2n g.aborted + 4 * b2n g.continues

/-- The segment header (R188). -/
def segHeader (g : Seg) : Bytes :=
  let a := [0x47, 0x56, 0x58, 0x53] ++ leB 2 1 ++ leB 1 g.mode ++ leB 1 (segFlags g) ++ slice g.objectId 0 16
    ++ leB 8 g.objectOffset ++ leB 4 g.firstRecord ++ leB 4 g.segmentNo ++ leB 8 g.keyLabel
  let c := leB 4 g.message.length ++ leB 8 g.plainLength ++ leB 4 g.recordCount ++ leB 2 g.firstMap ++ leB 2 g.mapCount
    ++ zeros 28
  a ++ slice g.nonce 0 12 ++ slice g.tag 0 16 ++ c ++ leB 4 (crc32c (a ++ c))

/-- The record map (R190): used entries, then 0xFFFF_FFFF. -/
def recordMap (m : List Nat) : Bytes := m.flatMap (leB 4) ++ List.replicate (4 * (2304 - m.length)) 0xFF

/-- A dataset information table (R193) from its segments, map count, cause and payload end. -/
def ditBytes (segs : List Seg) (mapCount cause payloadEnd : Nat) : Bytes :=
  let h := [0x47, 0x56, 0x58, 0x54] ++ leB 2 1 ++ leB 2 segs.length ++ leB 2 mapCount ++ leB 1 cause
    ++ leB 1 (b2n (segs.any (·.aborted))) ++ leB 4 payloadEnd ++ zeros 44
  let e := segs.flatMap fun g => slice g.objectId 0 16 ++ leB 4 g.offset ++ leB 4 (128 + g.message.length) ++ leB 4 g.segmentNo
    ++ leB 2 g.firstMap ++ leB 1 (segFlags g + 8 * b2n (g.mode = 1)) ++ zeros 1
  let body := e ++ zeros (32 * (510 - segs.length))
  h ++ leB 4 (crc32c (h ++ body)) ++ body

/-- The 6,815,744 bytes of a data dataset (R183, R187, R192): record map, segments, pad, DIT. -/
def datasetBytes (x : Dataset) : Bytes :=
  match x.raw with
  | some r => r
  | none =>
  slice (recordMap x.map ++ x.segs.flatMap fun g => segHeader g ++ g.message) 0 6799360
    ++ ditBytes x.segs x.map.length x.cause x.payloadEnd

/-- A filler dataset (R196). -/
def fillerBytes : Bytes := slice (recordMap []) 0 6799360 ++ ditBytes [] 0 0 9216

/-- A marker block (R198). -/
def markerBlock (kind reason dsNo weft group count next : Nat) : Bytes :=
  let m := [0x47, 0x56, 0x58, 0x4D] ++ leB 2 1 ++ leB 1 kind ++ leB 1 reason ++ leB 8 dsNo ++ leB 8 weft ++ leB 2 group
    ++ leB 2 count ++ leB 8 next ++ zeros 2008
  m ++ leB 4 (crc32c m)

/-- The label (R197). -/
def labelBytes (c : CartK) (part : Nat) : Bytes :=
  let l := [0x47, 0x56, 0x58, 0x4C, 0x41, 0x42, 0x45, 0x4C] ++ leB 2 1 ++ leB 2 256 ++ zeros 4 ++ leB 8 c.id ++ leB 4 c.length
    ++ leB 1 c.bands ++ leB 1 c.wraps ++ leB 1 c.catBand ++ leB 1 c.edgeMask ++ leB 4 250000 ++ leB 1 7 ++ leB 1 8 ++ leB 1 32
    ++ leB 1 124 ++ leB 1 4 ++ leB 1 16 ++ leB 2 14 ++ leB 4 12000 ++ leB 4 8000 ++ leB 8 part ++ zeros 192
  l ++ leB 4 (crc32c l)

/-! ### Tape geometry (R166 to R170). Positions are in units of 1/7 nm: 7,000,000 units in a millimetre -/

/-- Units in a millimetre, and in an LPOS unit of 12.5 µm (R388). -/
def uMm : Nat := 7000000
def uLpos : Nat := 87500

/-- The catalogue band (R169), and the bands by their number of edge zones (R167). -/
def catBandOf (bands : Nat) : Nat := if 3 ≤ bands then 1 else 0
def edgeMaskOf (bands : Nat) : Nat := if 3 ≤ bands then 1 + 2 ^ (bands - 1) else 0

/-- The model's number for catalogue wrap 0 or 1, beside the logical wraps of partition 1. -/
def catWrap (w : Nat) : Nat := 65536 + w

/-- Band and wrap of a logical wrap (R169), or of a catalogue wrap. -/
def wrapOf (c : CartK) (lw : Nat) : Nat × Nat :=
  if 65536 ≤ lw then (c.catBand, lw - 65536)
  else
  let before := c.catBand * c.wraps
  let n := if lw < before then lw else lw + 2
  (n / c.wraps, n % c.wraps)

/-- Logical wraps of a cartridge. -/
def wrapCount (c : CartK) : Nat := c.bands * c.wraps - 2

/-- The logical wrap is written forward (R166); it lies in an edge-zone band (R167). -/
def wrapForward (c : CartK) (lw : Nat) : Bool := (wrapOf c lw).2 % 2 = 0
def wrapEdge (c : CartK) (lw : Nat) : Bool := bitOf c.edgeMask (wrapOf c lw).1

/-- Length of a segment on a logical wrap: 28 units a bit at full rate, 32 in an edge zone (R167). -/
def segLen (c : CartK) (lw : Nat) : Nat := (if wrapEdge c lw then 32 else 28) * segBits

/-- Ends of the data area (R168). -/
def dataLo : Nat := 12000 * uMm
def dataHi (c : CartK) : Nat := (c.length - 8000) * uMm

/-- The next segment would end inside the data area (R168). -/
def segFits (c : CartK) : Bool :=
  if wrapForward c c.lwrap then c.pos + segLen c c.lwrap ≤ dataHi c else dataLo + segLen c c.lwrap ≤ c.pos

/-- The position after a length written on the wrap. -/
def advance (c : CartK) (len : Nat) : Nat := if wrapForward c c.lwrap then c.pos + len else c.pos - len

/-- Run-up position on a wrap: 6 mm inside the data area, in the writing direction (R220). -/
def wrapStart (c : CartK) (lw : Nat) : Nat := if wrapForward c lw then dataLo + 6 * uMm else dataHi c - 6 * uMm

/-- The target of the splice gap: the next run begins this far past the last channel bit written (R174). -/
def spliceGap : Nat := 6 * uMm

/-- The cartridge has a free logical wrap (R221): a next one, or nothing is written yet on the one it stands on. -/
def freeWrap (c : CartK) : Bool := c.lwrap + 1 < wrapCount c || c.pos = wrapStart c c.lwrap

/-- The cartridge moved to the start of its next logical wrap, if it has one (R220). -/
def onNextWrap (c : CartK) : CartK :=
  if c.lwrap + 1 < wrapCount c then { c with lwrap := c.lwrap + 1, pos := wrapStart c (c.lwrap + 1) } else c

/-- Positions of a catalogue wrap (R170), and the physical position of a data position (R399). -/
def catPositions (c : CartK) : Nat := (c.length - 20000) / 14
def catPhys (d : Nat) : Nat := 8 * (d / 7) + d % 7

/-- Data positions of a catalogue wrap (R399). -/
def catData (c : CartK) : Nat := 7 * (catPositions c / 8)

/-! ### Carts and ports -/

/-- The cartridge known under an identity; the cartridge mounted on a port. -/
def cartKnown (b : Block) (id : Nat) : Option CartK := b.cons.carts.find? fun c => c.id = id
def Block.tape (b : Block) (p : Nat) : Tape := tabGet {} b.cons.tapes p
def Block.updTape (b : Block) (p : Nat) (f : Tape → Tape) : Block := { b with cons := { b.cons with tapes := tabUpd {} b.cons.tapes p f } }
def cartOn (b : Block) (p : Nat) : Option CartK := (b.tape p).cart.bind (cartKnown b)
def updCart (b : Block) (id : Nat) (f : CartK → CartK) : Block :=
  { b with cons := { b.cons with carts := b.cons.carts.map fun c => if c.id = id then f c else c } }

/-- The port on which a cartridge is mounted: from the end of its MOUNT until UNMOUNT. -/
def portOfCart (b : Block) (id : Nat) : Option Nat :=
  (List.range 32).find? fun p => (b.tape p).cart = some id && (b.tape p).mount.isNone

def Block.wport (b : Block) (p : Nat) : Wport := tabGet {} b.heads.ports p
def Block.updWport (b : Block) (p : Nat) (f : Wport → Wport) : Block := { b with heads := { b.heads with ports := tabUpd {} b.heads.ports p f } }

/-- The heddle link of a port is UP (R248). -/
def linkUp (b : Block) (p : Nat) : Bool := rd b (Fld.HDL_STATUS_STATE p) = 2

/-- The port's state under R525: 0 HARD, 1 SAFE, 2 RUN, 3 CONTROLLED; and a latched cause (R532). -/
def portState (b : Block) (p : Nat) : Nat := rd b (Fld.SAFE_PORT_STATE_STATE (p / 16) (p % 16))
def portLatched (b : Block) (p : Nat) : Bool := rdB b (Fld.SAFE_PORT_STATE_LATCHED (p / 16) (p % 16))

/-- A command that needs the port ends with SAFE_STOP (R537). -/
def safeStopped (b : Block) (p : Nat) : Bool := portState b p = 0 || portState b p = 3 || (portState b p = 1 && portLatched b p)

/-- Health of a port under R298: 0 NORMAL, 1 DEGRADED, 2 FAILED. -/
def health (b : Block) (p : Nat) : Nat := rd b (Fld.VFY_STATE_HEALTH p)

/-! ### Groups: roles, speed and period (R211 to R214, R358) -/

/-- Members N = K + M. -/
def grpN (q : Grp) : Nat := q.k + q.m

/-- The role of member i in weft w, and the member that holds role r (R358). -/
def roleOf (n i w : Nat) : Nat := (i + w) % n
def memberOf (n r w : Nat) : Nat := (r + n - w % n) % n

/-- The part's own DEVICE_ID (R460). -/
def ownDev (b : Block) : Nat := rd b Fld.SHUT_ID_DEVICE_ID

/-- Members on this part, by index. -/
def localMembers (b : Block) (q : Grp) : List (Nat × Member) := (q.members.zipIdx.map fun (m, i) => (i, m)).filter fun x => x.2.dev = ownDev b

/-- Where the cartridge of a member stands: on this part as it is, on another as that part last reported (R382). -/
def memberRep (b : Block) (m : Member) : MemberRep :=
  if m.dev = ownDev b then
    match cartOn b m.port with
    | some c => { cart := true, edge := wrapEdge c c.lwrap, fits := segFits c, last := wrapCount c ≤ c.lwrap + 1, free := freeWrap c }
    | none => { cart := false, free := false }
  else m.rep

/-- The member's current wrap lies in an edge-zone band. -/
def memberEdge (b : Block) (m : Member) : Bool := let r := memberRep b m; r.cart && r.edge && !m.await

/-- The cadence class EDGE of R212, decided anew. -/
def classEdge (b : Block) (q : Grp) : Bool := q.members.any (memberEdge b)

/-- Every member with a cartridge is in an edge-zone band. -/
def allEdge (b : Block) (q : Grp) : Bool := q.members.all fun m => !(memberRep b m).cart || m.await || memberEdge b m

/-- Speed of a step in mm/s. -/
def stepSpeed (b : Block) (i : Nat) : Nat := rd b (Fld.WEAVE_SPEED_STEP_SPEED i)

/-- T_w of a step and class (R211, R212). -/
def weftPeriod (b : Block) (edge : Bool) (i : Nat) : Nat :=
  if edge then roundDiv 286309376000 (7 * stepSpeed b i) else roundDiv 35788672000 (stepSpeed b i)

/-- A step is available in a class (R213). -/
def stepAvail (b : Block) (edge mixed : Bool) (i : Nat) : Bool :=
  if !edge then stepSpeed b i ≤ 9600 else if mixed then 2286 ≤ stepSpeed b i else true

/-- The steps speed matching may choose (R213): the available ones within MIN_STEP to MAX_STEP, else the nearest to that
range, the higher on a tie. -/
def steps (b : Block) (g : Nat) (edge mixed : Bool) : List Nat :=
  let lo := rd b (Fld.WEAVE_SM_CTRL_MIN_STEP g)
  let hi := rd b (Fld.WEAVE_SM_CTRL_MAX_STEP g)
  let av := (List.range 16).filter (stepAvail b edge mixed)
  let rng := av.filter fun i => lo ≤ i && i ≤ hi
  if rng ≠ [] then rng
  else
    let dist (i : Nat) : Nat := if i < lo then lo - i else i - hi
    match av with
    | [] => []
    | a :: t => [t.foldl (fun x i => if dist i ≤ dist x then i else x) a]

/-- Ticks of a ramp between rest and the speed of a step (R218). -/
def rampTicks (b : Block) (g i : Nat) : Nat := ceilDiv (stepSpeed b i * 4000000) (rd b (Fld.WEAVE_SM_RAMP_ACCEL g))

/-! ### Content of what a segment carries -/

/-- Content of a data role of a weft: its dataset, filler or phantom (R360, R362). -/
def roleData (b : Block) (w : Weft) (r : Nat) : Bytes :=
  match (w.places.find? fun p => p.role = r && p.kind = 1).bind (·.dataset) with
  | some d => datasetBytes (b.dataset d)
  | none => fillerBytes

/-- The bytes of a role of a weft, from the beam store (R360, R364). -/
def roleBytes (b : Block) (k : Nat) (w : Weft) (r : Nat) : Bytes :=
  if r < k then roleData b w r else weftParityBytes (r - k) ((List.range k).map (roleData b w))

/-- The weft of a group slot. -/
def weftOf (q : Grp) (no : Nat) : Option Weft := q.wefts.find? fun w => w.no = no

/-- A segment is a marker. -/
def isMarker (s : WSeg) : Bool := s.kind = 4 || s.kind = 6

/-- The dataset bytes that a segment writes (R205). -/
def segContent (b : Block) (s : WSeg) : Bytes :=
  match s.content with
  | some c => c
  | none =>
    match weftOf (b.grp s.g) s.weft with
    | some w => roleBytes b (b.grp s.g).k w s.role
    | none => fillerBytes

/-- KIND of R178 of a segment's codewords. -/
def segKind (b : Block) (s : WSeg) : Nat :=
  if s.kind = 4 then 3 else if s.kind = 6 then 4 else if s.kind = 7 then 2 else b2n ((b.grp s.g).k ≤ s.role)

/-- The header that codeword (sds, row) of a dataset segment carries (R177, R179, R181). -/
def dsHeader (b : Block) (s : WSeg) (sds row : Nat) : Bytes :=
  cwHeader s.dsNo ((s.desc.getD (descIndex sds row) 0).toNat) sds (segKind b s) row

/-- A fill codeword's header in slot k (R175). -/
def fillHeader (s : WSeg) (k : Nat) : Bytes := cwHeader s.dsNo 0 0 5 k

/-- Dataset segment that owns a codeword given a rewrite slot. -/
def segOf (w : Wport) (idx : Nat) : Option WSeg := w.segs.find? fun s => s.idx = idx

/-- The header placed in slot k of track t of a segment (R175, R186, R198). -/
def placedHeader (b : Block) (w : Wport) (s : WSeg) (t k : Nat) : Bytes :=
  if k < 120 then
    if isMarker s then cwHeader s.dsNo ((s.desc.getD (k % 32) 0).toNat) 0 (segKind b s) k
    else let (sds, row) := cwAt k t; dsHeader b s sds row
  else if isMarker s then fillHeader s k
  else match tabGet (0, 4096, false) w.alloc (128 * s.idx + 4 * t + (k - 120)) with
    | (i, e, taken) => match (if taken then segOf w i else none) with
      | some v => dsHeader b v (e % 16) (e / 16)
      | none => fillHeader s k

end Sys2Proof.Machine
end

