-- ==== Sys2Proof/Machine/RunOps.lean ====
section
/-!
DEFINITION. Sys2Proof/Machine/RunOps.lean: messages to a transport (spec/09_heddle_link.md R245, R246), write runs and
sample streams of a port (R234, R238, R253, R257).
-/

namespace Sys2Proof.Machine

def Block.hdlP (b : Block) (p : Nat) : Hdl := tabGet {} b.hdl.ports p
def Block.updHdl (b : Block) (p : Nat) (f : Hdl → Hdl) : Block := { b with hdl := { ports := tabUpd {} b.hdl.ports p f } }

/-! ### Safety log and alarms (R160, R533, R542) -/

/-- An alarm that names keys reaches a die's cipher unit (R160): its erasure is due. -/
def nameKeys (b : Block) (die : Nat) (tamper : Bool) : Block :=
  { b with ciph := { b.ciph with eraseDue := b.ciph.eraseDue ++ [(die, tamper)] } }

/-- A safety alarm of a class names the keys of both dies where its mask bit is set (R160, R533). -/
def safetyAlarm (b : Block) (mask : Fld) : Block := if rdB b mask then nameKeys (nameKeys b 0 false) 1 false else b

/-- Log page 0x0120 (R542). -/
def safeLog (b : Block) (kind port reaction channels arg : Nat) : Block :=
  logAppend b 0x120 (leB 8 b.time.now ++ leB 2 (if 2 ≤ reaction ∧ reaction ≤ 4 then 0x8001 else 0) ++ leB 1 kind ++ leB 1 port
    ++ leB 1 reaction ++ leB 1 channels ++ zeros 2 ++ leB 8 arg ++ zeros 8)

/-- The 32 bytes of a MSG cell (R245). -/
def msgCell (typ seq : Nat) (payload : Bytes) : Bytes :=
  leB 1 typ ++ leB 1 seq ++ leB 1 payload.length ++ leB 1 1 ++ slice payload 0 28

/-- Send a downstream message with ACK_REQ = 1 (R245, R246). -/
def sendMsg (b : Block) (p typ : Nat) (payload : Bytes) : Block :=
  let seq := (b.hdlP p).seq
  let b := b.updHdl p fun h => { h with seq := (seq + 1) % 256, unacked := h.unacked ++
    [{ typ := typ, seq := seq, payload := payload, sentAt := b.time.now }] }
  emit b (.hdlMsg p typ (msgCell typ seq payload))

/-- The sample period for a channel bit time of `num / den` ticks (R253). -/
def samplePeriod (lo num den : Nat) : Nat := min 16 (max lo (num / den))

/-- SAMPLE_START for a reader set from loom time s on (R234, R246, R257): servo and sense grids go on. `adv` and `verify` say how the
stream is read (R258, R262). It replaces the running stream from s onward. -/
def sampleStart (b : Block) (p s per set adv : Nat) (verify : Option (Nat × Nat)) : Block :=
  let h := b.hdlP p
  let sServo := match h.sample with | some r => r.sServo | none => s
  let sSense := match h.sample with | some r => r.sSense | none => s
  let b := sendMsg b p 4 (leB 8 s ++ leB 1 per ++ leB 1 set ++ leB 8 sServo ++ leB 8 sSense)
  let new : SampleRun := { s := s, p := per, set := set, sServo := sServo, sSense := sSense, adv := adv, verify := verify }
  b.updHdl p fun h => { h with sample := if h.sample.isNone then some new else h.sample, nextSample := some new }

/-- Bits set in a mask of `n` bits. -/
def popN (n v : Nat) : Nat := ((List.range n).filter (bitOf v)).length

/-- Health follows from the dead tracks (R298). -/
def setHealth (b : Block) (p : Nat) : Block :=
  let a := popN 32 (rd b (Fld.VFY_DEAD_A_DEAD p))
  let c := popN 32 (rd b (Fld.VFY_DEAD_B_DEAD p))
  wr b (Fld.VFY_STATE_HEALTH p) (if 3 ≤ a ∨ 3 ≤ c then 2 else if 0 < a + c then 1 else 0)

/-- A write run begins (R238, R246): dead marks ordered cleared are cleared (R298), the transport gets WRITE_START, and the
trailing module is sampled for verify (R253, R257), with S = L − 20 µs, which precedes the preamble's arrival there by 20 µs and 1.6 mm of
tape (DESIGN CHOICE, log entry 51). 1.6 mm are 400,000 channel bits, or 350,000 in an edge-zone band (R262). -/
def startRun (b : Block) (p l tw : Nat) (forward edge : Bool) (what : RunFor) : Block :=
  let w := b.wport p
  let b := when w.clearA b fun b => wr b (Fld.VFY_DEAD_A_DEAD p) 0
  let b := when w.clearB b fun b => wr b (Fld.VFY_DEAD_B_DEAD p) 0
  let b := setHealth b p
  let b := b.updWport p fun w => { w with
    inRun := true, run := w.run + 1, what := what, runFirst := w.nextIdx, mags := List.replicate 32 false,
    lastTr := [], runL := l, runTw := max 1 tw, stopBit := none, groups := 0, codes := [], clearA := false, clearB := false,
    hist := w.hist.filter fun x => !(if x.2.1 then w.clearB else w.clearA) }
  let b := sendMsg b p 2 (leB 8 l ++ leB 4 tw ++ leB 1 (b2n (!forward)) ++ leB 1 0)
  let per := samplePeriod 2 tw segBits
  sampleStart b p (l - 80000) per (b2n forward) (16777216 * tw / (segBits * per))
    (some (l + (if edge then 350000 else 400000) * tw / segBits, tw))

/-- WRITE_STOP: the first bit of the run not written (R238, R246). -/
def sendWriteStop (b : Block) (p bit : Nat) : Block :=
  sendMsg (b.updWport p fun w => { w with stopBit := some bit }) p 3 (leB 8 bit)

/-- The last planned segment of a port's current run. -/
def lastSeg (w : Wport) : Option WSeg := (w.segs.filter fun s => s.run = w.run).getLast?

/-- A new cadence position of the port's run. -/
def addSeg (b : Block) (p : Nat) (s : WSeg) : Block :=
  b.updWport p fun w => { w with segs := w.segs ++ [{ s with idx := w.nextIdx, run := w.run }], nextIdx := w.nextIdx + 1 }

/-- Loom time at which channel bit i of a segment is due (R238). -/
def bitTime (s : WSeg) (i : Nat) : Nat := s.l + i * s.tw / segBits

end Sys2Proof.Machine
end

