-- ==== Sys2Proof/Machine/VerifyOps.lean ====
section
/-!
DEFINITION. Sys2Proof/Machine/VerifyOps.lean: the verify arbiter of a loom slice (spec/11_verify_rewrite.md).
-/

namespace Sys2Proof.Machine

/-- The judgement of a copy (R285). -/
inductive Judge where
  | failed | marginal | good
  deriving DecidableEq, Repr

/-- Judge a report (R280, R285) against the header placed in the slot and the CRC of its row. -/
def judge (b : Block) (p : Nat) (rep info header : Bytes) (crc : Option Nat) : Judge :=
  let st := fieldAt rep 18 1
  if st % 4 ≠ 0 ∨ !bitOf st 2 ∨ slice rep 8 8 ≠ header ∨ crc ≠ some (crc32c info) then .failed
  else if 6 < fieldAt rep 19 1 % 16 ∨ rd b (Fld.VFY_CTRL_CORR_WEAK p) < fieldAt rep 20 2 then .marginal
  else .good

/-! ### Sets and codewords -/

def setOf (w : Wport) (idx : Nat) : Option VSet := w.sets.find? fun v => v.idx = idx
def updSet (b : Block) (p idx : Nat) (f : VSet → VSet) : Block :=
  b.updWport p fun w => { w with sets := w.sets.map fun v => if v.idx = idx then f v else v }
def cwOf (v : VSet) (e : Nat) : VCw := tabGet {} v.cws e
def updCw (b : Block) (p idx e : Nat) (f : VCw → VCw) : Block := updSet b p idx fun v => { v with cws := tabUpd {} v.cws e f }

/-- Track of codeword e = 16 × row + sub-dataset (R186). -/
def trackOfE (e : Nat) : Nat := trackOf (e % 16) (e / 16)

/-- REGEN_LEAD of a codeword in ticks (R209): check rows, and rows of parity datasets, take longer; from another part, twice
the latency to its owner is added (R383). -/
def regenLead (b : Block) (s : WSeg) (e : Nat) : Nat :=
  2 * s.lam + (if e / 16 < 208 then 20 * tUs
    else if (b.grp s.g).k ≤ s.role then (60 + 25 * (b.grp s.g).k) * tUs else 60 * tUs)

/-- Launch instant of segment n of the port's run, planned or to come (R287). -/
def segStart (w : Wport) (n : Nat) : Option Nat :=
  match segOf w n with
  | some s => if s.run = w.run then some s.l else none
  | none => if w.inRun then (lastSeg w).map fun s => s.l + (n - s.idx) * s.tw else none

/-- Segment n of the run offers rewrite slots: not a marker (R287). -/
def offers (w : Wport) (n : Nat) : Bool := match segOf w n with | some s => !isMarker s | none => true

/-- Make a codeword residual (R290). -/
def makeResidual (b : Block) (p idx e : Nat) : Block :=
  inc (updCw b p idx e fun c => { c with residual := true }) (Fld.VFY_RESIDUAL_RESIDUAL p)

/-- The rewrite slot for a weak codeword: the first free one of its window that leaves the lead (R287). -/
def freeSlot (b : Block) (p : Nat) (s : WSeg) (e : Nat) : Option (Nat × Nat) :=
  let w := b.wport p
  let t := trackOfE e
  let need := b.time.now + tUs + regenLead b s e
  (List.range 4).findSome? fun i =>
    let n := s.idx + i
    match segStart w n with
    | none => none
    | some l =>
      if s.kind = 7 ∧ i ≠ 0 then none
      else if !offers w n then none
      else ((List.range 4).find? fun j =>
        (w.alloc.find? fun (x : Nat × Nat × Nat × Bool) => x.1 = 128 * n + 4 * t + j).isNone
          && need ≤ l + slotStart (120 + j) * s.tw / segBits).map fun j => (n, j)

/-- A weak report of a codeword (R287): it gets a slot or becomes residual. -/
def allocate (b : Block) (p idx e : Nat) : Block :=
  let w := b.wport p
  match setOf w idx, segOf w idx with
  | some v, some s =>
    let c := cwOf v e
    if c.settled || c.pending.isSome || c.residual then b
    else if v.lost.contains (trackOfE e) || v.cutOff then makeResidual b p idx e
    else match freeSlot b p s e with
      | none => makeResidual b p idx e
      | some (n, j) =>
        let b := updCw b p idx e fun c => { c with pending := some (n, j) }
        b.updWport p fun w => { w with alloc := tabSet (0, 4096, false) w.alloc (128 * n + 4 * trackOfE e + j) (idx, e, false) }
  | _, _ => b

/-- Take back the slot given to a codeword. -/
def dropAlloc (b : Block) (p n e j : Nat) : Block :=
  b.updWport p fun w => { w with alloc := w.alloc.filter fun (x : Nat × Nat × Nat × Bool) => x.1 ≠ 128 * n + 4 * trackOfE e + j }

/-- A request that comes too late for its slot is refused (R209): the copy counts as cancelled, the slot carries a fill codeword
and is given to no other, and the codeword is handled again under R287. -/
def refuseCopy (b : Block) (p idx e n j : Nat) : Block :=
  let b := b.updWport p fun w => { w with alloc := tabSet (0, 4096, false) w.alloc (128 * n + 4 * trackOfE e + j) (idx, 4097, false) }
  allocate (updCw (inc b (Fld.VFY_RESIDUAL_CANCELLED p)) p idx e fun c => { c with pending := none }) p idx e

/-- A pending copy is cancelled (R289), and the codeword handled again under R287. -/
def cancelCopy (b : Block) (p idx e : Nat) (again : Bool := true) : Block :=
  match (setOf (b.wport p) idx).bind fun v => (cwOf v e).pending with
  | none => b
  | some (n, j) =>
    let b := inc (dropAlloc b p n e j) (Fld.VFY_RESIDUAL_CANCELLED p)
    let b := updCw b p idx e fun c => { c with pending := none }
    if again then allocate b p idx e else b

/-- Pending copies of a port: dataset segment, codeword, segment of the copy. -/
def pendings (w : Wport) : List (Nat × Nat × Nat) :=
  w.sets.flatMap fun v => v.cws.filterMap fun (x : Nat × VCw) => x.2.pending.map fun q => (v.idx, x.1, q.1)

/-- Cancel the pending copies that lie in segments satisfying `f` (R289). -/
def cancelWhere (b : Block) (p : Nat) (f : Nat → Bool) : Block :=
  forEach ((pendings (b.wport p)).filter fun x => f x.2.2) b fun b x => cancelCopy b p x.1 x.2.1

/-! ### Verdicts (R290 to R299) -/

/-- Residual codewords of a dataset on a track; in a sub-dataset. -/
def trackResidual (v : VSet) (t : Nat) : Nat := (v.cws.filter fun (x : Nat × VCw) => x.2.residual && trackOfE x.1 = t).length
def sdsResidual (v : VSet) (s : Nat) : Nat := (v.cws.filter fun (x : Nat × VCw) => x.2.residual && x.1 % 16 = s).length

/-- The largest residual count on a counted track, and in a sub-dataset (R290, R299). -/
def worstTrack (v : VSet) : Nat := (((List.range 32).filter fun t => !v.lost.contains t).map (trackResidual v)).foldl max 0
def worstSds (v : VSet) : Nat := ((List.range 16).map (sdsResidual v)).foldl max 0

/-- Codewords settled or residual, with no copy pending. -/
def decidedCws (v : VSet) : Nat := (v.cws.filter fun (x : Nat × VCw) => (x.2.settled || x.2.residual) && x.2.pending.isNone).length

/-- PASS or FAIL once due (R291): some true, some false. -/
def verdictOf (v : VSet) : Option Bool :=
  if v.encFail ∨ 16 < worstSds v ∨ 2 < v.lost.length ∨ (v.seen = 3840 ∧ 2 < worstTrack v) then some false
  else if v.seen = 3840 ∧ decidedCws v = 3840 then some true else none

/-- Log page 0x00A0 (R300). -/
def verifyLog (b : Block) (p code unit dsNo weft relocs sds trk : Nat) : Block :=
  logAppend b 0xA0 (leB 8 b.time.now ++ leB 2 code ++ leB 1 p ++ leB 1 unit ++ leB 8 dsNo ++ leB 8 weft ++ leB 1 relocs ++ leB 1 sds
    ++ leB 1 trk ++ zeros 1)

/-- The run has ended within the dataset's window (R299): it was cut there, or its last segment is over. -/
def endedWithin (b : Block) (p : Nat) (v : VSet) : Bool :=
  let w := b.wport p
  v.endRun || (!w.inRun && w.nextIdx ≤ v.idx + 3 && match lastSeg w with | some s => reached b (s.l + s.tw) | none => true)

/-- The verdict record (R299); a RELOCATING names its two positions by WEFT_NO after it: behind the relocations that wait, or the first two of
the next run (R293). -/
def verdictRecord (b : Block) (p : Nat) (s : WSeg) (v : VSet) (outcome relocs : Nat) (reason2 : Bool) : Bytes :=
  let q := b.grp s.g
  let ahead := if reason2 then 0 else (b.wport p).dues.length
  leB 8 s.weft ++ leB 8 s.dsNo ++ leB 2 q.number ++ leB 1 s.role ++ leB 1 outcome ++ leB 1 p
    ++ leB 1 (b2n (health b p = 1) + 2 * b2n v.third + 4 * b2n (endedWithin b p v) + 8 * b2n reason2) ++ leB 2 (satN 16 v.rewrites)
    ++ leB 1 (worstTrack v) ++ leB 1 (worstSds v) ++ leB 1 v.lost.length ++ leB 1 relocs
    ++ leB 4 (satN 32 ((b.time.now - s.l) / tUs))
    ++ (if outcome = 1 then leB 8 (q.weftNext + ahead) ++ leB 8 (q.weftNext + ahead + 1) else [])

/-- A track is lost in DEAD_COUNT datasets in a row first written by the module, all counted, dataset `idx` among them (R297). -/
def deadRun (hist : List (Nat × Bool × List Nat × Bool)) (moduleB : Bool) (idx t n : Nat) : Bool :=
  let h := hist.filter fun x => x.2.1 = moduleB
  (List.range h.length).any fun i =>
    let r := (h.drop i).take n
    r.length = n && r.any (fun x => x.1 = idx) && r.all fun x => x.2.2.2 && x.2.2.1.contains t

/-- Module B wrote the segment (R166). -/
def byModuleB (b : Block) (p : Nat) (s : WSeg) : Bool :=
  match cartOn b p with | some c => !wrapForward c s.lwrap | none => false

/-- Drop the segments that no open verdict needs (R284). -/
def pruneSegs (b : Block) (p : Nat) : Block :=
  b.updWport p fun w =>
    let low := w.sets.foldl (fun a v => min a v.idx) w.nextIdx
    let keep (s : WSeg) : Bool := low ≤ s.idx || s.slot < 124 && s.cut.isNone || w.nextIdx ≤ s.idx + 4
      || (isMarker s && s.reports < 3840 && s.good.length < 3840 && s.run = w.run)
    { w with segs := w.segs.filter keep, alloc := w.alloc.filter fun (x : Nat × Nat × Nat × Bool) => low ≤ x.1 / 128
             hist := w.hist.drop (w.hist.length - 256) }

/-- Hand a dataset's verdict out and end its verify (R292 to R295, R299): outcome of R299. -/
def giveVerdict (b : Block) (p : Nat) (s : WSeg) (v : VSet) (outcome relocs : Nat) (reason2 : Bool) : Block :=
  let rec_ := verdictRecord b p s v outcome relocs reason2
  let b := b.updWport p fun w => { w with
    sets := w.sets.filter fun x => x.idx ≠ s.idx
    hist := w.hist.map fun x => if x.1 = s.idx then (x.1, x.2.1, v.lost, true) else x }
  let own := s.kind = 7 ∨ s.cmd.isSome
  let b := when (outcome = 1) b fun b => inc b (Fld.VFY_RELOC_RELOCATED p)
  let b := when (outcome = 3) b fun b => inc b (Fld.VFY_RELOC_FINAL_FAIL p)
  let b := when (outcome = 2) b fun b => verifyLog b p 0x3003 0 s.dsNo s.weft relocs (worstSds v) (worstTrack v)
  if own ∧ outcome ≠ 1 then { b with heads := { b.heads with done := b.heads.done ++ [(p, s, outcome = 0 || outcome = 2)] } }
  else if own then b
  else { b with heads := { b.heads with verdicts := b.heads.verdicts ++ [rec_] } }

/-- Queue the relocation of a dataset: a skip marker and a full copy, behind those that wait (R292), or first of the next run where its run
ended in it (R293). -/
def queueReloc (b : Block) (p : Nat) (s : WSeg) (reason2 : Bool) : Block :=
  let c := { s with relocs := s.relocs + 1, reason2 := reason2, fetched := [], bad := [], slot := 0, cut := none, crcs := [] }
  b.updWport p fun w => { w with dues := if reason2 then .skip c :: .copy c :: w.dues else w.dues ++ [.skip c, .copy c] }

/-- A dataset fails (R291, R292, R294): relocated, or failed for good. -/
def failSet (b : Block) (p : Nat) (s : WSeg) (v : VSet) : Block :=
  let b := when (s.kind ≠ 7) b fun b => verifyLog b p 0x3002 0 s.dsNo s.weft s.relocs (worstSds v) (worstTrack v)
  let pend := v.cws.filterMap fun (x : Nat × VCw) => if x.2.pending.isSome then some x.1 else none
  let b := forEach pend b fun b e => cancelCopy b p s.idx e false
  if s.kind ≠ 7 ∧ s.relocs < rd b (Fld.VFY_CTRL_RELOC_MAX p) ∧ !v.cutOff ∧ !v.encFail ∧ health b p ≠ 2 then
    let b := giveVerdict b p s v 1 (s.relocs + 1) false
    queueReloc b p s false
  else giveVerdict b p s v 3 s.relocs v.cutOff

/-- TRANSPORT_FAILED (R298): pending datasets get FAIL without relocation, queued relocations are dropped. R298 names no log entry for
those FAILs (DEDUCED, log entry 153). -/
def failTransport (b : Block) (p track : Nat) (moduleB : Bool) : Block :=
  let b := verifyLog b p 0x4002 (track + 128 * b2n moduleB) 0 0 0 0 0
  let b := b.updWport p fun w => { w with dues := w.dues.filter fun d => match d with | .void _ => true | _ => false }
  let b := forEach (b.wport p).sets b fun b v => match segOf (b.wport p) v.idx with
    | some s => giveVerdict b p s v 3 s.relocs false
    | none => b
  { b with heads := { b.heads with failed := b.heads.failed ++ [p] } }

/-- Declare tracks dead as R297 says, after the verdict of dataset `idx` has been counted: the row of R298 that then applies says what is
logged. -/
def deadCheck (b : Block) (p idx : Nat) (moduleB : Bool) : Block :=
  let f := if moduleB then Fld.VFY_DEAD_B_DEAD p else Fld.VFY_DEAD_A_DEAD p
  forEach (List.range 32) b fun b t =>
    if !bitOf (rd b f) t && deadRun (b.wport p).hist moduleB idx t (rd b (Fld.VFY_CTRL_DEAD_COUNT p)) then
      let was := health b p
      let b := setHealth (wr b f (rd b f + 2 ^ t)) p
      if health b p ≠ 2 then verifyLog b p 0x4001 (t + 128 * b2n moduleB) 0 0 0 0 0
      else if was ≠ 2 then failTransport b p t moduleB
      else b
    else b

/-- Give a dataset's verdict if it is due (R291). -/
def checkVerdict (b : Block) (p idx : Nat) : Block :=
  let w := b.wport p
  match setOf w idx, segOf w idx with
  | some v, some s =>
    match verdictOf v with
    | none => b
    | some ok =>
      let b := if ok then giveVerdict b p s v (if s.relocs = 0 then 0 else 2) s.relocs (v.cutOff && s.reason2) else failSet b p s v
      pruneSegs (deadCheck b p idx (byModuleB b p s)) p
  | _, _ => b

/-! ### Reports (R284 to R288, R608) -/

/-- A marker's verdict (R608). -/
def markerReport (b : Block) (p : Nat) (s : WSeg) (t k : Nat) (j : Judge) : Block :=
  let upd (f : WSeg → WSeg) (b : Block) : Block := b.updWport p fun w => { w with segs := w.segs.map fun x => if x.idx = s.idx then f x else x }
  if 120 ≤ k ∨ s.reports = 3841 then b
  else
    let good := if j = .good then s.good ++ [32 * k + t] else s.good
    let n := s.reports + 1
    let pass := 8 ≤ good.length && 2 ≤ (good.map (· % 32)).eraseDups.length
    let b := upd (fun x => { x with good := good, reports := if pass then 3841 else n }) b
    if pass || n = 3840 then { b with heads := { b.heads with done := b.heads.done ++ [(p, s, pass)] } } else b

/-- The tracks lost for a dataset after a FAILED first write on track t (R296). -/
def loseTrack (b : Block) (p idx t : Nat) : Block :=
  match setOf (b.wport p) idx with
  | none => b
  | some v =>
    let n := (v.cws.filter fun (x : Nat × VCw) => x.2.failed && trackOfE x.1 = t).length
    if 60 ≤ n ∧ !v.lost.contains t then updSet b p idx fun v => { v with lost := insertNat t v.lost } else b

/-- A decode report and its information bytes reach the arbiter (R280, R284, R287). Every copy judged counts in VFY_CW; VFY_WEAK counts
dataset codewords, not marker slots and unused rewrite slots (DESIGN CHOICE, log entry 153: R286 names no counter). -/
def onReport (b : Block) (p : Nat) (rep info : Bytes) : Block :=
  let w := b.wport p
  let t := fieldAt rep 16 1 % 32
  let k := fieldAt rep 17 1
  match (if k < 124 then w.segs.find? fun s => s.run = w.run && (s.idx - w.runFirst) % 65536 = fieldAt rep 28 2 else none) with
  | none => b
  | some s =>
    let b := if rd b (Fld.VFY_CW_LO_VALUE p) = 0xFFFFFFFF then inc (wr b (Fld.VFY_CW_LO_VALUE p) 0) (Fld.VFY_CW_HI_VALUE p)
      else inc b (Fld.VFY_CW_LO_VALUE p)
    let header := placedHeader b w s t k
    if isMarker s then
      markerReport b p s t k (judge b p rep info header (some (if k < 120 then crc32c s.marker else crc32c (zeros 2048))))
    else if k < 120 then
      let (sds, row) := cwAt k t
      let e := 16 * row + sds
      match setOf w s.idx with
      | none => b
      | some v =>
        if (cwOf v e).seen then b
        else
          let j := judge b p rep info header (tabFind s.crcs e)
          let b := updSet b p s.idx fun v => { v with seen := v.seen + 1 }
          let b := updCw b p s.idx e fun c => { c with seen := true, failed := j = .failed, settled := c.settled || j = .good }
          let b := when (j = .failed) b fun b => loseTrack b p s.idx t
          let b := when (j ≠ .good) b fun b => allocate (inc b (Fld.VFY_WEAK_FIRST p)) p s.idx e
          checkVerdict b p s.idx
    else match tabGet (0, 4096, false) w.alloc (128 * s.idx + 4 * t + (k - 120)) with
      | (i, e, true) =>
        let crc := (segOf w i).bind fun o => tabFind o.crcs e
        let j := judge b p rep info header crc
        let b := updCw b p i e fun c => { c with pending := none, settled := c.settled || j = .good }
        let b := when (j ≠ .good) b fun b => allocate (inc b (Fld.VFY_WEAK_REPEAT p)) p i e
        checkVerdict b p i
      | _ => b

/-! ### The end of a run (R289, R293) -/

/-- A write run of the port is under way: it goes on, or its last segments are not written whole (R238). -/
def writing (b : Block) (p : Nat) : Bool :=
  let w := b.wport p
  w.inRun || w.segs.any fun s => s.run = w.run && s.slot < 124 && s.cut.isNone

/-- The marker or relocation of a segment that will not be written waits again. -/
def requeueDue (b : Block) (p : Nat) (s : WSeg) : Block :=
  b.updWport p fun w => match s.kind, s.void with
    | 4, _ => { w with dues := .skip s :: w.dues }
    | 5, _ => { w with dues := .copy { s with slot := 0, fetched := [], crcs := [] } :: w.dues }
    | 6, some v => { w with dues := .void v :: w.dues }
    | _, _ => w

/-- A run has ended at `off` channel bits of segment s: the next run on that wrap begins a splice gap past that point (R174).
Catalogue positions are fixed (R170). -/
def spliceAt (b : Block) (p : Nat) (s : WSeg) (off : Nat) : Block :=
  match cartOn b p with
  | some c =>
    if s.kind = 7 ∨ s.lwrap ≠ c.lwrap then b
    else updCart b c.id fun c => { c with pos := advance { c with pos := s.pos } ((if s.edge then 32 else 28) * off + spliceGap) }
  | none => b

/-- A stop is decided: the run ends with its last planned segment (R217, R238); copies due later are cancelled (R289). -/
def stopRun (b : Block) (p : Nat) : Block :=
  let w := b.wport p
  if !w.inRun then b
  else
    let b := sendWriteStop b p ((w.nextIdx - w.runFirst) * segBits)
    let b := match lastSeg w with | some s => spliceAt b p s segBits | none => b
    cancelWhere (b.updWport p fun w => { w with inRun := false }) p fun n => w.nextIdx ≤ n

/-- The dataset of the segment that the end of the run cut (R293). -/
def cutSet (b : Block) (p : Nat) (s : WSeg) (cut : Nat) : Block :=
  match setOf (b.wport p) s.idx with
  | none => b
  | some v =>
    let pend := v.cws.filterMap fun (x : Nat × VCw) => if x.2.pending.isSome then some x.1 else none
    let b := forEach pend b fun b e => cancelCopy b p s.idx e false
    let b := updSet b p s.idx fun v => { v with endRun := true }
    let v := (setOf (b.wport p) s.idx).getD v
    if s.kind ≠ 7 ∧ s.relocs < rd b (Fld.VFY_CTRL_RELOC_MAX p) ∧ !v.encFail ∧ health b p ≠ 2 then
      deadCheck (queueReloc (giveVerdict b p s v 1 (s.relocs + 1) true) p s true) p s.idx (byModuleB b p s)
    else
      -- codewords whose slot was cut or not written hold no copy; the others wait for their reports
      let b := updSet b p s.idx fun v => { v with cutOff := true }
      let gone := (List.range 3840).filter fun e => cut < slotStart (e / 32) + 18018
      let b := forEach gone b fun b e =>
        let c := match setOf (b.wport p) s.idx with | some v => cwOf v e | none => {}
        if c.seen then b
        else
          let b := updSet b p s.idx fun v => { v with seen := v.seen + 1 }
          makeResidual (updCw b p s.idx e fun c => { c with seen := true }) p s.idx e
      let weak := (List.range 3840).filter fun e => match setOf (b.wport p) s.idx with
        | some v => let c := cwOf v e; c.seen && !c.settled && !c.residual
        | none => false
      checkVerdict (forEach weak b fun b e => makeResidual b p s.idx e) p s.idx

/-- The run of a port ends at channel bit `stopBit` of the run (R250, R289, R293, R327): segments past it are not
written. -/
def cutRun (b : Block) (p stopBit : Nat) : Block :=
  let w := b.wport p
  let n := w.runFirst + stopBit / segBits
  let off := stopBit % segBits
  let late := w.segs.filter fun s => s.run = w.run && (n < s.idx || (s.idx = n && off = 0))
  -- the splice point: within segment n, or at the end of the one before; a run of which nothing is written leaves none
  let b := match w.segs.find? fun s => s.run = w.run && s.idx = n with
    | some s =>
      if stopBit = 0 then (match cartOn b p with
        | some c => if s.kind = 7 ∨ s.lwrap ≠ c.lwrap then b else updCart b c.id fun c => { c with pos := s.pos }
        | none => b)
      else spliceAt b p s off
    | none => b
  let b := b.updWport p fun w => { w with
    inRun := false, stopBit := some (min stopBit (w.stopBit.getD stopBit)), segs := (w.segs.filter fun s => !(late.any fun x => x.idx = s.idx)).map fun s =>
      if s.run = w.run ∧ s.idx = n then { s with cut := some off } else s }
  let b := forEach late.reverse b fun b s => requeueDue b p s
  let b := cancelWhere b p fun i => n < i || (i = n && off < slotStart 120)
  let b := forEach ((w.sets.filter fun v => match segOf w v.idx with | some s => s.run = w.run | none => false).map (·.idx)) b fun b i =>
    if i = n then b else checkVerdict (updSet b p i fun v => { v with endRun := v.endRun || n ≤ i + 3 }) p i
  match (b.wport p).segs.find? fun s => s.run = w.run && s.idx = n with
  | some s =>
    if isMarker s then
      let b := b.updWport p fun w => { w with segs := w.segs.map fun x => if x.idx = s.idx then { x with reports := 3841 } else x }
      if s.reports < 3840 then { b with heads := { b.heads with done := b.heads.done ++ [(p, s, false)] } } else b
    else cutSet b p s off
  | none => b

/-- The run of a port ends now, at the bit that is due (R250, R293). -/
def endRunNow (b : Block) (p : Nat) : Block :=
  let w := b.wport p
  match w.segs.find? fun s => s.run = w.run && s.slot < 124 && s.cut.isNone with
  | some s =>
    let off := if reached b s.l then min (segBits - 1) ((b.time.now - s.l) * segBits / s.tw) else 0
    cutRun b p ((s.idx - w.runFirst) * segBits + off)
  | none => b.updWport p fun w => { w with inRun := false }

end Sys2Proof.Machine
end

