-- ==== Sys2Proof/Machine/LineOps.lean ====
section
/-!
DEFINITION. Sys2Proof/Machine/LineOps.lean: what goes out on the lanes: WRITE cells when their bits come due
(spec/09_heddle_link.md R239, R240), and the codewords that carry a step's cells on heddle and shuttle lanes
(spec/09_heddle_link.md R228 to R230; spec/17_timebase_fabric.md R446, R447, R449).
-/

namespace Sys2Proof.Machine

/-! ### Write data (R239, R240) -/

/-- Loom time at which channel bit i of a port's run is due (R238). -/
def bitDue (w : Wport) (i : Nat) : Nat := w.runL + i * w.runTw / segBits

/-- The first channel bit of a run whose WRITE cell can still go out 2 µs before its bits are due (R240). -/
def firstOpenBit (b : Block) (w : Wport) : Nat := 128 * ceilDiv (ceilDiv ((b.time.now + 8000 - w.runL) * segBits) w.runTw) 128

/-- Append the codes of channel bits `first` on to what a track has formed. Those whose cell can no longer go out in time are no transition
(R240). -/
def formCodes (b : Block) (w : Wport) (t first : Nat) (codes : List Nat) : Wport :=
  let open0 := firstOpenBit b w
  let codes := codes.zipIdx.map fun x => if first + x.2 < open0 then 0 else x.1
  let have0 := tabGet [] w.codes t
  let fe := 128 * w.groups + have0.length
  { w with codes := tabSet [] w.codes t (have0 ++ List.replicate (first - fe) 0 ++ codes.drop (fe - first)) }

/-- A WRITE cell: 128 codes of 2 bits; a code that is missing is no transition (DESIGN CHOICE, log entry 151). -/
def writeCell (codes : List Nat) : Bytes :=
  (List.range 32).map fun j =>
    BitVec.ofNat 8 ((List.range 4).foldr (fun i a => codes.getD (4 * j + i) 0 % 4 + 4 * a) 0)

/-- The channel bit at which a run ends, as known so far. -/
def runEndBit (w : Wport) : Nat := w.stopBit.getD ((w.nextIdx - w.runFirst) * segBits)

/-- The next 128 bits go out: from 12 µs before the last of them is due, once all tracks have formed them, and 2 µs before the first is due in
any case (R240). -/
def groupReady (b : Block) (w : Wport) : Bool :=
  let first := 128 * w.groups
  let n := if w.stopBit.isSome then min 128 (runEndBit w - first) else 128
  first < runEndBit w && reached b (bitDue w (first + n - 1) - 48000)
    && ((List.range 32).all (fun t => n ≤ (tabGet [] w.codes t).length) || reached b (bitDue w first - 8000))

/-- Send the WRITE cells that are ready: cell n of role r carries track 16r + n mod 16 (R239). -/
def sendGroups (b : Block) (p : Nat) : Nat → Block
  | 0 => b
  | n + 1 =>
    let w := b.wport p
    if !groupReady b w then b
    else
      let b := forEach [0, 1] b fun b r =>
        let lane := rd b (if r = 0 then Fld.HDL_STATUS_ROLE0 p else Fld.HDL_STATUS_ROLE1 p)
        forEach (List.range 16) b fun b j => emit b (.hdlCell p lane 8 (writeCell ((tabGet [] w.codes (16 * r + j)).take 128)))
      let rest := w.codes.filterMap fun (x : Nat × List Nat) => if x.2.drop 128 = [] then none else some (x.1, x.2.drop 128)
      sendGroups (b.updWport p fun w => { w with groups := w.groups + 1, codes := rest }) p n

/-- Send the write data of every port that is due. -/
def sendWrites (b : Block) : Block :=
  forEach (tabKeys b.heads.ports) b fun b p =>
    if linkUp b p then sendGroups b p (runEndBit (b.wport p) / 128 + 1 - (b.wport p).groups) else b

/-! ### Codewords (R228, R229, R446, R447) -/

/-- The typed cells that a step sends on a lane of a heddle port; MSG cells go on the lane of role 0 (R230). -/
def heddleCells (b : Block) (p lane : Nat) : List (Nat × Bytes) :=
  b.out.filterMap fun o => match o with
    | .hdlCell q l typ c => if q = p ∧ l = lane then some (typ, c) else none
    | .hdlMsg q _ c => if q = p ∧ lane = rd b (Fld.HDL_STATUS_ROLE0 p) then some (1, c) else none
    | _ => none

/-- The typed cells that a step sends on a lane of a shuttle port: a head cell and body cells, control before bulk (R447, R449, R450). -/
def shuttleCells (b : Block) (p lane : Nat) : List (Nat × Bytes) :=
  let cells (cls head body : Nat) : List (Nat × Bytes) := b.out.flatMap fun o => match o with
    | .shutPacket q c l _ _ pkt =>
      if q = p ∧ l = lane ∧ c = cls then
        (List.range (pkt.length / 32)).map fun i => (if i = 0 then head else body, slice pkt (32 * i) 32)
      else []
    | _ => []
  cells 0 6 7 ++ cells 1 0xB 0xC

/-- Codeword j of a step on a lane: its 19 cells, the rest IDLE; `base` counts the WRITE cells sent on the lane before the step (R229). -/
def laneWord (cells : List (Nat × Bytes)) (seq lane base j : Nat) : Bytes :=
  let mine := (cells.drop (19 * j)).take 19
  let fill := mine ++ List.replicate (19 - mine.length) (0, zeros 32)
  let before := ((cells.take (19 * j)).filter fun x => x.1 = 8).length
  lcEncode (laneHeader seq lane 0 (fill.map (·.1)) (base + before)) (fill.map (·.2))

/-- Codewords passed since loom time `at`: 85 clocks of 64 bits, 340/7 ns, each (R228). -/
def wordsSince (b : Block) (at0 : Nat) : Nat := since b at0 * 7 / 1360

/-- The codewords that carry a step's cells on the two active lanes of a heddle port; they carry one SEQ (R229). Codewords of IDLE cells alone are
not listed (DESIGN CHOICE, log entry 149). -/
def heddleWords (b : Block) (p : Nat) : Block :=
  let l0 := rd b (Fld.HDL_STATUS_ROLE0 p)
  let l1 := rd b (Fld.HDL_STATUS_ROLE1 p)
  let c0 := heddleCells b p l0
  let c1 := heddleCells b p l1
  let n := ceilDiv (max c0.length c1.length) 19
  if n = 0 then b
  else
    let h := b.hdlP p
    let k := max h.dnCount (wordsSince b h.dnAt)
    let sent (cs : List (Nat × Bytes)) : Nat := 16 * (b.wport p).groups - (cs.filter fun x => x.1 = 8).length
    let b := forEach (List.range n) b fun b j =>
      emit (emit b (.hdlWord p l0 (laneWord c0 (h.dnSeq + k + j) l0 (sent c0) j))) (.hdlWord p l1 (laneWord c1 (h.dnSeq + k + j) l1 (sent c1) j))
    b.updHdl p fun h => { h with dnCount := k + n }

/-- The codewords that carry a step's cells on the lanes of a shuttle port (R446, R447). -/
def shuttleWords (b : Block) (p : Nat) : Block :=
  let cs := (List.range 4).map (shuttleCells b p)
  let n := ceilDiv (cs.foldl (fun m c => max m c.length) 0) 19
  if n = 0 then b
  else
    let h : Shut := tabGet {} b.fab.ports p
    let k := max h.dnCount (wordsSince b h.dnAt)
    let b := forEach (List.range n) b fun b j =>
      forEach (List.range 4) b fun b l => emit b (.shutWord p l (laneWord (cs.getD l []) (k + j) l 0 j))
    { b with fab := { b.fab with ports := tabUpd {} b.fab.ports p fun (h : Shut) => { h with dnCount := k + n } } }

/-- The ports that a step sends cells on. -/
def sendingPorts (b : Block) : List Nat × List Nat :=
  let hs := b.out.filterMap fun o => match o with
    | .hdlCell q _ _ _ => some q
    | .hdlMsg q _ _ => some q
    | _ => none
  let ss := b.out.filterMap fun o => match o with
    | .shutPacket q _ _ _ _ _ => some q
    | _ => none
  (hs.eraseDups, ss.eraseDups)

/-- A step's cells go out in codewords. -/
def lines (b : Block) : Block :=
  let ps := sendingPorts b
  forEach ps.2 (forEach ps.1 b heddleWords) shuttleWords

end Sys2Proof.Machine
end

