-- ==== Sys2Proof/Machine/ShutOps.lean ====
section
/-!
DEFINITION. Sys2Proof/Machine/ShutOps.lean: packets of the shuttle fabric and the fabric log (spec/17_timebase_fabric.md
R446 to R452, R472), as every unit that sends over the fabric uses them.
-/

namespace Sys2Proof.Machine

def Block.updFab (b : Block) (f : Fabric → Fabric) : Block := { b with fab := f b.fab }
def Block.shut (b : Block) (p : Nat) : Shut := tabGet {} b.fab.ports p
def Block.updShut (b : Block) (p : Nat) (f : Shut → Shut) : Block := b.updFab fun x => { x with ports := tabUpd {} x.ports p f }

/-- ROLE of the part: 0 worker, 1 standby, 2 manager, 3 hold (R460). -/
def fabRole (b : Block) : Nat := rd b Fld.SHUT_ROLE_ROLE
def isManager (b : Block) : Bool := fabRole b = 2
def fabEpoch (b : Block) : Nat := rd b Fld.SHUT_EPOCH_EPOCH

/-- STATE of a shuttle port by global number (R446). -/
def shutState (b : Block) (p : Nat) : Nat := rd b (Fld.SHUT_PORT_STATUS_STATE (p / 2) (p % 2))
def setShut (b : Block) (p st : Nat) : Block := wr b (Fld.SHUT_PORT_STATUS_STATE (p / 2) (p % 2)) st
def shutUp (b : Block) (p : Nat) : Bool := shutState b p = 2
def upPorts (b : Block) : List Nat := (List.range 4).filter (shutUp b)
/-- DEVICE_ID of a port's peer. -/
def peerOf (b : Block) (p : Nat) : Nat := rd b (Fld.SHUT_PORT_STATUS_PEER (p / 2) (p % 2))

/-- Write an entry of log page 0x00F0 (R472). -/
def fabricLog (b : Block) (code kind port dev : Nat) (arg : Int := 0) : Block :=
  logAppend b 0xF0 (leB 8 b.time.now ++ leB 2 code ++ leB 1 kind ++ leB 1 port ++ leB 2 dev ++ zeros 2 ++ leB 4 (fabEpoch b)
    ++ leB 4 (satN 32 b.time.errorEst) ++ leB 8 (ofS 64 arg))

/-- Body cells of 32 bytes. -/
def bodyCells (body : Bytes) : Nat := ceilDiv body.length 32

/-- A packet: head cell (R449) and body cells. -/
def packet (dest src typ seq : Nat) (args body : Bytes) : Bytes :=
  let cells := slice body 0 (32 * bodyCells body)
  let head := leB 2 dest ++ leB 2 src ++ leB 1 typ ++ leB 1 (bodyCells body) ++ leB 2 seq ++ slice args 0 20
  head ++ leB 4 (crc32c (head ++ cells)) ++ cells

/-- Send a packet on a port (R449). A type of 0x80 or above is bulk and goes on the lane whose credits it takes; control packets go on lane 0
(DESIGN CHOICE, log entry 152). -/
def sendOn (b : Block) (port dest typ : Nat) (args body : Bytes) (lane : Nat := 0) : Block :=
  let bulk := 0x80 ≤ typ
  let seq := if bulk then b.fab.bulkSeq else b.fab.ctlSeq
  let b := b.updFab fun f => if bulk then { f with bulkSeq := (seq + 1) % 65536 } else { f with ctlSeq := (seq + 1) % 65536 }
  emit b (.shutPacket port (b2n bulk) lane typ dest (packet dest (ownDev b) typ seq args body))

/-- The port toward a part: where its packets arrive, else the parent (R450, R453). -/
def routeTo (b : Block) (dest : Nat) : Option Nat :=
  match tabGet 0 b.fab.routes dest with
  | 0 => b.fab.parent
  | p + 1 => some p

/-- Send a packet to another part along the time tree (R450). -/
def shutSend (b : Block) (dest typ : Nat) (args body : Bytes) : Block :=
  match routeTo b dest with
  | some p => if shutUp b p then sendOn b p dest typ args body else b
  | none => b

/-- Send a flood packet on every UP port but one; its copies share one SEQ (R450). -/
def flood (b : Block) (but : Option Nat) (typ : Nat) (args : Bytes) : Block :=
  let seq := b.fab.ctlSeq
  let b := b.updFab fun f => { f with ctlSeq := (seq + 1) % 65536 }
  forEach (upPorts b) b fun b p =>
    if but = some p then b else emit b (.shutPacket p 0 0 typ 0xFFFF (packet 0xFFFF (ownDev b) typ seq args []))

/-- Parts that hold members of a group, this one left out. -/
def otherParts (b : Block) (q : Grp) : List Nat := ((q.members.map (·.dev)).filter (· ≠ ownDev b)).eraseDups

/-- Send a message to every other part of a group. -/
def toParts (b : Block) (q : Grp) (typ : Nat) (args body : Bytes) : Block :=
  forEach (otherParts b q) b fun b d => shutSend b d typ args body

/-- λ_g of a group slot in ticks, as SHUT_GROUP_LAT holds it (R468). -/
def groupLat (b : Block) (g : Nat) : Nat := 4 * rd b (Fld.SHUT_GROUP_LAT_LAT g)

/-- The group's scheduler is on this part: a group inside the part, or a cross-device group of which it is the manager
(R215, R382). -/
def schedules (b : Block) (g : Nat) : Bool := (b.grp g).valid && (!(b.grp g).cross || isManager b)

end Sys2Proof.Machine
end

