-- ==== Sys2Proof/Machine/WeaveOps.lean ====
section
/-!
DEFINITION. Sys2Proof/Machine/WeaveOps.lean: the weft scheduler (spec/08_formatting.md R211 to R224; spec/14_weave.md;
spec/15_consistency.md R388 to R395, R401, R402): launch, stop, turn and restart of a group, commit, failure, lateness
and release of a weft, and the records each makes.
-/

namespace Sys2Proof.Machine

/-! ### Logs and counts -/

/-- Log page 0x00C0 (R386). -/
def weaveLog (b : Block) (code kind member group lateRun weft passing : Nat) : Block :=
  logAppend b 0xC0 (leB 8 b.time.now ++ leB 2 code ++ leB 1 kind ++ leB 1 member ++ leB 2 group ++ leB 2 lateRun ++ leB 8 weft
    ++ leB 1 passing ++ zeros 7)

/-- Log page 0x0080 (R224). -/
def cadenceLog (b : Block) (t group kind fromStep toStep flags weft q dur : Nat) : Block :=
  logAppend b 0x80 (leB 8 t ++ leB 2 group ++ leB 1 kind ++ leB 1 fromStep ++ leB 1 toStep ++ leB 1 flags ++ zeros 2 ++ leB 8 weft
    ++ leB 4 q ++ leB 4 (satN 32 dur))

/-- Log page 0x00D0 (spec/15_consistency.md, Log and registers). -/
def consLog (b : Block) (code kind role group weft cart : Nat) : Block :=
  logAppend b 0xD0 (leB 8 b.time.now ++ leB 2 code ++ leB 1 kind ++ leB 1 role ++ leB 2 group ++ zeros 2 ++ leB 8 weft ++ leB 8 cart)

/-- Launch lead and grace of a group (R355). -/
def leadTicks (b : Block) (g : Nat) : Nat := rd b (Fld.WEAVE_GROUP_TIMING_LEAD g) * tUs

/-- SM states of WEAVE_SM_STATUS. -/
def smState (b : Block) (g : Nat) : Nat := rd b (Fld.WEAVE_SM_STATUS_STATE g)
def setSm (b : Block) (g v : Nat) : Block := wr b (Fld.WEAVE_SM_STATUS_STATE g) v

/-- The group streams: a boundary is to be decided (R364). -/
def streaming (b : Block) (g : Nat) : Bool := smState b g = 1 || (b.grp g).lr.isSome

/-! ### Latencies and link loads (R468, R469) -/

def hopRep (b : Block) (dev : Nat) : HopRep := tabGet {} b.fab.hops dev

/-- A part and those above it in the time tree, up to the manager. -/
def chainUp (b : Block) : Nat → Nat → List Nat
  | 0, p => [p]
  | n + 1, p => if p = ownDev b ∨ !(hopRep b p).known then [p] else p :: chainUp b n (hopRep b p).parent

/-- The link directions on the tree path from part p to part q: the part below the link, and whether the way is up. -/
def pathDirs (b : Block) (p q : Nat) : List (Nat × Bool) :=
  let up := chainUp b 1024 p
  let dn := chainUp b 1024 q
  ((up.filter fun x => !dn.contains x).map fun x => (x, true)) ++ ((dn.filter fun x => !up.contains x).map fun x => (x, false))

/-- λ(p, q) in ticks (R468): 16,000 and LAT_HOP of each link on the path. -/
def lambdaOf (b : Block) (p q : Nat) : Nat := 16000 + ((pathDirs b p q).map fun x => (hopRep b x.1).d + 700).sum

/-- Possible owners of a group: the parts that hold ready datasets (R469). -/
def possibleOwners (b : Block) (q : Grp) : List Nat :=
  (if q.queue.isEmpty then [] else [ownDev b]) ++ ((q.reports.filter fun r => r.len != 0).map (·.dev)).filter (· ≠ ownDev b)

/-- Link directions loaded by a group, once for each possible owner and member of another part (R469). -/
def groupDirs (b : Block) (q : Grp) : List (Nat × Bool) :=
  (possibleOwners b q).flatMap fun o => (q.members.filter fun m => m.dev ≠ o && !m.failed).flatMap fun m => pathDirs b o m.dev

/-- Rows per second that a member takes at weft period T_w. -/
def rowRate (tw : Nat) : Nat := if tw = 0 then 0 else 3328 * 4000000000 / tw

/-- Link load allows a step for a cross-device group (R469). -/
def loadAllows (b : Block) (g step : Nat) : Bool :=
  let period (h s : Nat) : Nat := weftPeriod b (rdB b (Fld.WEAVE_SM_STATUS_EDGE h)) s
  let mine := (groupDirs b (b.grp g)).map fun d => (d, rowRate (period g step))
  let others := (List.range 32).flatMap fun h =>
    if h ≠ g ∧ (b.grp h).valid ∧ (b.grp h).cross ∧ streaming b h then
      (groupDirs b (b.grp h)).map fun d => (d, rowRate (period h (rd b (Fld.WEAVE_SM_STATUS_STEP h)))) else []
  (mine.map (·.1)).eraseDups.all fun d => (((mine ++ others).filter fun x => x.1 = d).map (·.2)).sum ≤ 21665158

/-! ### Speed matching (R213, R215, R216) -/

/-- Q of a group: its ready queue, and for a cross-device group those that other parts report (R215, R382). -/
def groupQ (q : Grp) : Nat := q.queue.length + (q.reports.map (·.len)).sum

/-- Lambda of R215: data datasets closed in the last 1,000 ms. -/
def lambdaNow (b : Block) (q : Grp) : Nat := (q.closes.filter fun t => since b t < tS).length

/-- The want of an evaluation (R213, R215); a step whose link load is too high is not available to a cross-device group
(R469). -/
def wantStep (b : Block) (g lambda q : Nat) : Option Nat :=
  let x := b.grp g
  let edge := rdB b (Fld.WEAVE_SM_STATUS_EDGE g)
  let av := (steps b g edge (edge && !allEdge b x)).filter fun i => !x.cross || loadAllows b g i
  let cur := rd b (Fld.WEAVE_SM_STATUS_STEP g)
  let want := (av.find? fun i => lambda * weftPeriod b edge i ≤ x.k * 4000000000).orElse fun _ => av.getLast?
  want.map fun w =>
    if rd b (Fld.WEAVE_SM_CTRL_Q_HIGH_WEFTS g) * x.k ≤ q ∧ w ≤ cur then
      (av.find? fun i => cur < i && rd b (Fld.WEAVE_SM_CTRL_MIN_STEP g) ≤ i && i ≤ rd b (Fld.WEAVE_SM_CTRL_MAX_STEP g)).getD cur
    else w

/-- Change a weft of a group. -/
def updWeft (b : Block) (g no : Nat) (f : Weft → Weft) : Block :=
  b.updGrp g fun q => { q with wefts := q.wefts.map fun w => if w.no = no then f w else w }

/-- Launched, and neither committed nor failed (R368 to R370). -/
def weftOpen (b : Block) (w : Weft) : Bool :=
  (w.state = .decided && reached b w.l) || w.state = .launched

/-! ### Records (R388 to R390, R401, R402) -/

/-- The INTENT record of a weft (R389). -/
def intentRecord (b : Block) (q : Grp) (w : Weft) : Bytes :=
  leB 1 1 ++ leB 1 q.k ++ leB 1 q.m ++ leB 1 (b2n q.cross + 2 * b2n w.forced + 4 * b2n w.aged) ++ leB 2 q.number ++ leB 1 w.places.length
    ++ leB 1 w.step ++ leB 8 w.no ++ leB 8 w.l ++ leB 4 w.tw ++ leB 2 (ownDev b) ++ zeros 2 ++ leB 8 w.phantom ++ leB 8 w.written
    ++ zeros 16 ++ (w.places.zipIdx.flatMap fun (p, i) => leB 1 i ++ leB 1 p.kind ++ leB 2 p.lwrap ++ leB 4 (p.pos / uLpos) ++ leB 8 p.dsNo)

/-- The COMMIT record of a weft (R390). -/
def commitRecord (q : Grp) (w : Weft) (passing : Nat) : Bytes :=
  leB 1 2 ++ leB 1 passing ++ leB 2 q.number ++ zeros 4 ++ leB 8 w.no ++ leB 8 w.commitSeq ++ leB 8 w.missing ++ leB 8 w.phantom ++ zeros 24

/-- The LOCATION record of a role (R388). -/
def locationRecord (cause group role lwrap weft cart dsNo lpos : Nat) : Bytes :=
  leB 1 4 ++ leB 1 cause ++ leB 2 group ++ leB 1 role ++ zeros 1 ++ leB 2 lwrap ++ leB 8 weft ++ leB 8 cart ++ leB 8 dsNo ++ leB 4 lpos
    ++ zeros 12

/-- The VOIDED record of a marker (R388). -/
def voidedRecord (reason group count lwrap cart first lpos : Nat) : Bytes :=
  leB 1 3 ++ leB 1 reason ++ leB 2 group ++ leB 2 count ++ leB 2 lwrap ++ leB 8 cart ++ leB 8 first ++ leB 4 lpos ++ zeros 4

/-- A catalogue entry (R401): KIND, FLAGS, GROUP, SEQ and the 48 bytes of its fields. -/
def catEntry (kind flags group seq : Nat) (fields : Bytes) : Bytes :=
  leB 1 kind ++ leB 1 flags ++ leB 2 group ++ zeros 4 ++ leB 8 seq ++ slice fields 0 48

/-- The entries of the object index (R407): those of the ledger, but for cartridges whose entries the full index has dropped. -/
def indexRows (b : Block) : List IdxRow := b.cons.index.filter fun r => !b.cons.dropped.contains r.cart

/-- The index is full: the entries of cartridges that are not mounted go, least recently mounted first, until it has room (R407). How
many entries fill it is the firmware's, and free (log entry 89). -/
def indexTrim (b : Block) : Block :=
  let out := ((indexRows b).map (·.cart)).eraseDups.filter fun c =>
    !b.cons.tapes.any fun (x : Nat × Tape) => x.2.cart = some c || (x.2.mount.isSome && x.2.ident = c)
  let order := out.filter (fun c => !b.cons.mounts.contains c) ++ b.cons.mounts.filter fun c => out.contains c
  forEach order b fun b c =>
    if (indexRows b).length ≤ Config.indexRoom then b
    else { b with cons := { b.cons with dropped := b.cons.dropped ++ [c] } }

/-- Entries are taken into the object index (R407). -/
def addRows (b : Block) (rows : List IdxRow) : Block :=
  indexTrim { b with cons := { b.cons with index := b.cons.index ++ rows } }

/-- Make a catalogue entry of a cartridge and journal it (R402): it is unwritten on tape until an update writes it. -/
def addEntry (b : Block) (cart kind flags group : Nat) (fields : Bytes) (hook : LHook) (len : Option Nat := none) : Block :=
  match cartKnown b cart with
  | none => b
  | some c =>
    let e := catEntry kind flags group c.catSeq fields
    let b := updCart b cart fun c => { c with catSeq := c.catSeq + 1, unwritten := c.unwritten ++ [(c.catSeq, e, b.time.now)] }
    let b := addRows b [{ cart := cart, entry := e, len := len }]
    ledgerSubmit b regJournal (leB 1 5 ++ zeros 7 ++ leB 8 cart ++ e) hook

/-- Fields of the DATASET, WEFT, SEGMENT and VOID entries (R401). -/
def datasetEntry (dsNo weft role dkind lwrap lpos reshape : Nat) : Bytes :=
  leB 8 dsNo ++ leB 8 weft ++ leB 1 role ++ leB 1 dkind ++ leB 2 lwrap ++ leB 4 lpos ++ leB 8 reshape
def weftEntry (q : Grp) (w : Weft) (state : Nat) : Bytes :=
  leB 8 w.no ++ leB 8 w.phantom ++ leB 8 w.missing ++ leB 1 state ++ leB 1 q.k ++ leB 1 q.m ++ zeros 5 ++ leB 8 w.commitSeq
def segmentEntry (g : Seg) (weft role commitSeq : Nat) : Bytes :=
  slice g.objectId 0 16 ++ leB 8 weft ++ leB 1 role ++ leB 1 (b2n g.last) ++ zeros 2 ++ leB 4 g.segmentNo ++ leB 8 g.objectOffset ++ leB 8 commitSeq
def voidEntry (first count reason lwrap lpos : Nat) : Bytes :=
  leB 8 first ++ leB 2 count ++ leB 1 reason ++ zeros 1 ++ leB 2 lwrap ++ zeros 2 ++ leB 4 lpos

/-- Cartridges of a group's members. -/
def memberCarts (b : Block) (q : Grp) : List Nat := (localMembers b q).filterMap fun x => (b.tape x.2.port).cart

/-! ### Datasets and commands of a weft -/

/-- Data datasets of a weft, in ascending role order. -/
def weftDatasets (w : Weft) : List Nat :=
  ((w.places.filter fun p => p.kind = 1).mergeSort fun p r => p.role ≤ r.role).filterMap (·.dataset)

/-- A command waits for TAPED on bytes in a dataset (R59, R64). -/
def waitsOn (b : Block) (c : Cmd) (d : Nat) : Bool :=
  let x := b.dataset d
  c.phase = .taping && c.fin.isNone && some x.stream = c.stream
    && x.segs.any fun g => g.seqLo ≤ c.seq && ((c.e.opcode != 4 && c.e.opcode != 5) || c.obj = some g.obj)

/-- Complete the commands waiting for TAPED on bytes in datasets with a Weave-class status (R64). -/
def failTaped (b : Block) (ds : List Nat) (status : Nat) : Block :=
  forEach ((b.hq.cmds.filter fun (x : Nat × Cmd) => ds.any (waitsOn b x.2)).map Prod.fst) b fun b n =>
    let c := b.cmd n
    if c.fin.isNone then finishCmd b n status 1 c.result 0 none (closesOf c) else b

/-- Complete every command waiting for TAPED on a group's streams (R221, R375). -/
def failGroupTaped (b : Block) (number status : Nat) : Block :=
  forEach ((b.hq.cmds.filter fun (x : Nat × Cmd) => x.2.phase = .taping && x.2.fin.isNone && match x.2.stream with
      | some h => (b.stream (slotOfHandle h)).group = number | none => false).map Prod.fst) b fun b n =>
    let c := b.cmd n
    if c.fin.isNone then finishCmd b n status 1 c.result 0 none (closesOf c) else b

/-- Datasets go back into the ready queue at their places in the order of closing (R363). -/
def requeue (b : Block) (g : Nat) (ds : List Nat) : Block :=
  let live := ds.filter fun d => (b.dataset d).live
  let b := forEach live b fun b d => b.updDataset d fun x => { x with state := .ready, weft := 0 }
  b.updGrp g fun q => { q with queue := (live ++ q.queue).mergeSort fun a c =>
    let x := b.dataset a; let y := b.dataset c
    x.closedAt < y.closedAt || (x.closedAt = y.closedAt && a ≤ c) }

/-- The part's own INTENT of a KIND leaves a written dataset on the cartridge (R392). -/
def writtenKind (k : Nat) : Bool := k = 1 || k = 2 || k = 3 || k = 5

/-- A void becomes pending on the cartridge of each member with a written placement (R392). -/
def pendVoids (b : Block) (g : Nat) (w : Weft) (reason : Nat) : Block :=
  forEach (w.places.filter fun p => writtenKind p.kind) b fun b p =>
    let v : VoidP := { group := (b.grp g).number, weft := w.no, reason := reason, first := p.dsNo, last := p.dsNo }
    let b := updCart b p.cart fun c => { c with voids := c.voids ++ [v] }
    match portOfCart b p.cart with
    | some port => b.updWport port fun x =>
        if x.dues.any fun d => match d with | .void _ => true | _ => false then x else { x with dues := x.dues ++ [.void v] }
    | none => b

/-- A weft fails or is voided (R371, R384, R391, R395): waiting commands end with `status`, its datasets return to the
ready queue, and its voids become pending with REASON. -/
def failWeft (b : Block) (g no reason status : Nat) : Block :=
  match weftOf (b.grp g) no with
  | none => b
  | some w =>
    if w.state = .voided ∨ w.state = .committed ∨ w.state = .withdrawn then b
    else
      let passing := (w.places.filter fun p => p.verdict = 1 || p.verdict = 2).length
      let ds := weftDatasets w
      let b := updWeft b g no fun w => { w with state := .voided }
      let b := inc b (Fld.WEAVE_WEFT_EVENTS_FAILED g)
      let b := weaveLog b 0x5001 4 0xFF (b.grp g).number 0 no passing
      let b := failTaped b ds status
      pendVoids (requeue b g ds) g w reason

/-! ### Commit (R369, R373, R390, R402) -/

/-- Passing members, and members still able to pass (R368, R370). -/
def passingOf (w : Weft) : Nat := (w.places.filter fun p => p.verdict = 1 || p.verdict = 2).length
def ableOf (q : Grp) (w : Weft) : Nat :=
  (w.places.zipIdx.filter fun (p, i) => p.present && !(q.members.getD i {}).failed && (p.verdict = 0 || p.verdict = 3)).length

/-- Every member present at launch has given a verdict. -/
def allVerdicts (w : Weft) : Bool := w.places.all fun p => !p.present || p.verdict != 0

/-- Passing members at commit: for a cross-device weft, as its OUTCOME tells them (R390, R451). -/
def passCount (w : Weft) : Nat := match w.outMissing with
  | some m => popN 64 (w.written - m.land w.written)
  | none => passingOf w

/-- The COMMIT record is written once every CAT_ENTRY of the weft is durable (R390). -/
def submitCommit (b : Block) (g no : Nat) : Block :=
  match weftOf (b.grp g) no with
  | none => b
  | some w =>
    let b := updWeft b g no fun w => { w with state := .committing }
    ledgerSubmit b regJournal (commitRecord (b.grp g) w (passCount w)) (.commit g no)

/-- A weft commits (R369): missing roles, COMMIT_SEQ, and the entries of R402 go to the ledger. -/
def beginCommit (b : Block) (g no : Nat) : Block :=
  match weftOf (b.grp g) no with
  | none => b
  | some w0 =>
    let q := b.grp g
    let seq := b.cons.commitSeq
    let missing := match w0.outMissing with
      | some m => m.land w0.written
      | none => (w0.places.filter fun p => writtenKind p.kind && p.kind != 5 && p.verdict != 1 && p.verdict != 2).foldl (fun a p => a + 2 ^ p.role) 0
    let w := { w0 with missing := missing, commitSeq := seq }
    let short := passCount w < grpN q
    let b := { b with cons := { b.cons with commitSeq := seq + 1 } }
    let b := when short b fun b => inc b (Fld.WEAVE_WEFT_EVENTS_SHORT g)
    -- entries in order: DATASET and SEGMENT of each role, then WEFT on every member cartridge
    let mine : List (Nat × Nat × Bytes × Option Nat) := w.places.flatMap fun p =>
      if p.kind = 1 || p.kind = 2 || p.kind = 3 then
        let id := match p.dataset with | some d => (b.dataset d).reshape | none => 0
        (p.cart, 2, datasetEntry p.dsNo w.no p.role p.kind p.lwrap (p.pos / uLpos) id, none) ::
          (match p.dataset with
           | some d => ((b.dataset d).segs.filter fun s => !s.aborted).map fun s =>
               (p.cart, 4, segmentEntry s w.no p.role seq, some s.plainLength)
           | none => [])
      else []
    let all := mine ++ (memberCarts b q).map fun c => (c, 3, weftEntry q w 1, none)
    let known := all.filter fun x => (cartKnown b x.1).isSome
    let b := updWeft b g no fun x => { x with state := .entries, missing := missing, commitSeq := seq, entriesLeft := known.length }
    let b := forEach known b fun b x => addEntry b x.1 x.2.1 0 q.number x.2.2.1 (.catEntry g no) x.2.2.2
    if known.isEmpty then submitCommit b g no else b

/-- One CAT_ENTRY of a committing weft is durable. -/
def entryDurable (b : Block) (g no : Nat) : Block :=
  match weftOf (b.grp g) no with
  | some w =>
    if w.state = .entries then
      let b := updWeft b g no fun w => { w with entriesLeft := w.entriesLeft - 1 }
      if w.entriesLeft = 1 then submitCommit b g no else b
    else b
  | none => b

/-- An object is recorded once CLOSE_OBJECT's trailer is written and every weft with its bytes has committed: its entry is
freed (R84, R390). -/
def checkRecorded (b : Block) (o : Nat) : Block :=
  let x := b.obj o
  if x.used && x.trailer && x.ended.isNone && !x.catalogued
      && b.ds.tab.all (fun (y : Nat × Dataset) => !y.2.live || y.2.state = .committed || !y.2.segs.any fun s => s.obj = o)
      && !(sealWorks b).any fun w => ((b.dataset w.dataset).segs.getD w.seg {}).obj = o then
    if (objCmds b o) = [] then freeObj b o else b.updObj o fun x => { x with catalogued := true }
  else b

/-- The COMMIT record is durable (R59, R373, R377, R390): TAPED completions, recorded objects, retention. Of a weft that has been voided
meanwhile it has no effect (R161, R391). -/
def commitDurable (b : Block) (g no : Nat) : Block :=
  match (weftOf (b.grp g) no).filter fun w => w.state = .committing with
  | none => b
  | some w =>
    let ds := weftDatasets w
    let b := updWeft b g no fun w => { w with
      state := .committed, committedAt := b.time.now, retain := rd b (Fld.WEAVE_GROUP_TIMING_RETAIN g) }
    let b := forEach ds b fun b d => b.updDataset d fun x => { x with state := .committed, committedAt := b.time.now }
    let b := forEach ((ds.map fun d => (b.dataset d).stream).eraseDups) b checkTaped
    let objs := (ds.flatMap fun d => (b.dataset d).segs.map (·.obj)).eraseDups
    let b := forEach objs b checkRecorded
    { b with weave := { b.weave with news := b.weave.news ++ [(g, no)] } }

/-- The segments of a dataset's DIT (R190): OBJECT_ID, and the entry fields of R401 from DIT and segment header. -/
def ditSegments (d : Bytes) : List Seg :=
  let t := slice d 6799360 16384
  (List.range (fieldAt t 6 2)).map fun i =>
    let e := slice t (64 + 32 * i) 32
    let h := slice d (fieldAt e 16 4) 128
    { objectId := slice e 0 16, segmentNo := fieldAt e 24 4, last := bitOf (fieldAt h 7 1) 0, aborted := bitOf (fieldAt h 7 1) 1,
      objectOffset := fieldAt h 24 8, plainLength := fieldAt h 80 8 }

/-- A member part records a committed cross-device weft of another owner for its cartridges (R402). The owner's COMMIT_SEQ is
not in OUTCOME: a free value. -/
def memberCommit (b : Block) (g no missing : Nat) : Block :=
  match weftOf (b.grp g) no with
  | none => b
  | some w0 =>
    let q := b.grp g
    let (seq, b) := freshNat b
    let seq := seq % 2 ^ 64
    let b := updWeft b g no fun w => { w with
      state := .committed, missing := missing, commitSeq := seq, committedAt := b.time.now, released := true }
    let w := { w0 with missing := missing, commitSeq := seq }
    let content (p : Place) : Option Bytes := b.heads.ports.findSome? fun (x : Nat × Wport) =>
      (x.2.segs.find? fun s => s.g = g && s.weft = no && s.role = p.role).bind (·.content)
    let mine := w.places.flatMap fun p =>
      if (p.kind = 1 || p.kind = 2 || p.kind = 3) && p.cart != 0 then
        (p.cart, 2, datasetEntry p.dsNo no p.role p.kind p.lwrap (p.pos / uLpos) 0, (none : Option Nat)) ::
          (match (if p.kind = 1 then content p else none) with
           | some d => ((ditSegments d).filter fun s => !s.aborted).map fun s => (p.cart, 4, segmentEntry s no p.role seq, some s.plainLength)
           | none => [])
      else []
    forEach (mine ++ (memberCarts b q).map fun c => (c, 3, weftEntry q w 1, none)) b fun b x =>
      addEntry b x.1 x.2.1 0 q.number x.2.2.1 .nothing x.2.2.2

/-- The outcome of a cross-device weft reaches this part (R382): the owner commits or fails it, and members record it. -/
def outcomeHere (b : Block) (g no : Nat) (commit : Bool) (missing : Nat) : Block :=
  match weftOf (b.grp g) no with
  | none => b
  | some w =>
    let done := w.state = .voided ∨ w.state = .committed ∨ w.state = .entries ∨ w.state = .committing ∨ w.state = .withdrawn
    let named := b.fab.verdicts.filter fun r => !(fieldAt r 16 2 = (b.grp g).number && fieldAt r 0 8 = no)
    let b := b.updFab fun f => { f with verdicts := named }
    if done then b
    else if !commit then failWeft b g no 3 0x5001
    else if w.owner = ownDev b then beginCommit (updWeft b g no fun w => { w with outMissing := some missing }) g no
    else memberCommit b g no missing

/-- The manager decides a cross-device weft and sends OUTCOME (R382, R451); its layout is GROUP, WEFT_NO, commit, MISSING
(DESIGN CHOICE, log entry 54). -/
def decideOutcome (b : Block) (g no : Nat) (commit : Bool) : Block :=
  match weftOf (b.grp g) no with
  | none => b
  | some w =>
    let missing := (w.places.filter fun p => p.verdict != 1 && p.verdict != 2).foldl (fun a p => a + 2 ^ p.role) 0
    let m := leB 2 (b.grp g).number ++ leB 8 no ++ leB 1 (b2n commit) ++ leB 8 missing
    outcomeHere (toParts b (b.grp g) 0x0A m []) g no commit missing

/-- Commit or fail a weft as its verdicts now allow (R369, R370): it can fail from its G on (DEDUCED, log entry 154). A cross-device weft is decided by its manager (R382), and not
at L + 3 T_w before every weft abort can have arrived (R536). -/
def assess (b : Block) (g no : Nat) : Block :=
  let q := b.grp g
  match weftOf q no with
  | none => b
  | some w =>
    let due := reached b (w.l + 3 * w.tw) && (!q.cross || reached b (w.l + w.tw + groupLat b g + 80000))
    if !weftOpen b w ∨ !schedules b g ∨ (!q.cross ∧ !w.intentDurable) then b
    else if rd b (Fld.WEAVE_GROUP_CFG_FLOOR g) ≤ passingOf w ∧ (allVerdicts w ∨ due) then
      if q.cross then decideOutcome b g no true else beginCommit b g no
    else if passingOf w + ableOf q w < rd b (Fld.WEAVE_GROUP_CFG_FLOOR g) ∧ reached b (w.l + (3 + w.grace) * w.tw) then
      if q.cross then decideOutcome b g no false else failWeft b g no 3 0x5001
    else b

/-! ### Membership (R361, R372 to R376) -/

/-- The member writes nothing in the group's next weft (R361), apart from what holds of its run-up. Of a member on another
part this part knows whether it is declared failed, and the manager what its part has reported. -/
def memberAbsent (b : Block) (m : Member) : Bool :=
  if m.dev != ownDev b then m.failed || m.rep.absent
  else m.failed || !linkUp b m.port || safeStopped b m.port || (16 ≤ m.port && rdB b (Fld.SYS_D2D_LOST 0)) || m.await || (b.tape m.port).mount.isSome
    || match cartOn b m.port with
      | some c => c.voids.any (·.atStart)
      | none => true

/-- Last weft launched of a group. -/
def lastWeft (q : Grp) : Nat := q.weftNext - 1

def updMember (b : Block) (g i : Nat) (f : Member → Member) : Block := b.updGrp g fun q => { q with members := q.members.modify i f }

/-- The group falls BELOW_FLOOR (R375). -/
def checkFloor (b : Block) (g : Nat) (was : Bool) : Block :=
  if belowFloor b g && !was then
    failGroupTaped (weaveLog b 0x5001 5 0xFF (b.grp g).number 0 (lastWeft (b.grp g)) 0) (b.grp g).number 0x5001
  else b

/-- Assess every open weft of a group, in order. -/
def assessAll (b : Block) (g : Nat) : Block := forEach ((b.grp g).wefts.map (·.no)) b fun b no => assess b g no

/-- Declare a member failed (R374). -/
def declareFailed (b : Block) (g i : Nat) : Block :=
  let q := b.grp g
  let m := q.members.getD i {}
  if !q.valid ∨ q.members.length ≤ i ∨ m.failed then b
  else
    let was := belowFloor b g
    let b := updMember b g i fun m => { m with failed := true, rejoin := false, held := false }
    let b := weaveLog b 0 2 i q.number m.lateRun (lastWeft q) 0
    let b := if q.cross ∧ isManager b then toParts b q 0x0B (leB 2 q.number ++ leB 1 i ++ leB 1 1) [] else b
    checkFloor (assessAll b g) g was

/-- The group and index of the member on a port of this part. -/
def memberOn (b : Block) (p : Nat) : Option (Nat × Nat) :=
  (List.range 32).findSome? fun g =>
    let q := b.grp g
    if q.valid then ((q.members.zipIdx.find? fun x => x.1.dev = ownDev b && x.1.port = p).map fun x => (g, x.2)) else none

/-- A failed transport fails its member (R298, R374). -/
def transportFailed (b : Block) (p : Nat) : Block :=
  match memberOn b p with
  | some (g, i) => if schedules b g then declareFailed b g i else b
  | none => b

/-- Assess lateness of a weft at its G (R372). -/
def assessLate (b : Block) (g no : Nat) : Block :=
  match weftOf (b.grp g) no with
  | none => b
  | some w =>
    let b := updWeft b g no fun w => { w with assessed := true }
    let b := forEach (w.places.zipIdx) b fun b (p, i) =>
      let q := b.grp g
      let m := q.members.getD i {}
      if m.failed || p.kind = 4 || p.kind = 5 || p.kind = 6 then b
      else if p.verdict != 0 && p.onTime then updMember b g i fun m => { m with lateRun := 0 }
      else
        let n := satN 8 (m.lateRun + 1)
        let b := updMember b g i fun m => { m with lateRun := n }
        let b := weaveLog b 0x5002 1 i q.number n no (passingOf w)
        if rd b (Fld.WEAVE_GROUP_CFG_LATE_LIMIT g) ≤ n then declareFailed b g i else b
    assess b g no

/-! ### Launch (R357 to R364, R392, R393) -/

/-- Forced launches due at a decision point: dataset, acceptance number and tenant, in acceptance order (R366). -/
def forcedDue (b : Block) (q : Grp) : List (Nat × Nat × Nat) :=
  (q.queue.filterMap fun d => match (b.dataset d).forcedBy with
    | some (n, t) => if !(b.dataset d).deferred || 0 < (b.tenant t).tokens then some (d, n, t) else none
    | none => none).mergeSort fun x y => x.2.1 ≤ y.2.1

/-- An aged launch is due (R217). -/
def agedDue (b : Block) (g : Nat) : Bool :=
  let aged (t : Nat) : Bool := rd b (Fld.WEAVE_SM_CTRL_RESUME_AGE g) * tS ≤ since b t
  (match (b.grp g).queue with | d :: _ => aged (b.dataset d).closedAt | [] => false)
    || (b.grp g).reports.any fun r => r.len != 0 && aged r.oldest

/-- The cadence log entries of the stops that end with a launch at L, and of an aged launch (R224). -/
def logStops (b : Block) (g l w : Nat) (aged : Bool) : Block :=
  let q := b.grp g
  let step := rd b (Fld.WEAVE_SM_STATUS_STEP g)
  let edge := b2n (rdB b (Fld.WEAVE_SM_STATUS_EDGE g))
  let b := forEach q.stops (b.updGrp g fun q => { q with stops := [] }) fun b st =>
    cadenceLog b st.endAt q.number st.kind st.fromStep step (b2n st.edge + 2 * edge) st.weft st.q ((l - st.endAt) / tUs)
  when aged b fun b => cadenceLog b ((q.stops.getLast?.map (·.endAt)).getD l) q.number 5 step step (3 * edge) (w - 1) (groupQ q) 0

/-- Forced launches whose tenant's bucket is empty are deferred (R366). -/
def deferAll (b : Block) (l : List (Nat × Nat × Nat)) : Block :=
  forEach l b fun b x =>
    if (b.dataset x.1).deferred then b
    else inc (b.updDataset x.1 fun y => { y with deferred := true }) (Fld.HQI_TENANT_STATUS_DEFERRED x.2.2)

/-- Whether a forced launch causes the weft: the tenant charged, and the block with the deferrals made (R366). -/
def forceCause (b : Block) (q : Grp) : Option Nat × Block :=
  let due := forcedDue b q
  let poor := due.takeWhile fun x => (b.tenant x.2.2).tokens = 0
  let b := deferAll b poor
  match due.drop poor.length with
  | x :: _ => (some x.2.2, b.updTenant x.2.2 fun t => { t with tokens := t.tokens - 1 })
  | [] => (none, b)

/-- Placement of a member with nothing to write. -/
def emptyPlace (role : Nat) : Place := { role := role }

/-- The pending void of the lowest number on a cartridge: the marker names its weft and group (R198, R393). -/
def lowestVoid (c : CartK) (v : VoidP) : VoidP := c.voids.foldl (fun a x => if x.first < a.first then x else a) v

/-- The marker that clears the pending voids of a cartridge (R393): lowest number, count, next number; REASON is that of its cause. -/
def voidMarker (c : CartK) (v : VoidP) (next : Nat) : Bytes × Nat × Nat :=
  let x := lowestVoid c v
  let hi := c.voids.foldl (fun a x => max a x.last) v.last
  (markerBlock 4 v.reason x.first x.weft x.group (hi - x.first + 1) next, x.first, hi)

/-- Descriptor FLAGS bit 0 (R179). -/
def descOf (q : Grp) (dsNo weft role : Nat) (edge reloc : Bool) : Bytes :=
  descriptor dsNo weft q.number q.k q.m role (b2n edge + 2 * b2n reloc)

/-- The descriptor of a void marker (R198): the voided weft and its group; K, M and MEMBER are 0 (DESIGN CHOICE, log entry 145). -/
def voidDesc (v : VoidP) (dsNo : Nat) (edge : Bool) : Bytes := descriptor dsNo v.weft v.group 0 0 0 (b2n edge)

/-- What a member writes in the weft (R362, R364, R392): its placement, its segment, and its cartridge afterwards. EDGE of a
relocated copy's descriptor says how the copy is written (DESIGN CHOICE, log entry 146). -/
def placeMember (q : Grp) (c : CartK) (w l tw role kind : Nat) (dataset : Option Nat) (due : Option Due) (g : Nat) : Place × WSeg × CartK :=
  let edge := wrapEdge c c.lwrap
  let moved : CartK := { c with pos := advance c (segLen c c.lwrap) }
  let pl : Place := { role := role, lwrap := c.lwrap, pos := c.pos, cart := c.id, present := due.isNone, dataset := dataset }
  let sg : WSeg := { l := l, tw := tw, g := g, weft := w, role := role, lwrap := c.lwrap, pos := c.pos, edge := edge }
  match due with
  | none =>
    ({ pl with kind := kind, dsNo := c.dsNext },
     { sg with kind := kind, dataset := dataset, dsNo := c.dsNext, desc := descOf q c.dsNext w role edge false },
     { moved with dsNext := c.dsNext + 1 })
  | some (.skip s) =>
    ({ pl with kind := 4, dsNo := s.dsNo, dataset := none },
     { s with l := l, tw := tw, kind := 4, lwrap := c.lwrap, pos := c.pos, edge := edge, slot := 0, cut := none,
              desc := descOf q s.dsNo s.weft s.role edge false,
              marker := markerBlock 3 (if s.reason2 then 2 else 1) s.dsNo s.weft q.number 1 s.dsNo }, moved)
  | some (.copy s) =>
    ({ pl with kind := 5, dsNo := s.dsNo, dataset := none },
     { s with l := l, tw := tw, kind := 5, lwrap := c.lwrap, pos := c.pos, edge := edge, slot := 0, cut := none,
              desc := descOf q s.dsNo s.weft s.role edge true }, moved)
  | some (.void v) =>
    let (m, lo, _) := voidMarker c v c.dsNext
    ({ pl with kind := 6, dsNo := lo, dataset := none },
     { sg with kind := 6, weft := (lowestVoid c v).weft, dsNo := lo, desc := voidDesc (lowestVoid c v) lo edge, marker := m, void := some v },
     moved)

/-- Launch the group's next weft at L (R357 to R364): roles, ready datasets, placements, intent and launch messages. -/
def launchWeft (b : Block) (g l : Nat) (charged : Option Nat) (forced aged : Bool) : Block :=
  let q := b.grp g
  let w := q.weftNext
  let n := grpN q
  let step := rd b (Fld.WEAVE_SM_STATUS_STEP g)
  let tw := weftPeriod b (rdB b (Fld.WEAVE_SM_STATUS_EDGE g)) step
  let absent (m : Member) : Bool := memberAbsent b m || m.out
  let due (m : Member) : Option Due := if absent m then none else (b.wport m.port).dues.head?
  let free := (q.members.zipIdx.filter fun (m, i) => roleOf n i w < q.k && !absent m && (due m).isNone).map fun x => roleOf n x.2 w
  let roles := free.mergeSort (· ≤ ·)
  let ds := q.queue.take roles.length
  let dsOf (r : Nat) : Option Nat := (roles.zip ds).findSome? fun x => if x.1 = r then some x.2 else none
  let phantom := ((List.range q.k).filter fun r => !roles.contains r).foldl (fun a r => a + 2 ^ r) 0
  -- members in index order
  let r := q.members.zipIdx.foldl (fun (a : List Place × Block) (m, i) =>
    let role := roleOf n i w
    match (if absent m then none else cartOn b m.port) with
    | none => (a.1 ++ [emptyPlace role], if m.dev = ownDev a.2 ∧ (a.2.wport m.port).what = .group g then stopRun a.2 m.port else a.2)
    | some c =>
      let kind := if q.k ≤ role then 3 else if (dsOf role).isSome then 1 else 2
      let (pl, sg, c') := placeMember q c w l tw role kind (dsOf role) (due m) g
      let b := when (due m).isSome a.2 fun b => b.updWport m.port fun x => { x with dues := x.dues.drop 1 }
      let b := if (b.wport m.port).inRun then b else startRun b m.port l tw (wrapForward c c.lwrap) (wrapEdge c c.lwrap) (.group g)
      let b := when (isMarker sg) b fun b => cancelWhere b m.port fun i => i = (b.wport m.port).nextIdx
      (a.1 ++ [pl], updCart (addSeg b m.port sg) c.id fun _ => c')) ([], b)
  let places := r.1
  let b := r.2
  let written := (places.filter fun p => p.kind = 1 || p.kind = 2 || p.kind = 3).foldl (fun a p => a + 2 ^ p.role) 0
  let x : Weft := { no := w, l := l, tw := tw, step := step, places := places, phantom := phantom, written := written, charged := charged,
                    forced := forced, aged := aged, grace := rd b (Fld.WEAVE_GROUP_CFG_GRACE g) }
  let b := forEach ds b fun b d => b.updDataset d fun y => { y with state := .launched, weft := w, deferred := false }
  let b := b.updGrp g fun q => { q with
    queue := q.queue.drop ds.length, weftNext := w + 1, wefts := q.wefts ++ [x], nextL := l + tw, lr := none, firstWeft := false }
  setSm (logStops (ledgerSubmit b regJournal (intentRecord b q x) (.intent g w)) g l w aged) g 1

/-! ### Stops, turns and restarts (R217 to R222) -/

/-- The group stops at the boundary L (R217, R219, R220): runs end, members go to their run-up points. -/
def stopGroup (b : Block) (g kind : Nat) : Block :=
  let q := b.grp g
  let b := forEach (localMembers b q) b fun b x => match (b.wport x.2.port).what with
    | .group g' => if g' = g then stopRun b x.2.port else b
    | _ => b
  let b := forEach (localMembers b q) b fun b x =>
    let t := b.tape x.2.port
    if t.aged ∨ kind = 3 then b.updTape x.2.port fun t => { t with wantUpd := true } else b
  let st : StopInfo := { kind := kind, fromStep := rd b (Fld.WEAVE_SM_STATUS_STEP g), edge := rdB b (Fld.WEAVE_SM_STATUS_EDGE g),
                         weft := lastWeft q, q := groupQ q, endAt := (q.wefts.getLast?.map fun w => w.l + w.tw).getD q.nextL }
  let b := b.updGrp g fun q => { q with
    stops := q.stops ++ [st], lr := none, firstWeft := false, condAt := none, heldAt := none, speedChange := false,
    members := q.members.map fun m => { m with held := false } }
  wr (setSm b g (if kind = 3 then 5 else 2)) (Fld.WEAVE_SM_STATUS_STEP g) (rd b (Fld.WEAVE_SM_STATUS_WANT g))

/-- A member's cartridge moves to its next logical wrap at a turn, and its tape to the run-up point there (R220). -/
def turnCart (b : Block) (p : Nat) : Block :=
  match cartOn b p with
  | some c =>
    let c' := onNextWrap c
    let far : Int := (c'.pos : Int) - (c.pos : Int)
    (updCart b c.id fun _ => c').updTape p fun t => { t with seek := some (t.seek.getD 0 + far) }
  | none => b

/-- The cadence class is decided again (R212); a want that the new class does not allow is taken again (R222). -/
def decideClass (b : Block) (g : Nat) : Block :=
  let q := b.grp g
  let edge := classEdge b q
  let b := wrB b (Fld.WEAVE_SM_STATUS_EDGE g) edge
  if stepAvail b edge (edge && !allEdge b q) (rd b (Fld.WEAVE_SM_STATUS_WANT g)) then b
  else match wantStep b g (lambdaNow b q) (groupQ q) with
    | some w =>
      let b := wr b (Fld.WEAVE_SM_STATUS_WANT g) w
      if smState b g = 1 then b else wr b (Fld.WEAVE_SM_STATUS_STEP g) w
    | none => b

/-- Rejoins take effect at a restart or turn (R376). -/
def rejoinEffect (b : Block) (g : Nat) : Block :=
  forEach ((b.grp g).members.zipIdx) b fun b (m, i) =>
    if m.rejoin then
      let b := weaveLog (updMember b g i fun m => { m with failed := false, rejoin := false, lateRun := 0 }) 0 3 i (b.grp g).number 0 (lastWeft (b.grp g)) 0
      if (b.grp g).cross ∧ isManager b then toParts b (b.grp g) 0x0B (leB 2 (b.grp g).number ++ leB 1 i ++ leB 1 2) [] else b
    else b

/-- A member is full: its cartridge has no next logical wrap (R221). -/
def memberFull (b : Block) (m : Member) : Bool := let r := memberRep b m; r.cart && r.last

/-- The group is FULL (R221): the turn that has been begun as a stop is not made, and is logged as FULL. -/
def enterFull (b : Block) (g : Nat) : Block :=
  let q := b.grp g
  let st := q.stops.getLast?.getD {}
  let e := b2n st.edge
  let b := cadenceLog b st.endAt q.number 4 st.fromStep st.fromStep (3 * e) st.weft st.q 0
  let ms := q.members.map fun m => { m with full := memberFull b m }
  let b := b.updGrp g fun q => { q with full := true, stops := q.stops.dropLast, members := ms }
  failGroupTaped (setSm b g 6) q.number 0x3005

/-- The group turns (R220): every member on this part moves to its next logical wrap; with a full one the group is FULL (R221). -/
def turnGroup (b : Block) (g : Nat) (full : Bool) : Block :=
  let b := stopGroup b g 3
  if full then enterFull b g
  else
    let b := forEach (localMembers b (b.grp g)) b fun b x => turnCart (updMember b g x.1 fun m => { m with await := false }) x.2.port
    decideClass (rejoinEffect b g) g

/-- A member of the group is full at a turn. -/
def anyFull (b : Block) (g : Nat) : Bool := (b.grp g).members.any (memberFull b)

/-- A member's next segment would not end inside its data area (R220). -/
def turnDue (b : Block) (g : Nat) : Bool :=
  (b.grp g).members.any fun m => let r := memberRep b m; !memberAbsent b m && !m.out && r.cart && !r.fits

/-- No weft of the group may launch: ledger FAILED (R489), leaderless hold (R384), BELOW_FLOOR (R375), FULL (R221). -/
def launchBarred (b : Block) (g : Nat) : Bool :=
  b.ledg.state = .failed || (b.grp g).hold || belowFloor b g || (b.grp g).full

/-- The PLAN message (R451): GROUP, WEFT_NO, L, step, flags (bit 0 launch, 1 forced, 2 aged, 3 first of a restart; of a stop 4 turn,
5 FULL), T_w, owner, and λ from the owner to each member part (DESIGN CHOICE, log entry 54). -/
def planMsg (b : Block) (q : Grp) (weft l tw step owner flags : Nat) : Bytes :=
  let ds := ((q.members.map (·.dev)).filter (· ≠ owner)).eraseDups
  leB 2 q.number ++ leB 8 weft ++ leB 8 l ++ leB 1 step ++ leB 1 flags ++ leB 4 tw ++ leB 2 owner ++ leB 1 ds.length
    ++ ds.flatMap fun d => leB 2 d ++ leB 4 (lambdaOf b owner d)

/-- The manager stops a cross-device group at its boundary, or turns it, and says so (R217, R220, R221, R467). -/
def planStop (b : Block) (g kind : Nat) : Block :=
  let q := b.grp g
  let full := kind = 3 && anyFull b g
  let m := planMsg b q q.weftNext q.nextL 0 0 0 (16 * b2n (kind = 3) + 32 * b2n full)
  let b := toParts b q 7 (m.take 20) (m.drop 20)
  if kind = 3 then turnGroup b g full else stopGroup b g kind

/-- A group leaves FULL once every full member has a mounted cartridge with a free logical wrap (R221). -/
def leaveFull (b : Block) (g : Nat) : Block :=
  let q := b.grp g
  let free := q.members.all fun m => !m.full || let r := memberRep b m; r.cart && r.free
  if q.full ∧ free then
    setSm (b.updGrp g fun q => { q with full := false, members := q.members.map fun m => { m with full := false } }) g 2
  else b

/-- The boundary L of a group is decided (R217, R220, R362, R364, R366). -/
def decideBoundary (b : Block) (g : Nat) : Block :=
  let q := b.grp g
  let n := grpN q
  let c := (q.members.zipIdx.filter fun (m, i) => roleOf n i q.weftNext < q.k && !memberAbsent b m && !m.out
    && (b.wport m.port).dues = []).length
  let len := q.queue.length
  if launchBarred b g then stopGroup b g 1
  else if turnDue b g then turnGroup b g (anyFull b g)
  else if q.speedChange then stopGroup b g 2
  else if len = 0 ∨ c = 0 then stopGroup b g 1
  else
    let aged := agedDue b g
    if q.k ≤ len then launchWeft b g q.nextL none false false
    else if aged then launchWeft b g q.nextL none false true
    else if len < c then
      let (t, b) := forceCause b q
      match t with
      | some t => launchWeft b g q.nextL (some t) true false
      | none => if q.firstWeft then launchWeft b g q.nextL none false false else stopGroup b g 1
    else if forcedDue b q ≠ [] ∨ q.firstWeft then launchWeft b g q.nextL none false false
    else stopGroup b g 1

/-- A restart condition of R218 holds. -/
def restartDue (b : Block) (g : Nat) : Bool :=
  let q := b.grp g
  rd b (Fld.WEAVE_SM_CTRL_Q_RESUME_WEFTS g) * q.k ≤ groupQ q && groupQ q != 0 || forcedDue b q != [] || agedDue b g

/-- The members that a restart waits for: those not absent, rejoining ones included (R218, R376). -/
def waitedFor (b : Block) (g : Nat) : List Member :=
  (((b.grp g).members.zipIdx.map fun (m, i) => (i, m)).filter fun x => !memberAbsent b { x.2 with failed := x.2.failed && !x.2.rejoin, await := false }).map Prod.snd

/-- Set L_r (R218, R222): 10 ms and the ramp after the last held report, or after the condition arose if that is later, and no
earlier than the ramp that is still to be run (DESIGN CHOICE, log entry 147); members not held are left out. -/
def setRestart (b : Block) (g : Nat) : Block :=
  let q := b.grp g
  let b := b.updGrp g fun q => { q with members := q.members.map fun m => { m with out := !m.held } }
  let b := rejoinEffect b g
  let step := rd b (Fld.WEAVE_SM_STATUS_WANT g)
  let ramp := rampTicks b g step
  let l := max (max q.lastHeld (q.condAt.getD b.time.now) + 40000000 + ramp) (b.time.now + ramp)
  let b := wr b (Fld.WEAVE_SM_STATUS_STEP g) step
  b.updGrp g fun q => { q with lr := some l, nextL := l, firstWeft := true, condAt := none }

/-- A stopped group may restart (R218): none while a boundary is to be decided, or while launches are barred; a rejoin that
takes effect at the restart counts for the floor. -/
def mayRestart (b : Block) (g : Nat) : Bool :=
  let q := b.grp g
  schedules b g && (!q.cross || groupLat b g + 80000 ≤ leadTicks b g) && !streaming b g && b.ledg.state != .failed && !q.hold && !q.full
    && rd b (Fld.WEAVE_GROUP_CFG_FLOOR g) ≤ (q.members.filter fun m => !m.failed || m.rejoin).length

/-- The restart condition arises, and L_r is set once every member waited for is held (R218). A turn that is due is made first
(R222). -/
def tryRestart (b : Block) (g : Nat) : Block :=
  if mayRestart b g && restartDue b g && turnDue b g then
    if (b.grp g).cross then planStop b g 3 else turnGroup b g (anyFull b g)
  else if mayRestart b g && restartDue b g then
    let b := b.updGrp g fun q => { q with condAt := q.condAt.orElse fun _ => some b.time.now }
    let ms := waitedFor b g
    if ms ≠ [] ∧ ms.all (·.held) then setRestart b g else b
  else b

/-! ### Withdrawal (R365) and release (R377, R378) -/

/-- Withdraw a group's decided wefts from number `no` on (R365, R385). -/
def withdrawFrom (b : Block) (g no : Nat) : Block :=
  let q := b.grp g
  let ws := q.wefts.filter fun w => no ≤ w.no && w.state = .decided
  let first (p : Nat) : Option Place := ws.findSome? fun w => w.places.find? fun x => x.cart = p && x.kind != 0
  let b := forEach ws b fun b w =>
    let b := match w.charged with
      | some t => b.updTenant t fun x => { x with tokens := min (x.tokens + 1) (rd b (Fld.HQI_TENANT_FORCE_FORCE_BURST t)) }
      | none => b
    weaveLog (requeue b g (weftDatasets w)) 0xA001 6 0xFF q.number 0 w.no 0
  -- each member's position and next number are those before its first withdrawn segment
  let b := forEach (localMembers b q) b fun b x =>
    let p := x.2.port
    match (b.tape p).cart with
    | none => b
    | some id =>
      let b := match first id with
        | some pl => updCart b id fun c => { c with pos := pl.pos, lwrap := pl.lwrap }
        | none => b
      let nums := (ws.flatMap fun w => w.places.filter fun y => y.cart = id && (y.kind = 1 || y.kind = 2 || y.kind = 3)).map (·.dsNo)
      let b := updCart b id fun c => { c with dsNext := nums.foldl min c.dsNext }
      let gone := (b.wport p).segs.filter fun s => ws.any fun w => w.l = s.l && s.g = g && s.slot = 0
      let b := forEach gone.reverse b fun b s => requeueDue b p s
      b.updWport p fun w => { w with
        segs := w.segs.filter fun s => !(gone.any fun y => y.idx = s.idx), nextIdx := w.nextIdx - gone.length }
  let l := (ws.head?.map (·.l)).getD q.nextL
  b.updGrp g fun q => { q with wefts := q.wefts.filter fun w => !(no ≤ w.no && w.state = .decided), weftNext := no, nextL := l }

/-- A relocation of the weft is queued or under way (R377). -/
def relocQueued (b : Block) (g no : Nat) : Bool :=
  b.heads.ports.any fun (x : Nat × Wport) =>
    x.2.dues.any (fun d => match d with | .skip s => s.g = g && s.weft = no | .copy s => s.g = g && s.weft = no | .void _ => false)
      || x.2.segs.any fun s => s.kind = 5 && s.g = g && s.weft = no && (s.slot < 124 || (setOf x.2 s.idx).isSome)

/-- The pool waiver of R378 is in force. -/
def poolWaiver (b : Block) : Bool := b.hq.qps.any fun (x : Nat × Qp) => match x.2.held with | some h => h.pool | none => false

/-- The next data dataset of a group that R377 or R378 lets go: its weft and number. -/
def releasable (b : Block) (g : Nat) : Option (Nat × Nat) :=
  let q := b.grp g
  match q.wefts.find? fun w => w.state != .voided && w.state != .withdrawn && !w.released with
  | none => none
  | some w =>
    if w.state = .committed && (poolWaiver b || (w.retain * tMs ≤ since b w.committedAt && !relocQueued b g w.no)) then
      some (w.no, ((weftDatasets w).find? fun d => (b.dataset d).live && (b.dataset d).weft = w.no).getD 0)
    else none

/-- Release a weft's next data dataset; after the last, the weft is released and relocations of it that still wait are
abandoned (R377, R378). -/
def releaseNext (b : Block) (g : Nat) : Block :=
  match releasable b g with
  | none => b
  | some (no, d) =>
    let left (b : Block) : List Nat := match weftOf (b.grp g) no with
      | some w => (weftDatasets w).filter fun d => (b.dataset d).live && (b.dataset d).weft = no
      | none => []
    let b := if (left b).contains d then releaseDataset b d else b
    if left b = [] then
      let b := updWeft b g no fun w => { w with released := true }
      forEach (tabKeys b.heads.ports) b fun b p => b.updWport p fun x => { x with dues := x.dues.filter fun e => match e with
        | .skip s => !(s.g = g && s.weft = no)
        | .copy s => !(s.g = g && s.weft = no)
        | .void _ => true }
    else b

/-! ### Poison (R432, R536) -/

/-- Relocations whose copies need a data dataset as source are abandoned (R432): of its own role, and of the weft's parity. -/
def dropSourced (b : Block) (g weft d : Nat) : Block :=
  forEach (tabKeys b.heads.ports) b fun b p => b.updWport p fun x => { x with dues := x.dues.filter fun e => match e with
    | .skip s => !(s.g = g && s.weft = weft && (s.dataset = some d || (b.grp g).k ≤ s.role))
    | .copy s => !(s.g = g && s.weft = weft && (s.dataset = some d || (b.grp g).k ≤ s.role))
    | .void _ => true }

/-- A reshape's copy is lost before its weft has committed: it is copied again (DESIGN CHOICE, log entry 156). -/
def ReshapeSt.recopy (x : ReshapeSt) (d : Nat) : ReshapeSt :=
  match x.waiting.find? fun y => y.1 = d with
  | some (_, weft, role) =>
    { x with waiting := x.waiting.filter fun y => y.1 ≠ d, todo := x.todo ++ [(weft, role)], copied := x.copied - 1,
             wefts := if x.todo.any fun z => z.1 = weft then x.wefts else x.wefts - 1 }
  | none => x
def recopy (b : Block) (d : Nat) : Block := { b with cons := { b.cons with reshapes := b.cons.reshapes.map (·.recopy d) } }

/-- A line of a data dataset is Uncorrectable (R432, rows 1 and 2). -/
def poisonDataset (b : Block) (d : Nat) : Block :=
  let x := b.dataset d
  if !x.live then b
  else if x.state = .committed then
    releaseDataset (match groupSlot b x.group with | some g => dropSourced b g x.weft d | none => b) d
  else
    let b := recopy b d
    let g := groupSlot b x.group
    let objs := (x.segs.map (·.obj)).eraseDups
    let slot := slotOfHandle x.stream
    let b := b.updDataset d fun x => { x with poisoned := true }
    -- an open dataset is discarded before the endings, which would close it
    let b := if (b.stream slot).dataset = some d then b.updCtx slot fun c => { c with frameOpen := false, window := [] } else b
    let b := b.updStream slot fun s => { s with dataset := if s.dataset = some d then none else s.dataset }
    let b := { b with ciph := { b.ciph with queue := b.ciph.queue.filter fun j => match j.job with | .seal w => w.dataset ≠ d | _ => true } }
    let b := b.updSealState slot fun s => if x.state = .opened || x.state = .closing then {} else s
    let b := forEach objs b fun b o =>
      let y := b.obj o
      if !y.used || y.ended.isSome then b
      else if y.closed then
        let ns := objCmds b o
        if ns = [] then freeObj b o else finishAll b 0x2003 o true ns
      else endObject b o 0x2003 .poisoned
    let b := match g with
      | some g =>
        let b := b.updGrp g fun q => { q with queue := q.queue.erase d }
        let b := releaseDataset b d
        if x.state ≠ .launched then b
        else if (b.grp g).cross then { b with heads := { b.heads with aborts := b.heads.aborts ++ [(g, x.weft)] } }
        else failWeft b g x.weft 3 0x5001
      | none => releaseDataset b d
    checkCloseStream (pumpStream b x.stream) x.stream

end Sys2Proof.Machine
end

