-- ==== Sys2Proof/Machine/CrossOps.lean ====
section
/-!
DEFINITION. Sys2Proof/Machine/CrossOps.lean: wefts of cross-device groups (spec/14_weave.md R382 to R384;
spec/17_timebase_fabric.md R450, R463, R467 to R469): plans, launch messages, rows between parts, latencies and link loads.
-/

namespace Sys2Proof.Machine

/-- Send a message of the fabric: its first 20 bytes are ARGS, the rest body cells. -/
def msgTo (b : Block) (dest typ : Nat) (m : Bytes) : Block := shutSend b dest typ (m.take 20) (m.drop 20)

/-- DEVICE_ID of the manager obeyed; 0 if none. -/
def managerId (b : Block) : Nat := rd b Fld.SHUT_ROLE_MANAGER

/-- A message of the manager that this part obeys: no hold, and the manager of the epoch in force (R464). -/
def fromManager (b : Block) (src : Nat) : Bool := b.fab.hold.isNone && src != 0 && src = managerId b

/-- The part takes part in cross-device wefts: its DEVICE_ID has not been found twice (R460). -/
def takesPart (b : Block) : Bool := !b.fab.dup

/-! ### Latencies and link loads (R468, R469) -/

/-- Parts that hold a group's members or its manager. -/
def groupParts (b : Block) (q : Grp) : List Nat := (ownDev b :: q.members.map (·.dev)).eraseDups

/-- λ_g of a group in ticks (R468). -/
def groupLambda (b : Block) (q : Grp) : Nat :=
  let ps := groupParts b q
  (ps.flatMap fun x => (ps.filter (· ≠ x)).map fun y => lambdaOf b x y).foldl max 0

/-- The manager computes the latencies of its cross-device groups (R468). -/
def recomputeLat (b : Block) : Block :=
  forEach (List.range 32) b fun b g =>
    if (b.grp g).valid && (b.grp g).cross then wr b (Fld.SHUT_GROUP_LAT_LAT g) (satN 24 (groupLambda b (b.grp g) / 4)) else b

/-- The latency condition of R468 fails. -/
def tooSlow (b : Block) (g : Nat) : Bool := leadTicks b g < groupLat b g + 80000

/-! ### Bulk packets (R450, R451) -/

/-- The first entry that satisfies `f`, and the list without it. -/
def takeFirst {α : Type} (f : α → Bool) : List α → Option (α × List α)
  | [] => none
  | x :: t => if f x then some (x, t) else (takeFirst f t).map fun (y, r) => (y, x :: r)

/-- The ROW message of codeword e of a role (R451): ARGS and the row's 2,048 bytes. -/
def rowMsg (b : Block) (x : Bulk) : Option Bytes :=
  (weftOf (b.grp x.g) x.weft).map fun w =>
    leB 2 (b.grp x.g).number ++ leB 8 x.weft ++ leB 1 x.role ++ leB 1 (x.next % 16) ++ leB 1 (x.next / 16) ++ leB 1 (b2n x.regen) ++ zeros 6
      ++ dsRow (roleBytes b (b.grp x.g).k w x.role) (x.next % 16) (x.next / 16)

/-- Cells that the next packet of an entry takes. -/
def bulkCells (x : Bulk) : Nat := match x.pkt with | some (c, _, _) => c.length / 32 | none => 65

/-- Return credits to a port's peer for cells that have left the receiver (R450). -/
def returnCredits (b : Block) (port lane cells : Nat) : Block := sendOn b port (peerOf b port) 2 (leB 1 lane ++ leB 2 cells) []

/-- Send bulk packets on a port while a lane has credits for them (R450). -/
def pumpBulk (b : Block) (p : Nat) : Nat → Block
  | 0 => b
  | n + 1 =>
    if !shutUp b p then b
    else match takeFirst (fun x => routeTo b x.dest = some p) b.fab.bulk with
      | none => b
      | some (x, rest) =>
        let cells := bulkCells x
        match (List.range 4).find? fun l => cells ≤ tabGet 0 (b.shut p).credits l with
        | none => b
        | some l =>
          let b := b.updShut p fun h => { h with credits := tabUpd 0 h.credits l (· - cells) }
          match x.pkt with
          | some (c, ap, al) =>
            let b := emit (b.updFab fun f => { f with bulk := rest }) (.shutPacket p 1 l (fieldAt c 4 1) x.dest c)
            pumpBulk (returnCredits b ap al cells) p n
          | none =>
            match rowMsg b x with
            | none => pumpBulk (b.updFab fun f => { f with bulk := rest }) p n
            | some m =>
              let left := if x.next < x.last then { x with next := x.next + 1 } :: rest else rest
              pumpBulk (sendOn (b.updFab fun f => { f with bulk := left }) p x.dest 0x80 (m.take 20) (m.drop 20) l) p n

/-- Send what the credits of every port allow. -/
def pumpBulks (b : Block) : Block := forEach (upPorts b) b fun b p => pumpBulk b p 16

/-! ### Plans (R451, R467) -/

/-- The plan of a weft. -/
def planOf (b : Block) (g no : Nat) : Option Plan := b.fab.plans.find? fun p => p.g = g && p.weft = no

def updPlan (b : Block) (g no : Nat) (f : Plan → Plan) : Block :=
  b.updFab fun x => { x with plans := x.plans.map fun p => if p.g = g && p.weft = no then f p else p }

/-- Forget plans whose weft period has passed. -/
def prunePlans (b : Block) : Block :=
  let keep := b.fab.plans.filter fun p => !reached b (p.l + p.tw)
  b.updFab fun x => { x with plans := keep }

/-- λ of this part in a PLAN. -/
def planLambda (b : Block) (m : Bytes) : Nat :=
  ((List.range (fieldAt m 26 1)).find? fun i => fieldAt m (27 + 6 * i) 2 = ownDev b).elim 0 fun i => fieldAt m (29 + 6 * i) 4

/-! ### Launch (R382, R467) -/

/-- Take a member's dataset part in a weft over its place. -/
def setPlace (b : Block) (g no i : Nat) (f : Place → Place) : Block :=
  updWeft b g no fun w => { w with places := w.places.modify i f }

/-- LAUNCH (R451, R467 step 3): GROUP, MEMBER, KIND, ROLE, STEP, WEFT_NO, L, T_w, OWNER, DATASET_NO and the descriptor (R364;
layout DESIGN CHOICE, log entry 54). -/
def launchMsg (q : Grp) (w : Weft) (i : Nat) (p : Place) (edge : Bool) : Bytes :=
  leB 2 q.number ++ leB 1 i ++ leB 1 p.kind ++ leB 1 p.role ++ leB 1 w.step ++ leB 8 w.no ++ leB 8 w.l ++ leB 4 w.tw ++ leB 2 w.owner
    ++ leB 8 p.dsNo ++ descOf q p.dsNo w.no p.role edge false

/-- A LAUNCH reaches the part of member i (R467 steps 4 and 5): the member takes its cadence position. -/
def memberLaunch (b : Block) (m : Bytes) : Block :=
  match groupSlot b (fieldAt m 0 2) with
  | none => b
  | some g =>
    let q := b.grp g
    let i := fieldAt m 2 1
    let kind := fieldAt m 3 1
    let no := fieldAt m 6 8
    let l := fieldAt m 14 8
    let tw := fieldAt m 22 4
    let owner := fieldAt m 26 2
    let x := q.members.getD i {}
    let p := x.port
    if !q.cross ∨ q.members.length ≤ i ∨ x.dev ≠ ownDev b ∨ !takesPart b ∨ reached b (l - 80000) then b
    else match (if memberAbsent b { x with failed := false } then none else cartOn b p), planOf b g no with
      | some c, some plan =>
        if (b.wport p).segs.any (fun s => s.g = g && s.l = l) then b
        else
          let due := if 4 ≤ kind then (b.wport p).dues.head? else none
          let c0 : CartK := if kind = 1 ∨ kind = 2 ∨ kind = 3 then { c with dsNext := fieldAt m 28 8 } else c
          let own := owner = ownDev b
          let ds := if own then (weftOf q no).bind fun w => (w.places.getD i {}).dataset else none
          let (pl, sg, c') := placeMember q c0 no l tw (fieldAt m 4 1) kind ds due g
          let remote := !own && (kind = 1 || kind = 3)
          let sg : WSeg := { sg with
            desc := if due.isSome then sg.desc else slice m 36 32, lam := plan.lam,
            content := if remote then some (zeros 6815744) else sg.content, rows := if remote then some [] else none }
          let b := when due.isSome b fun b => b.updWport p fun x => { x with dues := x.dues.drop 1 }
          let b := if (b.wport p).inRun then b else startRun b p l tw (wrapForward c c.lwrap) (wrapEdge c c.lwrap) (.group g)
          let b := when (isMarker sg) b fun b => cancelWhere b p fun n => n = (b.wport p).nextIdx
          let b := updCart (addSeg b p sg) c.id fun _ => c'
          let b := setPlace b g no i fun y => { pl with present := y.present, verdict := y.verdict, onTime := y.onTime }
          updPlan b g no fun y => { y with launched := true }
      | _, _ => b

/-- The owner sends LAUNCH to each member part, its own included, and streams the rows (R382, R467 step 3). -/
def sendLaunch (b : Block) (g no : Nat) : Block :=
  match weftOf (b.grp g) no with
  | none => b
  | some w =>
    let q := b.grp g
    let edge := rdB b (Fld.WEAVE_SM_STATUS_EDGE g)
    let b := forEach (w.places.zipIdx.filter fun x => x.1.kind != 0) b fun b (pl, i) =>
      let d := (q.members.getD i {}).dev
      let m := launchMsg q w i pl edge
      if d = ownDev b then memberLaunch b m
      else
        let b := msgTo b d 8 m
        if pl.kind = 1 ∨ pl.kind = 3 then
          b.updFab fun f => { f with bulk := f.bulk ++ [{ dest := d, g := g, weft := no, role := pl.role }] } else b
    pumpBulks b

/-- The intent of a cross-device weft is durable: by L − LEAD its LAUNCH goes out (R467). -/
def intentReady (b : Block) (g no : Nat) : Block :=
  let b := updWeft b g no fun y => { y with intentDurable := true }
  match weftOf (b.grp g) no with
  | some w =>
    if (b.grp g).cross then
      (if w.owner = ownDev b && w.state = .decided && !(reached b (w.l - leadTicks b g) && w.l - leadTicks b g ≠ b.time.now) then
        sendLaunch b g no else b)
    else assess b g no
  | none => b

/-- The owner makes up its weft and issues the intent (R361, R362, R382, R467 step 2). Cartridge, position and number of a
member on another part are its own part's: free values in the placement entries (log entry 54). -/
def makeUp (b : Block) (g no : Nat) (charged : Option Nat) (aged : Bool) : Block :=
  match weftOf (b.grp g) no with
  | none => b
  | some w =>
    let q := b.grp g
    let n := grpN q
    let absent (m : Member) : Bool := memberAbsent b m || m.out
    let due (m : Member) : Option Due := if absent m || m.dev != ownDev b then none else (b.wport m.port).dues.head?
    let roles := ((q.members.zipIdx.filter fun (m, i) => roleOf n i no < q.k && !absent m && (due m).isNone).map fun x => roleOf n x.2 no).mergeSort (· ≤ ·)
    let ds := q.queue.take roles.length
    let dsOf (r : Nat) : Option Nat := (roles.zip ds).findSome? fun x => if x.1 = r then some x.2 else none
    let phantom := ((List.range q.k).filter fun r => !roles.contains r).foldl (fun a r => a + 2 ^ r) 0
    let r := q.members.zipIdx.foldl (fun (a : List Place × Block) (m, i) =>
      let role := roleOf n i no
      let kind := if q.k ≤ role then 3 else if (dsOf role).isSome then 1 else 2
      if absent m then (a.1 ++ [emptyPlace role], a.2)
      else if m.dev = ownDev b then
        match cartOn b m.port with
        | some c => (a.1 ++ [(placeMember q c no w.l w.tw role kind (dsOf role) (due m) g).1], a.2)
        | none => (a.1 ++ [emptyPlace role], a.2)
      else
        let (x, b1) := freshNat a.2
        let (y, b2) := freshNat b1
        let (z, b3) := freshNat b2
        (a.1 ++ [{ role := role, kind := kind, present := true, dataset := dsOf role, dsNo := x % 2 ^ 64, lwrap := y % 2 ^ 16,
                   pos := z % 2 ^ 32 * uLpos }], b3)) ([], b)
    let places := r.1
    let b := r.2
    let written := (places.filter fun p => p.kind = 1 || p.kind = 2 || p.kind = 3).foldl (fun a p => a + 2 ^ p.role) 0
    let b := forEach ds b fun b d => b.updDataset d fun y => { y with state := .launched, weft := no, deferred := false }
    let b := b.updGrp g fun q => { q with queue := q.queue.drop ds.length }
    let b := updWeft b g no fun w => { w with
      places := places, phantom := phantom, written := written, charged := charged, forced := charged.isSome, aged := aged }
    let b := updPlan b g no fun y => { y with madeUp := true }
    match weftOf (b.grp g) no with
    | some w => ledgerSubmit b regJournal (intentRecord b q w) (.intent g no)
    | none => b

/-- The decision point of the owner of a cross-device weft: 220 µs before L − LEAD (R467 step 2). A weft that a forced launch causes
is charged here, to a tenant of the owner; where every one concerned is without tokens they are deferred, and the weft is not
launched unless it is the first of a restart (R70, R218, R366). -/
def ownerPoint (b : Block) (g : Nat) : Block :=
  match b.fab.plans.find? fun p => p.g = g && p.owner = ownDev b && p.launch && !p.madeUp with
  | some p =>
    if takesPart b ∧ reached b (p.l - leadTicks b g - 880000) ∧ !reached b p.l then
      let (t, b) := if p.forced then forceCause b (b.grp g) else (none, b)
      if p.forced ∧ t.isNone ∧ !p.first then updPlan b g p.weft fun y => { y with madeUp := true } else makeUp b g p.weft t p.aged
    else b
  | none => b

/-- A weft that is not launched: its datasets return to the queue and its number is assigned again (R357, R467). -/
def dropWeft (b : Block) (g no : Nat) : Block :=
  match weftOf (b.grp g) no with
  | some w =>
    if w.state = .decided then
      let b := requeue b g (weftDatasets w)
      b.updGrp g fun q => { q with wefts := q.wefts.filter fun x => x.no ≠ no, weftNext := no, nextL := w.l }
    else b
  | none => b

/-- A cross-device weft whose intent is not durable at L − LEAD is not launched (R467). -/
def crossDeadline (b : Block) (g : Nat) : Block :=
  match (b.grp g).wefts.find? fun w => w.owner = ownDev b && w.state = .decided && !w.intentDurable && !w.places.all (fun p => p.kind = 0) with
  | none => b
  | some w =>
    if reached b (w.l - leadTicks b g) then
      let b := internalError b 0 5 g 6 w.no
      let b := fabricLog b 0xA001 14 0xFF (b.grp g).number
      let b := requeue b g (weftDatasets w)
      updWeft b g w.no fun w => { w with places := w.places.map fun p => emptyPlace p.role }
    else b

/-- No LAUNCH by L − 20 µs (R467): the part's members of the group write nothing there and stop as at a backhitch. -/
def launchMissing (b : Block) (g : Nat) : Block :=
  match b.fab.plans.find? fun p => p.g = g && p.launch && !p.launched with
  | some p =>
    if reached b (p.l - 80000) ∧ (localMembers b (b.grp g)).any fun x => !memberAbsent b x.2 then
      let b := b.updFab fun f => { f with plans := f.plans.filter fun y => !(y.g = g && y.weft = p.weft) }
      stopGroup (dropWeft b g p.weft) g 1
    else b
  | none => b

/-- A PLAN takes effect on this part (R451, R467). -/
def applyPlan (b : Block) (m : Bytes) : Block :=
  match groupSlot b (fieldAt m 0 2) with
  | none => b
  | some g =>
    let q := b.grp g
    let no := fieldAt m 2 8
    let l := fieldAt m 10 8
    let tw := fieldAt m 20 4
    let flag (i : Nat) : Bool := bitOf (fieldAt m 19 1) i
    if !q.cross then b
    else if !flag 0 then
      let b := if streaming b g then b.updGrp g fun q => { q with nextL := l } else b
      if isManager b then b
      else if flag 4 then turnGroup b g (flag 5)
      else if streaming b g then stopGroup b g 1
      else b
    else
      let plan : Plan := { g := g, weft := no, l := l, tw := tw, step := fieldAt m 18 1, owner := fieldAt m 24 2, lam := planLambda b m,
                           forced := flag 1, aged := flag 2, first := flag 3 }
      let b := prunePlans b
      let b := b.updFab fun f => { f with plans := (f.plans.filter fun y => !(y.g = g && y.weft = no)) ++ [plan] }
      let b := if isManager b then b
        else
          let n := grpN q
          let w : Weft := { no := no, l := l, tw := tw, step := plan.step, owner := plan.owner, grace := rd b (Fld.WEAVE_GROUP_CFG_GRACE g),
                            places := (List.range n).map fun i => emptyPlace (roleOf n i no) }
          let b := b.updGrp g fun q => { q with
            wefts := (q.wefts.filter fun x => x.no ≠ no) ++ [w], weftNext := no + 1, nextL := l + tw,
            lr := if streaming b g then none else some l, full := false, stops := [] }
          -- the class follows from the period (R212)
          let b := wrB b (Fld.WEAVE_SM_STATUS_EDGE g) (tw ≠ weftPeriod b false plan.step)
          setSm (wr b (Fld.WEAVE_SM_STATUS_STEP g) plan.step) g 1
      ownerPoint b g

/-! ### The manager (R382, R467 step 1) -/

/-- The owner of the next weft: the part whose oldest ready dataset closed earliest, then the lowest DEVICE_ID (R382). -/
def ownerOf (b : Block) (q : Grp) : Option Nat :=
  let mine := match q.queue with | d :: _ => [(ownDev b, (b.dataset d).closedAt)] | [] => []
  let all := mine ++ ((q.reports.filter fun r => r.len != 0 && r.dev != ownDev b).map fun r => (r.dev, r.oldest))
  (all.mergeSort fun x y => x.2 < y.2 || (x.2 = y.2 && x.1 ≤ y.1)).head?.map (·.1)

/-- The manager issues the plan of the weft at L (R467 step 1), and says whether a forced launch causes it (R366). -/
def planLaunch (b : Block) (g : Nat) (forced aged : Bool) : Block :=
  let q := b.grp g
  match ownerOf b q with
  | none => stopGroup b g 1
  | some owner =>
    let step := rd b (Fld.WEAVE_SM_STATUS_STEP g)
    let tw := weftPeriod b (rdB b (Fld.WEAVE_SM_STATUS_EDGE g)) step
    let n := grpN q
    let no := q.weftNext
    let places := q.members.zipIdx.map fun (m, i) =>
      let e := emptyPlace (roleOf n i no)
      { e with present := !m.failed && !m.out && !(m.dev = ownDev b && memberAbsent b m) }
    let x : Weft := { no := no, l := q.nextL, tw := tw, step := step, places := places, owner := owner, aged := aged,
                      grace := rd b (Fld.WEAVE_GROUP_CFG_GRACE g) }
    let m := planMsg b q no q.nextL tw step owner (1 + 2 * b2n forced + 4 * b2n aged + 8 * b2n q.firstWeft)
    let b := b.updGrp g fun q => { q with
      weftNext := no + 1, wefts := q.wefts ++ [x], nextL := q.nextL + tw, lr := none, firstWeft := false }
    let b := setSm (logStops b g q.nextL no aged) g 1
    applyPlan (forEach (otherParts b q) b fun b d => msgTo b d 7 m) m

/-- CROSS_PLAN_EVAL (R217, R218, R467 step 1, R468). -/
def planEval (b : Block) (g : Nat) : Block :=
  let q := b.grp g
  let tw := weftPeriod b (rdB b (Fld.WEAVE_SM_STATUS_EDGE g)) (rd b (Fld.WEAVE_SM_STATUS_STEP g))
  if !q.valid ∨ !q.cross ∨ !isManager b ∨ !streaming b g ∨ !reached b (q.nextL - tw - leadTicks b g - 880000) then b
  else
    let n := grpN q
    let c := (q.members.zipIdx.filter fun (m, i) => roleOf n i q.weftNext < q.k && !memberAbsent b m && !m.out).length
    let len := groupQ q
    let aged := agedDue b g
    if tooSlow b g then
      let b := if b.fab.slow.contains g then b
        else fabricLog (b.updFab fun f => { f with slow := f.slow ++ [g] }) 0 13 0xFF q.number
      planStop b g 1
    else
      let b := b.updFab fun f => { f with slow := f.slow.erase g }
      if launchBarred b g ∨ !takesPart b then planStop b g 1
      else if turnDue b g then planStop b g 3
      else if q.speedChange then planStop b g 2
      else if len = 0 ∨ c = 0 then planStop b g 1
      else
        let forced : Bool := forcedDue b q != [] || q.reports.any (·.forced)
        if q.k ≤ len ∨ aged ∨ forced ∨ q.firstWeft then
          planLaunch b g (len < q.k && !aged && len < c && forced) (aged && len < q.k)
        else planStop b g 1

/-- What a part reports of its member: its index, and a flag for each point of `MemberRep`. -/
def repMsg (b : Block) (x : Nat × Member) : Bytes :=
  let r := memberRep b x.2
  leB 1 x.1 ++ leB 1 (b2n r.cart + 2 * b2n (memberEdge b x.2) + 4 * b2n r.fits + 8 * b2n r.last + 16 * b2n r.free + 32 * b2n (memberAbsent b x.2))

/-- A member's report as the manager keeps it. -/
def memberRepOf (v : Nat) : MemberRep :=
  { cart := bitOf v 0, edge := bitOf v 1, fits := bitOf v 2, last := bitOf v 3, free := bitOf v 4, absent := bitOf v 5 }

/-- A QUEUE report (R382, R451): GROUP, ready queue length, oldest close time, datasets closed so far, forced launches due, and the
part's members (layout DESIGN CHOICE, log entry 54). -/
def queueIn (b : Block) (src : Nat) (m : Bytes) : Block :=
  match groupSlot b (fieldAt m 0 2) with
  | none => b
  | some g =>
    if !isManager b ∨ !(b.grp g).cross then b
    else
      let r : QReport := { dev := src, len := fieldAt m 2 4, oldest := fieldAt m 6 8, closed := fieldAt m 14 4, forced := bitOf (fieldAt m 18 1) 0 }
      let old := ((b.grp g).reports.find? fun r => r.dev = src).map (·.closed)
      let new := match old with | some c => (r.closed + 4294967296 - c) % 4294967296 | none => 0
      let b := b.updGrp g fun q => { q with
        reports := (q.reports.filter fun r => r.dev ≠ src) ++ [r], closes := q.closes ++ List.replicate (min new 65536) b.time.now }
      let b := forEach (List.range (fieldAt m 19 1)) b fun b i =>
        let x := (b.grp g).members.getD (fieldAt m (20 + 2 * i) 1) {}
        if x.dev = src then updMember b g (fieldAt m (20 + 2 * i) 1) fun x => { x with rep := memberRepOf (fieldAt m (21 + 2 * i) 1) } else b
      tryRestart (leaveFull b g) g

/-- The queue report of a group (R382). -/
def queueMsg (b : Block) (q : Grp) : Bytes :=
  leB 2 q.number ++ leB 4 (if takesPart b then q.queue.length else 0) ++ leB 8 ((q.queue.head?.map fun d => (b.dataset d).closedAt).getD 0)
    ++ leB 4 (q.closed % 4294967296) ++ leB 1 (b2n (forcedDue b q != [])) ++ leB 1 (localMembers b q).length
    ++ (localMembers b q).flatMap (repMsg b)

/-- Each part sends its queue reports once per weft period of the group (R382). -/
def queueReport (b : Block) : Block :=
  if isManager b ∨ managerId b = 0 then b
  else forEach (List.range 32) b fun b g =>
    let q := b.grp g
    let tw := weftPeriod b (rdB b (Fld.WEAVE_SM_STATUS_EDGE g)) (rd b (Fld.WEAVE_SM_STATUS_STEP g))
    if q.valid && q.cross && tw ≤ since b (tabGet 0 b.fab.queueAt g) then
      msgTo (b.updFab fun f => { f with queueAt := tabSet 0 f.queueAt g b.time.now }) (managerId b) 6 (queueMsg b q)
    else b

/-! ### What members and owners are told -/

/-- DECLARE (R374, R376, R451): GROUP, MEMBER, 1 failed or 2 rejoined. -/
def declareIn (b : Block) (m : Bytes) : Block :=
  match groupSlot b (fieldAt m 0 2) with
  | none => b
  | some g =>
    let i := fieldAt m 2 1
    if isManager b then b
    else if fieldAt m 3 1 = 1 then
      let was := belowFloor b g
      checkFloor (updMember b g i fun x => { x with failed := true, rejoin := false, held := false }) g was
    else if fieldAt m 3 1 = 2 then updMember b g i fun x => { x with failed := false, rejoin := false, lateRun := 0 }
    else b

/-- OUTCOME (R382, R451): GROUP, WEFT_NO, commit, MISSING. -/
def outcomeIn (b : Block) (m : Bytes) : Block :=
  match groupSlot b (fieldAt m 0 2) with
  | none => b
  | some g => if isManager b then b else outcomeHere b g (fieldAt m 2 8) (fieldAt m 10 1 = 1) (fieldAt m 11 8)

/-- REGEN (R383, R451): GROUP, WEFT_NO, ROLE, SDS, ROW: the owner reads the row again and sends it. -/
def regenIn (b : Block) (src : Nat) (m : Bytes) : Block :=
  match groupSlot b (fieldAt m 0 2) with
  | none => b
  | some g =>
    match weftOf (b.grp g) (fieldAt m 2 8) with
    | some w =>
      if w.owner = ownDev b then
        let e := 16 * (fieldAt m 12 1 % 240) + fieldAt m 11 1 % 16
        pumpBulks (b.updFab fun f => { f with bulk := f.bulk ++
          [{ dest := src, g := g, weft := w.no, role := fieldAt m 10 1, next := e, last := e, regen := true }] })
      else b
    | none => b

/-- The REGEN message of a codeword of a segment. -/
def regenMsg (b : Block) (s : WSeg) (e : Nat) : Bytes :=
  leB 2 (b.grp s.g).number ++ leB 8 s.weft ++ leB 1 s.role ++ leB 1 (e % 16) ++ leB 1 (e / 16)

/-- ROW (R451): a data row joins the content of the segment it belongs to; a regenerated row is kept for its rewrite slot (R383). -/
def rowIn (b : Block) (m : Bytes) : Block :=
  match groupSlot b (fieldAt m 0 2) with
  | none => b
  | some g =>
    let no := fieldAt m 2 8
    let role := fieldAt m 10 1
    let sds := fieldAt m 11 1 % 16
    let row := fieldAt m 12 1
    let at_ := sds * 425984 + row * 2048
    let again := bitOf (fieldAt m 13 1) 0
    forEach (tabKeys b.heads.ports) b fun b p => b.updWport p fun w => { w with segs := w.segs.map fun s =>
      match s.rows with
      | some rs =>
        if !(s.g = g && s.weft = no && s.role = role) then s
        else if again then { s with regen := (16 * row + sds, slice m 20 2048) :: s.regen.filter fun x => x.1 ≠ 16 * row + sds }
        else if row < 208 then
          let c := s.content.getD []
          let new := c.take at_ ++ slice m 20 2048 ++ c.drop (at_ + 2048)
          let e := 16 * row + sds
          { s with content := some new, rows := some (if rs.contains e then rs else rs ++ [e]) }
        else s
      | none => s }

/-- A verdict record of a member on this part of a group that another part schedules goes to the manager, and is kept until
an OUTCOME names its weft (R382, R463). -/
def sendVerdict (b : Block) (r : Bytes) : Block :=
  msgTo (b.updFab fun f => { f with verdicts := f.verdicts ++ [r] }) (managerId b) 9 r

/-- The WEFT_ABORT of a cross-device weft, carried as a verdict record with OUTCOME 4 (DESIGN CHOICE, log entry 54). -/
def abortRecord (b : Block) (g no : Nat) : Bytes := leB 8 no ++ zeros 8 ++ leB 2 (b.grp g).number ++ zeros 1 ++ leB 1 4 ++ zeros 12

/-- A WEFT_ABORT reaches the scheduler of its weft (R536). -/
def abortArrives (b : Block) (g no : Nat) : Block :=
  if !(b.grp g).cross then failWeft b g no 3 0x5001
  else if isManager b then
    match weftOf (b.grp g) no with
    | some w => if w.state = .decided ∨ w.state = .launched then decideOutcome b g no false else b
    | none => b
  else sendVerdict b (abortRecord b g no)

end Sys2Proof.Machine
end

