-- ==== Sys2Proof/Machine/ReadOps.lean ====
section
/-!
DEFINITION. Sys2Proof/Machine/ReadOps.lean: datasets read back from tape (spec/07_dataset_format.md R199, R200), the object
index (spec/15_consistency.md R401, R407, R413), and a dataset obtained from beam store, tape or its weft (spec/14_weave.md
R379).
-/

namespace Sys2Proof.Machine

/-! ### Datasets read from tape -/

/-- The port's last run is written whole. -/
def runOver (b : Block) (p : Nat) : Bool := !writing b p

/-- The read of a dataset of a port. -/
def readOf (b : Block) (p dsNo : Nat) (cat : Bool) (wrap : Nat) : Option TapeRead :=
  b.cons.reads.find? fun r => r.port = p && r.dsNo = dsNo && r.cat = cat && r.wrap = wrap

/-- The port reads a dataset now. -/
def reading (b : Block) (p : Nat) : Bool := b.cons.reads.any fun r => r.port = p && r.result.isNone

/-- Begin to read a dataset, unless the port reads another. -/
def beginRead (b : Block) (p dsNo : Nat) (cat : Bool) (wrap : Nat) (lw : Nat := catWrap wrap) : Block :=
  if reading b p || (readOf b p dsNo cat wrap).isSome then b
  else { b with cons := { b.cons with reads := b.cons.reads ++ [{ port := p, dsNo := dsNo, cat := cat, wrap := wrap, lwrap := lw }] } }

def updRead (b : Block) (r : TapeRead) (f : TapeRead → TapeRead) : Block :=
  { b with cons := { b.cons with reads := b.cons.reads.map fun x =>
      if x.port = r.port ∧ x.dsNo = r.dsNo ∧ x.cat = r.cat ∧ x.wrap = r.wrap then f x else x } }

/-- Drop the reads of a port that satisfy `f`. -/
def dropReads (b : Block) (f : TapeRead → Bool) : Block :=
  { b with cons := { b.cons with reads := b.cons.reads.filter fun r => !f r } }

/-- The 6,815,744 bytes of a dataset from its rows, where every sub-dataset decodes (R184, R200). -/
def decodeDs (rows : Tab Bytes) : Option Bytes :=
  let sds := (List.range 16).map fun s => sdsDecode fun r =>
    let v := tabGet [] rows (240 * s + r)
    if v = [] then none else some v
  if sds.all (·.isSome) then some (sds.flatMap (·.getD [])) else none

/-- Every sub-dataset has at least 208 rows. -/
def enoughRows (rows : Tab Bytes) : Bool :=
  (List.range 16).all fun s => 208 ≤ (rows.filter fun (x : Nat × Bytes) => x.1 / 240 = s).length

/-- A codeword header passes R200 for a dataset: HCHK, KIND not reserved and not a marker or fill, SDS and ROW in range,
DSN_LO. -/
def headerFits (h : Bytes) (dsNo : Nat) (cat : Bool) : Bool :=
  let kind := fieldAt h 4 1 / 16
  fieldAt h 6 2 = hchk (slice h 0 6) && (if cat then kind = 2 else kind ≤ 1) && fieldAt h 5 1 < 240 && fieldAt h 0 3 = dsNo % 2 ^ 24

/-- A placement descriptor from the copies of its bytes, where 3 or more of each agree and DESC_CRC holds (R179, R200). -/
def recoverDesc (descs : Tab Bytes) : Option Bytes :=
  let byte (i : Nat) : Option Byte := let cs := tabGet [] descs i; cs.find? fun x => 3 ≤ cs.count x
  let bs := (List.range 32).map byte
  let d := bs.filterMap id
  if bs.all (·.isSome) ∧ fieldAt d 28 4 = crc32c (slice d 0 28) then some d else none

/-- The marker that a decoded slot carries, where it is valid: KIND, DATASET_NO and COUNT (R198). -/
def readMarker (rep info : Bytes) : Option (Nat × Nat × Nat) :=
  let h := slice rep 8 8
  let st := fieldAt rep 18 1
  let kind := fieldAt h 4 1 / 16
  if st % 4 = 0 ∧ bitOf st 2 ∧ (kind = 3 ∨ kind = 4) ∧ fieldAt h 5 1 < 120 ∧ fieldAt h 6 2 = hchk (slice h 0 6)
      ∧ slice info 0 4 = [0x47, 0x56, 0x58, 0x4D] ∧ fieldAt info 2044 4 = crc32c (slice info 0 2044) ∧ fieldAt info 6 1 = kind then
    some (kind, fieldAt info 8 8, fieldAt info 26 2)
  else none

/-- What a marker says of the dataset being read: a void marker covers what lies before it; behind a skip marker its copy follows
(R198, R199). -/
def noteMarker (r : TapeRead) : Option (Nat × Nat × Nat) → TapeRead
  | some (4, first, n) =>
    if !r.cat ∧ first ≤ r.dsNo ∧ r.dsNo < first + n then { r with own := none, firstSeg := none, rows := [], descs := [], held := none } else r
  | some (_, first, _) => if !r.cat ∧ first = r.dsNo then { r with own := none, firstSeg := none } else r
  | none => r

/-- A header of the dataset in a slot of segment `seg`: outside the rewrite slots it shows where a copy of the dataset lies; a later copy replaces
the one before (R199). -/
def noteCopyAt (r : TapeRead) (seg slot : Nat) : TapeRead :=
  if 120 ≤ slot then r
  else match r.own with
    | none => { r with own := some seg }
    | some s => let d := (seg + 65536 - s) % 65536
      if 0 < d ∧ d < 32768 then { r with own := some seg, rows := [], descs := [] } else r

/-- A read ends: with the latest readable copy, where its descriptor, if it was recovered, names the dataset that was sought (R199, R200); a
descriptor that was not recovered is taken from the catalogue. -/
def endRead (r : TapeRead) : TapeRead :=
  let d := recoverDesc r.descs
  let fits : Bool := match d with | some d => fieldAt d 0 8 = r.dsNo | none => true
  { r with result := some (if fits then r.held else none), rows := [], descs := [], held := none, desc := d }

/-- A decode report of a port with its information bytes (R280) reaches the dataset being read: the row is taken where the
report is of a decoded codeword of the dataset, and the DESC byte of every header of it (R179). The read ends with the last slot of the third
segment after the dataset's own, of a catalogue dataset with the last slot of its own (R287, R295). -/
def onTapeReport (b : Block) (p : Nat) (rep info : Bytes) : Block :=
  match b.cons.reads.find? fun r => r.port = p && r.result.isNone with
  | none => b
  | some r =>
    let h := slice rep 8 8
    let st := fieldAt rep 18 1
    let slot := fieldAt rep 17 1
    let seg := fieldAt rep 28 2
    let fits := bitOf st 2 && headerFits h r.dsNo r.cat
    let r := noteMarker { r with sync := r.sync || st % 4 != 2 } (readMarker rep info)
    let r := if fits then noteCopyAt r seg slot else r
    let r := { r with firstSeg := r.firstSeg.orElse fun _ => some seg }
    let mine := fits && (120 ≤ slot || r.own = some seg)
    let sds := fieldAt h 4 1 % 16
    let row := fieldAt h 5 1
    let r := if mine then { r with descs := tabUpd [] r.descs ((16 * row + sds) % 32) (slice h 3 1 ++ ·) } else r
    let ok := mine && st % 4 = 0
    let r := if ok then { r with rows := tabSet [] r.rows (240 * sds + row) (slice info 0 2048) } else r
    let r := if ok && enoughRows r.rows then { r with held := (decodeDs r.rows).orElse fun _ => r.held } else r
    let first := (r.own.orElse fun _ => r.firstSeg).getD seg
    let final := slot = 123 && fieldAt rep 16 1 = 31 && (if r.cat then 0 else 3) ≤ (seg + 65536 - first) % 65536
    updRead b r fun _ => if final then endRead r else r

/-- No preamble is found where the tape was to go on: the read ends with what it has (R199, R200, R406). -/
def onNoDataset (b : Block) (p : Nat) : Block :=
  match b.cons.reads.find? fun r => r.port = p && r.result.isNone with
  | some r => updRead b r endRead
  | none => b

/-! ### The index (R401, R407) -/

def entKind (e : Bytes) : Nat := fieldAt e 0 1
def entGroup (e : Bytes) : Nat := fieldAt e 2 2
def entSeq (e : Bytes) : Nat := fieldAt e 8 8

/-- What the catalogues say of a weft: STATE, PHANTOM, MISSING, K, M, COMMIT_SEQ. Of several entries the highest STATE
holds, and a role is missing only where every entry says so (R402). -/
structure WeftInfo where
  state : Nat := 1
  phantom : Nat := 0
  missing : Nat := 0
  k : Nat := 0
  m : Nat := 0
  commitSeq : Nat := 0
  deriving DecidableEq, Repr

/-- The missing roles of a committed weft as its scheduler keeps them: a verdict that passes late takes its role off (R369). -/
def listMissing (b : Block) (group weft entry : Nat) : Nat :=
  match (groupSlot b group).bind fun g => weftOf (b.grp g) weft with
  | some w => if w.state = .committed then entry.land w.missing else entry
  | none => entry

/-- The WEFT entries of a group's weft. -/
def weftInfo (b : Block) (group weft : Nat) : Option WeftInfo :=
  let es := ((indexRows b).map (·.entry)).filter fun e => entKind e = 3 && entGroup e = group && fieldAt e 16 8 = weft
  match es.getLast? with
  | none => none
  | some e => some { state := es.foldl (fun a x => max a (fieldAt x 40 1)) 0, phantom := fieldAt e 24 8,
                     missing := listMissing b group weft (es.foldl (fun a x => a.land (fieldAt x 32 8)) (fieldAt e 32 8)), k := fieldAt e 41 1, m := fieldAt e 42 1,
                     commitSeq := fieldAt e 48 8 }

/-- The DATASET entry of a role: a rebuilt copy before a relocated one, the latest of each (R402). -/
def dsRow? (b : Block) (group weft role : Nat) : Option IdxRow :=
  let rs := (indexRows b).filter fun r => entKind r.entry = 2 && entGroup r.entry = group && fieldAt r.entry 24 8 = weft
    && fieldAt r.entry 32 1 = role
  rs.foldl (fun (a : Option IdxRow) r => match a with
    | some x => if fieldAt r.entry 1 1 < fieldAt x.entry 1 1 then some x else some r
    | none => some r) none

/-- Wefts of a group that the index holds, rising. -/
def knownWefts (b : Block) (group : Nat) : List Nat :=
  ((((indexRows b).map (·.entry)).filter fun e => entKind e = 3 && entGroup e = group).map fun e => fieldAt e 16 8).foldr insertNat []

/-- The SWITCH that covers a source weft, by RESHAPE_ID (R413). -/
def switchOf (b : Block) (group weft : Nat) : Option Nat :=
  (((indexRows b).map (·.entry)).find? fun e => entKind e = 6 && fieldAt e 24 2 = group && fieldAt e 32 8 ≤ weft && weft ≤ fieldAt e 40 8).map
    fun e => fieldAt e 16 8

/-- One role mapped through the SWITCHes that cover it, at most `n` one after the other. -/
def mapVia (b : Block) : Nat → Nat → Nat → Nat → Nat × Nat × Nat
  | 0, group, weft, role => (group, weft, role)
  | n + 1, group, weft, role =>
  match switchOf b group weft with
  | none => (group, weft, role)
  | some id =>
    match ((indexRows b).map (·.entry)).find? fun e => entKind e = 5 && fieldAt e 16 8 = id && fieldAt e 32 2 = group
        && fieldAt e 24 8 = weft && fieldAt e 34 1 = role with
    | some e => mapVia b n (entGroup e) (fieldAt e 40 8) (fieldAt e 35 1)
    | none => (group, weft, role)

/-- Where the bytes of (group, weft, role) are read now: mapped through any SWITCH that covers it (R407 step 2). -/
def mapRole (b : Block) (group weft role : Nat) : Nat × Nat × Nat :=
  mapVia b ((indexRows b).filter fun r => entKind r.entry = 6).length group weft role

/-- A weft in service whose COMMIT record is not durable, or that was voided: its entries do not count yet, or no more (R390, R391). -/
def unsettled (b : Block) (group weft : Nat) : Bool :=
  match groupSlot b group with
  | some g => (b.grp g).wefts.any fun w => w.no = weft && w.state != .committed
  | none => false

/-- A weft may be read: committed (R407 step 4). -/
def readable (b : Block) (group weft : Nat) : Bool :=
  !unsettled b group weft && match weftInfo b group weft with | some i => i.state = 1 | none => false

/-! ### Obtaining a dataset (R24, R379) -/

/-- How it stands with a dataset that is wanted. -/
inductive Got where
  | bytes (d : Bytes)
  | waiting
  | notMounted (cart : Nat)
  | safeStop
  | bad
  deriving DecidableEq, Repr

/-- The beam store's bytes of a role of a weft not yet released (R377). -/
def fromBeam (b : Block) (group weft role : Nat) : Option Bytes :=
  match groupSlot b group with
  | none => none
  | some g =>
    match weftOf (b.grp g) weft with
    | none => none
    | some w =>
      let live (r : Nat) : Bool := match (w.places.find? fun p => p.role = r && p.kind = 1).bind (·.dataset) with
        | some d => (b.dataset d).live && (b.dataset d).weft = weft && !(b.dataset d).poisoned
        | none => bitOf w.phantom r || w.places.any fun p => p.role = r && p.kind = 2
      let k := (b.grp g).k
      if w.released || w.state != .committed then none
      else if (if role < k then live role else (List.range k).all live) then some (roleBytes b k w role) else none

/-- A dataset of a data role passes its DIT check (R200). -/
def ditOk (d : Bytes) : Bool :=
  let t := slice d 6799360 16384
  slice t 0 4 = [0x47, 0x56, 0x58, 0x54] && fieldAt t 60 4 = crc32c (slice t 0 60 ++ slice t 64 16320)

/-- A written role of a weft read from tape. -/
def fromTape (b : Block) (group weft role k : Nat) : Got × Block :=
  match dsRow? b group weft role with
  | none => (.bad, b)
  | some r =>
    match portOfCart b r.cart with
    | none => (.notMounted r.cart, b)
    | some p =>
      let no := fieldAt r.entry 16 8
      if safeStopped b p then (.safeStop, b)
      else match (readOf b p no false 0).bind (·.result) with
        | some (some d) => (if role < k && !ditOk d then .bad else .bytes d, b)
        | some none => (.bad, b)
        | none => (.waiting, if runOver b p then beginRead b p no false 0 (fieldAt r.entry 34 2) else b)

/-- A role of a weft read from beam store or tape, without rebuilding it; phantoms are filler (R362). -/
def direct (b : Block) (group weft role : Nat) : Got × Block :=
  match weftInfo b group weft with
  | none => (.bad, b)
  | some i =>
    if bitOf i.phantom role then (.bytes fillerBytes, b)
    else match fromBeam b group weft role with
      | some d => (.bytes d, b)
      | none => if bitOf i.missing role then (.bad, b) else fromTape b group weft role i.k

/-- Why a role cannot be read, of two reasons: a cartridge that is not mounted comes before a port in safe stop, that before nothing. -/
def Got.worse (x y : Got) : Got := match x, y with
  | .notMounted _, _ => x
  | _, .notMounted _ => y
  | .safeStop, _ => x
  | _, _ => y

/-- Read other roles of a weft until K are at hand (R379): the roles read, or why not. Roles that cannot be reached matter only
where the others are fewer than K. -/
def gather (k : Nat) : List Nat → Block → Nat → Nat → List (Nat × Bytes) → Got → (Got ⊕ List (Nat × Bytes)) × Block
  | rs, b, group, weft, acc, no =>
    if acc.length = k then (.inr acc, b)
    else match rs with
      | [] => (.inl no, b)
      | r :: t => match direct b group weft r with
        | (.bytes d, b) => gather k t b group weft (acc ++ [(r, d)]) no
        | (.waiting, b) => (.inl .waiting, b)
        | (x, b) => gather k t b group weft acc (no.worse x)

/-- Obtain a role of a weft: directly, else rebuilt from K others (R379); roles in `bar` are no sources. -/
def obtain (b : Block) (group weft role : Nat) (bar : List Nat := []) : Got × Block :=
  match (if bar.contains role then (.bad, b) else direct b group weft role) with
  | (.bad, b) =>
    match weftInfo b group weft with
    | none => (.bad, b)
    | some i =>
      match gather i.k ((List.range (i.k + i.m)).filter fun r => r ≠ role && !bar.contains r) b group weft [] .bad with
      | (.inr known, b) => (.bytes (weftRebuild i.k role known), b)
      | (.inl x, b) => (x, b)
  | r => r

/-- Forget what has been read of a weft's datasets. -/
def forgetWeft (b : Block) (group weft : Nat) : Block :=
  let nos := ((indexRows b).filter fun r => entKind r.entry = 2 && entGroup r.entry = group && fieldAt r.entry 24 8 = weft).filterMap fun r =>
    (portOfCart b r.cart).map fun p => (p, fieldAt r.entry 16 8)
  dropReads b fun r => !r.cat && r.result.isSome && nos.contains (r.port, r.dsNo)

end Sys2Proof.Machine
end

