-- ==== Sys2Proof/Machine/ConsOps.lean ====
section
/-!
DEFINITION. Sys2Proof/Machine/ConsOps.lean: locations, void markers, catalogue updates, MOUNT and UNMOUNT
(spec/15_consistency.md R388 to R407; spec/07_dataset_format.md R170, R171, R197).
-/

namespace Sys2Proof.Machine

/-! ### Runs of one segment -/

/-- Verdicts of the port's last run are still due. -/
def runJudged (b : Block) (p : Nat) : Bool :=
  let w := b.wport p
  w.sets = [] && !w.segs.any fun s => isMarker s && s.run = w.run && s.reports < 3840

/-- The port can be written on: its link is UP, it is in no safe stop, and no run of it is under way or unjudged. -/
def canWrite (b : Block) (p : Nat) : Bool := linkUp b p && !safeStopped b p && runOver b p && runJudged b p

/-- Speed step of a run that no group launches: that of the port's group, else the lowest available (DESIGN CHOICE, log
entry 40). -/
def soloStep (b : Block) (p : Nat) (edge : Bool) : Nat :=
  match memberOn b p with
  | some (g, _) => rd b (Fld.WEAVE_SM_STATUS_STEP g)
  | none => ((List.range 16).find? (stepAvail b edge false)).getD 0

/-- A run of one segment (R398, R404, R381), of which the caller has seen that it ends inside the data area (R168): it is launched
10 ms and a ramp from now, and its end leaves the append point a splice gap behind it. -/
def soloRun (b : Block) (p step : Nat) (what : RunFor) (s : WSeg) : Block :=
  match cartOn b p with
  | none => b
  | some c =>
    let edge := wrapEdge c s.lwrap
    let tw := weftPeriod b edge step
    let l := b.time.now + 40000000 + rampTicks b ((memberOn b p).map Prod.fst |>.getD 0) step
    let b := startRun b p l tw (wrapForward c s.lwrap) edge what
    stopRun (addSeg b p { s with l := l, tw := tw, edge := edge }) p

/-! ### Locations (R381, R388, R390, R402) -/

/-- Write the WEFT entry of a group's weft on every member cartridge (R402). -/
def weftEntries (b : Block) (g group weft : Nat) (i : WeftInfo) (carts : List Nat) : Block :=
  let f := leB 8 weft ++ leB 8 i.phantom ++ leB 8 i.missing ++ leB 1 i.state ++ leB 1 i.k ++ leB 1 i.m ++ zeros 5 ++ leB 8 i.commitSeq
  let b := forEach carts b fun b c => addEntry b c 3 0 group f .nothing
  updWeft b g weft fun w => { w with missing := i.missing }

/-- A role's dataset has a new location (R388, R402): LOCATION record, and the entries of its event. -/
def recordLocation (b : Block) (cause g weft role cart dsNo lwrap lpos : Nat) : Block :=
  let q := b.grp g
  match weftInfo b q.number weft with
  | none => b
  | some i =>
    let b := ledgerSubmit b regJournal (locationRecord cause q.number role lwrap weft cart dsNo lpos) .location
    let old := dsRow? b q.number weft role
    let dkind := match old with | some r => fieldAt r.entry 33 1 | none => if i.k ≤ role then 3 else 1
    let id := match old with | some r => fieldAt r.entry 40 8 | none => 0
    let segs := (indexRows b).filter fun r => entKind r.entry = 4 && entGroup r.entry = q.number && fieldAt r.entry 32 8 = weft
      && fieldAt r.entry 40 1 = role
    let b := addEntry b cart 2 (if cause = 1 then 1 else 2) q.number (datasetEntry dsNo weft role dkind lwrap lpos id) .nothing
    let b := forEach ((segs.map fun r => (slice r.entry 16 48, r.len)).eraseDups) b fun b x =>
      addEntry b cart 4 0 q.number x.1 .nothing x.2
    weftEntries b g q.number weft { i with missing := if bitOf i.missing role then i.missing - 2 ^ role else i.missing } (memberCarts b q)

/-- The placement of the latest relocated copy of a member's dataset (R389); on another cartridge where the member has been given a new
one meanwhile (R376). -/
def copyPlace (q : Grp) (i dsNo : Nat) : Option Place :=
  (q.wefts.filterMap fun w => w.places[i]?.filter fun p => p.kind = 5 && p.dsNo = dsNo).getLast?

/-! ### Verdicts at the scheduler (R368 to R373) -/

/-- A verdict record reaches the group's scheduler (R299, R368). -/
def verdictIn (b : Block) (rec_ : Bytes) : Block :=
  match groupSlot b (fieldAt rec_ 16 2) with
  | none => b
  | some g =>
    let no := fieldAt rec_ 0 8
    let role := fieldAt rec_ 18 1
    match weftOf (b.grp g) no with
    | none => b
    | some w =>
      let out := fieldAt rec_ 19 1
      let v := if out = 0 then 1 else if out = 2 then 2 else if out = 1 then 3 else 4
      let pass := v = 1 || v = 2
      let inTime := if (b.grp g).cross && !reached b (w.l + (3 + w.grace) * w.tw) then true
        else if (b.grp g).cross && w.l < b.fab.mgrAt then fieldAt rec_ 28 4 * tUs ≤ (3 + w.grace) * w.tw
        else !(w.l + (3 + w.grace) * w.tw < b.time.now)
      match w.places.zipIdx.find? fun x => x.1.role = role with
      | none => b
      | some (pl, i) =>
        let (cart, lwrap, pos) := match (if v = 2 then copyPlace (b.grp g) i pl.dsNo else none) with
          | some c => (c.cart, c.lwrap, c.pos)
          | none => (pl.cart, pl.lwrap, pl.pos)
        let b := updWeft b g no fun w => { w with places := w.places.map fun p =>
          if p.role = role then { p with verdict := v, onTime := p.onTime || inTime, cart := cart, lwrap := lwrap, pos := pos } else p }
        let done := w.state = .entries || w.state = .committing || w.state = .committed
        if done && pass && bitOf w.missing role then
          if v = 2 then recordLocation b 1 g no role cart pl.dsNo lwrap (pos / uLpos)
          else updWeft b g no fun w => { w with missing := w.missing - 2 ^ role }
        else assess b g no

/-! ### Void markers (R392, R393, R398, R608) -/

/-- A void marker has its verdict: where it passes, the VOIDED record and the VOID and WEFT entries are made; where it
fails, it is written again (R392). -/
def voidDone (b : Block) (p : Nat) (s : WSeg) (pass : Bool) : Block :=
  match cartOn b p, s.void with
  | some c, some v =>
    if pass then
      let lo := fieldAt s.marker 8 8
      let n := fieldAt s.marker 26 2
      let reason := fieldAt s.marker 7 1
      let group := fieldAt s.marker 24 2
      let lpos := s.pos / uLpos
      let cleared := c.voids.filter fun x => lo ≤ x.first && x.last < lo + n
      let b := updCart b c.id fun c => { c with voids := c.voids.filter fun x => !(lo ≤ x.first && x.last < lo + n), rollback := none }
      let b := ledgerSubmit b regJournal (voidedRecord reason group n s.lwrap c.id lo lpos)
      let b := addEntry b c.id 7 0 group (voidEntry lo n reason s.lwrap lpos) .nothing
      let b := forEach ((cleared.map fun x => (x.group, x.weft)).eraseDups) b fun b x =>
        let (k, m, ph) := match (groupSlot b x.1).bind fun g => (weftOf (b.grp g) x.2).map fun w => ((b.grp g).k, (b.grp g).m, w.phantom) with
          | some t => t
          | none => (0, 0, 0)
        addEntry b c.id 3 0 x.1 (leB 8 x.2 ++ leB 8 ph ++ leB 8 0 ++ leB 1 2 ++ leB 1 k ++ leB 1 m ++ zeros 5 ++ leB 8 0) .nothing
      consLog b 0 2 0xFF group (fieldAt s.marker 16 8) c.id
    else match (b.wport p).what with
      | .group _ => b.updWport p fun w => { w with dues := .void v :: w.dues }
      | _ => b
  | _, _ => b

/-- Where a cartridge takes a segment that no group launches (R174, R199): at its append point, and on its next logical wrap where
the segment would not end inside the data area (R168). -/
def targetPlace (c : CartK) : Option CartK :=
  if segFits c then some c else if c.lwrap + 1 < wrapCount c then some (onNextWrap c) else none

/-- Where the marker that clears a cartridge's pending voids goes: a splice gap past the rollback point, or at the append point
(R392, R398). -/
def markerPlace (c : CartK) : Option CartK :=
  targetPlace (match c.rollback with
    | some (lw, pos, next) =>
      let c1 : CartK := { c with lwrap := lw, pos := pos, dsNext := next, rollback := none }
      { c1 with pos := advance c1 spliceGap }
    | none => c)

/-- Write the marker that clears a cartridge's pending voids as a run of one segment, at its place `c` (R392, R398, R406 step 4). -/
def markerRun (b : Block) (p n : Nat) (c : CartK) (v : VoidP) : Block :=
  let (m, lo, _) := voidMarker c v c.dsNext
  let edge := wrapEdge c c.lwrap
  let b := b.updWport p fun w => { w with dues := w.dues.filter fun d => match d with | .void _ => false | _ => true }
  soloRun (updCart b c.id fun _ => c) p (soloStep b p edge) (.mount n)
    { kind := 6, weft := (lowestVoid c v).weft, dsNo := lo, lwrap := c.lwrap, pos := c.pos, marker := m, void := some v,
      desc := voidDesc (lowestVoid c v) lo edge }

/-! ### Catalogue contents (R399, R400) -/

/-- Entries in a data position. -/
def catPer : Nat := 106495

/-- Catalogue entries of a cartridge, in SEQ order. -/
def cartEntries (b : Block) (id : Nat) : List Bytes := (b.cons.index.filter fun r => r.cart = id).map (·.entry)

/-- Entries written on tape so far: those made and not unwritten. -/
def catWritten (c : CartK) : Nat := c.catSeq - c.unwritten.length

/-- Content of data position d with the entries below SEQ `upto` (R197, R400). -/
def catContent (b : Block) (c : CartK) (d upto : Nat) : Bytes :=
  if d = 0 then slice (labelBytes c b.fuse.serial) 0 6815744
  else
    let first := (d - 1) * catPer
    let es := (cartEntries b c.id).filter fun e => first ≤ entSeq e && entSeq e < min (d * catPer) upto
    let h := [0x47, 0x56, 0x58, 0x43] ++ leB 2 1 ++ zeros 2 ++ leB 4 d ++ leB 4 es.length ++ leB 8 first ++ zeros 36
    slice (h ++ leB 4 (crc32c h) ++ es.flatten) 0 6815744

/-- A data position holds something on tape. -/
def catUsed (c : CartK) (d : Nat) : Bool := d = 0 || (d - 1) * catPer < catWritten c

/-- Data positions of d's stripe; the stripe's parity position (R399). -/
def stripeOf (d : Nat) : List Nat := (List.range 7).map fun i => 7 * (d / 7) + i
def parityPos (d : Nat) : Nat := 8 * (d / 7) + 7

/-- XOR of two datasets. -/
def xorDatasets (x y : Bytes) : Bytes := List.zipWith BitVec.xor (slice x 0 6815744) (slice y 0 6815744)

/-- Where a physical position begins on a catalogue wrap (R170). -/
def catPos (wrap phys : Nat) : Nat := if wrap = 0 then (12002 + 14 * phys) * uMm else (12012 + 14 * phys) * uMm

/-- Write a catalogue position (R170, R404). -/
def catRun (b : Block) (p : Nat) (c : CartK) (wrap phys : Nat) (content : Bytes) : Block :=
  let edge := wrapEdge c (catWrap wrap)
  soloRun b p (soloStep b p edge) .catalogue
    { kind := 7, dsNo := phys, lwrap := catWrap wrap, pos := catPos wrap phys, content := some content,
      desc := descriptor phys 0 0 0 0 0 (b2n edge) }

/-! ### Catalogue updates (R403 to R405) -/

def updUpd (b : Block) (p : Nat) (f : CatUpd → CatUpd) : Block := b.updTape p fun t => { t with upd := t.upd.map f }

/-- The CAT_UPDATE record (R388). -/
def catUpdRecord (u : CatUpd) (phase : Nat) : Bytes :=
  leB 1 7 ++ leB 1 phase ++ leB 1 u.wrap ++ zeros 1 ++ leB 4 u.d ++ leB 8 u.cart ++ leB 8 u.firstSeq ++ leB 8 u.lastSeq

/-- Begin the update of one position on one wrap (R404): BEGIN goes to the ledger. The label has none (R171). -/
def updStart (b : Block) (p : Nat) (u : CatUpd) : Block :=
  let b := b.updTape p fun t => { t with upd := some { u with stage := if u.d = 0 then 2 else 0, again := false, reads := [], par := [] } }
  if u.d = 0 then b else ledgerSubmit b regJournal (catUpdRecord u 1) (.catUpdate p false)

/-- The physical positions that the parity is computed from: the parity position, or the six others (R404). A position
that holds nothing yet counts as zeros (DEDUCED, log entry 41). -/
def parSources (c : CartK) (d : Nat) (six : Bool) : List Nat :=
  if six then ((stripeOf d).filter fun x => x ≠ d && catUsed c x).map catPhys
  else [parityPos d]

/-- BEGIN is durable: the parity is to be read, or recomputed where it has none or is in doubt (R404, R405). -/
def updBegun (b : Block) (p : Nat) : Block :=
  match (b.tape p).upd with
  | none => b
  | some u =>
    match cartKnown b u.cart with
    | none => b
    | some c =>
      let doubtful := match c.doubt with | some (w, d, _) => w = u.wrap && d / 7 = u.d / 7 | none => false
      let six := u.redo || doubtful || !(stripeOf u.d).any (catUsed c)
      let b := updCart b u.cart fun c => { c with doubt := some (u.wrap, u.d, u.firstSeq, u.lastSeq) }
      updUpd b p fun u => { u with stage := 1, six := six, reads := parSources c u.d six,
                                   par := if six then catContent b c u.d (u.lastSeq + 1) else [] }

/-- An update ends without DONE (R404, R607); a redo at MOUNT is not tried again there (R405). -/
def updFailed (b : Block) (p : Nat) : Block :=
  match (b.tape p).upd with
  | none => b
  | some u =>
    let b := b.updTape p fun t => { t with
      upd := none, wantUpd := false, aged := false, mount := if u.redo then t.mount.map fun x => (x.1, .marker) else t.mount }
    consLog (updCart b u.cart fun c => { c with catDegraded := true }) 0 3 0xFF 0 0 u.cart

/-- The update of a position on a wrap is DONE (R404): the other wrap follows, then the next position; at the end the
entries are on tape. -/
def updDone (b : Block) (p : Nat) : Block :=
  match (b.tape p).upd with
  | none => b
  | some u =>
    let b := updCart b u.cart fun c => { c with doubt := none }
    if u.redo then consLog (b.updTape p fun t => { t with upd := none }) 0 3 0xFF 0 0 u.cart
    else if u.wrap = 0 then updStart b p { u with wrap := 1 }
    else if u.d ≠ 0 ∧ u.d * catPer ≤ u.lastSeq then updStart b p { u with wrap := 0, d := u.d + 1, firstSeq := u.d * catPer }
    else
      let b := updCart b u.cart fun c => { c with unwritten := if u.d = 0 then c.unwritten else c.unwritten.filter fun x => u.lastSeq < x.1 }
      b.updTape p fun t => { t with upd := none, wantUpd := u.d = 0 && t.wantUpd, aged := false, labels := if u.d = 0 then 2 else t.labels }

/-- A catalogue write has its verdict (R295, R404): a failed one is made once more. -/
def updWritten (b : Block) (p : Nat) (pass : Bool) : Block :=
  match (b.tape p).upd with
  | none => b
  | some u =>
    if !pass then
      if u.again then updFailed b p else updUpd b p fun u => { u with again := true, stage := if u.stage = 12 then 2 else 3 }
    else if u.stage = 12 then updUpd b p fun u => { u with stage := 3, again := false }
    else if u.d = 0 then updDone b p
    else ledgerSubmit (updUpd b p fun u => { u with stage := 4 }) regJournal (catUpdRecord u 2) (.catUpdate p true)

/-- Do what an update can do now (R404): stages 2 and 3 are writes that wait for the port, 12 and 13 writes under way. -/
def pumpUpd (b : Block) (p : Nat) : Block :=
  match (b.tape p).upd with
  | none => b
  | some u =>
    match cartKnown b u.cart with
    | none => b
    | some c =>
      let new := catContent b c u.d (u.lastSeq + 1)
      let old := catContent b c u.d u.firstSeq
      if u.stage = 1 then
        match u.reads with
        | [] => updUpd b p fun u => { u with stage := 2 }
        | x :: t =>
          match (readOf b p x true u.wrap).bind (·.result) with
          | none => if runOver b p ∧ linkUp b p then beginRead b p x true u.wrap else b
          | some r =>
            let b := dropReads b fun y => y.port = p && y.cat && y.wrap = u.wrap && y.dsNo = x
            match r with
            | some bs =>
              let add := if u.six then xorDatasets u.par bs else xorDatasets (xorDatasets bs old) new
              updUpd b p fun u => { u with reads := t, par := add }
            | none =>
              if u.six then updUpd b p fun u => { u with reads := t, par := xorDatasets u.par (catContent b c (7 * (x / 8) + x % 8) (catWritten c)) }
              else updUpd b p fun u => { u with six := true, reads := parSources c u.d true, par := new }
      else if u.stage = 2 then
        if canWrite b p then catRun (updUpd b p fun u => { u with stage := 12 }) p c u.wrap (catPhys u.d) new else b
      else if u.stage = 3 then
        if canWrite b p then
          catRun (updUpd b p fun u => { u with stage := 13 }) p c u.wrap (parityPos u.d) (if u.d = 0 then new else u.par)
        else b
      else b

/-- Begin a catalogue update that is due, once no run is in progress (R403). -/
def beginUpd (b : Block) (p : Nat) : Block :=
  let t := b.tape p
  if b.ledg.state = .failed then b.updTape p fun t => { t with wantUpd := false }
  else if t.wantUpd ∧ t.upd.isNone ∧ runOver b p then
    match t.cart.bind (cartKnown b) with
    | none => b.updTape p fun t => { t with wantUpd := false }
    | some c =>
      match c.unwritten with
      | [] => b.updTape p fun t => { t with wantUpd := false, aged := false }
      | x :: _ =>
        let d := x.1 / catPer + 1
        if catData c ≤ d then b.updTape p fun t => { t with wantUpd := false }
        else updStart b p { cart := c.id, wrap := 0, d := d, firstSeq := x.1, lastSeq := c.catSeq - 1 }
  else b

/-! ### MOUNT and UNMOUNT (R402, R403, R406, R537) -/

/-- The MOUNT record (R388). -/
def mountRecord (b : Block) (p cart : Nat) (un : Bool) : Bytes :=
  leB 1 6 ++ leB 1 p ++ leB 1 (b2n un) ++ zeros 5 ++ leB 8 cart ++ leB 8 b.time.now ++ zeros 8

/-- A MOUNT ends with a failure: the cartridge is left unmounted and KIND 7 is logged (R406, Log and registers). -/
def mountFail (b : Block) (p status detail : Nat) : Block :=
  match (b.tape p).mount with
  | none => b
  | some (n, _) =>
    let b := consLog b status 7 0xFF 0 0 (b.tape p).ident
    let b := dropReads b fun r => r.port = p
    finishCmd (b.updTape p fun _ => {}) n status 0 [] detail

/-- A label read from tape, where it is valid (R197, R200). -/
def labelOf (bs : Bytes) : Option CartK :=
  if slice bs 0 8 = [0x47, 0x56, 0x58, 0x4C, 0x41, 0x42, 0x45, 0x4C] ∧ fieldAt bs 252 4 = crc32c (slice bs 0 252) then
    let w := fieldAt bs 29 1
    some { id := fieldAt bs 16 8, length := fieldAt bs 24 4, bands := fieldAt bs 28 1, wraps := if w = 0 then 256 else w,
           catBand := fieldAt bs 30 1, edgeMask := fieldAt bs 31 1 }
  else none

/-- Once the label is known, the length of the last kept segment is added to the append and rollback points (R398). -/
def endTail (k : CartK) : CartK :=
  let past (w x gap : Nat) : Nat := advance { k with lwrap := w, pos := x } (segLen k w + gap)
  { k with tail := false, pos := past k.lwrap k.pos spliceGap, rollback := k.rollback.map fun r => (r.1, past r.1 r.2.1 0, r.2.2) }

/-- The cartridge has been identified: a known one keeps what the ledger says of it. -/
def identify (b : Block) (p : Nat) (c : CartK) (step : MountStep) : Block :=
  let b := match cartKnown b c.id with
    | some k =>
      let k : CartK := { k with length := c.length, bands := c.bands, wraps := c.wraps, catBand := c.catBand, edgeMask := c.edgeMask }
      let k := { (if k.tail then endTail k else k) with catDegraded := false }
      updCart b c.id fun _ => k
    | none => { b with cons := { b.cons with carts := b.cons.carts ++ [{ c with pos := wrapStart c 0 }] } }
  let b := dropReads b fun r => r.port = p
  b.updTape p fun t => { t with cart := some c.id, ident := c.id, mount := t.mount.map fun x => (x.1, step) }

/-- A blank cartridge is initialized (R171, R406): its identity is a free value (log entry 42), its geometry that of the
media profile; its label is written first. -/
def initBlank (b : Block) (p : Nat) : Block :=
  let (v, b) := freshNat b
  let (len, bands, wraps) := b.cons.profile
  let c : CartK := { id := v % 2 ^ 64, length := len, bands := bands, wraps := if wraps = 0 then 256 else wraps,
                     catBand := catBandOf bands, edgeMask := edgeMaskOf bands }
  let b := identify b p c .entries
  updStart (b.updTape p fun t => { t with labels := 1 }) p { cart := c.id, d := 0 }

/-- The label step (R406 step 1 and 2): catalogue wraps 0 and 1 of band 1, then of band 0. -/
def labelStep (b : Block) (p : Nat) : Block :=
  let t := b.tape p
  if t.tries = 4 then
    if t.found then mountFail b p 0x3001 0 else initBlank b p
  else match readOf b p 0 true t.tries with
    | none => beginRead b p 0 true t.tries
    | some r =>
      match r.result with
      | none => b
      | some bs =>
        let b := dropReads b fun x => x.port = p
        match bs.bind labelOf with
        | some c => if fieldAt (bs.getD []) 8 2 = 1 then identify b p c .redo else mountFail b p 0x1002 40
        | none => b.updTape p fun t => { t with tries := t.tries + 1, found := t.found || r.sync }

/-- The append point of a cartridge that this part's ledger does not know, from its catalogue (R199; DEDUCED, log entry
43): 6 mm behind its last dataset or void marker. -/
def appendPoint (b : Block) (id : Nat) : Block :=
  let es := cartEntries b id
  let last := es.foldl (fun (a : Nat × Nat × Nat) e =>
    let x := if entKind e = 2 then (fieldAt e 34 2, fieldAt e 36 4, fieldAt e 16 8 + 1)
             else if entKind e = 7 then (fieldAt e 28 2, fieldAt e 32 4, fieldAt e 16 8) else (0, 0, 0)
    (max a.1 x.1, if a.1 < x.1 then x.2.1 else a.2.1, max a.2.2 x.2.2)) (0, 0, 0)
  updCart b id fun c =>
    let on := es.filterMap fun e =>
      if entKind e = 2 && fieldAt e 34 2 = last.1 then some (fieldAt e 36 4)
      else if entKind e = 7 && fieldAt e 28 2 = last.1 then some (fieldAt e 32 4) else none
    match on with
    | [] => { c with catSeq := es.length }
    | x :: t =>
      let far := if wrapForward c last.1 then t.foldl max x else t.foldl min x
      let c := { c with lwrap := last.1, pos := far * uLpos, dsNext := last.2.2, catSeq := es.length }
      { c with pos := advance c (segLen c c.lwrap + spliceGap) }

/-- Take the entries of a catalogue position into the index (R406 step 6); those known already stay. -/
def importPos (b : Block) (id : Nat) (bs : Bytes) : Block :=
  let n := min catPer (fieldAt bs 12 4)
  forEach (List.range n) b fun b i =>
    let e := slice bs (64 + 64 * i) 64
    if b.cons.index.any fun r => r.cart = id && entSeq r.entry = entSeq e then b
    else addRows b [{ cart := id, entry := e }]

/-- The cartridge's membership is journalled where it is new (R402): MEMBERSHIP for every member on every member cartridge;
a failed member with a new cartridge rejoins (R376). -/
def membership (b : Block) (p : Nat) : Block :=
  match memberOn b p, (b.tape p).cart with
  | some (g, i), some id =>
    let q := b.grp g
    let last (i : Nat) : Option Bytes :=
      ((b.cons.index.map (·.entry)).filter fun e => entKind e = 1 && entGroup e = q.number && fieldAt e 24 1 = i).getLast?
    if (last i).map (fun e => fieldAt e 16 8) = some id then b
    else
      let ms := (localMembers b q).filterMap fun x => (b.tape x.2.port).cart.map fun c => (x.1, c)
      let from_ (y : Nat × Nat) : Nat := match (last y.1).filter fun e => fieldAt e 16 8 = y.2 with | some e => fieldAt e 32 8 | none => q.weftNext
      let b := forEach ms b fun b x => forEach ms b fun b y =>
        addEntry b x.2 1 0 q.number (leB 8 y.2 ++ leB 1 y.1 ++ leB 1 q.k ++ leB 1 q.m ++ zeros 5 ++ leB 8 (from_ y)) .nothing
      let m := q.members.getD i {}
      if m.failed ∧ health b p ≠ 2 then updMember b g i fun m => { m with rejoin := true } else b
  | _, _ => b

/-- MOUNT completes (R406). -/
def mountEnd (b : Block) (p n : Nat) : Block :=
  let id := (b.tape p).ident
  let b := if (b.cons.carts.any fun c => c.id = id && c.catSeq = 0) then appendPoint b id else b
  let b := indexTrim { b with cons := { b.cons with mounts := b.cons.mounts.filter (· ≠ id) ++ [id], dropped := b.cons.dropped.filter (· ≠ id) } }
  let b := b.updTape p fun t => { t with mount := none }
  let b := membership b p
  let b := match memberOn b p with
    | some (g, i) =>
      let b := leaveFull b g
      -- the cartridge of a running group's member is used, and counts for the class, from the next turn (R212, R222)
      let b := if streaming b g then updMember b g i fun m => { m with await := true }
        else if schedules b g then decideClass b g else b
      tryRestart b g
    | none => b
  finishCmd b n 0 0 (leB 8 id)

/-- The import step (R406 step 6): positions d = 1, 2, … up to the open one, from wrap 0, else wrap 1, else rebuilt from the
stripe of wrap 0 (R404). -/
def importStep (b : Block) (p n : Nat) : Block :=
  let t := b.tape p
  match cartKnown b t.ident with
  | none => mountEnd b p n
  | some c =>
    let known := c.catSeq
    let d := t.importAt
    let past := if known = 0 then catData c ≤ d else catWritten c ≤ (d - 1) * catPer
    if past ∨ t.labels = 2 then mountEnd b p n
    else
      let next (b : Block) (bs : Bytes) : Block :=
        let b := importPos b t.ident bs
        let b := b.updTape p fun t => { t with importAt := d + 1, importWrap := 0, importTodo := [], importAcc := [] }
        if fieldAt bs 12 4 < catPer then mountEnd b p n else b
      let w := if t.importWrap = 1 then 1 else 0
      match t.importTodo with
      | x :: rest =>
        match (readOf b p x true 0).bind (·.result) with
        | none => beginRead b p x true 0
        | some r =>
          let b := dropReads b fun y => y.port = p
          match r with
          | some bs =>
            let acc := xorDatasets t.importAcc bs
            if rest = [] then
              if slice acc 0 4 = [0x47, 0x56, 0x58, 0x43] ∧ fieldAt acc 60 4 = crc32c (slice acc 0 60) then next b acc else mountEnd b p n
            else b.updTape p fun t => { t with importTodo := rest, importAcc := acc }
          | none => mountEnd b p n
      | [] =>
        match (readOf b p (catPhys d) true w).bind (·.result) with
        | none => beginRead b p (catPhys d) true w
        | some r =>
          let b := dropReads b fun y => y.port = p
          match r with
          | some bs =>
            if slice bs 0 4 = [0x47, 0x56, 0x58, 0x43] ∧ fieldAt bs 60 4 = crc32c (slice bs 0 60) then next b bs
            else b.updTape p fun t => { t with importWrap := t.importWrap + 1 }
          | none =>
            if t.importWrap = 0 then b.updTape p fun t => { t with importWrap := 1 }
            else if t.importWrap = 1 then b.updTape p fun t => { t with
              importWrap := 2, importAcc := zeros 6815744,
              importTodo := ((stripeOf d).filter (· ≠ d)).map catPhys ++ [parityPos d] }
            else mountEnd b p n

/-- The cartridge leaves the port: the markers of its pending voids wait for its next MOUNT (R392). -/
def takeOff (b : Block) (p : Nat) : Block :=
  (b.updTape p fun _ => {}).updWport p fun w => { w with dues := w.dues.filter fun d => match d with | .void _ => false | _ => true }

/-- The MOUNT record is durable. -/
def mountDurable (b : Block) (p : Nat) : Block :=
  match (b.tape p).mount with
  | some (_, .record) => b.updTape p fun t => { t with mount := t.mount.map fun x => (x.1, .importing) }
  | some (n, .unmountRecord) => finishCmd (takeOff b p) n 0 0
  | _ => b

/-- Do what a MOUNT or UNMOUNT can do now (R406). In ledger FAILED nothing becomes durable: UNMOUNT ends at once. -/
def pumpMount (b : Block) (p : Nat) : Block :=
  let t := b.tape p
  match t.mount with
  | none => b
  | some (n, step) =>
    if safeStopped b p then
      match step with
      | .unmountEntries => finishCmd (b.updTape p fun t => { t with mount := none }) n 0x8001 0
      | .unmountRecord => b
      | _ => mountFail b p 0x8001 0
    else
    let go (b : Block) (s : MountStep) : Block := b.updTape p fun t => { t with mount := t.mount.map fun x => (x.1, s) }
    match step with
    | .label => labelStep b p
    | .redo =>
      match t.upd, (t.cart.bind (cartKnown b)).bind (·.doubt) with
      | some _, _ => b
      | none, none => go b .marker
      | none, some (w, d, f, l) =>
        updStart b p { cart := t.ident, wrap := w, d := d, firstSeq := f, lastSeq := l, redo := true }
    | .marker =>
      if health b p = 2 then mountFail b p 0x4002 0
      else match cartOn b p with
        | none => b
        | some c => match c.voids with
          | [] => go (b.updTape p fun t => { t with wantUpd := true }) .entries
          | v :: _ =>
            -- without tape left for it the void stays pending (DESIGN CHOICE, log entry 148)
            match markerPlace c with
            | none => go (b.updTape p fun t => { t with wantUpd := true }) .entries
            | some c => if canWrite b p then markerRun b p n c v else b
    | .entries =>
      if t.upd.isNone ∧ t.labels = 1 then mountFail b p 0x4002 0
      else if t.upd.isNone ∧ !t.wantUpd then
        go (ledgerSubmit b regJournal (mountRecord b p t.ident false) (.mount p)) (if b.ledg.state = .failed then .importing else .record)
      else b
    | .record => b
    | .importing => importStep b p n
    | .unmountEntries =>
      if t.upd.isNone ∧ !t.wantUpd ∧ runOver b p then
        if b.ledg.state = .failed then finishCmd (takeOff b p) n 0 0
        else go (ledgerSubmit b regJournal (mountRecord b p (t.cart.getD 0) true) (.mount p)) .unmountRecord
      else b
    | .unmountRecord => b

/-- MOUNT accepted (R298, R406, R537). A port that holds a cartridge, or on which a MOUNT or UNMOUNT runs, refuses another
with SEQUENCE_ERROR (DESIGN CHOICE, log entry 44). -/
def acceptMount (b : Block) (n : Nat) : Block :=
  let p := bitsOf (b.cmd n).e.param0 0 5
  if safeStopped b p then finishCmd b n 0x8001 0
  else if health b p = 2 then finishCmd (consLog b 0x4002 7 0xFF 0 0 0) n 0x4002 0
  else if (b.tape p).mount.isSome ∨ (b.tape p).cart.isSome then finishCmd b n 0x1005 0
  else pumpMount (b.updTape p fun _ => { mount := some (n, .label) }) p

/-- UNMOUNT accepted (R403). -/
def acceptUnmount (b : Block) (n : Nat) : Block :=
  let p := bitsOf (b.cmd n).e.param0 0 5
  if safeStopped b p then finishCmd b n 0x8001 0
  else if (b.tape p).mount.isSome then finishCmd b n 0x1005 0
  else if (b.tape p).cart.isNone then finishCmd b n 0 0
  else pumpMount (b.updTape p fun t => { t with mount := some (n, .unmountEntries), wantUpd := true }) p

end Sys2Proof.Machine
end

