-- ==== Sys2Proof/Machine/RebuildOps.lean ====
section
/-!
DEFINITION. Sys2Proof/Machine/RebuildOps.lean: REBUILD, PATROL and RESHAPE (spec/14_weave.md R380, R381;
spec/15_consistency.md R408 to R414).
-/

namespace Sys2Proof.Machine

/-! ### Shared checks -/

/-- The target port may be written by REBUILD or PATROL (R380 check 2). -/
def targetOk (b : Block) (p : Nat) : Bool :=
  linkUp b p && (b.tape p).cart.isSome && (b.tape p).mount.isNone && runOver b p && health b p != 2
    && (match memberOn b p with | some (g, _) => belowFloor b g | none => true)
    && !b.cons.rebuilds.any fun (x : Nat × RebuildSt) => x.1 = p

/-- The step is available for the target's band (R380 check 3). -/
def targetStep (b : Block) (p step : Nat) : Bool :=
  match cartOn b p with | some c => stepAvail b (wrapEdge c c.lwrap) false step | none => false

/-- Roles of a committed weft that have no readable copy: written and not passed, or never written (R380; DEDUCED, log
entry 45). -/
def missingRoles (b : Block) (group weft : Nat) (i : WeftInfo) : List Nat :=
  (List.range (i.k + i.m)).filter fun r => !bitOf i.phantom r && (bitOf i.missing r || (dsRow? b group weft r).isNone)

/-- Roles of a weft whose dataset lies on a cartridge. -/
def rolesOn (b : Block) (group weft cart : Nat) (i : WeftInfo) : List Nat :=
  (List.range (i.k + i.m)).filter fun r => match dsRow? b group weft r with | some x => x.cart = cart | none => false

/-- Committed wefts of a group that a rule still concerns (R413). -/
def liveWefts (b : Block) (group : Nat) : List (Nat × WeftInfo) :=
  (knownWefts b group).filterMap fun w => (weftInfo b group w).bind fun i => if i.state = 1 && !unsettled b group w then some (w, i) else none

/-! ### REBUILD (R380, R381) -/

def Block.rebuild (b : Block) (p : Nat) : RebuildSt := tabGet {} b.cons.rebuilds p
def Block.setRebuild (b : Block) (p : Nat) (r : RebuildSt) : Block :=
  { b with cons := { b.cons with rebuilds := tabSet {} b.cons.rebuilds p r } }

/-- RESULT of REBUILD. -/
def rebuildResult (r : RebuildSt) : Bytes := leB 4 r.done ++ leB 4 r.lost ++ leB 4 r.failed

/-- The work on a target ends: REBUILD completes, or its PATROL goes on or ends with the status. -/
def rebuildEnd (b : Block) (p : Nat) (status : Nat) (result : Option Bytes := none) : Block :=
  let r := b.rebuild p
  let b := b.setRebuild p {}
  let b := b.updWport p fun w => { w with dues := w.dues.filter fun d => match d with | .void _ => true | _ => false }
  if r.repair then
    let b := { b with cons := { b.cons with patrols := b.cons.patrols.map fun x =>
      if x.cmd = r.cmd then { x with repaired := x.repaired + r.done, repairing := false } else x } }
    if status = 0 then b
    else finishCmd { b with cons := { b.cons with patrols := b.cons.patrols.filter fun x => x.cmd ≠ r.cmd } } r.cmd status 0 (result.getD [])
  else finishCmd b r.cmd status 0 (result.getD (rebuildResult r))

/-- Write the dataset of the first item on the target (R381 step 2); a full target ends the command with MEDIUM_FULL
(DESIGN CHOICE, log entry 46). -/
def rebuildWrite (b : Block) (p weft role : Nat) (d : Bytes) : Block :=
  let r := b.rebuild p
  let q := b.grp r.group
  match (cartOn b p).bind targetPlace with
  | none => rebuildEnd b p 0x3005
  | some c =>
    let b := soloRun (updCart b c.id fun _ => { c with dsNext := c.dsNext + 1 }) p r.step (.target r.cmd)
      { kind := if q.k ≤ role then 3 else 1, g := r.group, weft := weft, role := role, dsNo := c.dsNext, lwrap := c.lwrap, pos := c.pos,
        content := some d, cmd := some r.cmd, desc := descOf q c.dsNext weft role (wrapEdge c c.lwrap) false }
    b.setRebuild p { r with writing := true }

/-- Write the next skip marker or copy that waits on a target (R292). -/
def targetDue (b : Block) (p : Nat) : Block :=
  let r := b.rebuild p
  match (b.wport p).dues, (cartOn b p).bind targetPlace with
  | d :: t, some c =>
    let b := b.updWport p fun w => { w with dues := t }
    let q := b.grp r.group
    let (_, s, c') := placeMember q c 0 0 0 0 0 none (some d) r.group
    soloRun (updCart b c.id fun _ => c') p r.step (.target r.cmd) s
  | _ :: _, none => rebuildEnd b p 0x3005
  | _, _ => b

/-- A dataset written on a target has its final verdict (R381 step 3). -/
def rebuildVerdict (b : Block) (p : Nat) (s : WSeg) (pass : Bool) : Block :=
  let r := b.rebuild p
  if some r.cmd ≠ s.cmd ∨ !r.writing then b
  else
    let b := forgetWeft b (b.grp r.group).number s.weft
    let r' := { r with todo := r.todo.drop 1, data := none, writing := false }
    if pass then
      let b := if r.located = some s.role then consLog b 0 4 s.role (b.grp r.group).number s.weft ((b.tape p).cart.getD 0) else b
      let b := recordLocation b (if r.repair then 3 else 2) r.group s.weft s.role ((b.tape p).cart.getD 0) s.dsNo s.lwrap (s.pos / uLpos)
      b.setRebuild p { r' with done := r.done + 1 }
    else b.setRebuild p { r' with failed := r.failed + 1 }

/-- Do what a rebuild can do now. -/
def pumpRebuild (b : Block) (p : Nat) : Block :=
  let r := b.rebuild p
  if !b.cons.rebuilds.any (fun (x : Nat × RebuildSt) => x.1 = p) then b
  else if safeStopped b p then rebuildEnd b p 0x8001
  else if health b p = 2 then rebuildEnd b p 0x4002
  else if r.writing then (if canWrite b p then targetDue b p else b)
  else match r.todo with
    | [] => rebuildEnd b p (if r.lost = 0 then 0 else 0x3001)
    | (weft, role) :: t =>
      if r.limit ≠ 0 ∧ r.limit ≤ r.done + r.lost + r.failed then rebuildEnd b p (if r.lost = 0 then 0 else 0x3001)
      else match r.data with
        | some d => if canWrite b p then rebuildWrite b p weft role d else b
        | none =>
          let no := (b.grp r.group).number
          match (match fromBeam b no weft role with
                 | some d => (Got.bytes d, b)
                 | none => obtain b no weft role (role :: r.bar)) with
          | (.bytes d, b) => b.setRebuild p { r with data := some d }
          | (.waiting, b) => b
          | (.notMounted c, b) => rebuildEnd b p 0x3004 (some (leB 8 c))
          | (.safeStop, b) => rebuildEnd b p 0x8001
          | (.bad, b) =>
            (weaveLog (forgetWeft b no weft) 0x3001 7 0xFF no 0 weft 0).setRebuild p { r with todo := t, lost := r.lost + 1 }

/-- The catalogue knows a cartridge (R380 check 5). -/
def catKnows (b : Block) (id : Nat) : Bool :=
  (cartKnown b id).isSome || (indexRows b).any fun r => r.cart = id || (entKind r.entry = 1 && fieldAt r.entry 16 8 = id)

/-- REBUILD accepted (R380). -/
def acceptRebuild (b : Block) (n : Nat) : Block :=
  let e := (b.cmd n).e
  let group := bitsOf e.param0 0 16
  let p := bitsOf e.param0 16 5
  let step := bitsOf e.param0 24 4
  let scope := bitsOf e.param0 28 2
  match groupSlot b group with
  | none => finishCmd b n 0x1002 0 [] 40
  | some g =>
    if safeStopped b p then finishCmd b n 0x8001 0
    else if !targetOk b p || !targetStep b p step || 2 ≤ scope then finishCmd b n 0x1002 0 [] 40
    else if scope = 1 && !catKnows b e.param1 then finishCmd b n 0x1002 0 [] 48
    else
      let todo := (liveWefts b group).flatMap fun (w, i) =>
        let on := rolesOn b group w e.param1 i
        let rs := missingRoles b group w i
        if scope = 0 then rs.map fun r => (w, r)
        else if on = [] then [] else ((rs ++ on).foldr insertNat []).map fun r => (w, r)
      pumpRebuild (b.setRebuild p { cmd := n, group := g, step := step, todo := todo, limit := e.param2 }) p

/-! ### PATROL (R408 to R410) -/

def updPatrol (b : Block) (cmd : Nat) (f : PatrolSt → PatrolSt) : Block :=
  { b with cons := { b.cons with patrols := b.cons.patrols.map fun x => if x.cmd = cmd then f x else x } }

/-- PATROL completes (R408, R410). -/
def patrolEnd (b : Block) (x : PatrolSt) (status : Nat) (result : Option Bytes := none) : Block :=
  let b := { b with cons := { b.cons with patrols := b.cons.patrols.filter fun y => y.cmd ≠ x.cmd } }
  finishCmd b x.cmd status 0 (result.getD (leB 4 (satN 32 x.checked) ++ leB 4 (satN 32 x.mismatched) ++ leB 2 (satN 16 x.repaired)
    ++ leB 2 (satN 16 x.unresolved)))

/-- Roles of a weft as read: bytes, or none for an erasure. -/
abbrev RoleData := List (Nat × Option Bytes)

/-- Read every written role of a weft from tape (R409 step 1). -/
def patrolRead (b : Block) (group weft : Nat) (i : WeftInfo) : List Nat → RoleData → (Got ⊕ RoleData) × Block
  | [], acc => (.inr acc, b)
  | r :: t, acc =>
    if bitOf i.phantom r then patrolRead b group weft i t (acc ++ [(r, some fillerBytes)])
    else if bitOf i.missing r then patrolRead b group weft i t (acc ++ [(r, none)])
    else match fromTape b group weft r i.k with
      | (.bytes d, b') => patrolRead b' group weft i t (acc ++ [(r, some d)])
      | (.bad, b') => patrolRead b' group weft i t (acc ++ [(r, none)])
      | (x, b') => (.inl x, b')

/-- The readable roles agree with the weft code (R409 steps 2 and 3): those beyond the first K are what the K give. -/
def consistent (k : Nat) (have_ : List (Nat × Bytes)) : Bool :=
  (have_.drop k).all fun x => weftRebuild k x.1 (have_.take k) = x.2

/-- The roles any one of which explains a mismatch (R409 step 3): without it the others agree, with at least one check left. -/
def suspects (k : Nat) (have_ : List (Nat × Bytes)) : List Nat :=
  if have_.length < k + 2 then []
  else (have_.map Prod.fst).filter fun r => consistent k (have_.filter fun x => x.1 ≠ r)

/-- A weft has been read whole: check it, and order its repairs (R409). -/
def patrolJudge (b : Block) (x : PatrolSt) (weft : Nat) (i : WeftInfo) (rs : RoleData) : Block :=
  let q := b.grp x.group
  let good := rs.filterMap fun y => y.2.map fun d => (y.1, d)
  let lost := (rs.filter fun y => y.2.isNone).map Prod.fst
  let e := lost.length
  let unresolved (b : Block) : Block :=
    updPatrol (consLog b 0x3001 5 0xFF q.number weft 0) x.cmd fun y => { y with unresolved := y.unresolved + 1 }
  let b := updPatrol (forgetWeft b q.number weft) x.cmd fun y => { y with next := weft + 1, checked := y.checked + 1 }
  let repair (roles : List Nat) (b : Block) (located : Option Nat := none) : Block :=
    if x.repair && roles != [] then
      updPatrol (b.setRebuild x.port { cmd := x.cmd, group := x.group, step := x.step, todo := roles.map fun r => (weft, r), bar := roles, located := located,
                                       repair := true }) x.cmd fun y => { y with repairing := true }
    else b
  if good.length < i.k then unresolved b
  else if e = i.m then repair lost (unresolved b)
  else if consistent i.k good then repair lost b
  else
    let b := updPatrol b x.cmd fun y => { y with mismatched := y.mismatched + 1 }
    match suspects i.k good with
    | [r] => repair ((r :: lost).foldr insertNat []) b (some r)
    | _ => unresolved b

/-- Do what a patrol can do now: it reads only while the group does not run and no restart condition holds (R409). -/
def pumpPatrol (b : Block) (x : PatrolSt) : Block :=
  let q := b.grp x.group
  if x.repairing then b
  else if x.repair && safeStopped b x.port then patrolEnd b x 0x8001
  else match (liveWefts b q.number).find? fun y => x.next ≤ y.1 && y.1 ≤ x.last with
    | none => patrolEnd b x (if x.unresolved = 0 then 0 else 0x3001)
    | some (weft, i) =>
      let still := !streaming b x.group && (smState b x.group = 6 || belowFloor b x.group || !restartDue b x.group)
        && (localMembers b q).all fun m => runOver b m.2.port
      if !still then b
      else match patrolRead b q.number weft i (List.range (i.k + i.m)) [] with
        | (.inr rs, b) => patrolJudge b x weft i rs
        | (.inl (.notMounted c), b) => patrolEnd b x 0x3004 (some (leB 8 c))
        | (.inl .safeStop, b) => patrolEnd b x 0x8001
        | (.inl _, b) => b

/-- PATROL accepted (R408). -/
def acceptPatrol (b : Block) (n : Nat) : Block :=
  let e := (b.cmd n).e
  let rep := bitOf e.param0 16
  let p := bitsOf e.param0 17 5
  let step := bitsOf e.param0 22 4
  match groupSlot b (bitsOf e.param0 0 16) with
  | none => finishCmd b n 0x1002 0 [] 40
  | some g =>
    if rep && safeStopped b p then finishCmd b n 0x8001 0
    else if rep && (!targetOk b p || !targetStep b p step) then finishCmd b n 0x1002 0 [] 40
    else if e.param2 < e.param1 then finishCmd b n 0x1002 0 [] 48
    else
      let x : PatrolSt := { cmd := n, group := g, next := e.param1, last := e.param2, repair := rep, port := p, step := step }
      pumpPatrol { b with cons := { b.cons with patrols := b.cons.patrols ++ [x] } } x

/-! ### RESHAPE (R411 to R414) -/

def updReshape (b : Block) (cmd : Nat) (f : ReshapeSt → ReshapeSt) : Block :=
  { b with cons := { b.cons with reshapes := b.cons.reshapes.map fun x => if x.cmd = cmd then f x else x } }

/-- RESULT of RESHAPE. -/
def reshapeResult (x : ReshapeSt) : Bytes := leB 4 x.wefts ++ leB 4 x.copied ++ leB 4 x.id

/-- RESHAPE completes. -/
def reshapeEnd (b : Block) (x : ReshapeSt) (status : Nat) (result : Option Bytes := none) : Block :=
  let b := { b with cons := { b.cons with reshapes := b.cons.reshapes.filter fun y => y.cmd ≠ x.cmd } }
  finishCmd b x.cmd status 0 (result.getD (reshapeResult x))

/-- Place a copy at the tail of the target's ready queue (R412). -/
def placeCopy (b : Block) (x : ReshapeSt) (weft role : Nat) (d : Bytes) : Block :=
  match allocGranules b 1664 with
  | none => b
  | some (gs, b) =>
    let k := b.ds.next
    let ds : Dataset := { live := true, tenant := 256, group := (b.grp x.target).number, state := .ready, closedAt := b.time.now,
                          granules := gs, raw := some d, reshape := x.id }
    let b := { b with ds := { tab := tabSet {} b.ds.tab k ds, next := k + 1 } }
    let b := b.updGrp x.target fun q => { q with queue := q.queue ++ [k] }
    let b := forgetWeft b (b.grp x.source).number weft
    tryRestart (updReshape b x.cmd fun y => { y with
      todo := y.todo.drop 1, waiting := y.waiting ++ [(k, weft, role)], copied := y.copied + 1,
      wefts := if (y.todo.drop 1).any fun z => z.1 = weft then y.wefts else y.wefts + 1 }) x.target

/-- Do what a reshape can do now (R412, R413). -/
def pumpReshape (b : Block) (x : ReshapeSt) : Block :=
  if x.switching then b
  else
    let src := (b.grp x.source).number
    match x.todo with
    | [] =>
      if x.waiting = [] then
        ledgerSubmit (updReshape b x.cmd fun y => { y with switching := true }) regJournal
          (leB 1 8 ++ zeros 1 ++ leB 2 src ++ leB 2 (b.grp x.target).number ++ zeros 2 ++ leB 8 x.id ++ leB 8 x.first ++ leB 8 x.last)
          (.layoutSwitch x.cmd)
      else b
    | (weft, role) :: _ =>
      match obtain b src weft role with
      | (.bytes d, b) => placeCopy b x weft role d
      | (.waiting, b) => b
      | (.notMounted c, b) => reshapeEnd b x 0x3004 (some (leB 8 c))
      | (.safeStop, b) => reshapeEnd b x 0x8001
      | (.bad, b) => reshapeEnd b x 0x3001

/-- A weft of a target group has committed: the MAP entries of the copies it carries are journalled (R412). -/
def reshapeNews (b : Block) (g no : Nat) : Block :=
  forEach b.cons.reshapes b fun b x =>
    if x.target ≠ g then b
    else
      let hit := x.waiting.filter fun y => (b.dataset y.1).weft = no && (b.dataset y.1).state = .committed
      let q := b.grp g
      let src := (b.grp x.source).number
      let b := forEach hit b fun b y =>
        let role := match (weftOf q no).bind fun w => w.places.find? fun p => p.dataset = some y.1 with | some p => p.role | none => 0
        forEach (memberCarts b q) b fun b c =>
          addEntry b c 5 0 q.number (leB 8 x.id ++ leB 8 y.2.1 ++ leB 2 src ++ leB 1 y.2.2 ++ leB 1 role ++ zeros 4 ++ leB 8 no) .nothing
      updReshape b x.cmd fun z => { z with waiting := z.waiting.filter fun y => !hit.contains y }

/-- The LAYOUT_SWITCH record is durable (R413, R414). -/
def switchDurable (b : Block) (cmd : Nat) : Block :=
  match b.cons.reshapes.find? fun x => x.cmd = cmd with
  | none => b
  | some x =>
    let q := b.grp x.target
    let s := b.grp x.source
    let b := forEach (memberCarts b q) b fun b c =>
      addEntry b c 6 0 q.number (leB 8 x.id ++ leB 2 s.number ++ zeros 6 ++ leB 8 x.first ++ leB 8 x.last) .nothing
    let b := forEach ((liveWefts b s.number).filter fun y => x.first ≤ y.1 && y.1 ≤ x.last && y.2.commitSeq < x.id) b fun b y =>
      weftEntries b x.source s.number y.1 { y.2 with state := 3 } (memberCarts b s)
    reshapeEnd (consLog b 0 6 0xFF s.number x.last 0) x 0

/-- RESHAPE accepted (R411). -/
def acceptReshape (b : Block) (n : Nat) : Block :=
  let e := (b.cmd n).e
  let step := bitsOf e.param0 32 4
  match groupSlot b (bitsOf e.param0 0 16), groupSlot b (bitsOf e.param0 16 16) with
  | some s, some t =>
    let src := (b.grp s).number
    let ms := localMembers b (b.grp t)
    let ready := ms.all fun m => linkUp b m.2.port && (b.tape m.2.port).cart.isSome && (b.tape m.2.port).mount.isNone
    let edge := classEdge b (b.grp t)
    if s = t || !ready || !stepAvail b edge (edge && !allEdge b (b.grp t)) step then finishCmd b n 0x1002 0 [] 40
    else if e.param2 < e.param1
        || b.cons.reshapes.any (fun x => x.source = s && e.param1 ≤ x.last && x.first ≤ e.param2)
        || ((indexRows b).map (·.entry)).any (fun y => entKind y = 6 && fieldAt y 24 2 = src && e.param1 ≤ fieldAt y 40 8
            && fieldAt y 32 8 ≤ e.param2) then finishCmd b n 0x1002 0 [] 48
    else
      let ws := (liveWefts b src).filter fun y => e.param1 ≤ y.1 && y.1 ≤ e.param2 && y.2.commitSeq < b.cons.commitSeq
      let todo := ws.flatMap fun y => ((List.range y.2.k).filter fun r => !bitOf y.2.phantom r && match dsRow? b src y.1 r with
        | some d => fieldAt d.entry 33 1 = 1
        | none => true).map fun r => (y.1, r)
      let x : ReshapeSt := { cmd := n, id := b.cons.commitSeq, source := s, target := t, first := e.param1, last := e.param2, todo := todo }
      pumpReshape { b with cons := { b.cons with reshapes := b.cons.reshapes ++ [x] } } x
  | _, _ => finishCmd b n 0x1002 0 [] 40

end Sys2Proof.Machine
end

