-- ==== Sys2Proof/Machine/RestoreOps.lean ====
section
/-!
DEFINITION. Sys2Proof/Machine/RestoreOps.lean: LOCATE, READ_OBJECT and READ_RECORD up to the opening of their segments
(spec/01_architecture.md R24; spec/02_host_queues.md R54; spec/06_sealing.md R159; spec/15_consistency.md R407).
-/

namespace Sys2Proof.Machine

/-! ### Objects of the index (R407) -/

/-- SEGMENT entries of an object in wefts that are not voided, as rows. -/
def objRows (b : Block) (id : Bytes) : List IdxRow :=
  (indexRows b).filter fun r => entKind r.entry = 4 && slice r.entry 16 16 = id
    && let (g, w, _) := mapRole b (entGroup r.entry) (fieldAt r.entry 32 8) (fieldAt r.entry 40 1); readable b g w

def rowSeg (r : IdxRow) : Nat := fieldAt r.entry 44 4
def rowOff (r : IdxRow) : Nat := fieldAt r.entry 48 8
def rowSeq (r : IdxRow) : Nat := fieldAt r.entry 56 8
def rowLast (r : IdxRow) : Bool := bitOf (fieldAt r.entry 41 1) 0

/-- |x − y|. -/
def natDist (x y : Nat) : Nat := (x - y) + (y - x)

/-- The rows of an object that ends with the LAST row `l`: for each lower segment number the row whose commit lies
nearest (DEDUCED, log entry 47); none where a segment has no row. -/
def objSegs (rows : List IdxRow) (l : IdxRow) : Option (List IdxRow) :=
  let pick (k : Nat) : Option IdxRow :=
    (rows.filter fun r => rowSeg r = k && !rowLast r && rowOff r ≤ rowOff l).foldl (fun (a : Option IdxRow) r => match a with
      | some x => if natDist (rowSeq r) (rowSeq l) < natDist (rowSeq x) (rowSeq l) then some r else some x
      | none => some r) none
  let low := (List.range (rowSeg l)).map pick
  if low.all (·.isSome) then some (low.filterMap id ++ [l]) else none

/-- The object an OBJECT_ID resolves to: the one with the highest COMMIT_SEQ on its LAST segment (R407 step 1). -/
def resolve (b : Block) (id : Bytes) : Option (List IdxRow) :=
  let rows := objRows b id
  let lasts := (rows.filter rowLast).mergeSort fun x y => rowSeq y ≤ rowSeq x
  lasts.findSome? (objSegs rows)

/-- A row as a segment to restore, mapped through a SWITCH (R407 step 2). -/
def segOfRow (b : Block) (r : IdxRow) : RSeg :=
  let (g, w, role) := mapRole b (entGroup r.entry) (fieldAt r.entry 32 8) (fieldAt r.entry 40 1)
  { group := g, weft := w, role := role, segmentNo := rowSeg r, objectOffset := rowOff r, last := rowLast r }

/-- Object length where the index holds it. -/
def knownLen (rs : List IdxRow) : Option Nat := rs.getLast?.bind fun l => l.len.map fun n => rowOff l + n

/-- The segment is readable from the beam store. -/
def resident (b : Block) (g : RSeg) : Bool := (fromBeam b g.group g.weft g.role).isSome

/-- The cartridge that holds a segment and is not mounted (R54). -/
def absentCart (b : Block) (g : RSeg) : Option Nat :=
  if resident b g then none
  else match dsRow? b g.group g.weft g.role with
    | some r => if (portOfCart b r.cart).isSome then none else some r.cart
    | none => none

/-! ### A segment in its dataset (R187 to R193, R200) -/

/-- A segment header agrees with its DIT entry (R193, R200). -/
def headerAgrees (e h : Bytes) : Bool :=
  slice h 0 4 = [0x47, 0x56, 0x58, 0x53] && fieldAt h 124 4 = crc32c (slice h 0 48 ++ slice h 76 48) && slice h 8 16 = slice e 0 16
    && 128 + fieldAt h 76 4 = fieldAt e 20 4 && fieldAt h 36 4 = fieldAt e 24 4 && fieldAt h 92 2 = fieldAt e 28 2
    && fieldAt h 7 1 % 8 = fieldAt e 30 1 % 8 && decide (fieldAt h 6 1 = 1) = bitOf (fieldAt e 30 1) 3

/-- A record map entry of segment i holds: SEG names the segment, and the offset lies inside its frame (R190, R200). -/
def mapHolds (e : Bytes) (i m : Nat) : Bool :=
  let o := fieldAt e 16 4
  m / 2 ^ 23 = i && o + 128 ≤ m % 2 ^ 23 && m % 2 ^ 23 + 16 * b2n (bitOf (fieldAt e 30 1) 0) < o + fieldAt e 20 4

/-- The segment of an object in a dataset's bytes, where its DIT entry, header and record map entries agree and hold (R188, R190, R193,
R200). -/
def segIn (d : Bytes) (g : RSeg) (id : Bytes) : Option RSeg :=
  let t := slice d 6799360 16384
  let n := fieldAt t 6 2
  (List.range n).findSome? fun i =>
    let e := slice t (64 + 32 * i) 32
    let o := fieldAt e 16 4
    let h := slice d o 128
    let maps := (List.range (fieldAt h 94 2)).map fun k => fieldAt d (4 * (fieldAt h 92 2 + k)) 4
    if slice e 0 16 = id ∧ fieldAt e 24 4 = g.segmentNo ∧ headerAgrees e h ∧ maps.all (mapHolds e i) then
      let starts := maps.map fun m => m % 2 ^ 23 - (o + 128)
      some { g with
        ready := true, formatRev := fieldAt h 4 2, mode := fieldAt h 6 1, continues := bitOf (fieldAt h 7 1) 2, last := bitOf (fieldAt h 7 1) 0
        objectOffset := fieldAt h 24 8, firstRecord := fieldAt h 32 4, keyLabel := fieldAt h 40 8, nonce := slice h 48 12
        tag := slice h 60 16, plainLength := fieldAt h 80 8, starts := starts, message := slice d (o + 128) (fieldAt h 76 4) }
    else none

/-- The AAD that a reader rebuilds from the header (R144, R188). -/
def readAad (g : RSeg) (id : Bytes) : Bytes :=
  slice id 0 16 ++ leB 8 g.objectOffset ++ leB 4 g.firstRecord ++ leB 4 g.segmentNo ++ leB 8 g.keyLabel ++ leB 1 g.mode ++ zeros 1
    ++ leB 2 g.formatRev ++ zeros 4

/-! ### The work of a restore -/

def updRst (b : Block) (n : Nat) (f : Restore → Restore) : Block := b.updCmd n fun c => { c with rst := f c.rst }

/-- A read fails after what it has written (R24). -/
def readFail (b : Block) (n status : Nat) : Block := finishCmd b n status 0 (leB 8 (b.cmd n).written)

/-- Index of the first record that starts in a segment (R190). -/
def firstStart (g : RSeg) : Nat := g.firstRecord + b2n g.continues

/-- The segment holds nothing that READ_RECORD still wants: the record starts in a later one. -/
def beforeRecord (r : Restore) (g : RSeg) : Bool :=
  match r.record with
  | some i => r.recAt.isNone && g.ready && !g.last && firstStart g + g.starts.length ≤ i
  | none => false

/-- The first segment's dataset has been read: take its header and message, or rebuild the dataset where it fails R200. -/
def takeSegment (b : Block) (n : Nat) (g : RSeg) (d : Bytes) : Option Block :=
  (segIn d g (b.cmd n).rst.objectId).map fun x =>
    updRst (forgetWeft b g.group g.weft) n fun r => { r with segs := x :: r.segs.drop 1 }

/-- The length of an object that the index does not hold is read from its LAST segment (R188, R407). -/
def findLength (b : Block) (n : Nat) (l : RSeg) : Block :=
  let id := (b.cmd n).rst.objectId
  match obtain b l.group l.weft l.role with
  | (.bytes d, b) =>
    match segIn d l id with
    | some x =>
      let b := forgetWeft b l.group l.weft
      let hit (r : IdxRow) : Bool := entKind r.entry = 4 && slice r.entry 16 16 = id && rowSeg r = l.segmentNo && rowOff r = l.objectOffset
      let rows := b.cons.index.map fun r => if hit r then { r with len := some x.plainLength } else r
      let b := { b with cons := { b.cons with index := rows } }
      updRst b n fun r => { r with total := some (x.objectOffset + x.plainLength) }
    | none => readFail b n 0x3001
  | (.waiting, b) => b
  | (.notMounted c, b) => finishCmd b n 0x3004 0 (leB 8 c)
  | (.safeStop, b) => readFail b n 0x8001
  | (.bad, b) => readFail b n 0x3001

/-- The open job of a restore's first segment joins the waiting jobs, where it does not wait or run and the segment is not yet opened
(R151, R159). -/
def queueOpen (b : Block) (n : Nat) : Block :=
  let busy := (pipeJobs b ++ b.ciph.queue).any fun j => match j.job with | .openSeg m _ => m = n | _ => false
  if busy || (b.cmd n).rst.frame.isSome then b
  else { b with ciph := { b.ciph with
    queue := b.ciph.queue ++ [{ job := .openSeg n none, since := b.time.now, die := dieOfFn b (b.cmd n).fn }] } }

/-- Do what a restore can do now: find the object's length, skip what is not wanted, and obtain the first segment's
dataset (R54, R379). The opening and decoding of the segment are commands of their own. -/
def pumpRestore (b : Block) (n : Nat) : Block :=
  let c := b.cmd n
  let r := c.rst
  if c.fin.isSome then b
  else match r.total, r.segs.getLast? with
    | none, some l => findLength b n l
    | none, none => b
    | some total, _ =>
      if c.e.opcode = 0x12 then
        finishCmd b n 0 0 (leB 8 total ++ leB 1 (b2n (r.segs.all (resident b))))
      else if c.e.opcode = 0x13 ∧ r.left = 0 ∧ c.written = 0 then
        -- the range is fixed once the length is known
        if total ≤ c.e.param0 then finishCmd b n 0x1002 0 [] 40
        else
          let stop := min total (c.e.param0 + c.e.length)
          let keep := (r.segs.zip ((r.segs.drop 1).map (·.objectOffset) ++ [total])).filter fun x =>
            (c.e.param0 < x.2 && x.1.objectOffset < stop) || (stop = total && x.1.last)
          updRst b n fun r => { r with pos := c.e.param0, left := stop - c.e.param0, segs := keep.map Prod.fst
                                       hash := if (keep.map Prod.fst).any (·.segmentNo = 0) then some {} else none }
      else match r.segs with
        | [] => b
        | g :: t =>
          if g.ready then
            if beforeRecord r g then updRst b n fun r => { r with segs := t, hash := none } else queueOpen b n
          else match obtain b g.group g.weft g.role with
            | (.bytes d, b) => match takeSegment b n g d with
              | some b => b
              | none => match obtain b g.group g.weft g.role [g.role] with
                | (.bytes d, b) => (takeSegment b n g d).getD (readFail b n 0x3001)
                | (.waiting, b) => b
                | (.notMounted c, b) => finishCmd b n 0x3004 0 (leB 8 c)
                | (.safeStop, b) => readFail b n 0x8001
                | (.bad, b) => readFail b n 0x3001
            | (.waiting, b) => b
            | (.notMounted c, b) => finishCmd b n 0x3004 0 (leB 8 c)
            | (.safeStop, b) => readFail b n 0x8001
            | (.bad, b) => readFail b n 0x3001

/-- The restores under way. -/
def restores (b : Block) : List Nat :=
  (b.hq.cmds.filter fun (x : Nat × Cmd) => (x.2.e.opcode = 0x12 || x.2.e.opcode = 0x13 || x.2.e.opcode = 0x14) && x.2.fin.isNone).map Prod.fst

/-- LOCATE, READ_OBJECT or READ_RECORD accepted (R54, R407). -/
def acceptRead (b : Block) (n : Nat) : Block :=
  let c := b.cmd n
  match resolve b c.e.objectId with
  | none => finishCmd b n 0x2002 0
  | some rows =>
    let segs := rows.map (segOfRow b)
    match segs.findSome? (absentCart b) with
    | some cart => finishCmd b n 0x3004 0 (leB 8 cart)
    | none =>
      let r : Restore := { objectId := c.e.objectId, segs := segs, total := knownLen rows, dual := bitOf c.e.param1 0,
                           record := if c.e.opcode = 0x14 then some (bitsOf c.e.param0 0 32) else none,
                           hash := some {} }
      pumpRestore (updRst b n fun _ => r) n

end Sys2Proof.Machine
end

