-- ==== Sys2Proof/Machine/NandOps.lean ====
section
/-!
DEFINITION. Sys2Proof/Machine/NandOps.lean: blocks, pages and NAND dies of the ledger (spec/18_ledger_flash.md R474 to R489).
-/

namespace Sys2Proof.Machine

/-! ### Blocks (R474, R487; numbering: DESIGN CHOICE, log entry 48) -/

/-- First block number of a region; region blocks are numbered in region order. -/
def regionBase (r : Nat) : Nat := ((List.range r).map regionBlocks).sum

/-- The region of a region block. -/
def regionOf (k : Nat) : Nat := ((List.range 9).find? fun r => k < regionBase (r + 1)).getD 8

/-- Region blocks; first spare, first flag-log block. -/
def nRegion : Nat := 43712
def spareBase : Nat := 43712
def flagBase : Nat := 45952

/-- Die and plane (0 to 63) of a block (R487). -/
def blockDie (k : Nat) : Nat :=
  if k < nRegion then let r := regionOf k; (regionDies r).1 + (k - regionBase r) % (regionDies r).2
  else if k < flagBase then (k - spareBase) / 35 / 4
  else (k - flagBase) / 2 / 4
def blockPlane (k : Nat) : Nat :=
  if k < nRegion then let r := regionOf k; 4 * blockDie k + (k - regionBase r) / (regionDies r).2 % 4
  else if k < flagBase then (k - spareBase) / 35
  else (k - flagBase) / 2

/-- The block that stands in for a region block once that is retired (R482). -/
def servedBy (b : Block) : Nat → Nat → Nat
  | 0, k => k
  | f + 1, k => match (b.nblock k).spare with | some s => servedBy b f s | none => k

/-- Region blocks of a region on a die, rising. -/
def dieBlocks (r d : Nat) : List Nat :=
  (List.range (regionBlocks r)).filterMap fun i => if (regionDies r).1 + i % (regionDies r).2 = d then some (regionBase r + i) else none

/-- A block takes further pages (R475, R482, R486). -/
def takesPages (x : NBlock) : Bool := x.pages.length < 384 && !x.half && !x.shut && !x.failed && !x.retired

/-- The block a region's next page on a die goes to: the open one, else the first erased one (R475). -/
def nextBlock (b : Block) (r d : Nat) : Option Nat :=
  let ks := (dieBlocks r d).map (servedBy b 36)
  (ks.find? fun k => takesPages (b.nblock k) && (b.nblock k).pages != []).orElse fun _ =>
    ks.find? fun k => takesPages (b.nblock k)

/-- Write an entry of log page 0x0100. -/
def ledgerLog (b : Block) (kind die block page : Nat) : Block :=
  logAppend b 0x100 (leB 8 b.time.now ++ leB 2 (if kind = 6 ∨ kind = 7 then 0xA001 else 0) ++ leB 1 kind ++ leB 1 die ++ leB 4 block
    ++ leB 2 page ++ zeros 14)

/-- Dies with an erase in progress (R481). -/
def erasing (b : Block) : Nat :=
  ((List.range 16).filter fun d => (b.ndie d).state = .erase || (b.ndie d).state = .eraseSuspending
    || (b.ndie d).state = .eraseSuspended || (b.ndie d).state = .eraseSuspendedProgram).length

/-! ### Records that are kept in two copies (R150) -/

/-- PREFIX_USED keeps its two copies, in one region, on different dies. -/
def twinRec (x : Bytes) : Bool := fieldAt x 0 1 = 0x13

/-- Records of a region in programmed pages of blocks other than `k`. -/
def recordsElsewhere (b : Block) (k r : Nat) : List (Nat × Bytes) :=
  (b.ledg.blocks.filter fun (x : Nat × NBlock) => x.1 ≠ k && !x.2.half).flatMap fun x =>
    ((x.2.pages.filter fun p => p.kind = 1 && p.region = r && !p.torn).flatMap (·.recs)).map fun y => (blockDie x.1, y)

/-- Records of a region in open pages and in pages being programmed. -/
def recordsWaiting (b : Block) (r : Nat) : List (Nat × Bytes) :=
  (List.range 16).flatMap fun d => ((b.openPage r d).recs ++ (if (b.ndie d).progRegion = r then (b.ndie d).prog else [])).map fun y => (d, y.data)

/-- A record is among those given: one copy, or for PREFIX_USED copies on two dies. -/
def heldIn (l : List (Nat × Bytes)) (x : Bytes) : Bool :=
  let ds := (l.filterMap fun y => if y.2 = x then some y.1 else none).eraseDups
  if twinRec x then 2 ≤ ds.length else ds ≠ []

/-- The dies of a region that hold no copy of a record. -/
def diesWithout (b : Block) (k r : Nat) (x : Bytes) : List Nat :=
  (diesOf r).filter fun d => !(recordsElsewhere b k r ++ recordsWaiting b r).any fun y => y.1 = d && y.2 = x

/-! ### Programs (R480 to R485) -/

/-- Regions with records. -/
def recordRegions : List Nat := [3, 4, 5, 6, 7, 8]

/-- An open page of the die that holds an URGENT record. -/
def urgentWaits (b : Block) (d : Nat) : Bool := recordRegions.any fun r => (b.openPage r d).urgentAt.isSome && (b.openPage r d).recs != []

/-- The die's page that is programmed next: due and URGENT first, then the oldest. -/
def duePage (b : Block) (d : Nat) (urgent : Bool) : Option Nat :=
  let rs := recordRegions.filter fun r => (b.openPage r d).due && (b.openPage r d).recs != []
    && (!urgent || (b.openPage r d).urgentAt.isSome) && (nextBlock b r d).isSome
  match rs with
  | [] => none
  | r0 :: _ => some (rs.foldl (fun a r => if since b (b.openPage a d).first < since b (b.openPage r d).first then r else a) r0)

/-- Flag-log block of a plane that is active, and its standby (R485). -/
def flagBlock (b : Block) (plane : Nat) (active : Bool) : Nat :=
  let a := tabGet 0 b.ledg.flagActive plane
  flagBase + 2 * plane + (if active then a else 1 - a)

/-- The flag that is programmed next on a die: with 2 pages left in the active block, those of its standby come first. -/
def nextFlag (b : Block) (d : Nat) : Option (Nat × Nat) :=
  match (b.ndie d).flags with
  | [] => none
  | f :: _ =>
    let plane := blockPlane f.2
    if 382 ≤ (b.nblock (flagBlock b plane true)).pages.length then
      match (b.ndie d).flags.find? fun x => x.2 = flagBlock b plane false with
      | some x => some x
      | none => if (b.ndie d).eraseBlock = flagBlock b plane false ∧ (b.nblock (flagBlock b plane false)).half then none
                else some (1, flagBlock b plane false)
    else some f

/-- The records of a page in order while they fit in `n` bytes, and those left over. -/
def fitPage : Nat → List LRec → List LRec × List LRec
  | _, [] => ([], [])
  | n, x :: t =>
    if x.data.length + 2 ≤ n then let r := fitPage (n - (x.data.length + 2)) t; (x :: r.1, r.2) else ([], x :: t)

/-- The open page that records left over from a full one begin. -/
def nextPage (rs : List LRec) : OpenPage :=
  { recs := rs, first := (rs.head?.map (·.since)).getD 0, urgentAt := (rs.find? urgentRec).map (·.since), due := 16384 < pageUsed rs }

/-- Start the program of a page on a die: URGENT pages first, then flags, then the others. Records that wait behind a full page stay
in the open page. -/
def startProgram (b : Block) (d : Nat) : Block :=
  let n := b.ndie d
  let st : Option NandState := match n.state with
    | .idle => some .program
    | .eraseSuspended => some .eraseSuspendedProgram
    | _ => none
  match st with
  | none => b
  | some st =>
    let page (r : Nat) : Block :=
      let p := b.openPage r d
      let b := b.updNdie d fun n => { n with state := st, progRegion := r, progBlock := (nextBlock b r d).getD 0, prog := (fitPage 16384 p.recs).1, progFlag := none }
      b.updOpenPage r d fun _ => nextPage (fitPage 16384 p.recs).2
    match duePage b d true with
    | some r => page r
    | none =>
      match (if st = .program then nextFlag b d else none) with
      | some f => b.updNdie d fun n => { n with
          state := st, progFlag := some f, prog := [], progBlock := flagBlock b (blockPlane f.2) true, flags := n.flags.erase f }
      | none => match duePage b d false with
        | some r => page r
        | none => b

/-- The 18,432 bytes of the page with index `i` of block `k` (R476, R477, R484): records with their LENGTH, or a flag record alone, the
trailer with its PCRC, and the parity of 16 BCH codewords, whose generator the spec does not give (free, log entry 158). -/
def pageBytes (k i : Nat) (p : NPage) : Bytes :=
  let body := if p.kind = 2 then p.recs.flatten else p.recs.flatMap fun r => leB 2 r.length ++ r
  let recs := slice body 0 16384
  let head := [0x47, 0x56, 0x58, 0x4C] ++ leB 1 1 ++ leB 1 p.region ++ leB 1 p.kind ++ zeros 1 ++ leB 8 p.seq ++ leB 8 p.prev
    ++ leB 4 p.eraseCount ++ leB 2 i ++ leB 2 body.length ++ zeros 24 ++ leB 4 k
  let trailer := head ++ leB 4 (crc32c (recs ++ head))
  recs ++ trailer ++ (List.range 16).flatMap fun j =>
    slice (Config.bchParity (slice recs (1024 * j) 1024 ++ slice trailer (4 * j) 4)) 0 124

/-- The last page of a block goes out to its die. -/
def showPage (b : Block) (d k : Nat) : Block :=
  match (b.nblock k).pages.getLast? with
  | some p => let i := (b.nblock k).pages.length - 1; emit b (.nand d k i (pageBytes k i p))
  | none => b

/-- What waits for a die in an erase: an URGENT page suspends it at once, another once it has run 500 µs (R483). -/
def wantDie (b : Block) (d : Nat) : Block :=
  let n := b.ndie d
  if n.state = .erase ∧ (urgentWaits b d ∨ (n.ranLong ∧ ((duePage b d false).isSome ∨ n.flags ≠ []))) then
    b.updNdie d fun n => { n with state := .eraseSuspending }
  else startProgram b d

/-- A suspended erase resumes when no URGENT page waits for its die (R483). -/
def resumeErase (b : Block) (d : Nat) : Block :=
  if (b.ndie d).state = .eraseSuspended ∧ !urgentWaits b d then
    b.updNdie d fun n => { n with state := .erase, eraseSince := b.time.now, ranLong := false }
  else b

/-- A record is durable (R480): its latency, and what its owner does then. -/
def recDurable (b : Block) (d : Nat) (x : LRec) : Block :=
  let us := ceilDiv (since b x.since) tUs
  let b := if !urgentRec x then b
    else
      let b := wr b Fld.LEDG_LATENCY_MAX_US (max (rd b Fld.LEDG_LATENCY_MAX_US) (satN 16 us))
      if 200 < us then
        internalError (ledgerLog (inc b Fld.LEDG_LATENCY_LATE) 6 d (b.ndie d).progBlock ((b.nblock (b.ndie d).progBlock).pages.length - 1)) 0 8 d 7 us
      else b
  match x.hook with
  | .nothing => b
  | .nonce => nonceDurable b
  | .prefixUsed => prefixDurable b
  | .intent g w => intentReady b g w
  | .commit g w => commitDurable b g w
  | .voided _ _ => b
  | .catUpdate p done => if done then updDone b p else updBegun b p
  | .catEntry g w => entryDurable b g w
  | .mount p => mountDurable b p
  | .layoutSwitch c => switchDurable b c
  | .location => b
  | .epoch => b.updFab fun f => { f with epochPending := false }

/-- Program a page into a block: its SEQ is the ledger's next (R476). -/
def addPage (b : Block) (k : Nat) (p : NPage) : Block :=
  let prev := match (b.nblock k).pages.getLast? with | some q => q.seq | none => 0
  let b := b.updNblock k fun x => { x with pages := x.pages ++ [{ p with seq := b.ledg.seq, prev := prev, eraseCount := x.erases }] }
  { b with ledg := { b.ledg with seq := b.ledg.seq + 1 } }

/-- The 32-byte flag record (R484). -/
def flagRecord (b : Block) (f k : Nat) : Bytes :=
  leB 1 f ++ leB 1 (blockPlane k % 4) ++ zeros 2 ++ leB 4 k ++ leB 4 ((b.nblock k).erases + b2n (f = 1)) ++ zeros 20

/-- A flag page has passed (R484, R485): after ERASE_BEGIN the erase is issued, after ERASE_DONE the block may be used. -/
def flagDurable (b : Block) (d f k : Nat) : Block :=
  if f = 1 then
    (b.updNblock k fun x => { x with half := true }).updNdie d fun n => { n with
      state := .erase, eraseBlock := k, eraseSince := b.time.now, ranLong := false }
  else
    let b := b.updNblock k fun x => { x with half := false }
    if flagBase ≤ k then
      let plane := (k - flagBase) / 2
      { b with ledg := { b.ledg with flagActive := tabSet 0 b.ledg.flagActive plane ((k - flagBase) % 2) } }
    else b

/-- A page program ends on a die (R480, R482, R484). -/
def programDone (b : Block) (d : Nat) (pass : Bool) : Block :=
  let n := b.ndie d
  let after : Option NandState := match n.state with
    | .program => some .idle
    | .programSuspended => some .idle
    | .eraseSuspendedProgram => some .eraseSuspended
    | _ => none
  match after with
  | none => b
  | some st =>
    let b := b.updNdie d fun n => { n with state := st, prog := [], progFlag := none, idleSince := b.time.now }
    if b.ledg.state = .failed then b
    else
    let b := match n.progFlag with
      | some (f, k) =>
        if pass then flagDurable (showPage (addPage b n.progBlock { kind := 2, recs := [flagRecord b f k] }) d n.progBlock) d f k
        else
          let b := ledgerLog b 3 d n.progBlock (b.nblock n.progBlock).pages.length
          let b := inc (addPage b n.progBlock { kind := 2, torn := true }) Fld.LEDG_ERR_PROG_FAIL
          b.updNdie d fun x => { x with flags := (f, k) :: x.flags }
      | none =>
        if pass then
          let b := showPage (addPage b n.progBlock { region := n.progRegion, recs := n.prog.map (·.data) }) d n.progBlock
          forEach n.prog b fun b x => recDurable b d x
        else
          let b := ledgerLog (inc b Fld.LEDG_ERR_PROG_FAIL) 3 d n.progBlock (b.nblock n.progBlock).pages.length
          let b := b.updNblock n.progBlock fun x => { x with failed := true }
          let ds := diesOf n.progRegion
          let apart := (n.prog.find? fun x => twinRec x.data).map fun x => diesWithout b nRegion n.progRegion x.data
          let other := ds.filter fun e => e ≠ d && (apart.all fun l => l.contains e)
          let room := other.filter fun e => pageUsed (b.openPage n.progRegion e).recs + pageUsed n.prog ≤ 16384
          let d' := ((room.find? fun e => (b.ndie e).state = .idle || (b.ndie e).state = .program).orElse fun _ => (room ++ other).head?).getD d
          let b := forEach n.prog b fun b x => intoPage b n.progRegion d' x
          wantDie (b.updOpenPage n.progRegion d' fun p => { p with due := true }) d'
    resumeErase (wantDie b d) d

/-! ### Erases (R482, R484, R486) -/

/-- A record is live: of NONCE_RESERVE records the highest of a prefix, of the others every one (R487). -/
def recLive (all : List Bytes) (r : Bytes) : Bool :=
  fieldAt r 0 1 ≠ 0x10 || !all.any fun x => fieldAt x 0 1 = 0x10 && fieldAt x 4 4 = fieldAt r 4 4 && fieldAt r 8 8 < fieldAt x 8 8

/-- Live records of a block that no other block and no open page holds: they are to be copied forward (R487). -/
def uncopied (b : Block) (k r : Nat) : List Bytes :=
  let mine := ((b.nblock k).pages.filter fun p => p.kind = 1 && !p.torn).flatMap (·.recs)
  let others := recordsElsewhere b k r
  mine.filter fun x => recLive (mine ++ others.map (·.2)) x && !heldIn (others ++ recordsWaiting b r) x

/-- The records of a block are all elsewhere in programmed pages. -/
def allCopied (b : Block) (k r : Nat) : Bool :=
  let mine := ((b.nblock k).pages.filter fun p => p.kind = 1 && !p.torn).flatMap (·.recs)
  let others := recordsElsewhere b k r
  mine.all fun x => heldIn others x || !recLive (mine ++ others.map (·.2)) x

/-- A spare of a plane that no block uses yet. -/
def freeSpare (b : Block) (plane : Nat) : Option Nat :=
  ((List.range 35).map (spareBase + 35 * plane + ·)).find? fun k => !b.ledg.blocks.any fun (x : Nat × NBlock) => x.2.spare = some k

/-- STATE reads DEGRADED where a plane has no spare left (R482). -/
def checkSpares (b : Block) (plane : Nat) : Block :=
  if (freeSpare b plane).isNone && b.ledg.state = .ready then setEvent { b with ledg := { b.ledg with state := .degraded } } 8 else b

/-- A block is replaced by a spare of its plane; without one it serves on (R482). -/
def retireBlock (b : Block) (k : Nat) : Block :=
  checkSpares (match freeSpare b (blockPlane k) with
    | some s => ledgerLog (b.updNblock k fun x => { x with retired := true, half := false, spare := some s }) 5 (blockDie k) k 0
    | none => b) (blockPlane k)

/-- Begin to erase a block of a region (R482, R484, R487): live records are first copied forward; a failed block is retired
instead. -/
def beginErase (b : Block) (k : Nat) : Block :=
  let d := blockDie k
  let x := b.nblock k
  let r := match x.pages with | p :: _ => p.region | [] => regionOf k
  let n := b.ndie d
  if b.ledg.state = .scanning ∨ b.ledg.state = .failed ∨ flagBase ≤ k ∨ x.retired then b
  else if !x.half ∧ x.pages = [] then b
  else if !x.half ∧ takesPages x ∧ (nextBlock b r d = some k) then b
  else if !x.half ∧ !allCopied b k r then
    forEach (uncopied b k r) b fun b y =>
      if twinRec y then ledgerSubmitAt b r ((diesWithout b k r y).headD d) y .nothing else ledgerSubmit b r y
  else if x.failed then retireBlock b k
  else if 4 ≤ erasing b ∨ n.state ≠ .idle ∨ n.flags ≠ [] then b
  else startProgram (b.updNdie d fun n => { n with flags := n.flags ++ [(1, k)] }) d

/-- An erase ends on a die (R482, R484). -/
def eraseDone (b : Block) (d : Nat) (pass : Bool) : Block :=
  let n := b.ndie d
  if n.state = .erase ∨ n.state = .eraseSuspending then
    let k := n.eraseBlock
    let b := b.updNdie d fun n => { n with state := .idle, idleSince := b.time.now, ranLong := false }
    if pass then
      let b := b.updNblock k fun x => { x with pages := [], erases := x.erases + 1, shut := false, failed := false }
      let b := b.updNdie d fun n => { n with flags := (2, k) :: n.flags }
      let b := if 50000 ≤ (b.nblock k).erases ∧ k < flagBase then retireBlock b k else b
      wantDie b d
    else
      let b := ledgerLog (inc b Fld.LEDG_ERR_ERASE_FAIL) 4 d k 0
      wantDie (if k < flagBase then retireBlock b k else b) d
  else b

/-- Pages that are due are programmed as soon as their dies allow (R480). -/
def pumpLedger (b : Block) : Block :=
  if b.ledg.state = .scanning ∨ b.ledg.state = .failed then b
  else forEach ((List.range 16).filter fun d => recordRegions.any fun r => (b.openPage r d).due) b wantDie

/-! ### FAILED (R488, R489) -/

/-- The ledger enters FAILED in service: no record becomes durable any more, waiting TAPED commands end, and what waits for
the ledger ends as R489 says. -/
def ledgerFail (b : Block) (d : Nat) : Block :=
  if b.ledg.state = .failed then b
  else
    let b := ledgerLog { b with ledg := { b.ledg with state := .failed, pages := [] } } 7 d 0 0
    let b := setEvent (internalError b 0 8 d 8 d) 8
    let b := wr b Fld.CIPH_NONCE_STATUS_RESERVING 0
    let b := forEach ((b.hq.cmds.filter fun (x : Nat × Cmd) => x.2.phase = .taping && x.2.fin.isNone).map Prod.fst) b fun b n =>
      let c := b.cmd n
      if c.fin.isNone then finishCmd b n 0xA002 1 c.result 0 none (closesOf c) else b
    forEach (tabKeys b.cons.tapes) b fun b p =>
      let b := updFailed b p
      match (b.tape p).mount with
      | some (n, .unmountEntries) => finishCmd (takeOff b p) n 0 0
      | some (n, .unmountRecord) => finishCmd (takeOff b p) n 0 0
      | some (_, .record) => b.updTape p fun t => { t with mount := t.mount.map fun x => (x.1, .importing) }
      | _ => b

end Sys2Proof.Machine
end

