-- ==== Sys2Proof/Machine/EraseOps.lean ====
section
/-!
DEFINITION. Sys2Proof/Machine/EraseOps.lean: key erasure (spec/06_sealing.md R160 to R162; spec/15_consistency.md R391, R395).
-/

namespace Sys2Proof.Machine

/-- Objects with bytes still to be sealed, or with an open segment, on a stream. -/
def sealingObjs (b : Block) (slot : Nat) : List Nat :=
  let s := b.stream slot
  let h := s.gen * 65536 + slot
  let works := ((sealWorks b).filter fun w => w.stream = h).map fun w => ((b.dataset w.dataset).segs.getD w.seg {}).obj
  let open_ := match s.obj with | some o => if (b.ctx slot).frameOpen || (b.sealState slot).active then [o] else [] | none => []
  (works ++ open_).eraseDups

/-- Launched and uncommitted wefts that hold bytes of an object (R391). -/
def wefsWith (b : Block) (o : Nat) : List (Nat × Nat) :=
  (List.range 32).flatMap fun g => ((b.grp g).wefts.filter fun w =>
    (w.state = .decided || w.state = .launched || w.state = .entries || w.state = .committing) &&
      (weftDatasets w).any fun d => (b.dataset d).segs.any fun s => s.obj = o).map fun w => (g, w.no)

/-- The work under way of a stream ends with KEY_ERASED (R161); wefts that hold its objects' bytes are voided (R391). -/
def eraseStream (b : Block) (slot : Nat) : Block :=
  let s := b.stream slot
  let h := s.gen * 65536 + slot
  let objs := sealingObjs b slot
  if objs = [] && !(b.sealState slot).active then b
  else
    let wefts := (objs.flatMap (wefsWith b)).eraseDups
    let b := endSealed b h 0x6001
    let b := forEach objs b fun b o => endObject b o 0x6001 .aborted
    let b := dropSeals b h
    forEach wefts b fun b x => failWeft b x.1 x.2 2 0x5003

/-- Streams on whose segments a die's pipelines work. -/
def dieStreams (b : Block) (die : Nat) : List Nat :=
  (((List.range 4).flatMap fun i => let x := b.pipe (4 * die + i); x.running.toList ++ x.suspended.toList).filterMap fun j => match j.job with
    | .seal w => some (slotOfHandle w.stream)
    | _ => none).eraseDups

/-- The jobs of a die's pipelines that are not seal jobs end (R161). -/
def stopPipes (b : Block) (die : Nat) : Block :=
  let js := (List.range 4).flatMap fun i => let x := b.pipe (4 * die + i); x.running.toList ++ x.suspended.toList
  let b := forEach (List.range 4) b fun b i => b.updPipe (4 * die + i) fun x => { x with running := none, suspended := none }
  -- An open job that waits for its second check, its first on this die or the keys gone with Die N, ends too.
  let waits (j : QueuedJob) : Bool := match j.job with | .openSeg _ (some p) => die = 0 || p / 4 = die | _ => false
  let again := b.ciph.queue.filter waits
  let b := { b with ciph := { b.ciph with queue := b.ciph.queue.filter fun j => !waits j } }
  forEach (js ++ again) b fun b j => match j.job with
    | .openSeg n _ => if (b.cmd n).fin.isSome then b else readFail b n 0x6001
    | .unwrap n _ => if (b.cmd n).fin.isSome then b else finishCmd b n 0x6001 0
    | .seal _ => b

/-- A die's cipher unit has erased its keys (R160, R161). On Die N every slot, the DRBG state and unwraps go with them, and
after a tamper alarm the KEKs. -/
def eraseDie (b : Block) (die : Nat) (tamper : Bool) (duration : Nat) : Block :=
  let b := forEach (if die = 0 then tabKeys b.ing.streams else dieStreams b die) b eraseStream
  let b := stopPipes b die
  let b := if die ≠ 0 then b
    else
      let drops := b.ciph.slots.flatMap fun (x : Nat × KeySlot) => x.2.drops
      let loads := (b.hq.cmds.filter fun (x : Nat × Cmd) => x.2.e.opcode = 0x30 && x.2.fin.isNone).map Prod.fst
      let b := { b with ciph := { b.ciph with
        slots := [], drbg := if b.ciph.drbg = .failed then .failed else .uninstantiated, drbgKey := [], drbgV := 0, genCalls := 0,
        retries := 0, keks := b.ciph.keks && !tamper } }
      let b := forEach loads b fun b n => finishCmd b n 0x6001 0
      forEach drops b fun b n => finishCmd b n 0 0
  let b := { b with ciph := { b.ciph with eraseDue := b.ciph.eraseDue.filter fun x => x.1 ≠ die } }
  wr (wr b (Fld.CIPH_ERASE_STATUS_ERASED die) 1) (Fld.CIPH_ERASE_STATUS_DURATION die) (min duration 500)

end Sys2Proof.Machine
end

