-- ==== Sys2Proof/Machine/DriveOps.lean ====
section
/-!
DEFINITION. Sys2Proof/Machine/DriveOps.lean: what the parts of a loom slice share: register writes by field (R10, R11),
modes of the control loops (spec/12_track_following_cle.md R323, R328), the supervisor's causes and reactions
(spec/20_safety.md R525 to R534) and the loss of a heddle link (spec/09_heddle_link.md R249, R250).
-/

namespace Sys2Proof.Machine

/-! ### Register writes (R10, R11) -/

/-- CONFIG_LOCK has been set (R509). -/
def configLocked (b : Block) : Bool := rdB b Fld.BOOT_STATE_CONFIG_LOCK

/-- A field takes a written value under its access code: RW always, RWL before CONFIG_LOCK; a reserved encoding is discarded
(R10, R11). `open_` says which of the codes "RW under R325" and "RW under R340" take the write. -/
def fieldWrite (locked open_ : Bool) (old data : Nat) (f : RegField) : Nat :=
  let v := bitsOf data f.lo f.width
  match f.acc with
  | .rw => if f.ok v then setBits old f.lo f.width v else old
  | .rwl => if !locked && f.ok v then setBits old f.lo f.width v else old
  | .rwTune => if open_ && f.ok v then setBits old f.lo f.width v else old
  | .rwEdge => if open_ && f.ok v then setBits old f.lo f.width v else old
  | .w1c => setBits old f.lo f.width ((List.range f.width).foldl (fun a i =>
      if bitOf (bitsOf old f.lo f.width) i && !bitOf v i then a + 2 ^ i else a) 0)
  | .ro => old
  | .wo => old
  | .rc => old

/-- The value a register takes by a write. -/
def written (b : Block) (addr data : Nat) (open_ : Bool) : Nat :=
  match regAt addr with
  | none => 0
  | some (d, _) => d.fields.foldl (fun a f => fieldWrite (configLocked b) open_ a data f) (regGet b addr)

/-- Write a register's stored fields. -/
def writeFields (b : Block) (addr data : Nat) (open_ : Bool := false) : Block := regPut b addr (written b addr data open_)

/-! ### The slice's parts -/

def Block.rdch (b : Block) (p : Nat) : Rdch := tabGet {} b.sl.rdch p
def Block.updRdch (b : Block) (p : Nat) (f : Rdch → Rdch) : Block := { b with sl := { b.sl with rdch := tabUpd {} b.sl.rdch p f } }
def Block.cle (b : Block) (p : Nat) : Cle := tabGet {} b.sl.cle p
def Block.updCle (b : Block) (p : Nat) (f : Cle → Cle) : Block := { b with sl := { b.sl with cle := tabUpd {} b.sl.cle p f } }
def Block.edgeC (b : Block) (p : Nat) : EdgeC := tabGet {} b.sl.edge p
def Block.updEdge (b : Block) (p : Nat) (f : EdgeC → EdgeC) : Block := { b with sl := { b.sl with edge := tabUpd {} b.sl.edge p f } }
def Block.safeP (b : Block) (p : Nat) : SafeP := tabGet {} b.sl.safe p
def Block.updSafe (b : Block) (p : Nat) (f : SafeP → SafeP) : Block := { b with sl := { b.sl with safe := tabUpd {} b.sl.safe p f } }
def loopOf (c : Cle) (l : Nat) : Loop := tabGet {} c.loops l
def Block.updLoop (b : Block) (p l : Nat) (f : Loop → Loop) : Block :=
  b.updCle p fun c => { c with loops := tabUpd {} c.loops l f }

/-- The port is in RUN: the supervisor grants motion (R525, R526). -/
def granted (b : Block) (p : Nat) : Bool := portState b p = 2

/-! ### Loops (R323) -/

/-- MODE of a loop as CLE_MODE codes it. -/
def loopMode (x : Loop) : Nat := if x.hold then 2 else if x.manual then 1 else if x.blend then 3 else 0

/-- Show a loop's mode and output in CLE_MODE and CLE_LOOP_OUT. -/
def showLoop (b : Block) (p l : Nat) : Block :=
  let x := loopOf (b.cle p) l
  let b := wr b ⟨Reg.CLE_MODE p, 2 * l, 2⟩ (loopMode x)
  let b := wr b (Fld.CLE_LOOP_OUT_MODE p l) (loopMode x)
  wrS b (Fld.CLE_LOOP_OUT_OUT p l) x.out

/-- An injection ends early (R332); the capture goes on. -/
def breakInject (b : Block) (p : Nat) (held : Bool := false) : Block :=
  b.updCle p fun c => { c with inj := c.inj.map fun j =>
    if j.active then { j with active := false, interrupted := true, held := j.held || held }
    else { j with held := j.held || held } }

/-- A loop enters HOLD with its output held (R323): an injection on it ends (R332). -/
def holdLoop (b : Block) (p l : Nat) : Block :=
  if (loopOf (b.cle p) l).hold then b
  else
    let b := b.updLoop p l fun x => { x with hold := true, blend := false, back := false }
    let b := match (b.cle p).inj with
      | some j => if j.loop = l then breakInject b p true
                  else if (List.range 4).any (fun i => bitsOf j.select (8 * i + 5) 3 = l) then
                    b.updCle p fun c => { c with inj := c.inj.map fun j => { j with held := j.held || j.capturing } }
                  else b
      | none => b
    showLoop b p l

/-- A loop is to leave HOLD: to MANUAL, or to AUTO by a hand-over at its next tick (R323, R324, R328). -/
def releaseLoop (b : Block) (p l : Nat) (zero : Bool) : Block :=
  if !(loopOf (b.cle p) l).hold then b
  else showLoop (b.updLoop p l fun x =>
    { x with hold := false, back := !x.manual, out := if zero then 0 else x.out }) p l

/-- The grant is withdrawn, or the link is not UP (R328, R342): every loop holds, injections end, EDGE_TEST requests are
cancelled, carries are cleared. -/
def dropLoops (b : Block) (p : Nat) : Block :=
  let b := forEach (List.range 6) b fun b l => holdLoop b p l
  let b := when (match (b.cle p).inj with | some j => j.active | none => false) b fun b => breakInject b p
  b.updEdge p fun e => { e with testLeft := 0 }

/-! ### Port states (R525) -/

/-- Enter a state; SAFE_STOP_N of the port is low in HARD and high elsewhere (R525, R528). -/
def enterPort (b : Block) (p st : Nat) : Block :=
  let was := portState b p
  let b := wr b (Fld.SAFE_PORT_STATE_STATE (p / 16) (p % 16)) st
  let b := wrB b (Fld.SAFE_PORT_STATE_PIN (p / 16) (p % 16)) (st != 0)
  if (was = 0) == (st = 0) then b else emit b (.pin (100 + p) (st != 0))

/-- TUNE_LOOP and INJECT_CAPTURE commands of a port that leaves RUN complete with SAFE_STOP (R537). -/
def stopTuning (b : Block) (p : Nat) : Block :=
  let b := forEach (b.cle p).tunes b fun b t => finishCmd b t.cmd 0x8001 0
  let b := match (b.cle p).inj with | some j => finishCmd b j.cmd 0x8001 0 | none => b
  b.updCle p fun c => { c with tunes := [], inj := none }

/-- Commands that a reaction on the port ends with SAFE_STOP (R537): TUNE_LOOP, INJECT_CAPTURE, MOUNT, UNMOUNT, and the target of
a REBUILD or PATROL. -/
def stopCommands (b : Block) (p : Nat) : Block :=
  let b := stopTuning b p
  let b := if (b.tape p).mount.isSome then mountFail b p 0x8001 0 else b
  if b.rebuild p = {} then b else rebuildEnd b p 0x8001

/-- The port leaves RUN for another state by a reaction: the write run ends (R293), the loops hold, its commands end. -/
def leaveRun (b : Block) (p st : Nat) : Block :=
  let run := writing b p
  let b := enterPort b p st
  let b := when run b fun b => endRunNow b p
  stopCommands (dropLoops b p) p

/-- A write run of the port ends with a WRITE_STOP at the first bit due 5 µs from now or later (R327). -/
def inhibitRun (b : Block) (p : Nat) (atZero : Bool := false) : Block :=
  let w := b.wport p
  if !writing b p then b
  else match w.segs.find? fun s => s.run = w.run && s.slot < 124 && s.cut.isNone with
    | none => b.updWport p fun w => { w with inRun := false }
    | some s =>
      let t := b.time.now + 20000
      let off := if atZero then 0 else if s.l < t then min (segBits - 1) (ceilDiv ((t - s.l) * segBits) s.tw) else 0
      let bit := if atZero then 0 else (s.idx - w.runFirst) * segBits + off
      cutRun (sendWriteStop b p bit) p bit

/-! ### Causes and reactions (R531, R533) -/

/-- FAULT_N is low: driven by a die, from outside, or under EXTEST (R533, R534, R601). -/
def faultNLow (b : Block) : Bool := b.sl.faultLow || b.lands.extest || rdB b (Fld.SAFE_STATUS_FAULT 0) || rdB b (Fld.SAFE_STATUS_FAULT 1)

def showCause (b : Block) (p cause : Nat) : Block :=
  let b := wr b (Fld.SAFE_PORT_STATE_LAST_CAUSE (p / 16) (p % 16)) cause
  wrB b (Fld.SAFE_PORT_STATE_LATCHED (p / 16) (p % 16)) ((b.safeP p).latched != [])

/-- Latch a cause on a port. -/
def latch (b : Block) (p cause : Nat) : Block :=
  showCause (b.updSafe p fun s => { s with latched := if s.latched.contains cause then s.latched else s.latched ++ [cause] }) p cause

/-- A port enters HARD (R533). -/
def hardStop (b : Block) (p : Nat) : Block :=
  if portState b p = 0 then b
  else
    let b := inc b (Fld.SAFE_PORT_COUNT_STOPS (p / 16) (p % 16))
    let b := b.updSafe p fun s => { s with ctl := none }
    leaveRun b p 0

/-- FAULT (R533): the die drives FAULT_N low and every port of the part enters HARD until a reset of the part. -/
def raiseFault (b : Block) (die cause : Nat) : Block :=
  let b := wr (wr b (Fld.SAFE_STATUS_FAULT die) 1) (Fld.SAFE_STATUS_FAULT_CAUSE die) cause
  let b := emit (safeLog b 12 0xFF 4 3 0) (.pin 10 false)
  let b := forEach [0, 1] b fun b d => wr b (Fld.SAFE_STATUS_FAULT_N_IN d) 0
  let b := setEvent b 6
  let b := if cause = 1 then safetyAlarm b Fld.CIPH_ALARM_MASK_LOCKSTEP else b
  forEach (List.range 32) b hardStop

/-- A stop run (R533): NO_RESTART, and the write run ends as under R327. -/
def stopRunCause (b : Block) (p cause : Nat) : Block :=
  if (b.safeP p).runStops.contains cause then b
  else
    let b := b.updSafe p fun s => { s with runStops := s.runStops ++ [cause] }
    let b := wr (showCause b p cause) (Fld.SAFE_PORT_STATE_NO_RESTART (p / 16) (p % 16)) 1
    inhibitRun (safeLog (inc b (Fld.SAFE_PORT_COUNT_RUN_STOPS (p / 16) (p % 16))) cause p 1 3 0) p

/-- An unlatched cause has ended (R532). -/
def endStopRun (b : Block) (p cause : Nat) : Block :=
  let b := b.updSafe p fun s => { s with runStops := s.runStops.filter (· ≠ cause) }
  wrB b (Fld.SAFE_PORT_STATE_NO_RESTART (p / 16) (p % 16)) ((b.safeP p).runStops != [])

/-- The turn between two angles with their revolutions mod 16 (R237), in 1/4096 of a revolution. -/
def angDiff (a c : Nat) : Int := toS 16 ((a + 65536 - c % 65536) % 65536)

/-- Tape speed the supervisor measures (R530): the take-up reel's turn over the last four SENSE cells, times r_sup, in units
of 0.5 mm/s. 2π is taken as 6283185307 / 10^9. -/
def rSup (b : Block) (p r : Nat) : Nat :=
  let rMax := rd b (Fld.CLE_RADIUS_RANGE_R_MAX p)
  let l := rd b (Fld.CLE_RADIUS_R_LET p)
  let t := rd b (Fld.CLE_RADIUS_R_TAKE p)
  match (b.safeP p).packs with
  | some k => if 20 * (max k (l * l + t * t) - min k (l * l + t * t)) > k then rMax else min rMax (21 * r / 20)
  | none => min rMax (21 * r / 20)
def vSup (b : Block) (p : Nat) : Int :=
  match (b.cle p).sense with
  | a :: _ :: _ :: _ :: c :: _ =>
    sat16 (Int.tdiv (angDiff a.angTake c.angTake * 6283185307 * (rSup b p (rd b (Fld.CLE_RADIUS_R_TAKE p)) : Nat) * 20)
      (4096 * 1000000000))
  | _ => 0

/-- CONTROLLED (R530): the loops hold and the supervisor drives the reels. -/
def controlledStop (b : Block) (p : Nat) : Block :=
  if portState b p ≠ 2 then b
  else
    let b := inc b (Fld.SAFE_PORT_COUNT_STOPS (p / 16) (p % 16))
    let c : Ctl := { v0 := vSup b p, tStop := rdS b (Fld.CLE_TENSION_SET_T_SET p), since := b.time.now }
    let b := inhibitRun b p
    let b := enterPort b p 3
    stopCommands (dropLoops (b.updSafe p fun s => { s with ctl := some c }) p) p

/-- A cause of R531 is declared on a port, with its reaction: 2 CONTROLLED, 3 HARD, 0 the port goes to SAFE (cause 6). The
cause is latched and logged. -/
def declare (b : Block) (p cause reaction arg : Nat) : Block :=
  let new := !(b.safeP p).latched.contains cause
  let b := latch b p cause
  let b := when new b fun b => safeLog b cause p reaction 3 arg
  let b := when (new && cause = 1) b fun b => safetyAlarm b Fld.CIPH_ALARM_MASK_LOCKSTEP
  match reaction with
  | 2 => controlledStop b p
  | 3 => hardStop b p
  | _ => if portState b p = 2 ∨ portState b p = 3 then leaveRun (b.updSafe p fun s => { s with ctl := none }) p 1 else b

/-- Time error beyond bound on a port (cause 7): the alarm is raised when the cause begins. -/
def timeError (b : Block) (p : Nat) : Block :=
  if (b.safeP p).runStops.contains 7 then b else safetyAlarm (stopRunCause b p 7) Fld.CIPH_ALARM_MASK_TIME_ERROR

/-- HARD is left for SAFE when the link is UP, no cause is latched, FAULT_N is high, and the transport reports BRAKE = 1 (R525). -/
def leaveHard (b : Block) (p : Nat) : Block :=
  if portState b p = 0 ∧ linkUp b p ∧ (b.safeP p).latched = [] ∧ !faultNLow b ∧ rdB b (Fld.SAFE_PORT_STATE_BRAKE (p / 16) (p % 16)) then
    enterPort b p 1
  else b

/-! ### Heddle link loss (R247, R249, R250, R607) -/

/-- Log page 0x0090 (R247). -/
def heddleLog (b : Block) (t p code unit arg : Nat) : Block :=
  logAppend b 0x90 (leB 8 t ++ leB 1 p ++ leB 1 code ++ leB 1 unit ++ zeros 5 ++ leB 8 arg ++ zeros 8)

/-- A WRITE_START has been refused (R607): nothing is written in that run. UNIT and ARG of its code 19 entry are 0 (DESIGN CHOICE, log
entry 150). -/
def runRefused (b : Block) (p : Nat) : Block :=
  let w := b.wport p
  let b := heddleLog b b.time.now p 19 0 0
  if !w.inRun && !w.segs.any (fun s => s.run = w.run) then b
  else
    let b := cutRun b p 0
    match w.what with
    | .group g => match memberOn b p with
      | some (g', i) => if g' = g then updMember b g i fun m => { m with out := true, held := false } else b
      | none => b
    | .mount _ => mountFail b p 0x4002 0
    | .target _ => if b.rebuild p = {} then b else rebuildEnd b p 0x4002
    | .catalogue => updFailed b p

/-- Begin a training attempt (R248): training blocks go out on every downstream lane. -/
def startAttempt (b : Block) (p : Nat) : Block :=
  let b := wr b (Fld.HDL_STATUS_STATE p) 1
  let b := wr b (Fld.HDL_STATUS_ATTEMPTS p) (satN 8 (rd b (Fld.HDL_STATUS_ATTEMPTS p) + 1))
  let b := forEach [Fld.HDL_STATUS_US_OK p, Fld.HDL_STATUS_DS_OK p, Fld.HDL_STATUS_LOCKED p] b fun b f => wr b f 0
  let b := b.updHdl p fun h => { h with
    step := 2, tries := h.tries + 1, start := b.time.now, due := b.time.now + 80000000, lanes := [], ready := [], dsGood := 0, ident := false,
    config := false, unacked := [], upSeq := [], count := [], discards := [], markers := [], goodRun := 0, badRun := 0,
    locked := false, sample := none, nextSample := none, cells := [], lossy := [], senseLost := 0, senseSeq := 0, preset := [] }
  emit b (.hdlTrain p 1)

/-! ### Readers of the read channel (R259 to R265) -/

/-- The number of the reader of a module on the track 16 × role + n (R234, R239). -/
def readerNo (moduleB : Bool) (role : Fin 2) (n : Nat) : Nat := 32 * b2n moduleB + 16 * role.val + n

def readerOf (b : Block) (p r : Nat) : Reader := tabGet {} (b.rdch p).readers r
def updReader (b : Block) (p r : Nat) (f : Reader → Reader) : Block :=
  b.updRdch p fun x => { x with readers := tabUpd {} x.readers r f }

/-- LOCKED of a reader in both places that show it. -/
def showLock (b : Block) (p r : Nat) (on : Bool) : Block :=
  let b := wrB b (Fld.RDCH_READER_LOCKED p r) on
  if r < 32 then wrB b ⟨Reg.RDCH_LOCK_A p, r, 1⟩ on else wrB b ⟨Reg.RDCH_LOCK_B p, r - 32, 1⟩ on

/-- The read channel has no samples any more: its readers are not in tracking, and what they had read is gone. -/
def readersLost (b : Block) (p : Nat) : Block :=
  let b := forEach (tabKeys (b.rdch p).readers) b fun b r => updReader (showLock b p r false) p r fun x => { x with
    phase := 0, raw := [], want := none, frames := [], sched := none, gains := [], stamps := [] }
  b.updRdch p fun x => { x with slots := [], turbo := [], looks := [] }

/-- The link stops being UP: no WRITE cell goes out any more, a run that is not written whole ends, or was never begun where its
WRITE_START got no ACK under R245 (`refused`, R607); the port enters HARD, the read channel stops (R250, R525). -/
def linkLost (b : Block) (p : Nat) (refused : Bool := false) : Block :=
  let b := if refused then runRefused b p else when (writing b p) b fun b => endRunNow b p
  let b := b.updWport p fun w => { w with stopBit := some 0, codes := [] }
  readersLost (dropLoops (hardStop b p) p) p

/-- The link goes DOWN under condition `cond` of R249 and retrains (R250). -/
def linkDown (b : Block) (p cond : Nat) (refused : Bool := false) : Block :=
  if !linkUp b p then b
  else
    let b := wr (heddleLog b b.time.now p 16 0 cond) (Fld.HDL_STATUS_STATE p) 3
    startAttempt ((linkLost b p refused).updHdl p fun h => { h with tries := 0 }) p

/-- A training attempt fails (R248): the next begins, or the link is FAILED. -/
def attemptFails (b : Block) (p : Nat) : Block :=
  if (b.hdlP p).tries < rd b (Fld.HDL_CTRL_RETRAIN_MAX p) then startAttempt b p
  else
    let b := wr (heddleLog b b.time.now p 17 0 0) (Fld.HDL_STATUS_STATE p) 4
    b.updHdl p fun h => { h with step := 0, tries := 0 }

end Sys2Proof.Machine
end

