-- ==== Sys2Proof/Machine/HdlOps.lean ====
section
/-!
DEFINITION. Sys2Proof/Machine/HdlOps.lean: bring-up of a heddle link, its time exchange and its messages
(spec/09_heddle_link.md R227, R232, R233, R245 to R249).
-/

namespace Sys2Proof.Machine

/-! ### Bring-up (R227, R248) -/

/-- CONFIG (R246): the write precompensation and current are values the spec gives no source for (free values), the servo
module is the one that reads servo next. -/
def sendConfig (b : Block) (p module : Nat) : Block :=
  let (pre, b) := freshNat b
  let (cur, b) := freshNat b
  let b := b.updHdl p fun h => { h with servoModule := module }
  sendMsg b p 1 (leB 1 (pre % 16) ++ leB 1 (cur % 256) ++ leB 1 module)

/-- The link training is on. -/
def training (b : Block) (p : Nat) : Bool := rd b (Fld.HDL_STATUS_STATE p) = 1

/-- Good downstream lanes in ascending order: roles 0 and 1 go to the first two (R227). -/
def goodLanes (mask : Nat) : List Nat := (List.range 4).filter (bitOf mask)

/-- Both ends switch to codewords (step 5): roles are assigned, and IDENT is due within 1 ms. -/
def switchOver (b : Block) (p : Nat) : Block :=
  match goodLanes (b.hdlP p).dsGood with
  | r0 :: r1 :: _ =>
    let b := wr (wr b (Fld.HDL_STATUS_ROLE0 p) r0) (Fld.HDL_STATUS_ROLE1 p) r1
    emit (b.updHdl p fun h => { h with step := 6, due := b.time.now + tMs, dnAt := b.time.now, dnCount := 0 }) (.hdlTrain p 5)
  | _ => b

/-- A training block arrives on physical lane `lane` (R227, R248): its control word holds LANE in bits [1:0], DIR in bit 2,
the preset requested in bits [6:3] and READY in bit 7 (DESIGN CHOICE, log entry 50); `locked` is the mask of downstream
lanes that the transport has locked. The slice's own blocks carry the preset that its receiver requests, which the spec gives no value (a
free value), and READY once it has locked all four lanes. -/
def trainingBlock (b : Block) (p lane : Nat) (inverted : Bool) (control locked : Nat) : Block :=
  let h := b.hdlP p
  if !training b p ∨ h.step < 2 ∨ 5 ≤ h.step ∨ !bitOf control 2 then b
  else
    let ready := if bitOf control 7 ∧ !h.ready.contains lane then h.ready ++ [lane] else h.ready
    let lanes := tabSet none h.lanes lane (some (control % 4, inverted))
    let all := ((lanes.filterMap fun (x : Nat × Option (Nat × Bool)) => x.2.map (·.1)).eraseDups).length = 4
    let step := if all then 4 else 3
    let b := b.updHdl p fun h => { h with
      lanes := lanes, ready := ready, dsGood := locked % 16, step := step, preset := tabSet 0 h.preset lane (bitsOf control 3 4),
      due := h.start + (if all then 140 else 40) * tMs }
    let b := wr b (Fld.HDL_STATUS_US_OK p) ((lanes.map fun (x : Nat × Option (Nat × Bool)) => 2 ^ x.1).sum)
    let b := wr b (Fld.HDL_STATUS_DS_OK p) (locked % 16)
    let (pre, b) := freshNat b
    let b := forEach (List.range 4) b fun b l => emit b (.hdlBlock p l (l + 8 * (pre % 16) + 128 * b2n all))
    if all ∧ ready.length = 4 ∧ 2 ≤ (goodLanes (locked % 16)).length then switchOver b p else b

/-- At link UP and at each MOUNT both radii are set to the middle of their range (R320), and the reels' sum of squares is to be
recorded anew (R530). -/
def reelStart (b : Block) (p : Nat) : Block :=
  let mid := (rd b (Fld.CLE_RADIUS_RANGE_R_MIN p) + rd b (Fld.CLE_RADIUS_RANGE_R_MAX p)) / 2
  let b := wr (wr b (Fld.CLE_RADIUS_R_LET p) mid) (Fld.CLE_RADIUS_R_TAKE p) mid
  b.updSafe p fun s => { s with packs := none, moving := none }

/-- The link is UP (step 8): both radii are set to the middle of their range (R320), and the servo and sense grids start
(R236, R237; DESIGN CHOICE, log entry 51: with the slowest sample stream of module A). BIAS of each module, which the spec gives no value,
is a free value that stands until the link is UP anew (R261). -/
def linkIsUp (b : Block) (p : Nat) : Block :=
  let b := wr b (Fld.HDL_STATUS_STATE p) 2
  let b := b.updHdl p fun h => { h with step := 0, tries := 0, statusAt := b.time.now }
  let b := reelStart b p
  let b := b.updSafe p fun s => { s with hbA := b.time.now, hbB := b.time.now }
  let b := b.updCle p fun c => { c with tick := 0, sense := [], fresh := false, track := [], aAt := b.time.now, badLet := 0,
                                        badTake := 0, okLet := b.time.now, okTake := b.time.now }
  let (x, b) := freshNat b
  let (y, b) := freshNat b
  let b := b.updRdch p fun r => { r with bias := tabSet 0 (tabSet 0 r.bias 0 (x % 256)) 1 (y % 256) }
  sampleStart b p (b.time.now + 80000) 16 0 16777216 none

/-- Write HDL_CTRL (R248): ENABLE set trains, ENABLE cleared disables, RETRAIN takes an UP link DOWN. -/
def writeHdlCtrl (b : Block) (p data : Nat) : Block :=
  let was := rdB b (Fld.HDL_CTRL_ENABLE p)
  let b := writeFields b (Reg.HDL_CTRL p) data
  let on := rdB b (Fld.HDL_CTRL_ENABLE p)
  if on ∧ !was then
    startAttempt ((wr b (Fld.HDL_STATUS_ATTEMPTS p) 0).updHdl p fun h => { h with tries := 0 }) p
  else if !on ∧ was then
    let b := if linkUp b p then linkLost (wr b (Fld.HDL_STATUS_STATE p) 0) p else b
    (wr b (Fld.HDL_STATUS_STATE p) 0).updHdl p fun h => { h with step := 0, unacked := [], locked := false }
  else if bitOf data 1 then linkDown b p 0
  else b

/-! ### Time exchange (R232, R233) -/

/-- A downstream marker leaves (R232): T1 is recorded, and the TIME cell with T1 and DELAY follows. -/
def markerSend (b : Block) (p seq : Nat) : Block :=
  let h := b.hdlP p
  if seq % 256 ≠ 0 ∨ !(linkUp b p || (training b p && 6 ≤ h.step)) then b
  else
    let seq := seq % 65536
    let b := b.updHdl p fun h => { h with markers := (h.markers.drop (h.markers.length - 3)) ++ [(seq, b.time.now)], dnSeq := seq }
    emit b (.hdlCell p (rd b (Fld.HDL_STATUS_ROLE0 p)) 2
      (leB 8 b.time.now ++ leB 4 (ofS 32 h.delay) ++ leB 2 seq ++ zeros 18))

/-- Step 7 of training is done once IDENT has come and the copy is locked: CONFIG goes out (step 8, R248). -/
def configDue (b : Block) (p : Nat) : Block :=
  if training b p ∧ (b.hdlP p).step = 7 ∧ rdB b (Fld.HDL_STATUS_LOCKED p) then
    sendConfig (b.updHdl p fun h => { h with step := 8, due := b.time.now + tMs }) p (b.hdlP p).servoModule
  else b

/-- An upstream TIME cell (R232, R233) of the marker that arrived at `t4`. -/
def timeExchange (b : Block) (p : Nat) (cell : Bytes) (t4 : Nat) : Block :=
  let h := b.hdlP p
  if !(linkUp b p || (training b p && 6 ≤ h.step)) then b
  else match h.markers.find? fun m => m.1 = fieldAt cell 16 2 with
    | none => b
    | some (_, t1) =>
      let t2 := fieldAt cell 0 8
      let t3 := fieldAt cell 8 8
      let d := Int.tdiv (((t4 : Int) - t1) - ((t3 : Int) - t2)) 2
      let e := (t2 : Int) - t1 - d
      let good : Bool := e.natAbs ≤ rd b (Fld.HDL_CTRL_TIME_BOUND p)
      let b := b.updHdl p fun h => { h with
        delay := d, offset := e, locked := fieldAt cell 20 1 = 1, goodRun := if good then h.goodRun + 1 else 0,
        badRun := if good then 0 else h.badRun + 1 }
      let b := wrS b (Fld.HDL_TIME_OFFSET p) e
      let b := wr b (Fld.HDL_TIME_DELAY p) (satN 16 d.toNat)
      let h := b.hdlP p
      if !rdB b (Fld.HDL_STATUS_LOCKED p) then
        if h.goodRun < 16 then b
        else
          configDue (endStopRun (wr b (Fld.HDL_STATUS_LOCKED p) 1) p 7) p
      else if h.badRun < 3 then b
      else timeError (heddleLog (wr b (Fld.HDL_STATUS_LOCKED p) 0) b.time.now p 18 0 0) p

/-! ### Messages (R245, R246) -/

/-- An upstream message with the MSG_SEQ of the one before it is not executed again (R245). -/
def freshMsg (b : Block) (p seq : Nat) (f : Block → Block) : Block :=
  let h := b.hdlP p
  if !(linkUp b p || (training b p && 6 ≤ h.step)) ∨ tabGet 0 h.upSeq 100 = seq % 256 + 1 then b
  else f (b.updHdl p fun h => { h with upSeq := tabSet 0 h.upSeq 100 (seq % 256 + 1) })

/-- IDENT (R246, step 6 of R248). -/
def onIdent (b : Block) (p : Nat) (m : Bytes) : Block :=
  if !(training b p && (b.hdlP p).step = 6) then b
  else if fieldAt m 0 2 ≠ 1 ∨ fieldAt m 2 1 ≠ 32 ∨ fieldAt m 3 1 ≠ 2 then attemptFails b p
  else
    let b := wr (wr b (Fld.HDL_SERIAL_LO_VALUE p) (fieldAt m 8 4)) (Fld.HDL_SERIAL_HI_VALUE p) (fieldAt m 12 4)
    let b := wrB b (Fld.EDGE_TEN_SRC_TAKE_FITTED p) (bitOf (fieldAt m 5 1) 0)
    configDue (b.updHdl p fun h => { h with
      ident := true, readers := 32, bridges := fieldAt m 4 1, takeFitted := bitOf (fieldAt m 5 1) 0, step := 7,
      due := b.time.now + 2 * tMs }) p

/-- STATUS (R246): the transport's state reaches the slice and the supervisor (R525, R528, R530). -/
def onStatus (b : Block) (p : Nat) (m : Bytes) : Block :=
  if !linkUp b p then b
  else
    let trips := fieldAt m 6 2
    let tripped : Bool := trips ≠ (b.hdlP p).trips && (b.hdlP p).trips ≠ 0
    let b := b.updHdl p fun h => { h with
      statusAt := b.time.now, locked := fieldAt m 3 1 = 1, trips := trips, lateEdges := fieldAt m 8 2, gaps := fieldAt m 10 2, interlocks := fieldAt m 12 2 }
    let b := wr b (Fld.HDL_XPORT_STATE p) (fieldAt m 0 1)
    let b := wr b (Fld.HDL_XPORT_BRAKE p) (fieldAt m 1 1)
    let b := wr b (Fld.HDL_XPORT_SAFE_STOP_SEEN p) (fieldAt m 2 1)
    let b := wr b (Fld.HDL_XPORT_TEMP p) (fieldAt m 4 2)
    let b := wr b (Fld.SAFE_PORT_STATE_BRAKE (p / 16) (p % 16)) (fieldAt m 1 1)
    let b := when tripped b fun b => declare b p 6 0 0
    let b := match (b.safeP p).ctl with
      | some c => if portState b p = 3 ∧ c.brakeAt.isSome ∧ fieldAt m 1 1 = 1 then
          enterPort (b.updSafe p fun s => { s with ctl := none }) p 1 else b
      | none => b
    leaveHard b p

/-- EVENT (R246, R247): logged; a watchdog trip is cause 6 of R531. -/
def onEvent (b : Block) (p : Nat) (m : Bytes) : Block :=
  let b := heddleLog b (fieldAt m 4 8) p (fieldAt m 0 1) (fieldAt m 1 1) (fieldAt m 12 8)
  if fieldAt m 0 1 = 1 then declare b p 6 0 0 else b

/-- ACK (R245, R246): of CONFIG in step 8 the link is UP; of a refused WRITE_START R607 follows. -/
def onAck (b : Block) (p : Nat) (m : Bytes) : Block :=
  match (b.hdlP p).unacked.find? fun x => x.seq = fieldAt m 0 1 with
  | none => b
  | some x =>
    let b := b.updHdl p fun h => { h with unacked := h.unacked.filter fun y => y.seq ≠ x.seq }
    if x.typ = 1 ∧ fieldAt m 1 1 = 0 ∧ training b p ∧ (b.hdlP p).step = 8 then linkIsUp b p
    else if x.typ = 2 ∧ fieldAt m 1 1 ≠ 0 then runRefused b p
    else b

/-- A message without an ACK for 50 µs goes out again; after the third resend the link goes DOWN (R245, R249). -/
def msgResend (b : Block) (p : Nat) : Block :=
  match (b.hdlP p).unacked.find? fun x => 50 * tUs ≤ since b x.sentAt with
  | none => b
  | some x =>
    if 3 ≤ x.resends then (if training b p then attemptFails b p else linkDown b p 5 (x.typ = 2))
    else
      let b := b.updHdl p fun h => { h with unacked := h.unacked.map fun y =>
        if y.seq = x.seq then { y with sentAt := b.time.now, resends := y.resends + 1 } else y }
      emit b (.hdlMsg p x.typ (msgCell x.typ x.seq x.payload))

/-- A MSG cell (R245): by MSG_TYPE. -/
def onMsg (b : Block) (p : Nat) (cell : Bytes) : Block :=
  let m := slice cell 4 28
  freshMsg b p (fieldAt cell 1 1) fun b => match fieldAt cell 0 1 with
    | 0x81 => onIdent b p m
    | 0x82 => onStatus b p m
    | 0x83 => onEvent b p m
    | 0x84 => onAck b p m
    | _ => b

end Sys2Proof.Machine
end

