-- ==== Sys2Proof/Machine/CleOps.lean ====
section
/-!
DEFINITION. Sys2Proof/Machine/CleOps.lean: the arithmetic of the control-law engines (spec/12_track_following_cle.md R303,
R313 to R326, R329 to R331): sections, loops, gain tables, repetitive control, hand-over, injection and the references.
-/

namespace Sys2Proof.Machine

/-! ### Arithmetic -/

/-- round(n / d), ties away from zero. -/
def roundAway (n d : Int) : Int :=
  if d = 0 then 0 else
  let s : Int := if (n < 0) != (d < 0) then -1 else 1
  s * ((2 * n.natAbs + d.natAbs) / (2 * d.natAbs) : Nat)

/-- Integer square root by `fuel` halvings of the interval [lo, hi). -/
def isqrtIn : Nat → Nat → Nat → Nat → Nat
  | 0, _, lo, _ => lo
  | f + 1, n, lo, hi =>
    if hi ≤ lo + 1 then lo
    else let m := (lo + hi) / 2
      if m * m ≤ n then isqrtIn f n m hi else isqrtIn f n lo m
def isqrt (n : Nat) : Nat := isqrtIn 80 n 0 (n + 1)

/-- 2π is taken as 6283185307 / 10^9. -/
def twoPi : Int := 6283185307
def twoPiDen : Int := 1000000000

/-- The gain of a table of 33 entries at radius r (R321); EDGE_EST_TABLE is read so with signed entries (R348). -/
def tableAt (b : Block) (p r : Nat) (g : Nat → Int) : Int :=
  let lo := rd b (Fld.CLE_RADIUS_RANGE_R_MIN p)
  let hi := rd b (Fld.CLE_RADIUS_RANGE_R_MAX p)
  let t := (r - lo) * 2097152 / (hi - lo)
  let n := t / 65536
  let f := t % 65536
  if 32 ≤ n then g 32 else g n + sar ((g (n + 1) - g n) * (f : Nat) + 32768) 16
def gmAt (b : Block) (p table r : Nat) : Int := tableAt b p r fun n => (rd b (Fld.CLE_GM_G p table n) : Nat)
def estAt (b : Block) (p table r : Nat) : Int := tableAt b p r fun n => rdS b (Fld.EDGE_EST_TABLE_K p table n)

def rLet (b : Block) (p : Nat) : Nat := rd b (Fld.CLE_RADIUS_R_LET p)
def rTake (b : Block) (p : Nat) : Nat := rd b (Fld.CLE_RADIUS_R_TAKE p)

/-! ### Sections (R316, R318, R319) -/

/-- Bank of a loop's coefficients: TRACK's bank in use, 0 elsewhere (R325). -/
def bankOf (b : Block) (p l : Nat) : Nat := if l = 0 then rd b (Fld.CLE_TRACK_STATUS_BANK p) else 0

/-- One section of a loop: its output and its histories after the tick. -/
def section1 (b : Block) (p l k n : Nat) (sigma : Int) (h : Hist) (x : Int) : Int × Hist :=
  let s := rd b (Fld.CLE_SEC_SHIFT p l k n)
  let acc := rdS b (Fld.CLE_SEC_B0 p l k n) * x + rdS b (Fld.CLE_SEC_B1 p l k n) * h.x1 + rdS b (Fld.CLE_SEC_B2 p l k n) * h.x2
    - rdS b (Fld.CLE_SEC_A1 p l k n) * h.y1 - rdS b (Fld.CLE_SEC_A2 p l k n) * h.y2
  let y := sat16 (sar (acc + (2 ^ (14 - s) : Nat)) (15 - s))
  let y := if !rdB b (Fld.CLE_SEC_INTEG p l k n) then y
    else if l = 0 then (if sigma ≠ 0 ∧ Int.sign (y - h.y1) = sigma then h.y1 else y)
    else clampI (rdS b (Fld.CLE_SEC_CLAMP_LO p l k n)) (rdS b (Fld.CLE_SEC_CLAMP_HI p l k n)) y
  (y, { x1 := x, x2 := h.x1, y1 := y, y2 := h.y1 })

/-- The cascade (R317): output, histories and node values; `inj` adds the injected signal at a node. -/
def cascade (b : Block) (p l k : Nat) (sigma : Int) (inj : Nat → Int → Int) :
    List Nat → Int → Tab Hist → Tab Int → Int × Tab Hist × Tab Int
  | [], v, hs, ns => (v, hs, ns)
  | n :: t, v, hs, ns =>
    let (y, h) := section1 b p l k n sigma (tabGet {} hs n) v
    let y := inj (n + 1) y
    cascade b p l k sigma inj t y (tabSet {} hs n h) (tabSet 0 ns (n + 1) y)

/-- Section n is preset-capable (R324). -/
def presetCapable (b : Block) (p l k n : Nat) : Bool :=
  rdB b (Fld.CLE_SEC_INTEG p l k n) &&
    (rdS b (Fld.CLE_SEC_A1 p l k n) + rdS b (Fld.CLE_SEC_A2 p l k n)) * (2 ^ rd b (Fld.CLE_SEC_SHIFT p l k n) : Nat) == -32768

/-! ### Repetitive control (R322) -/

/-- The controller of a loop: TRACK 0, VEL 1, TEN 2. -/
def rcOf (l : Nat) : Option Nat := if l = 0 then some 0 else if l = 2 then some 1 else if l = 3 then some 2 else none

/-- The reel angle at loom time t, extrapolated from the latest SENSE cell with the reel's rate. -/
def angleAt (b : Block) (p t : Nat) (take : Bool) : Nat :=
  let pick (s : Sense) : Nat := if take then s.angTake else s.angLet
  match (b.cle p).sense with
  | [] => 0
  | s :: rest =>
    let rate : Int := match rest with
      | _ :: _ :: _ :: e :: _ => angDiff (pick s) (pick e)
      | _ => 0
    ofS 12 ((pick s : Int) + Int.tdiv (rate * ((t : Int) - s.stamp)) 400000)

/-- rc_out of a loop, 0 unless ENABLE applies the table, and the table index of this tick. -/
def rcOut (b : Block) (p l t : Nat) : Int × Option (Nat × Nat) :=
  match rcOf l with
  | none => (0, none)
  | some i =>
    let nb := rd b (Fld.CLE_RC_CTRL_NB p i)
    let j := angleAt b p t (l = 2) / 2 ^ (12 - nb)
    let m := rdS b (Fld.CLE_RC_TABLE_M p i ((j + rd b (Fld.CLE_RC_CTRL_LEAD p i)) % 2 ^ nb))
    (if rdB b (Fld.CLE_RC_CTRL_ENABLE p i) then m else 0, some (i, j))

/-- The table learns from the loop's error. -/
def rcLearn (b : Block) (p i j : Nat) (e : Int) : Block :=
  if !rdB b (Fld.CLE_RC_CTRL_LEARN p i) then b
  else
    let m := rdS b (Fld.CLE_RC_TABLE_M p i j)
    let lk := rd b (Fld.CLE_RC_CTRL_LEAK p i)
    let leak := if lk = 0 then 0 else sar (m + (2 ^ (lk - 1) : Nat)) lk
    wrS b (Fld.CLE_RC_TABLE_M p i j) (sat16 (m - leak + sar ((rd b (Fld.CLE_RC_GAIN_LRN p i) : Nat) * e + 16384) 15))

/-- A CLEAR takes effect at the loop's next tick. -/
def rcClearNow (b : Block) (p i : Nat) : Block :=
  let lo := Reg.CLE_RC_TABLE p i 0
  { b.updCle p fun c => { c with rcClear := c.rcClear.filter (· ≠ i) } with
    regs := b.regs.filter fun (x : Nat × Nat) => !(lo ≤ x.1 && x.1 < lo + 0x4000) }

/-! ### Injection (R330) -/

/-- sin(2π φ / 2^32) × 2^30 for φ in the first quarter turn, by its series. -/
def sinQuarter (phi : Nat) : Int :=
  let x : Int := Int.tdiv ((phi : Int) * 6746518852) 4294967296
  let x2 : Int := sar (x * x) 30
  let t3 := Int.tdiv (sar (x * x2) 30) 6
  let t5 := Int.tdiv (sar (t3 * x2) 30) 20
  let t7 := Int.tdiv (sar (t5 * x2) 30) 42
  let t9 := Int.tdiv (sar (t7 * x2) 30) 72
  let t11 := Int.tdiv (sar (t9 * x2) 30) 110
  x - t3 + t5 - t7 + t9 - t11
def sinPhase (phi : Nat) : Int :=
  let q := phi % 4294967296 / 1073741824
  let r := phi % 1073741824
  match q with
  | 0 => sinQuarter r
  | 1 => sinQuarter (1073741824 - r)
  | 2 => -sinQuarter r
  | _ => -sinQuarter (1073741824 - r)

/-- Tick rate of a loop in Hz: 10 kHz, and for TRACK the nominal frame rate of the step (R329). -/
def tickRate (b : Block) (p l : Nat) : Nat :=
  if l ≠ 0 then 10000
  else stepSpeed b (match memberOn b p with | some (g, _) => rd b (Fld.WEAVE_SM_STATUS_STEP g) | none => 0) * 5

/-- The injected value of this tick and the unit after it (R330). A sine's error of up to 2 LSB is a free value. -/
def injectStep (b : Block) (p : Nat) (j : Inject) : Int × Inject × Block :=
  let f := if j.kind = 2 ∧ j.duration ≠ 0 then (j.f0 : Int) + Int.tdiv (((j.f1 : Int) - j.f0) * j.ticks) j.duration else j.f0
  let ended : Bool := j.duration ≠ 0 && j.duration ≤ j.ticks
  let j' := { j with ticks := j.ticks + 1 }
  if ended || j.kind = 0 then (0, j', b)
  else if j.kind = 3 then
    let bit := j.prbs / 16384 % 2
    let next := if (j.ticks + 1) % (max 1 j.f1) = 0 then j.prbs * 2 % 32768 + (bit + j.prbs / 8192 % 2) % 2 else j.prbs
    ((if bit = 1 then (j.amp : Int) else -(j.amp : Int)), { j' with prbs := next }, b)
  else
    let (e, b) := freshNat b
    let s := roundAway ((j.amp : Int) * sinPhase j.phase) 1073741824 + ((e % 5 : Nat) : Int) - 2
    let rate := max 1 (tickRate b p j.loop)
    (s, { j' with phase := (j.phase + roundDiv (f.toNat * 4294967296) rate) % 4294967296 }, b)

/-! ### A loop's tick (R317, R323, R324) -/

/-- What a tick of a loop brings: error, gain, feed-forward, loom time, and whether its sensor values are held. -/
structure TickIn where
  e : Int
  gm : Int := 4096
  ff : Int := 0
  t : Nat
  held : Bool := false
  /-- The tension source is the estimate: TEN does not learn (R349). -/
  noLearn : Bool := false

/-- MANUAL: the output moves toward MAN_OUT by at most SLEW (R323). -/
def manualTick (b : Block) (p l : Nat) : Block :=
  let x := loopOf (b.cle p) l
  let s : Int := (rd b (Fld.CLE_LOOP_CFG_SLEW p l) : Nat)
  showLoop (b.updLoop p l fun y => { y with out := x.out + clampI (-s) s (rdS b (Fld.CLE_LOOP_MAN_MAN_OUT p l) - x.out) }) p l

/-- The hand-over rule (R324): histories are set, and a blend begins where the output cannot be preset. -/
def handOver (b : Block) (p l : Nat) (i : TickIn) (rc : Int) : Block :=
  let x := loopOf (b.cle p) l
  let k := bankOf b p l
  let n := rd b (Fld.CLE_LOOP_CFG_SECTIONS p l)
  let (fr, b) := freshNat b
  let pr := if i.gm = 0 then toS 32 fr else roundAway ((x.out - rc - i.ff) * 4096) i.gm
  let cap := n ≠ 0 && presetCapable b p l k (n - 1)
  let lo := if l = 0 then -32768 else rdS b (Fld.CLE_SEC_CLAMP_LO p l k (n - 1))
  let hi := if l = 0 then 32767 else rdS b (Fld.CLE_SEC_CLAMP_HI p l k (n - 1))
  let v := clampI lo hi pr
  let fits : Bool := cap && lo ≤ pr && pr ≤ hi
  b.updLoop p l fun y => { y with
    back := false, hist := if cap then tabSet {} [] (n - 1) { y1 := v, y2 := v } else [],
    blend := !fits, blendAt := b.time.now, kind := if fits then 1 else 2, preset := if cap then v else 0 }

/-- AUTO: R317, with the repetitive controller, and a blend in progress. -/
def autoTick (b : Block) (p l : Nat) (i : TickIn) (inj : Nat → Int → Int) : Block :=
  let (rc, rix) := rcOut b p l i.t
  let b := if (loopOf (b.cle p) l).back then handOver b p l i rc else b
  let x := loopOf (b.cle p) l
  let k := bankOf b p l
  let e := inj 0 i.e
  let (v, hs, ns) := cascade b p l k x.sigma inj (List.range (rd b (Fld.CLE_LOOP_CFG_SECTIONS p l))) e x.hist [(0, e)]
  let c := inj 17 v
  let g := sat16 (sar (c * i.gm + 2048) 12)
  let r := inj 19 rc
  let u := g + r + i.ff
  let lo := rdS b (Fld.CLE_LOOP_LIMIT_OUT_LO p l)
  let hi := rdS b (Fld.CLE_LOOP_LIMIT_OUT_HI p l)
  let out := min (max u lo) hi
  let sat : Bool := out ≠ u
  let s : Int := (rd b (Fld.CLE_LOOP_CFG_SLEW p l) : Nat)
  let o := inj 18 out
  let near : Bool := (o - x.out).natAbs ≤ s.natAbs
  let applied := if x.blend && !near then x.out + clampI (-s) s (o - x.out) else o
  let long : Bool := x.blend && !near && tS < since b x.blendAt
  let b := b.updLoop p l fun y => { y with
    out := applied, hist := hs, blend := x.blend && !near,
    sigma := if sat && applied = hi then 1 else if sat && applied = lo then -1 else 0,
    nodes := tabSet 0 (tabSet 0 (tabSet 0 ns 17 c) 18 applied) 19 r }
  let b := wrB b (Fld.CLE_LOOP_OUT_SATURATED p l) sat
  let b := when long b fun b => wr b (Fld.CLE_LOOP_OUT_BLEND_LONG p l) 1
  let b := match rix with
    | some (ci, j) => if i.held || i.noLearn then b else rcLearn b p ci j e
    | none => b
  showLoop b p l

/-! ### TUNE_LOOP at a tick (R326) -/

/-- The TUNE_LOOP that acts on a loop: the oldest of the loop, once its bank image has been read. -/
def tuneOf (c : Cle) (l : Nat) : Option Tune :=
  match c.tunes.find? fun t => t.loop = l with
  | some t => if t.ready then some t else none
  | none => none

/-- Write a bank image: words 0 to 3 of each section, and the number of sections. -/
def writeBank (b : Block) (p l k : Nat) (data : Bytes) : Block :=
  let n := data.length / 32
  let b := forEach (List.range n) b fun b i => forEach (List.range 4) b fun b w =>
    regPut b (Reg.CLE_SEC p l k i w) (fieldAt data (32 * i + 4 * w) 4)
  wr b (Fld.CLE_LOOP_CFG_SECTIONS p l) n

/-- The oldest TUNE_LOOP of a loop takes its step of this tick, before the loop is computed. -/
def tuneBefore (b : Block) (p l : Nat) : Block :=
  match tuneOf (b.cle p) l with
  | none => b
  | some t =>
    let x := loopOf (b.cle p) l
    let upd (b : Block) (f : Tune → Tune) : Block :=
      b.updCle p fun c => { c with tunes := c.tunes.map fun y => if y.cmd = t.cmd then f y else y }
    let b := match (b.cle p).inj with | some j => if j.loop = l ∧ t.action ≠ 3 ∧ t.stage = 0 then breakInject b p else b | none => b
    if t.action = 3 then writeBank b p l t.bank t.data
    else if t.action = 2 ∨ t.stage = 1 then
      (upd b fun y => { y with uA := x.out, stage := 2 }).updLoop p l fun y => { y with manual := false, back := true, kind := 0, preset := 0 }
    else
      let man := t.manOut.getD x.out
      let b := wrS b (Fld.CLE_LOOP_MAN_MAN_OUT p l) man
      let b := b.updLoop p l fun y => { y with manual := true, blend := false, back := false }
      let b := if t.action = 0 then writeBank b p l t.bank t.data else b
      upd b fun y => { y with uA := x.out, stage := if t.action = 0 then 1 else 2 }

/-- A TUNE_LOOP whose last step was of this tick completes. -/
def tuneAfter (b : Block) (p l : Nat) (began : Bool) : Block :=
  match tuneOf (b.cle p) l with
  | none => b
  | some t =>
    if !began ∨ (t.action ≠ 3 ∧ t.stage ≠ 2) then b
    else
      let x := loopOf (b.cle p) l
      let ret : Bool := t.action = 0 || t.action = 2
      let res := leB 2 (ofS 16 (if t.action = 3 then x.out else t.uA)) ++ leB 2 (if ret then ofS 16 x.preset else 0)
        ++ leB 1 (if ret then x.kind else 0) ++ leB 1 (loopMode x)
      finishCmd (b.updCle p fun c => { c with tunes := c.tunes.filter fun y => y.cmd ≠ t.cmd }) t.cmd 0 0 res

/-- A tick of a loop that computes nothing: TUNE_LOOP and CLEAR take their steps (R305, R322, R326). -/
def idleTick (b : Block) (p l : Nat) : Block :=
  let began := (tuneOf (b.cle p) l).isSome
  let b := tuneBefore b p l
  let b := match rcOf l with | some c => if (b.cle p).rcClear.contains c then rcClearNow b p c else b | none => b
  tuneAfter b p l began

/-- One tick of a loop. -/
def loopTick (b : Block) (p l : Nat) (i : TickIn) : Block :=
  let began := (tuneOf (b.cle p) l).isSome
  let b := tuneBefore b p l
  let b := match rcOf l with | some c => if (b.cle p).rcClear.contains c then rcClearNow b p c else b | none => b
  let x := loopOf (b.cle p) l
  let b := if x.hold then b
    else if x.manual then manualTick b p l
    else
      match (b.cle p).inj with
      | some j =>
        if j.loop = l ∧ j.active then
          let (s, j, b) := injectStep b p j
          let b := b.updCle p fun c => { c with inj := some j }
          (autoTick b p l i fun n v => if n = j.node then sat16 (v + s) else v).updLoop p l fun y => { y with nodes := tabSet 0 y.nodes 20 s }
        else autoTick b p l i fun _ v => v
      | none => autoTick b p l i fun _ v => v
  tuneAfter b p l began

/-! ### The position reference (R313, R219) -/

/-- Units: 2^-32 frames; speeds in 2^-32 frames a tick; 0.5 mm/s is 2^32 / 1.6 × 10^9 of them. -/
def frame1 : Int := 4294967296

/-- Deceleration a of ACCEL mm/s², a·τ²/2 in 2^-32 frames; and the ticks in which it takes away speed v. -/
def decDist (acc tau : Nat) : Int := (acc * 5 * 4294967296 * (tau * tau) / 32000000000000000000 : Nat)
def decTicks (acc v : Nat) : Nat := v * 16000000000000000000 / (acc * 5 * 4294967296)

/-- Speed gained in `tau` ticks at ACCEL. -/
def accSpeed (acc tau : Nat) : Int := (acc * 5 * 4294967296 * tau / 16000000000000000000 : Nat)

/-- A speed in mm/s as 2^-32 frames a tick. -/
def speedOf (v : Nat) : Nat := v * 4294967296 / 800000000

/-- The speed limit of a move, 10.0 m/s (R220), and of a sweep, 2.0 m/s (R312), in mm/s. -/
def seekSpeed : Nat := 10000
def sweepSpeed : Nat := 2000

/-- Ticks of acceleration, and at the speed limit, of a move over `len`. -/
def moveTimes (len : Int) (acc vmax : Nat) : Nat × Nat :=
  let up := min (isqrt (len.natAbs * 16000000000000000000 / (acc * 5 * 4294967296))) (decTicks acc (speedOf vmax))
  (up, if up = 0 then 0 else ((len.natAbs : Int) - 2 * decDist acc up).toNat / (max 1 (accSpeed acc up).toNat))

/-- Position and speed `d` ticks into a move from rest at `xe` over `len`: ACCEL up to the speed limit, and down again (R219, R220). -/
def moveAt (xe len : Int) (acc vmax d : Nat) : Int × Int :=
  let s : Int := if len < 0 then -1 else 1
  let (up, flat) := moveTimes len acc vmax
  if d ≤ up then (xe + s * decDist acc d, s * accSpeed acc d)
  else if d ≤ up + flat then (xe + s * (decDist acc up + accSpeed acc up * ((d - up : Nat) : Int)), s * accSpeed acc up)
  else if d ≤ 2 * up + flat then (xe + len - s * decDist acc (2 * up + flat - d), s * accSpeed acc (2 * up + flat - d))
  else (xe + len, 0)

/-- x_ref and its speed at loom time t. -/
def refAt (r : MRef) (t : Nat) : Int × Int :=
  match r with
  | .still x => (x, 0)
  | .run x ts lr pi fwd =>
    let s : Int := if fwd then 1 else -1
    let full : Int := (18446744073709551616 / pi : Nat)
    if t < ts then (x, 0)
    else if t < lr then
      (x + s * (((t - ts) * (t - ts) * 18446744073709551616 / (2 * pi * (lr - ts)) : Nat) : Int),
        Int.tdiv (s * full * ((t - ts : Nat) : Int)) ((lr - ts : Nat) : Int))
    else (x + s * ((((lr - ts) * 18446744073709551616 / (2 * pi) : Nat) : Int) + (((t - lr) * 18446744073709551616 / pi : Nat) : Int)),
      s * full)
  | .slow x t0 v acc hold =>
    let s : Int := if v < 0 then -1 else 1
    let tau := t - t0
    let stop := decTicks acc v.natAbs
    if tau < stop then (x + v * (tau : Nat) - s * decDist acc tau, v - s * accSpeed acc tau)
    else
      let xe := x + v * (stop : Nat) - s * decDist acc stop
      moveAt xe (hold - xe) acc seekSpeed (tau - stop)
  | .sweep hold far t0 acc =>
    let (up, flat) := moveTimes (far - hold) acc sweepSpeed
    let one := max 1 (2 * up + flat)
    let d := (t - t0) % (2 * one)
    if d < one then moveAt hold (far - hold) acc sweepSpeed d else moveAt far (hold - far) acc sweepSpeed (d - one)

/-- v_ref in units of 0.5 mm/s. -/
def vUnits (v : Int) : Int := sat16 (roundAway (v * 1600000000) frame1)

/-- Π in 2^-32 ticks for a weft period and density (R314). -/
def piOf (tw : Nat) (edge : Bool) : Nat := tw * (if edge then 43750 else 50000) * 4294967296 / segBits

/-- ACCEL that holds for the port. -/
def accelOf (b : Block) (p : Nat) : Nat := rd b (Fld.WEAVE_SM_RAMP_ACCEL (((memberOn b p).map Prod.fst).getD 0))

/-- The launch instant the port's tape is to be at speed for, with weft period and edge-zone density: its group's restart
while it is held, or a run that no group launches. -/
def nextRun (b : Block) (p : Nat) : Option (Nat × Nat × Bool) :=
  let w := b.wport p
  let solo := match w.what with
    | .group _ => none
    | _ => (w.segs.find? fun s => s.run = w.run).map fun s => (s.l, s.tw, s.edge)
  match memberOn b p with
  | some (g, i) =>
    let q := b.grp g
    match q.lr, q.members[i]? with
    | some l, some m =>
      if m.held ∧ !m.out then
        some (l, weftPeriod b (rdB b (Fld.WEAVE_SM_STATUS_EDGE g)) (rd b (Fld.WEAVE_SM_STATUS_STEP g)),
          match cartOn b p with | some c => wrapEdge c c.lwrap | none => false)
      else solo
    | _, _ => solo
  | none => solo

/-- The member's run speed at its group's next restart, in mm/s: in EDGE class 7/8 of the step's in a full-rate band (R212). -/
def nextSpeed (b : Block) (p : Nat) : Option Nat :=
  (memberOn b p).map fun (g, _) =>
    let v := stepSpeed b (rd b (Fld.WEAVE_SM_STATUS_WANT g))
    let full : Bool := match cartOn b p with | some k => !wrapEdge k k.lwrap | none => false
    if rdB b (Fld.WEAVE_SM_STATUS_EDGE g) && full then 7 * v / 8 else v

/-- Where the member holds for a run-up that reaches `v` mm/s at `start`, in the direction of its wrap (R219, R220). -/
def holdPoint (b : Block) (p v : Nat) (start : Int) : Int :=
  let runUp : Int := (v * v * 5 * 4294967296 / (2 * max 1 (accelOf b p)) : Nat)
  let fwd := match cartOn b p with | some k => wrapForward k k.lwrap | none => true
  if fwd then start - runUp else start + runUp

/-- A length along the tape in frames of 0.2 mm. -/
def tapeFrames (d : Int) : Int := Int.tdiv (d * frame1) 1400000

/-- End of the port's last segment: its last bit, or where it was cut. -/
def runEnd (b : Block) (p t : Nat) : Nat :=
  match (lastSeg (b.wport p)) with
  | some s => match s.cut with | some off => bitTime s off | none => s.l + s.tw
  | none => t

/-- The reference follows the group's restart, the end of a run and a turn (R313, R219, R220): at a new L_r the member takes x_hold,
its TRACK bank (R325) and its servo module; after the last segment it decelerates and moves to its run-up point, 6 mm past the splice
point or where a turn has put it. There it sweeps its run-up zone until the settle condition of a lateral move is met (R312). -/
def updRef (b : Block) (p : Nat) (x : Int) : Block :=
  let c := b.cle p
  let t := b.time.now
  let seek := (b.tape p).seek
  let acc := max 1 (accelOf b p)
  match (nextRun b p).filter fun (l, _, _) => l ≠ c.lrTaken && t < l with
  | some (l, tw, edge) =>
    let pi := piOf tw edge
    let ramp := roundDiv (3200000000000000000 * 4294967296) (max 1 (pi * accelOf b p))
    let fwd := match cartOn b p with | some k => wrapForward k k.lwrap | none => true
    let step := match memberOn b p with | some (g, _) => rd b (Fld.WEAVE_SM_STATUS_STEP g) | none => 0
    let b := wr b (Fld.CLE_TRACK_STATUS_BANK p) (bitsOf (rd b (Fld.CLE_TRACK_BANKMAP_BANK p)) (2 * step) 2)
    let b := sendConfig b p (b2n (!fwd))
    b.updCle p fun c => { c with ref := .run x (l - ramp) l pi fwd, refAdd := 0, lrTaken := l }
  | none =>
    let moved (b : Block) (xr v start : Int) : Block :=
      let start := start + tapeFrames (seek.getD 0)
      let vn := (nextSpeed b p).getD ((vUnits v).natAbs / 2)
      (b.updTape p fun k => { k with seek := none }).updCle p fun c => { c with startAt := start, ref := .slow xr t v acc (holdPoint b p vn start) }
    match c.ref with
    | .run _ _ lr _ fwd =>
      if lr ≤ t ∧ runOver b p ∧ (b.wport p).segs.all (fun s => s.l + s.tw ≤ t || s.cut.isSome) then
        let (xr, v) := refAt c.ref t
        let (xe, _) := refAt c.ref (max lr (runEnd b p t))
        moved b xr v (if fwd then xe + 30 * frame1 else xe - 30 * frame1)
      else b
    | .sweep hold _ _ _ =>
      if seek.isSome then moved b (refAt c.ref t).1 (refAt c.ref t).2 c.startAt
      else if c.settling then b
      else b.updCle p fun c => { c with ref := .slow (refAt c.ref t).1 t (refAt c.ref t).2 acc hold }
    | .slow _ t0 _ _ hold =>
      if seek.isSome then moved b (refAt c.ref t).1 (refAt c.ref t).2 c.startAt
      else if c.settling ∧ t0 < t ∧ refAt c.ref t = (hold, 0) ∧ c.startAt ≠ hold then
        b.updCle p fun c => { c with ref := .sweep hold c.startAt t acc }
      else b
    | _ => if seek.isSome then moved b (refAt c.ref t).1 (refAt c.ref t).2 c.startAt else b

/-! ### Capture (R330, R331) -/

/-- The value of a selector. -/
def captureSignal (b : Block) (p sel : Nat) : Int :=
  let c := b.cle p
  let s := c.sense.head?.getD {}
  let g := sel / 32
  let n := sel % 32
  if g < 6 then tabGet 0 (loopOf c g).nodes n
  else match n with
    | 0 => (tabGet {} c.servo 0 : ServoRd).y
    | 1 => (tabGet {} c.servo 1 : ServoRd).y
    | 2 => c.y
    | 3 => c.v
    | 4 => (rLet b p : Nat)
    | 5 => (rTake b p : Nat)
    | 6 => c.tLet
    | 7 => sar s.tenTake 8
    | 8 => s.curLet
    | 9 => s.curTake
    | 10 => (s.vbus : Nat)
    | 11 => (s.angLet % 4096 : Nat)
    | 12 => (s.angTake % 4096 : Nat)
    | _ => 0

/-- The capture takes a sample on the ticks of the engine of selector 0, every DECIM ticks (R330); an injection starts, and a
capture with it; a run that begins ends an injection (R332). -/
def captureTick (b : Block) (p : Nat) (cleA : Bool) : Block :=
  match (b.cle p).inj with
  | none => b
  | some j =>
    let b := if j.active ∧ j.kind ≠ 0 ∧ (b.wport p).inRun then breakInject b p else b
    let j := (b.cle p).inj.getD j
    let j := { j with capturing := j.capturing || j.atOnce || 0 < j.ticks || !j.active }
    let ofA : Bool := bitsOf j.select 5 3 = 0
    if !j.capturing ∨ ofA ≠ cleA ∨ 16384 ≤ j.samples.length then b
    else
      let take : Bool := j.capTicks % (max 1 j.decim) = 0
      let j' := { j with
        capTicks := j.capTicks + 1, start := if j.samples = [] && j.capTicks = 0 then b.time.now else j.start,
        samples := if take then j.samples ++ [(List.range 4).map fun i => captureSignal b p (bitsOf j.select (8 * i) 8)] else j.samples }
      b.updCle p fun c => { c with inj := some j' }

/-- Compute time of a tick in units of 50 ns (R333): base, sections computed, repetitive controllers, injection and capture. -/
def computeUnits (b : Block) (p : Nat) (loops : List Nat) : Nat :=
  let c := b.cle p
  let auto := loops.filter fun l => let x := loopOf c l; !x.hold && !x.manual
  let secs := (auto.map fun l => rd b (Fld.CLE_LOOP_CFG_SECTIONS p l)).sum
  let rcs := (auto.filter fun l => match rcOf l with | some i => rdB b (Fld.CLE_RC_CTRL_ENABLE p i) | none => false).length
  ceilDiv (240 + 15 * secs + 20 * rcs + (if c.inj.isSome then 60 else 0)) 10

/-! ### OFFLOAD, injection and capture ends (R311, R329 to R332) -/

/-- OFFLOAD_STEP (R311). -/
def offloadStep (b : Block) (p : Nat) : Block :=
  let c := b.cle p
  if c.offN < 1024 then b
  else
    let k : Int := (rd b (Fld.CLE_TRACK_CFG_OFFLOAD_STEP p) : Nat)
    let dir : Int := if (c.offSum < 0) != rdB b (Fld.CLE_TRACK_CFG_COARSE_SIGN p) then -1 else 1
    b.updCle p fun c => { c with offSum := 0, offN := 0, offload := if 8192 * 1024 < c.offSum.natAbs then c.offload + dir * k else c.offload }

/-- The capture holds its 16,384 samples. -/
def captureDone (j : Inject) : Bool := 16384 ≤ j.samples.length

/-- An injection that has lasted its DURATION, or to the end of the capture, ends. -/
def injectionEnd (b : Block) (p : Nat) : Block :=
  match (b.cle p).inj with
  | none => b
  | some j =>
    let over_ : Bool := if j.duration = 0 then captureDone j else j.duration ≤ j.ticks
    if j.active ∧ over_ then b.updCle p fun c => { c with inj := some { j with active := false } } else b

/-- The capture buffer (R331). -/
def captureBuffer (b : Block) (p : Nat) (j : Inject) : Bytes :=
  let ofA : Bool := bitsOf j.select 5 3 = 0
  let flags := b2n j.interrupted + 2 * b2n ofA + 4 * b2n j.held
  let tick := if ofA then 4000000000 / max 1 (tickRate b p 0) else 400000
  leB 8 j.start ++ leB 4 j.samples.length ++ leB 4 j.select ++ leB 1 j.decim ++ leB 1 flags ++ leB 1 p ++ zeros 1 ++ leB 4 tick
    ++ zeros 40 ++ j.samples.flatMap fun s => s.flatMap fun v => leB 2 (ofS 16 v)

/-- The buffer is written and INJECT_CAPTURE completes (R329, R332). -/
def captureFull (b : Block) (p : Nat) : Block :=
  match (b.cle p).inj with
  | none => b
  | some j =>
    if !captureDone j ∨ j.active then b
    else
      let c := b.cmd j.cmd
      let b := writeBuf b c.fn c.e c.sgl 0 (captureBuffer b p j)
      let res := leB 4 j.samples.length ++ leB 1 (b2n j.interrupted + 2 * b2n (bitsOf j.select 5 3 = 0) + 4 * b2n j.held)
      finishCmd (b.updCle p fun c => { c with inj := none }) j.cmd 0 0 res

/-- A write of CLE_RC_CTRL (R322, R325): LEAD is below 2^NB; CLEAR is taken up at the next tick. -/
def writeRcCtrl (b : Block) (p i data : Nat) : Block :=
  let addr := Reg.CLE_RC_CTRL p i
  let nb := bitsOf data 4 4
  let v := written b addr data false
  let nb' := if 6 ≤ nb ∧ nb ≤ 12 then nb else rd b (Fld.CLE_RC_CTRL_NB p i)
  let v := if bitsOf data 12 12 < 2 ^ nb' then v else setBits v 12 12 (rd b (Fld.CLE_RC_CTRL_LEAD p i))
  let b := regPut b addr v
  if bitOf data 2 then b.updCle p fun c => { c with rcClear := if c.rcClear.contains i then c.rcClear else c.rcClear ++ [i] } else b

end Sys2Proof.Machine
end

