-- ==== Sys2Proof/Machine/TickOps.lean ====
section
/-!
DEFINITION. Sys2Proof/Machine/TickOps.lean: sensors and servo frames as they arrive, and the ticks of CLE-A and CLE-B
(spec/12_track_following_cle.md R304 to R315, R320, R327; spec/13_reel_drive.md R344 to R350; spec/20_safety.md R530, R531).
-/

namespace Sys2Proof.Machine

/-! ### Sensors (R237, R344 to R347) -/

/-- The full loom time of a 32-bit stamp that is not later than now. -/
def fullStamp (b : Block) (s : Nat) : Nat := b.time.now - (b.time.now + 4294967296 - s % 4294967296) % 4294967296

/-- The fields of a SENSE cell (R237). -/
def senseOf (b : Block) (c : Bytes) : Sense :=
  { stamp := fullStamp b (fieldAt c 0 4), angLet := fieldAt c 4 2, angTake := fieldAt c 6 2,
    tenLet := toS 24 (fieldAt c 8 3), tenTake := toS 24 (fieldAt c 11 3), curLet := toS 16 (fieldAt c 14 2),
    curTake := toS 16 (fieldAt c 16 2), vbus := fieldAt c 18 2, exc := fieldAt c 20 1, seq := fieldAt c 21 1 }

/-- A reading is healthy (R344). -/
def healthyReading (raw : Int) (excOk opened : Bool) : Bool := excOk && !opened && raw != -8388608 && raw != 8388607
def letHealthy (s : Sense) : Bool := healthyReading s.tenLet (bitOf s.exc 0) (bitOf s.exc 2)
def takeHealthy (s : Sense) : Bool := healthyReading s.tenTake (bitOf s.exc 1) (bitOf s.exc 3)

/-- Log page 0x00B0 (R352). -/
def driveLog (b : Block) (code p kind unit arg : Nat) : Block :=
  logAppend b 0xB0 (leB 8 b.time.now ++ leB 2 code ++ leB 1 p ++ leB 1 kind ++ leB 1 unit ++ zeros 3 ++ leB 8 arg ++ zeros 8)

/-- The let-off transducer is declared lost (R347): cause 3 stops the run unless SENSORLESS_RUN is 1 (R531). -/
def loseLet (b : Block) (p : Nat) : Block :=
  let c := b.cle p
  if c.lostLet then b
  else
    let b := b.updCle p fun c => { c with lostLet := true, toEst := some true }
    let b := wr (wr b (Fld.EDGE_TEN_SRC_SOURCE p) 1) (Fld.EDGE_TEN_SRC_LOSS_EVT p) 1
    let b := driveLog b 0 p 2 0 c.okLet
    if rdB b (Fld.SAFE_PORT_CTRL_SENSORLESS_RUN (p / 16) (p % 16)) then b else stopRunCause b p 3

/-- The take-up transducer is declared lost (R347): logged; no loop changes source. -/
def loseTake (b : Block) (p : Nat) : Block :=
  let c := b.cle p
  if c.lostTake ∨ !(b.hdlP p).takeFitted then b
  else driveLog (wr (b.updCle p fun c => { c with lostTake := true }) (Fld.EDGE_TEN_SRC_TAKE_LOSS_EVT p) 1) 0 p 3 0 c.okTake

/-- CLE heartbeat loss (cause 2): CONTROLLED if a SENSE cell arrived in the last 100 µs, else HARD (R531). -/
def heartbeatLoss (b : Block) (p : Nat) : Block :=
  match (b.cle p).sense.head? with
  | some s => declare b p 2 (if since b s.stamp ≤ 408000 then 2 else 3) 0
  | none => declare b p 2 3 0

/-- A SENSE cell is lost: the sensors hold their values for that period, and four losses in a row are heartbeat loss (R249). -/
def senseLoss (b : Block) (p : Nat) : Block :=
  let b := inc b (Fld.HDL_CELL_ERR_LOST p)
  let b := b.updHdl p fun h => { h with senseLost := h.senseLost + 1, senseSeq := if h.senseSeq = 0 then 0 else h.senseSeq % 256 + 1 }
  let b := b.updCle p fun c => { c with goodLet := 0 }
  if (b.hdlP p).senseLost = 4 then heartbeatLoss b p else b

/-- A SENSE cell arrives, or is lost (R237, R249, R344, R346, R531). Cells missing before it are known by SENSE_SEQ. -/
def onSense (b : Block) (p : Nat) (cell : Option Bytes) : Block :=
  if !linkUp b p then b
  else match cell with
  | none => senseLoss b p
  | some cell =>
    let s := senseOf b cell
    let gap := match (b.hdlP p).senseSeq with | 0 => 0 | n => (s.seq + 257 - n) % 256
    let b := if gap < 128 then forEach (List.range gap) b fun b _ => senseLoss b p else b
    let hl := letHealthy s
    let ht := takeHealthy s
    let b := b.updHdl p fun h => { h with senseLost := 0, senseSeq := s.seq + 1 }
    let b := wrB (wrB b (Fld.EDGE_TEN_SRC_LET_HEALTHY p) hl) (Fld.EDGE_TEN_SRC_TAKE_HEALTHY p) ht
    let b := b.updCle p fun c => { c with
      sense := (s :: c.sense).take 5, fresh := true, tLet := if hl then sar s.tenLet 8 else c.tLet,
      badLet := if hl then 0 else c.badLet + 1, badTake := if ht then 0 else c.badTake + 1,
      okLet := if hl then s.stamp else c.okLet, okTake := if ht then s.stamp else c.okTake,
      goodLet := if hl then min 40 (c.goodLet + 1) else 0, lostTake := c.lostTake && !ht }
    let b := when (2 ≤ (b.cle p).badLet) b fun b => loseLet b p
    let b := when (2 ≤ (b.cle p).badTake) b fun b => loseTake b p
    let tMax : Int := (rd b (Fld.SAFE_LIMITS_T_MAX (p / 16)) : Nat)
    let est := rdB b (Fld.EDGE_TEN_SRC_SOURCE p)
    let top := max (if est then -32768 else sar s.tenLet 8) (sar s.tenTake 8)
    if est ∧ top ≤ tMax then b
    else
      let n := if tMax < top then (b.safeP p).overT + 1 else 0
      let b := b.updSafe p fun x => { x with overT := n }
      if n = 3 then declare b p 4 2 (ofS 64 top) else b

/-- TRANSDUCER_EVALUATION (R346, second condition). -/
def evalTransducers (b : Block) (p : Nat) : Block :=
  match (b.hdlP p).sample with
  | none => b
  | some r =>
    if !linkUp b p ∨ b.time.now < r.sSense + 8000 then b
    else
      let i := r.sSense + (b.time.now - r.sSense - 8000) / 100000 * 100000
      let b := if (b.cle p).okLet + 400000 ≤ i then loseLet b p else b
      if (b.cle p).okTake + 400000 ≤ i then loseTake b p else b

/-! ### Servo frames (R307, R308) -/

/-- Sum of |a_i − b_i| over the stripes that carry no longitudinal bit: 0, 1, 3, 4, 6, 7. -/
def stripeSum (a c : List Nat) : Nat :=
  ([0, 1, 3, 4, 6, 7].map fun i => let x := a.getD i 0; let y := c.getD i 0; max x y - min x y).sum

/-- y in units of 2.5 nm from the sums of t_AB and t_F (R307): tan 8° is taken as 0.140540834702391, the result rounded to
the nearest unit (DESIGN CHOICE, log entry 52). -/
def servoY (tAB tF : Nat) : Int := sat16 (roundAway ((60 * (tF : Int) - 200 * tAB) * 1000000000000000000) ((tF : Int) * 702704173511955))

/-- Speed in units of 0.5 mm/s: 200 µm over t_F, a sum of six in 0.5 ns (R307). -/
def servoV (tF : Nat) : Int := sat16 (roundAway 4800000000 tF)

/-- Time of a stripe from its run of samples, units of 0.5 ns of loom time: parabolic interpolation over the peak sample and its two
neighbours, to the nearest 1/16 of a sample (R307). `at_` is the number of the run's first sample, which is the one before the stripe. -/
def stripeTime (s0 at_ : Nat) (run : List Int) : Nat :=
  let m := run.map Int.natAbs
  let k := m.findIdx (· = m.foldl max 0)
  let v (i : Nat) : Int := (m.getD i 0 : Nat)
  let y0 := v (k - 1)
  let y2 := v (k + 1)
  let den := 2 * (2 * v k - y0 - y2)
  let d : Int := if den = 0 then 0 else roundAway (16 * (y2 - y0)) den
  (((s0 : Int) / 2) + 16 * ((at_ + k : Nat) : Int) + d).toNat

/-- A servo sample (R307): a run beyond the threshold goes on, or ends with it and gives a stripe. -/
def servoSample (s0 : Nat) (s : ServoRd) (j : Nat) (v : Int) : ServoRd :=
  if Config.servoBeyond v then { s with run := s.run ++ [v], runAt := if s.run = [] then j else s.runAt }
  else if 2 ≤ s.run.length then
    { s with stripes := (stripeTime s0 s.runAt (s.run ++ [v]) :: s.stripes).take 16, run := [v], runAt := j }
  else { s with run := [v], runAt := j }

/-- Eight stripes lie within ±1.0 µm of their spacing of 5.0 µm, at the reader's last t_F (a sum of six) or, before the first, at the
burst's own (R307; log entry 52). -/
def burstOk (t6 : Nat) (ts : List Nat) : Bool :=
  let t0 := ts.getD 0 0
  let t6 := if t6 = 0 then 240 * (ts.getD 7 0 - t0) / 7 else t6
  ts.length = 8 && (List.range 8).all fun i => (1200 * ((ts.getD i 0 : Nat) - (t0 : Int)) - 5 * i * t6).natAbs ≤ t6

/-- The longitudinal bit (R308): the sign of the mean displacement of stripes 2 and 5 from the line fitted through the others. -/
def servoBit (rev : Bool) (a c : List Nat) : Bool :=
  let disp (t : List Nat) : Int := 3 * ((t.getD 2 0 + t.getD 5 0 : Nat) : Int) - (([0, 1, 3, 4, 6, 7].map fun i => t.getD i 0).sum : Nat)
  let d := disp a + disp c
  if rev then d < 0 else 0 < d

/-- The frame that the latest 16 stripes make (R307): the bursts 25 µm apart or less than twice that, in forward motion A then B with
stripes in ascending index. -/
def servoFrame (rev : Bool) (s : ServoRd) : Option (List Nat × List Nat × Bool) :=
  let ts := s.stripes.reverse
  let x := ts.take 8
  let y := ts.drop 8
  if ts.length ≠ 16 ∨ !burstOk s.tF x ∨ !burstOk s.tF y ∨ 10 * (x.getD 7 0 - x.getD 0 0) < 7 * (y.getD 0 0 - x.getD 7 0) * 2 then none
  else
    let a := if rev then y.reverse else x
    let c := if rev then x.reverse else y
    some (a, c, servoBit rev a c)

/-- A lost cell fell in a burst window of a frame (R281, R307): its 30 samples overlap the stripes of a burst. -/
def lostInBurst (s : ServoRd) (a c : List Nat) : Bool :=
  let hit (t : List Nat) (l : Nat) : Bool := l ≤ t.foldl max 0 + 16 && t.foldl min (t.headD 0) ≤ l + 496
  s.lostAt.any fun l => hit a l || hit c l

/-- A complete frame of a reader (R307): y and v, valid or not, wait for the tick. -/
def takeFrame (s : ServoRd) (a c : List Nat) (bit : Bool) : ServoRd :=
  let bits := (bit :: s.bits).take 40
  if s.tA = [] then { s with tA := a, bits := bits, stripes := [], lostAt := [] }
  else
    let tF := stripeSum a s.tA
    let near : Bool := s.tF = 0 || 4 * (max tF s.tF - min tF s.tF) ≤ s.tF
    let ok : Bool := !lostInBurst s a c && near && tF != 0
    let y := if tF = 0 then s.y else servoY (stripeSum c a) tF
    { s with tA := a, tF := tF, y := y, bits := bits, stripes := [], lostAt := [], pending := some (y, if tF = 0 then 0 else servoV tF, ok) }

/-- The reel turns backward: direction of motion. -/
def reverseNow (c : Cle) : Bool :=
  match c.sense with
  | a :: _ :: _ :: _ :: e :: _ => angDiff a.angTake e.angTake < 0
  | _ => c.vRef < 0

/-- The samples of a SERVO cell, taken one by one (R236, R307); a frame may complete with each. -/
def servoSamples (b : Block) (p r s0 first : Nat) (vs : List Int) : Block :=
  (vs.zipIdx).foldl (fun b x =>
    let s := servoSample s0 (tabGet {} (b.cle p).servo r) (first + x.2) x.1
    let keep (b : Block) (s : ServoRd) : Block := b.updCle p fun c => { c with servo := tabSet {} c.servo r s }
    match servoFrame (reverseNow (b.cle p)) s with
    | none => keep b s
    | some (ta, tb, bit) =>
      let s' := takeFrame s ta tb bit
      let b := keep b s'
      if s'.pending.isSome then b.updCle p fun c => { c with frameAt := 2 * (tb.foldl max 0), tF := s'.tF / 3 } else b) b

/-- A lost SERVO cell: its 30 samples carry the value 0 and are LOST (R281). -/
def servoLost (b : Block) (p r s0 : Nat) : Block :=
  let b := inc b (Fld.HDL_CELL_ERR_LOST p)
  let s : ServoRd := tabGet {} (b.cle p).servo r
  let b := b.updCle p fun c => { c with servo := tabSet {} c.servo r { s with
    next := s.next + 1, lostAt := (s0 / 2 + 480 * s.next) :: s.lostAt } }
  servoSamples b p r s0 (30 * s.next) (List.replicate 30 0)

/-- A SERVO cell of a reader arrives or is lost (R236, R281): INDEX says which cell it is, those missing before it are lost; sample j is
of loom time S_SERVO + 32 × j. -/
def onServo (b : Block) (p r : Nat) (cell : Option Bytes) : Block :=
  match (b.hdlP p).sample with
  | none => b
  | some st =>
    if !linkUp b p then b
    else match cell with
    | none => servoLost b p r st.sServo
    | some cell =>
      let gap := ofS 16 ((fieldAt cell 0 2 : Int) - (tabGet {} (b.cle p).servo r : ServoRd).next)
      let b := if gap < 32768 then forEach (List.range gap) b fun b _ => servoLost b p r st.sServo else b
      if 32768 ≤ gap then b
      else
        let n := (tabGet {} (b.cle p).servo r : ServoRd).next
        let b := b.updCle p fun c => { c with servo := tabUpd {} c.servo r fun (s : ServoRd) => { s with next := n + 1 } }
        servoSamples b p r st.sServo (30 * n) ((List.range 30).map fun i => toS 8 (fieldAt cell (2 + i) 1))

/-- A longitudinal word from the last 40 bits, latest first, in either direction: band and word number (R308). -/
def lposWord (bits : List Bool) (rev : Bool) : Option (Nat × Nat) :=
  let w := if rev then bits else bits.reverse
  if bits.length = 40 ∧ (w.take 8).all id ∧ (List.range 8).all (fun g => w.getD (11 + 4 * g) true = false) then
    let v := (List.range 8).foldl (fun a g => (List.range 3).foldl (fun a i => 2 * a + b2n (w.getD (8 + 4 * g + i) false)) a) 0
    some (v / 1048576, v % 1048576)
  else none

/-- An accepted word of reader r at the frame just counted (R308). -/
def acceptWord (b : Block) (p r : Nat) (rev : Bool) : Block :=
  let c := b.cle p
  match lposWord (tabGet {} c.servo r : ServoRd).bits rev with
  | none => b
  | some (band, n) =>
    let b := b.updCle p fun c => { c with bandOk := tabSet false c.bandOk r (band = c.band + r) }
    let b := wrB b (Fld.CLE_TRACK_STATUS_BAND_OK p) (let k := (b.cle p).bandOk; tabGet false k 0 && tabGet false k 1)
    if r ≠ 0 then b
    else
      let here : Int := ((40 * n + (if rev then 0 else 39) : Nat) : Int)
      let b := wr b (Fld.CLE_LPOS_BAND p) band
      if !rdB b (Fld.CLE_LPOS_VALID p) then
        (wr b (Fld.CLE_LPOS_VALID p) 1).updCle p fun c => { c with refAdd := c.refAdd + (here - c.frames) * frame1, frames := here, disagreed := false }
      else if here = c.frames then b.updCle p fun c => { c with disagreed := false }
      else if c.disagreed then
        (wr b (Fld.CLE_LPOS_LPOS_MISMATCH p) 1).updCle p fun c => { c with frames := here, disagreed := false }
      else b.updCle p fun c => { c with disagreed := true }

/-! ### Write inhibit (R327) -/

/-- A cause of R327 ends the write run and is counted. -/
def writeInhibit (b : Block) (p : Nat) (f : Fld) (atZero : Bool := false) : Block :=
  if writing b p then inhibitRun (inc b f) p atZero else b

/-! ### CLE-A (R305, R309 to R312) -/

/-- y_target in units of 2.5 nm (R310). -/
def yTarget (c : Cle) : Int := roundAway (32000 * (2 * (c.wrap : Int) + 1) - 32000 * c.wraps) (2 * c.wraps)

/-- Send an edge or actuator cell on both active lanes (R230, R241, R244). -/
def bothLanes (b : Block) (p typ : Nat) (cell : Bytes) : Block :=
  emit (emit b (.hdlCell p (rd b (Fld.HDL_STATUS_ROLE0 p)) typ cell)) (.hdlCell p (rd b (Fld.HDL_STATUS_ROLE1 p)) typ cell)

/-- An ACT cell (R244, R311, R333): FINE passes the gate only in RUN (R525), and is executed 2.0 µs after its issue, which is
the compute time from now. -/
def sendAct (b : Block) (p units : Nat) : Block :=
  if !linkUp b p then b
  else
    let c := b.cle p
    let fine := if granted b p then (loopOf c 0).out else 0
    let coarse := rdS b (Fld.CLE_COARSE_ORIGIN_VALUE p) + (c.band : Int) * rdS b (Fld.CLE_BAND_PITCH_VALUE p) + roundAway (yTarget c) 4 + c.offload
    let seq := (b.hdlP p).actSeq
    let b := b.updHdl p fun h => { h with actSeq := (seq + 1) % 65536 }
    bothLanes b p 0xA (leB 2 seq ++ leB 4 (b.time.now + 200 * units + 8000) ++ leB 2 (ofS 16 fine) ++ leB 4 (ofS 32 coarse) ++ zeros 20)

/-- TRACK is to be in HOLD (R323). -/
def trackHolds (b : Block) (p : Nat) : Bool :=
  let c := b.cle p
  !granted b p || !linkUp b p || c.v.natAbs < 2000 || 4 ≤ c.missing || c.move || !rdB b (Fld.CLE_TRACK_STATUS_BAND_OK p)

def trackMode (b : Block) (p : Nat) : Block := if trackHolds b p then holdLoop b p 0 else releaseLoop b p 0 false

/-- Longest compute times since read (CLE_TIMING). -/
def noteCompute (b : Block) (f : Fld) (units : Nat) : Block := wr b f (max (rd b f) (satN 8 units))

/-- CLE-A's tick on a frame that has completed (R305, R307, R311, R312, R327). -/
def cleATick (b : Block) (p : Nat) : Block :=
  let c := b.cle p
  let r0 : ServoRd := tabGet {} c.servo 0
  let r1 : ServoRd := tabGet {} c.servo 1
  let got := [r0, r1].filterMap (·.pending)
  if !linkUp b p ∨ got = [] then b
  else
    let rev := reverseNow c
    let ok := got.filter (·.2.2)
    let n : Int := ok.length
    let y := if n = 0 then c.y else Int.fdiv ((ok.map (·.1)).sum) n
    let vm := if n = 0 then c.v.natAbs else (Int.fdiv ((ok.map (·.2.1)).sum) n).natAbs
    let v : Int := if rev then -(vm : Int) else vm
    let good := if n ≠ 0 ∧ 2000 ≤ vm then c.goodFrames + 1 else 0
    let b := b.updCle p fun c => { c with
      y := y, v := v, missing := 0, goodFrames := good, aAt := b.time.now, frames := c.frames + (if rev then -1 else 1),
      servo := tabSet {} (tabSet {} c.servo 0 { r0 with pending := none }) 1 { r1 with pending := none } }
    let b := when r0.pending.isSome b fun b => acceptWord b p 0 rev
    let b := when r1.pending.isSome b fun b => acceptWord b p 1 rev
    let b := wr b (Fld.CLE_TRACK_STATUS_MISSING p) 0
    let b := wr b (Fld.CLE_LPOS_FRAMES p) (b.cle p).frames.toNat
    -- a lateral move ends after 8 valid frames on the expected pair (R312)
    let b := b.updCle p fun c => { c with move := c.move && !(8 ≤ good && rdB b (Fld.CLE_TRACK_STATUS_BAND_OK p)) }
    let b := trackMode b p
    let c := b.cle p
    let e := sat16 (yTarget c - y)
    let auto : Bool := let x := loopOf c 0; !x.hold && !x.manual
    let inSettle : Bool := n != 0 && e.natAbs ≤ rd b (Fld.CLE_TRACK_CFG_SETTLE p)
    let off : Bool := n != 0 && rd b (Fld.CLE_TRACK_CFG_OFFTRACK p) < e.natAbs
    let settled := if inSettle then min 64 (c.settled + 1) else 0
    let b := b.updCle p fun c => { c with settled := settled, offTrack := if off then c.offTrack + 1 else 0 }
    let b := wrS b (Fld.CLE_TRACK_STATUS_PERR p) e
    let b := wrB b (Fld.CLE_TRACK_STATUS_SETTLED p) (settled = 64 && auto)
    let b := b.updCle p fun c => { c with settling := c.settling && !(settled = 64 && auto) }
    let units := computeUnits b p [0]
    let b := if n = 0 then b else loopTick b p 0 { e := e, t := b.time.now }
    let b := captureTick b p true
    let b := b.updCle p fun c => if auto ∧ c.offN < 1024 then { c with offSum := c.offSum + (loopOf c 0).out, offN := c.offN + 1 } else c
    let b := noteCompute (sendAct b p units) (Fld.CLE_TIMING_MAX_A p) units
    if 2 ≤ (b.cle p).offTrack ∨ !rdB b (Fld.CLE_TRACK_STATUS_BAND_OK p) then writeInhibit b p (Fld.CLE_INHIBIT_OFFTRACK p)
    else if rdB b (Fld.CLE_LPOS_LPOS_MISMATCH p) then writeInhibit b p (Fld.CLE_INHIBIT_LPOS p)
    else b

/-- A missing frame (R309): TRACK computes nothing, FINE is held; after 4 the run is inhibited (R327). Each missing frame stands t_F after
the one before it (DEDUCED, log entry 52), and counts while the servo is the position source. -/
def frameMissing (b : Block) (p : Nat) : Block :=
  let c := b.cle p
  if !linkUp b p ∨ c.tF = 0 ∨ !reached b (c.frameAt + (2 * c.missing + 3) * c.tF / 2) then b
  else
    let n := c.missing + 1
    let b := b.updCle p fun c => { c with
      missing := n, goodFrames := 0, settled := 0, aAt := b.time.now, frames := c.frames + (if !c.servoSrc then 0 else if reverseNow c then -1 else 1),
      servo := tabUpd {} (tabUpd {} c.servo 0 fun (r : ServoRd) => { r with bits := [] }) 1 fun (r : ServoRd) => { r with bits := [] } }
    let b := wr b (Fld.CLE_TRACK_STATUS_MISSING p) (min 15 n)
    let b := captureTick (idleTick (trackMode b p) p 0) p true
    let b := sendAct b p 24
    if n = 4 then writeInhibit b p (Fld.CLE_INHIBIT_SERVO p) else b

/-! ### CLE-B (R304, R315, R320, R348 to R350) -/

/-- The measured position (R315): servo frames with the fraction since the last frame, or the take-up reel's turn. -/
def posServo (c : Cle) (t : Nat) : Int := c.frames * frame1 + Int.tdiv (((t : Int) - c.frameAt) * c.v * frame1) 1600000000

/-- The dataset that the port is reading. -/
def readNow (b : Block) (p : Nat) : Option TapeRead := b.cons.reads.find? fun r => r.port = p && r.result.isNone

/-- Wrap and band follow the cartridge, or the dataset being read, once the run has ended (R312): a lateral move begins. -/
def followWrap (b : Block) (p : Nat) : Block :=
  match cartOn b p with
  | none => b
  | some k =>
    let (band, wrap) := wrapOf k (((readNow b p).map (·.lwrap)).getD k.lwrap)
    let c := b.cle p
    if (band, wrap, k.wraps) = (c.band, c.wrap, c.wraps) ∨ !runOver b p then b
    else
      let b := b.updCle p fun c => { c with
        band := band, wrap := wrap, wraps := max 1 k.wraps, move := true, settling := true, goodFrames := 0, settled := 0, offload := 0, offSum := 0,
        offN := 0, bandOk := [] }
      holdLoop (wr b (Fld.CLE_TRACK_STATUS_BAND_OK p) 0) p 0

/-- Angles, position source and speed of this tick (R315): answers x, v and the block. -/
def measure (b : Block) (p : Nat) : Int × Int × Block :=
  let c := b.cle p
  let s := c.sense.head?.getD {}
  let dL := if c.fresh then toS 16 (ofS 16 ((s.angLet : Int) - c.aLet)) else 0
  let dT := if c.fresh then toS 16 (ofS 16 ((s.angTake : Int) - c.aTake)) else 0
  let xA := c.xAngle + Int.tdiv (dT * twoPi * (rTake b p : Nat) * frame1) (twoPiDen * 4096 * 200)
  let vA : Int := match c.sense with
    | a :: _ :: _ :: _ :: e :: _ => sat16 (Int.tdiv (angDiff a.angTake e.angTake * twoPi * (rTake b p : Nat) * 20) (4096 * twoPiDen))
    | _ => 0
  let xS := posServo c b.time.now
  let toServo : Bool := !c.servoSrc && 8 ≤ c.goodFrames
  let toAngle : Bool := c.servoSrc && (c.v.natAbs < 2000 || 4 ≤ c.missing)
  let src := (c.servoSrc || toServo) && !toAngle
  let xA := if toAngle then xS else xA
  let add : Int := if toServo then xS - xA else 0
  let b := b.updCle p fun c => { c with
    aLet := c.aLet + dL, aTake := c.aTake + dT, xAngle := xA, servoSrc := src, refAdd := c.refAdd + add,
    track := if toServo || toAngle then [] else c.track, v := if src then c.v else vA }
  let x := if src then xS else xA
  let b := b.updCle p fun c => { c with track := ((x, c.aLet, c.aTake) :: c.track).take 11 }
  (x, if src then c.v else vA, when (vA = 0 && !src) b fun b => wr (b.updCle p fun c => { c with tF := 0 }) (Fld.CLE_LPOS_VALID p) 0)

/-- Radii from the last 10 ticks (R320). -/
def radii (b : Block) (p : Nat) : Block :=
  let c := b.cle p
  match c.track, c.track[10]? with
  | (x, l, t) :: _, some (x0, l0, t0) =>
    let lo := rd b (Fld.CLE_RADIUS_RANGE_R_MIN p)
    let hi := rd b (Fld.CLE_RADIUS_RANGE_R_MAX p)
    let r (dth : Nat) : Nat :=
      min hi (max lo (roundAway ((x - x0).natAbs * 200 * 4096 * twoPiDen) (twoPi * (dth : Nat) * frame1)).toNat)
    let b := if c.servoSrc ∧ 64 ≤ (l - l0).natAbs then wr b (Fld.CLE_RADIUS_R_LET p) (r (l - l0).natAbs) else b
    if c.servoSrc ∧ 64 ≤ (t - t0).natAbs then wr b (Fld.CLE_RADIUS_R_TAKE p) (r (t - t0).natAbs) else b
  | _, _ => b

/-- The pack recorded in the first second of motion after MOUNT (R530). -/
def notePack (b : Block) (p : Nat) (v : Int) : Block :=
  let s := b.safeP p
  let l := rLet b p
  let t := rTake b p
  match s.moving with
  | none => if 200 ≤ v.natAbs then b.updSafe p fun s => { s with moving := some b.time.now, packs := some (l * l + t * t) } else b
  | some m => if since b m ≤ tS then b.updSafe p fun s => { s with packs := some (l * l + t * t) } else b

/-- T_est and BIAS (R348): answers T_est. -/
def sensorless (b : Block) (p : Nat) (v : Int) : Int × Block :=
  let c := b.cle p
  let s := c.sense.head?.getD {}
  let dv := sat16 (c.vRef - c.vRefPrev)
  let raw := sat16 (sar (-s.curLet * estAt b p 0 (rLet b p) + 2048) 12 - sar (dv * estAt b p 1 (rLet b p) + 2048) 12)
  let bias := rdS b (Fld.EDGE_EST_BIAS_BIAS p)
  let est := sat16 (raw + bias)
  let b := if c.badLet = 0 ∧ dv = 0 ∧ 2000 ≤ v.natAbs ∧ !rdB b (Fld.EDGE_TEN_SRC_SOURCE p) then
      wrS b (Fld.EDGE_EST_BIAS_BIAS p) (sat16 (bias + sar (c.tLet - raw - bias + 512) 10)) else b
  (est, b.updCle p fun c => { c with tEst := est })

/-- The tension source changes or returns at this tick, with a hand-over of TEN (R349 to R351). -/
def tensionSource (b : Block) (p : Nat) : Block :=
  let c := b.cle p
  let x := loopOf c 3
  let hand (b : Block) : Block := if x.hold ∨ x.manual then b else b.updLoop p 3 fun y => { y with blend := false, back := true }
  match c.toEst with
  | some _ => hand (b.updCle p fun c => { c with toEst := none })
  | none =>
    let heldOrReady : Bool := rd b (Fld.HDL_XPORT_STATE p) ≤ 1 ||
      match memberOn b p with | some (g, i) => ((b.grp g).members[i]?.map (·.held)).getD false | none => false
    if rdB b (Fld.EDGE_TEN_SRC_SOURCE p) ∧ rdB b (Fld.EDGE_TEN_SRC_AUTO_RETURN p) ∧ 40 ≤ c.goodLet ∧ heldOrReady then
      let b := driveLog (wr b (Fld.EDGE_TEN_SRC_SOURCE p) 0) 0 p 4 0 0
      endStopRun (hand (b.updCle p fun c => { c with lostLet := false })) p 3
    else b

/-- A tick of a controlled stop (R530). -/
def controlledTick (b : Block) (p : Nat) : Block :=
  match (b.safeP p).ctl with
  | none => b
  | some k =>
    if portState b p ≠ 3 then b
    else
      let d := p / 16
      let dec := rd b (Fld.SAFE_STOP_CFG_STOP_DECEL d)
      let uMax : Int := (rd b (Fld.SAFE_STOP_CFG_STOP_U_MAX d) : Nat)
      let vs := Int.sign k.v0 * max 0 ((k.v0.natAbs : Int) - (dec * k.n / 5 : Nat))
      let vSup := vSup b p
      let c := b.cle p
      let uT := clampI (-uMax) uMax (sat16 (sar ((vs - vSup) * (rd b (Fld.SAFE_STOP_GAIN_STOP_KV d) : Nat) + 2048) 12))
      let ten := if c.badLet = 0 then c.tLet else c.tEst
      let uL := clampI (-uMax) uMax (sat16 (sar ((k.tStop - ten) * (rd b (Fld.SAFE_STOP_GAIN_STOP_KT d) : Nat) + 2048) 12))
      let still := if vs = 0 ∧ vSup.natAbs < 200 then k.still + 1 else 0
      let off := if 2 * rd b (Fld.SAFE_STOP_CFG_STOP_TOL d) < (vs - vSup).natAbs then k.off + 1 else 0
      let overT : Bool := 3 ≤ (b.safeP p).overT
      let overAt := if overT then k.overAt.orElse (fun _ => some b.time.now) else none
      let brake : Bool := 10 ≤ still && k.brakeAt.isNone
      let k' : Ctl := { k with
        n := k.n + 1, still := still, off := off, overAt := overAt, uTake := uT, uLet := uL,
        brakeAt := if brake then some b.time.now else k.brakeAt }
      let b := b.updSafe p fun s => { s with ctl := some k' }
      let b := when brake b fun b => sendMsg b p 7 (leB 1 0)
      let limit := k.v0.natAbs * 2000000 / max 1 dec + 200 * tMs
      let late : Bool := match k.brakeAt with | some t => 50 * tMs ≤ since b t | none => false
      let longOver : Bool := match overAt with | some t => 2 * tMs ≤ since b (max t k.since) | none => false
      if 10 ≤ off ∨ longOver ∨ late ∨ limit ≤ since b k.since then
        hardStop b p
      else b

/-- CLE-B's tick k is due: the SENSE cell of S_SENSE + k × 100 µs has arrived, or its STAMP + 2.0 µs has passed (R304). -/
def cleBDue (b : Block) (p : Nat) : Bool :=
  match (b.hdlP p).sample with
  | none => false
  | some r =>
    let t := r.sSense + (b.cle p).tick * 400000
    linkUp b p && (reached b (t + 8000) || match (b.cle p).sense.head? with | some s => t ≤ s.stamp | none => false)

/-- An idle tick of CLE-A (R305): no frame for 100 µs; the held FINE is sent again. -/
def cleAIdle (b : Block) (p : Nat) : Block :=
  if linkUp b p ∧ 100 * tUs ≤ since b (b.cle p).aAt then
    let b := (trackMode b p).updCle p fun c => { c with aAt := b.time.now }
    sendAct (captureTick (idleTick b p 0) p true) p 24
  else b

/-- CLE-B's tick (R302, R304, R313 to R321, R327, R348 to R350). -/
def cleBTick (b : Block) (p : Nat) : Block :=
  if !cleBDue b p then b
  else
    let b := followWrap b p
    let held := !(b.cle p).fresh
    let (x, v, b) := measure b p
    let b := notePack (radii b p) p v
    let b := updRef b p x
    let c := b.cle p
    let (xr, vr) := refAt c.ref b.time.now
    let xr := xr + c.refAdd
    let vRef := vUnits vr
    let b := b.updCle p fun c => { c with vRefPrev := c.vRef, vRef := vRef, fresh := false, tick := c.tick + 1 }
    let (tEst, b) := sensorless b p v
    let b := tensionSource b p
    let c := b.cle p
    let s := c.sense.head?.getD {}
    let now := b.time.now
    let units := computeUnits b p [1, 2, 3, 4, 5]
    let ePos := sat16 (sar (xr - x) 20)
    let b := loopTick b p 1 { e := ePos, t := now, held := held }
    let dv := (loopOf (b.cle p) 1).out
    let tSet := rdS b (Fld.CLE_TENSION_SET_T_SET p)
    let b := loopTick b p 2 { e := sat16 (sat16 (vRef + dv) - v), gm := gmAt b p 0 (rTake b p), ff := sar (tSet * gmAt b p 1 (rTake b p) + 2048) 12,
                              t := now, held := held }
    let est := rdB b (Fld.EDGE_TEN_SRC_SOURCE p)
    let b := loopTick b p 3 { e := sat16 (tSet - (if est then tEst else c.tLet)), gm := gmAt b p 2 (rLet b p), t := now,
                              held := held, noLearn := est }
    let b := loopTick b p 4 { e := sat16 ((loopOf (b.cle p) 2).out - s.curTake), t := now, held := held }
    let b := loopTick b p 5 { e := sat16 ((loopOf (b.cle p) 3).out - s.curLet), t := now, held := held }
    let b := captureTick b p false
    let b := noteCompute b (Fld.CLE_TIMING_MAX_B p) units
    let b := b.updEdge p fun e => { e with
      cmds := ((now + 200 * units, (loopOf (b.cle p) 4).out, (loopOf (b.cle p) 5).out) :: e.cmds).take 2 }
    let b := if !est then b
      else
        let n := if (rd b (Fld.SAFE_LIMITS_T_MAX (p / 16)) : Nat) < tEst then (b.safeP p).overT + 1 else 0
        let b := b.updSafe p fun x => { x with overT := n }
        if n = 3 then declare b p 4 2 (ofS 64 tEst) else b
    let b := controlledTick b p
    if frame1 < (xr - x).natAbs then writeInhibit b p (Fld.CLE_INHIBIT_POSITION p) else b

end Sys2Proof.Machine
end

