-- ==== Sys2Proof/Machine/EdgeOps.lean ====
section
/-!
DEFINITION. Sys2Proof/Machine/EdgeOps.lean: the edge compiler (spec/13_reel_drive.md R336 to R343, R353), and the supervisor's
grants, heartbeats and windows (spec/20_safety.md R525 to R534, R538).
-/

namespace Sys2Proof.Machine

/-! ### Legs and pulses (R336 to R339) -/

/-- T_c, DT, MP and CM in ticks (R337, R338). -/
def carrierTicks (b : Block) (p : Nat) : Nat := roundDiv 4000000000 (rd b (Fld.EDGE_CARRIER_CARRIER_HZ p))
def deadTicks (b : Block) (p : Nat) : Nat := 4 * rd b (Fld.EDGE_TIMING_DEAD p)
def minTicks (b : Block) (p : Nat) : Nat := 4 * rd b (Fld.EDGE_TIMING_MIN_PULSE p)
def carryTicks (b : Block) (p : Nat) : Nat := 4 * rd b (Fld.EDGE_CARRY_CARRY_MAX p)

/-- The bridge of a leg: 0 LET_A, 1 LET_B, 2 TAKE_A, 3 TAKE_B. -/
def legBridge (b : Block) (p l : Nat) : Nat := rd b ⟨Reg.EDGE_MAP p, 4 * l, 3⟩
def bridgeLeg (b : Block) (p br : Nat) : Option Nat := (List.range 4).find? fun l => legBridge b p l = br

/-- Requested upper time of a leg for voltage command u (R336). -/
def hReq (tc : Nat) (u : Int) (legA : Bool) : Int :=
  let a := sar ((tc : Int) * (32768 + u) + 32768) 16
  if legA then a else tc - a

/-- The emitted upper time e, the new carry, whether a pulse was suppressed, and whether the carry was limited (R338). -/
def emitted (tc dt mp cm : Int) (req carry : Int) : Int × Int × Bool × Bool :=
  let h := min (max (req + carry) 0) tc
  let e := if h - dt < mp then 0 else if tc - h - dt < mp then tc else h
  let c := req + carry - e
  let c' := clampI (-cm) cm c
  (e, c', (e = 0 ∨ e = tc) && h != 0 && h != tc, c' != c)

/-- An edge: stamp, bridge, state (R241). -/
abbrev Edge := Nat × Nat × Nat

/-- Edges of a change from state x to y at an instant (R339). -/
def changeEdges (br dt t x y : Nat) : List Edge :=
  if x = y then []
  else if x = 0 ∨ y = 0 then [(t, br, y)]
  else [(t, br, 0), (t + dt, br, y)]

/-- The states of a leg's pattern over a period: from s_p, and from s_p + e (R339): 1 upper, 2 lower. -/
def pattern (tc e : Int) : List (Nat × Nat) := if e = 0 then [(0, 2)] else if e = tc then [(0, 1)] else [(0, 1), (e.toNat, 2)]

/-- Edges of a pattern from an end state; the end state after it. -/
def patternEdges (br dt s : Nat) : List (Nat × Nat) → Nat → List Edge × Nat
  | [], x => ([], x)
  | (o, y) :: t, x =>
    let (es, z) := patternEdges br dt s t y
    (changeEdges br dt (s + o) x y ++ es, z)

/-! ### Sending (R241, R343) -/

/-- Edges in stamp order, ties by bridge. -/
def sortEdges (es : List Edge) : List Edge := es.mergeSort fun a c => a.1 < c.1 || (a.1 == c.1 && a.2.1 ≤ c.2.1)

/-- The 32 bytes of an EDGE cell. -/
def edgeCell (seq : Nat) (es : List Edge) : Bytes :=
  let body := es.flatMap fun x => leB 4 x.1 ++ leB 1 (x.2.1 + 8 * x.2.2)
  leB 2 seq ++ leB 1 es.length ++ zeros 1 ++ slice body 0 25 ++ zeros 3

def sendEdgeCell (b : Block) (p : Nat) (es : List Edge) : Block :=
  let seq := (b.hdlP p).edgeSeq
  bothLanes (b.updHdl p fun h => { h with edgeSeq := (seq + 1) % 65536, edgeAt := b.time.now }) p 9 (edgeCell seq es)

/-- Cells of at most 5 edges; an empty cell when none is due. -/
def sendEdges (b : Block) (p : Nat) : Nat → List Edge → Block
  | 0, _ => b
  | n + 1, es =>
    let b := sendEdgeCell b p (es.take 5)
    if es.length ≤ 5 then b else sendEdges b p n (es.drop 5)

/-! ### A period (R338 to R342) -/

def setLeg (b : Block) (p l : Nat) (carry : Int) (st : Nat) : Block :=
  wr (wrS b (Fld.EDGE_CARRY_STATE_CARRY p l) carry) (Fld.EDGE_CARRY_STATE_END_STATE p l) st

def setBridge (b : Block) (p br st : Nat) : Block := b.updEdge p fun e => { e with states := tabSet 0 e.states br st }

/-- Off edges for every bridge that is on; carries are cleared (R342). -/
def allOff (b : Block) (p s : Nat) : List Edge × Block :=
  let on := (b.edgeC p).states.filter fun (x : Nat × Nat) => x.2 ≠ 0
  let b := forEach (List.range 4) b fun b l => setLeg b p l 0 0
  (on.map fun x => (s, x.1, 0), b.updEdge p fun e => { e with states := [], testLeft := 0 })

/-- A conflict of a bridge (R341): off for the period, logged, counted and reported. -/
def bridgeConflict (b : Block) (p s br : Nat) (fromTest : Bool) : List Edge × Block :=
  let st := tabGet 0 (b.edgeC p).states br
  let b := setBridge b p br 0
  let b := match bridgeLeg b p br with | some l => setLeg b p l 0 0 | none => b
  let b := b.updEdge p fun e => { e with testLeft := 0 }
  let b := inc b (Fld.EDGE_CONFLICT_COUNT p)
  let b := driveLog (wr b (Fld.EDGE_CONFLICT_LAST_BRIDGES p) (2 ^ br)) 0x8002 p 1 (2 ^ br) s
  let b := if fromTest then b
    else
      let b := b.updSafe p fun x => { x with conflicts := (x.conflicts.filter fun t => since b t < tS) ++ [b.time.now] }
      if 3 ≤ (b.safeP p).conflicts.length then declare b p 9 3 0 else b
  (if st = 0 then [] else [(s, br, 0)], b)

/-- Voltage commands that hold at the compile instant of the period from s on: the latest issued before it (R337), or those of the stop
law. -/
def voltages (b : Block) (p s : Nat) : Int × Int :=
  match portState b p, (b.safeP p).ctl with
  | 3, some k => (k.uTake, k.uLet)
  | _, _ => (((b.edgeC p).cmds.find? fun x => x.1 + 8000 < s).map fun x => (x.2.1, x.2.2)).getD (0, 0)

/-- What a leg is to emit in the period from s on (R336, R338): upper time, new carry, whether a pulse is suppressed, and whether the carry is
limited. -/
def legRequest (b : Block) (p s l : Nat) : Int × Int × Bool × Bool :=
  let tc := carrierTicks b p
  let (uT, uL) := voltages b p s
  emitted tc (deadTicks b p) (minTicks b p) (carryTicks b p) (hReq tc (if l < 2 then uL else uT) (l % 2 = 0))
    (rdS b (Fld.EDGE_CARRY_STATE_CARRY p l))

/-- The conflict of a leg's bridge in the period (R341): with the EDGE_TEST request (true), or found by the output check (false). -/
def legConflict (b : Block) (p s l : Nat) (check : Nat) : Option Bool :=
  let br := legBridge b p l
  let x := b.edgeC p
  if x.testLeft ≠ 0 ∧ x.testBridge = br ∧ (pattern (carrierTicks b p) (legRequest b p s l).1).any (fun y => y.2 != x.testState) then some true
  else if bitOf check br then some false
  else none

/-- Compile a leg (R338, R339), unless its bridge is in conflict (R341). A period in conflict counts in neither SUPPRESSED nor CARRY_CLIP,
as in the worked example of the chapter. -/
def compileLeg (b : Block) (p s l : Nat) (check : Nat) : List Edge × Block :=
  let br := legBridge b p l
  match legConflict b p s l check with
  | some fromTest => bridgeConflict b p s br fromTest
  | none =>
    let (e, c, sup, clip) := legRequest b p s l
    let b := when sup b fun b => inc b (Fld.EDGE_COUNT_SUPPRESSED p)
    let b := when clip b fun b => inc b (Fld.EDGE_COUNT_CARRY_CLIP p)
    let (es, st) := patternEdges br (deadTicks b p) s (pattern (carrierTicks b p) e) (tabGet 0 (b.edgeC p).states br)
    (es, setLeg (setBridge b p br st) p l c st)

/-- A period in which nothing is driven (R342); a conflict that falls in it is still counted and logged (R351). -/
def compileOff (b : Block) (p s : Nat) (check : Nat) : List Edge × Block :=
  let (es, b) := (List.range 4).foldl (fun (a : List Edge × Block) l => match legConflict a.2 p s l check with
    | some fromTest => let (es, b) := bridgeConflict a.2 p s (legBridge a.2 p l) fromTest; (a.1 ++ es, b)
    | none => a) ([], b)
  let (e2, b) := allOff b p s
  (es ++ e2, b)

/-- An EDGE_TEST request on a bridge with no mapped leg, or on a bridge freed by the map, is its sole source (R341, R351). -/
def compileTest (b : Block) (p s : Nat) : List Edge × Block :=
  let x := b.edgeC p
  if x.testLeft = 0 ∨ (bridgeLeg b p x.testBridge).isSome then ([], b)
  else
    (changeEdges x.testBridge (deadTicks b p) s (tabGet 0 x.states x.testBridge) x.testState, setBridge b p x.testBridge x.testState)

/-- Bridges without a leg and without a request go off. -/
def compileIdle (b : Block) (p s : Nat) : List Edge × Block :=
  let x := b.edgeC p
  let on := x.states.filter fun (y : Nat × Nat) => y.2 ≠ 0 && (bridgeLeg b p y.1).isNone && !(x.testLeft != 0 && x.testBridge = y.1)
  (on.map fun y => (s, y.1, 0), forEach on b fun b y => setBridge b p y.1 0)

/-- Compile the period whose compile instant, 2.0 µs before its start, has come (R337 to R343).
`lockstep` says that the shadow compiler differs (cause 1), `check` is the mask of bridges that fail the output check. -/
def compilePeriod (b : Block) (p : Nat) (lockstep : Bool) (check : Nat) : Block :=
  let tc := carrierTicks b p
  let s := (b.time.now + 8000) / tc * tc
  if s ≤ (b.edgeC p).last then b
  else
    let b := b.updEdge p fun e => { e with last := s }
    let drive : Bool := portState b p = 2 || portState b p = 3
    if !linkUp b p then (allOff b p s).2
    else if lockstep then
      let (es, b) := allOff b p s
      declare (sendEdges b p 4 (sortEdges es)) p 1 3 0
    else if !drive then
      let (es, b) := compileOff b p s check
      sendEdges b p 4 (sortEdges es)
    else
      let (es, b) := (List.range 4).foldl (fun (a : List Edge × Block) l =>
        let (es, b) := compileLeg a.2 p s l check
        (a.1 ++ es, b)) ([], b)
      let (e2, b) := compileTest b p s
      let (e3, b) := compileIdle b p s
      let b := b.updEdge p fun e => { e with testLeft := e.testLeft - 1 }
      sendEdges b p 8 (sortEdges (es ++ e2 ++ e3))

/-- Every bridge of the slice is held both off under R342 (R340). -/
def bridgesOff (b : Block) (p : Nat) : Bool :=
  (portState b p ≤ 1 || !linkUp b p) && (b.edgeC p).states.all fun (x : Nat × Nat) => x.2 = 0

/-- A write of EDGE_CARRIER or EDGE_TIMING (R340): discarded unless every bridge is off and T_c ≥ 4 (MP + DT) after it. -/
def writeEdgeTiming (b : Block) (p addr data : Nat) : Block :=
  if !bridgesOff b p then b
  else
    let b' := writeFields b addr data true
    if carrierTicks b' p < 4 * (minTicks b' p + deadTicks b' p) then b
    else forEach (List.range 4) b' fun b l => wr b (Fld.EDGE_CARRY_STATE_CARRY p l) 0

/-- A write of EDGE_MAP (R353): discarded where it names one bridge for two legs. -/
def writeEdgeMap (b : Block) (p data : Nat) : Block :=
  let bs := (List.range 4).map fun l => bitsOf data (4 * l) 3
  if bs.eraseDups.length ≠ 4 then b else writeFields b (Reg.EDGE_MAP p) data

/-- A write of EDGE_TEST: taken while CUR_TAKE and CUR_LET are in MANUAL under a grant. -/
def writeEdgeTest (b : Block) (p data : Nat) : Block :=
  let c := b.cle p
  let man (l : Nat) : Bool := loopMode (loopOf c l) = 1
  let st := bitsOf data 4 2
  if granted b p ∧ man 4 ∧ man 5 ∧ (st = 1 ∨ st = 2) ∧ bitsOf data 16 16 ≠ 0 then
    b.updEdge p fun e => { e with testBridge := bitsOf data 0 3, testState := st, testLeft := bitsOf data 16 16 }
  else b

/-! ### Grants (R526, R538) -/

/-- The permit test of a port in SAFE (R538): its land reads low while each channel drops its permit; a failure is a channel fault. -/
def permitTest (b : Block) (p : Nat) (pass : Bool) : Block :=
  if pass then b.updSafe p fun s => { s with permitAt := some b.time.now } else raiseFault b (p / 16) 3

/-- The test has passed within the last 24 h. -/
def permitFresh (b : Block) (p : Nat) : Bool :=
  match (b.safeP p).permitAt with | some t => since b t ≤ 86400 * tS | none => false

/-- The conditions of R526 but the permit test. -/
def grantOk (b : Block) (p : Nat) : Bool :=
  let d := p / 16
  portState b p = 1 && (b.safeP p).latched.isEmpty && rdB b (Fld.SAFE_STATUS_CH_A_OK d) && rdB b (Fld.SAFE_STATUS_CH_B_OK d)
    && rdB b (Fld.HDL_STATUS_LOCKED p)
    && (rdB b (Fld.EDGE_TEN_SRC_LET_HEALTHY p) || rdB b (Fld.SAFE_PORT_CTRL_SENSORLESS_RUN d (p % 16)))
    && rd b (Fld.HDL_XPORT_STATE p) ≤ 1 && !rdB b (Fld.HDL_XPORT_SAFE_STOP_SEEN p)
    && since b (b.safeP p).hbA ≤ 600000 && since b (b.safeP p).hbB ≤ 440000

/-- Every mapped bridge exists at the transport (R353). -/
def bridgesFit (b : Block) (p : Nat) : Bool := (List.range 4).all fun l => legBridge b p l < (b.hdlP p).bridges

/-- The grant (R526, R328): the loops leave HOLD, the current loops with u_A = 0; MOTION releases the brakes (R353). -/
def grantMotion (b : Block) (p : Nat) (pass : Bool) : Block :=
  if !grantOk b p then b
  else
    let b := if permitFresh b p then b else permitTest b p pass
    if portState b p ≠ 1 ∨ !permitFresh b p then b
    else
      let b := enterPort b p 2
      let b := forEach [1, 2, 3] b fun b l => releaseLoop b p l false
      let b := forEach [4, 5] b fun b l => releaseLoop b p l true
      let b := b.updSafe p fun s => { s with own := 0, overLet := 0, overTake := 0 }
      if bridgesFit b p then sendMsg b p 7 (leB 1 1) else b

/-- The slice gives the grant back after braking (R526); a tuning or capture that runs ends with SAFE_STOP (R537). -/
def giveBack (b : Block) (p : Nat) : Block :=
  if portState b p ≠ 2 ∨ writing b p then b
  else stopTuning (enterPort (dropLoops (sendMsg b p 7 (leB 1 0)) p) p 1) p

/-! ### Heartbeats and windows (R527, R529, R531) -/

/-- A CLE heartbeat (R527, R529). -/
def onHeartbeat (b : Block) (p : Nat) (cleB own crcOk : Bool) : Block :=
  if !linkUp b p then b
  else
    let b := b.updSafe p fun s => if cleB then { s with hbB := b.time.now } else { s with hbA := b.time.now }
    let b := when (!crcOk) b fun b => heartbeatLoss b p
    let n := if own && portState b p != 2 then (b.safeP p).own + 1 else 0
    let b := b.updSafe p fun s => { s with own := n }
    if n = 2 then declare b p 8 3 0 else b

/-- A heartbeat's deadline passes: 10 µs after a CLE-B tick, 150 µs after CLE-A's last (R529). -/
def heartbeatDeadline (b : Block) (p : Nat) (cleB : Bool) : Block :=
  let s := b.safeP p
  if !linkUp b p then b
  else if cleB then (if 440000 < since b s.hbB then heartbeatLoss b p else b)
  else if 600000 < since b s.hbA then heartbeatLoss b p
  else b

/-- The 100 µs window of cause 5 (R531): each reel's turn over it, times its supervised radius, against V_LIMIT. -/
def overspeed (b : Block) (p : Nat) : Block :=
  match (b.cle p).sense with
  | a :: _ :: _ :: _ :: e :: _ =>
    let v (d : Int) (r : Nat) : Nat := d.natAbs * 6283185307 * r * 20 / (4096 * 1000000000)
    let vT := v (angDiff a.angTake e.angTake) (rSup b p (rTake b p))
    let vL := v (angDiff a.angLet e.angLet) (rSup b p (rLet b p))
    let lim := 2 * rd b (Fld.SAFE_LIMITS_V_LIMIT (p / 16))
    let nT := if lim < vT then (b.safeP p).overTake + 1 else 0
    let nL := if lim < vL then (b.safeP p).overLet + 1 else 0
    let b := b.updSafe p fun s => { s with overTake := nT, overLet := nL }
    if nT = 3 ∨ nL = 3 then declare b p 5 2 (max vT vL) else b
  | _ => b

/-- The condition of a latched cause still holds (R532). -/
def causeHolds (b : Block) (p c : Nat) : Bool :=
  let s := b.safeP p
  match c with
  | 2 => linkUp b p && (600000 < since b s.hbA || 440000 < since b s.hbB)
  | 4 => s.overT != 0
  | 5 => s.overLet != 0 || s.overTake != 0
  | 8 => s.own != 0
  | 10 => b.sl.faultLow
  | 11 => rdB b (Fld.SYS_D2D_LOST 0) || rdB b (Fld.SYS_D2D_LOST 1)
  | _ => false

/-- A write of SAFE_PORT_CTRL (R532): CLEAR removes the latched causes, unless one still holds or the port moves. -/
def writeSafeCtrl (b : Block) (p data : Nat) : Block :=
  let b := writeFields b (Reg.SAFE_PORT_CTRL (p / 16) (p % 16)) data
  let s := b.safeP p
  if bitOf data 0 ∧ portState b p ≤ 1 ∧ !(s.latched.any (causeHolds b p)) then
    let b := b.updSafe p fun s => { s with latched := [] }
    leaveHard (wrB b (Fld.SAFE_PORT_STATE_LATCHED (p / 16) (p % 16)) false) p
  else b

/-- FAULT_N is driven low, or released, from outside (R534, R602). -/
def faultExternal (b : Block) (low : Bool) : Block :=
  if low then
    let b := { b with sl := { b.sl with faultLow := true } }
    let b := forEach [0, 1] b fun b d => wr (wr b (Fld.SAFE_STATUS_FAULT_N_IN d) 0) (Fld.SAFE_STATUS_FAULT_CAUSE d)
      (if rdB b (Fld.SAFE_STATUS_FAULT d) then rd b (Fld.SAFE_STATUS_FAULT_CAUSE d) else 5)
    forEach (List.range 32) (setEvent b 6) fun b p => declare b p 10 3 0
  else
    let b := { b with sl := { b.sl with faultLow := false } }
    if faultNLow b then b
    else forEach (List.range 32) (forEach [0, 1] b fun b d => wr b (Fld.SAFE_STATUS_FAULT_N_IN d) 1) leaveHard

/-- A comparison of a die's channels (R529, R538): a difference at two in a row, or a clock, readback or test fault, is a fault. -/
def compareChannels (b : Block) (die : Nat) (differ : Bool) (fault : Nat) : Block :=
  let was := tabGet false b.sl.diff die
  let b := { b with sl := { b.sl with diff := tabSet false b.sl.diff die differ } }
  if fault ≠ 0 then raiseFault b die fault
  else if differ && was then raiseFault b die 1
  else b

/-- 10 µs before L of a run, the head is not settled (R327, UNSETTLED): nothing is written. -/
def unsettledCheck (b : Block) (p : Nat) : Block :=
  let w := b.wport p
  match w.segs.find? fun s => s.run = w.run with
  | some s =>
    if w.inRun ∧ reached b (s.l - 40000) ∧ !reached b s.l ∧ (b.cle p).settled < 64 then
      writeInhibit b p (Fld.CLE_INHIBIT_OFFTRACK p) true
    else b
  | none => b

end Sys2Proof.Machine
end

