-- ==== Sys2Proof/Machine/DetOps.lean ====
section
/-!
DEFINITION. Sys2Proof/Machine/DetOps.lean: detection and decoding of a slot (spec/10_read_channel.md R269 to R272): the 16-state
max-log-MAP detector, the soft descrambler, the codeword header and the layered offset min-sum decoder. LLRs are L = ln(P(0) / P(1))
in units of 0.5.
-/

namespace Sys2Proof.Machine

/-! ### The detector (R269) -/

/-- What a detector works with: target, predictor, and the variance of R269 times 2^14 as `num / den`; whether the rounding of
output k goes up is `up k` (log entry 53). -/
structure DetParams where
  t : Int × Int × Int := (64, 0, -64)
  p : Int × Int := (0, 0)
  num : Nat := 1
  den : Nat := 1
  deriving DecidableEq, Repr

/-- a of a magnetization: 2m − 1 (R259). -/
def aOf (m : Bool) : Int := if m then 1 else -1
/-- Symbol i of a state: bit 0 is a_(k−1), bit 3 is a_(k−4). -/
def aAt (s i : Nat) : Int := aOf (s.testBit i)

/-- e − ê along a branch, times 128: outputs z_k, z_(k−1) and z_(k−2) with their flags, the state and symbol a_k. The error of a
flagged output is 0 (R267, R269). -/
def branchError (d : DetParams) (z0 z1 z2 : Int × Bool) (s : Nat) (a : Bool) : Int :=
  let (t0, t1, t2) := d.t
  let e0 := z0.1 - (t0 * aOf a + t1 * aAt s 0 + t2 * aAt s 1)
  let e1 := if z1.2 then 0 else z1.1 - (t0 * aAt s 0 + t1 * aAt s 1 + t2 * aAt s 2)
  let e2 := if z2.2 then 0 else z2.1 - (t0 * aAt s 1 + t1 * aAt s 2 + t2 * aAt s 3)
  128 * e0 - d.p.1 * e1 - d.p.2 * e2

/-- A branch's metric in units of 1 / (2 · num): (e − ê)², absent for a flagged output, and the prior of y = 1. -/
def branchCost (d : DetParams) (z0 z1 z2 : Int × Bool) (prior : Int) (s : Nat) (a : Bool) : Int :=
  let w := branchError d z0 z1 z2 s a
  (if z0.2 then 0 else (d.den : Int) * (w * w)) + if a != s.testBit 0 then prior * (d.num : Int) else 0

/-- The metrics of the 32 branches of one output: entry 2s + a. -/
def branchCosts (d : DetParams) (z0 z1 z2 : Int × Bool) (prior : Int) : List Int :=
  (List.range 32).map fun i => branchCost d z0 z1 z2 prior (i / 2) (i % 2 = 1)

/-- Branch metrics of a stretch of outputs; what lies before the stretch counts as flagged. -/
def costsOf (d : DetParams) : Int × Bool → Int × Bool → List (Int × Bool) → List Int → List (List Int)
  | _, _, [], _ => []
  | z1, z2, z0 :: t, pr => branchCosts d z0 z1 z2 (pr.headD 0) :: costsOf d z0 z1 t (pr.drop 1)

/-- State metrics after an output: state s' = (2s + a) mod 16 keeps the smaller of its two branches. -/
def alphaStep (al c : List Int) : List Int :=
  (List.range 16).map fun s' =>
    let s := s' / 2
    let a := s' % 2
    min (al.getD s 0 + c.getD (2 * s + a) 0) (al.getD (s + 8) 0 + c.getD (2 * (s + 8) + a) 0)

/-- State metrics before an output, from those after it. -/
def betaStep (c be : List Int) : List Int :=
  (List.range 16).map fun s =>
    min (c.getD (2 * s) 0 + be.getD (2 * s % 16) 0) (c.getD (2 * s + 1) 0 + be.getD ((2 * s + 1) % 16) 0)

/-- Smallest of a list of metrics. -/
def minOf : List Int → Int
  | [] => 0
  | x :: t => t.foldl min x

/-- min over y = 1 less min over y = 0 of the paths through an output. -/
def softOut (al c be : List Int) : Int :=
  let path (i : Nat) : Int := al.getD (i / 2) 0 + c.getD i 0 + be.getD (i % 16) 0
  let is (y : Bool) : List Int := ((List.range 32).filter fun i => (decide (i % 2 = 1) != (i / 2).testBit 0) == y).map path
  minOf (is true) - minOf (is false)

/-- Metrics before each output. -/
def alphas (al : List Int) : List (List Int) → List (List Int)
  | [] => []
  | c :: t => al :: alphas (alphaStep al c) t
/-- Metrics after each output. -/
def betas (be : List Int) (cs : List (List Int)) : List (List Int) :=
  (cs.foldr (fun c (s : List Int × List (List Int)) => (betaStep c s.1, s.1 :: s.2)) (be, [])).2

/-- One window: `pre` outputs of warm-up before and `post` after the `len` outputs that it decides; at both ends every state starts
alike. -/
def windowOut (cs : List (List Int)) (pre len : Nat) : List Int :=
  let z := List.replicate 16 (0 : Int)
  let al := alphas z cs
  let be := betas z cs
  (((al.zip (cs.zip be)).map fun x => softOut x.1 x.2.1 x.2.2).drop pre).take len

/-- n / d rounded down, or up where `up` holds and it is not a whole number. -/
def roundFree (up : Bool) (n : Int) (d : Nat) : Int :=
  if d = 0 then 0 else Int.fdiv n d + if up && Int.fmod n d != 0 then 1 else 0

/-- LLRs of the outputs from `lo` to `lo + n − 1` (R269): windows of 128 outputs counted from preamble detection, with 64 of warm-up
on each side. `zs` holds outputs with their flags from output `first` on; `prior` holds the priors of y from `lo` on. -/
def detect (d : DetParams) (up : Nat → Bool) (zs : List (Int × Bool)) (first lo n : Nat) (prior : List Int) : List Int :=
  let pr := List.replicate (lo - first) 0 ++ prior
  let cs := costsOf d (0, true) (0, true) zs pr
  let ws := (List.range ((lo + n + 127) / 128 - lo / 128)).map (· + lo / 128)
  let raw := ws.flatMap fun w =>
    let a := max first (128 * w - 64)
    let b := 128 * w + 192
    let from_ := max (128 * w) first
    windowOut ((cs.drop (a - first)).take (b - a)) (from_ - a) (128 * w + 128 - from_)
  let at_ := max (128 * (lo / 128)) first
  (((raw.drop (lo - at_)).take n).zipIdx).map fun x => clampI (-31) 31 (roundFree (up (lo + x.2)) x.1 (max 1 d.num))

/-! ### The descrambler (R270) -/

/-- Min-sum box-plus. -/
def boxPlus (a b : Int) : Int :=
  let m : Int := (min a.natAbs b.natAbs : Nat)
  if decide (a < 0) != decide (b < 0) then -m else m

/-- LLRs of u from those of y, with y[−1], y[−2] and y[−3]: u_i = y_i XOR y_(i−2) XOR y_(i−3). -/
def softU (y1 y2 y3 : Int) : List Int → List Int
  | [] => []
  | y :: t => boxPlus y (boxPlus y2 y3) :: softU y y1 y2 t

/-- Drop the augmenting bit of each of n words of 33. -/
def dropAug {α : Type} : Nat → List α → List α
  | 0, _ => []
  | n + 1, l => (l.drop 1).take 32 ++ dropAug n (l.drop 33)
/-- Put an augmenting bit's value before each of n words of 32. -/
def putAug {α : Type} (v : α) : Nat → List α → List α
  | 0, _ => []
  | n + 1, l => v :: (l.take 32 ++ putAug v n (l.drop 32))

/-- The 17,472 slot-bit LLRs of the 18,018 y LLRs of a slot. -/
def slotLlrs (ys : List Int) : List Int := dropAug 546 (softU 31 31 31 ys)

/-- Branch metrics of a slot's register for a prior on u: entry 2s + y of state s = (y_(i−1), y_(i−2), y_(i−3)), bit 0 the newest. -/
def regCosts (l : Int) : List Int :=
  (List.range 16).map fun i => let s := i / 2
    if decide (i % 2 = 1) != (s.testBit 1 != s.testBit 2) then l else 0
def regAlpha (al c : List Int) : List Int :=
  (List.range 8).map fun s' => let s := s' / 2; let y := s' % 2
    min (al.getD s 0 + c.getD (2 * s + y) 0) (al.getD (s + 4) 0 + c.getD (2 * (s + 4) + y) 0)
def regBeta (c be : List Int) : List Int :=
  (List.range 8).map fun s => min (c.getD (2 * s) 0 + be.getD (2 * s % 8) 0) (c.getD (2 * s + 1) 0 + be.getD ((2 * s + 1) % 8) 0)

/-- Priors of y from the decoder's extrinsics on the 17,472 slot bits: max-log-MAP over the 8-state register, which is 0 at the start
of the slot; augmenting bits have a prior of 0. A metric of 2^20 bars the other start states. -/
def priorsOf (ext : List Int) : List Int :=
  let cs := (putAug 0 546 ext).map regCosts
  let z : List Int := 0 :: List.replicate 7 1048576
  let al := (cs.foldl (fun (s : List Int × List (List Int)) c => (regAlpha s.1 c, s.1 :: s.2)) (z, [])).2.reverse
  let be := (cs.foldr (fun c (s : List Int × List (List Int)) => (regBeta c s.1, s.1 :: s.2)) (List.replicate 8 0, [])).2
  (al.zip (cs.zip be)).map fun (a, c, e) =>
    let path (i : Nat) : Int := a.getD (i / 2) 0 + c.getD i 0 + e.getD (i % 8) 0
    minOf (((List.range 16).filter fun i => i % 2 = 1).map path) - minOf (((List.range 16).filter fun i => i % 2 = 0).map path)

/-! ### The codeword header (R270) -/

/-- A hard decision: a value of 0 decides 0 (R269). -/
def hard (l : Int) : Bool := l < 0

/-- Bytes of a bit string, most significant bit first. -/
def packMsb : Nat → List Bool → Bytes
  | 0, _ => []
  | n + 1, bs => BitVec.ofNat 8 ((bs.take 8).foldl (fun a x => 2 * a + b2n x) 0) :: packMsb n (bs.drop 8)

/-- HDR_OK (R270): HCHK matches, KIND is not reserved (R178), and SDS and ROW are in range (R177). -/
def headerOk (h : Bytes) : Bool :=
  fieldAt h 6 2 = hchk (slice h 0 6) && fieldAt h 4 1 / 16 ≤ 5 && fieldAt h 4 1 % 16 ≤ 15 && fieldAt h 5 1 < 240

/-! ### Layered offset min-sum (R271) -/

/-- Shifts of the blocks of a layer: 33 of block row 0, 34 of block row 1 (R185). -/
def layerShifts (q : Nat) : List Nat := if q = 0 then List.replicate 33 0 else c1Shift ++ [300, 0]

/-- Check message magnitudes: the least of the others, less the offset of 1 unit, never below 0, in a signed 6-bit range. -/
def checkMags (ms : List Nat) : List Nat :=
  let lo := ms.foldl min 1048576
  let at_ := ms.findIdx (· = lo)
  let next := (ms.eraseIdx at_).foldl min 1048576
  ms.zipIdx.map fun x => min 31 ((if x.2 = at_ then next else lo) - 1)

/-- One check: posterior values of its bits and its messages, to new posterior values and messages. -/
def checkUpdate (post msg : List Int) : List (Int × Int) :=
  let q := List.zipWith (fun a r => a - r) post msg
  let neg : Bool := (q.filter (· < 0)).length % 2 = 1
  List.zipWith (fun x (m : Nat) =>
    let r : Int := if neg != decide (x < 0) then -(m : Int) else m
    (clampI (-128) 127 (x + r), r)) q (checkMags (q.map Int.natAbs))

/-- Transpose rows of equal length n. -/
def columns {α : Type} (n : Nat) (rows : List (List α)) : List (List α) :=
  (rows.foldr (fun r s => List.zipWith (· :: ·) r s) (List.replicate n []))

/-- Rotate a block: index i takes entry (i + s) mod 512. -/
def rotBlock {α : Type} (l : List α) (s : Nat) : List α := l.drop s ++ l.take s

/-- One layer over the posterior blocks, with its 512 checks' messages: blocks rotated so that check i's bits stand at index i. -/
def layerStep (q : Nat) (post : List (List Int)) (msgs : List (List Int)) : List (List Int) × List (List Int) :=
  let sh := layerShifts q
  let n := sh.length
  let rows := columns 512 (List.zipWith rotBlock (post.take n) sh)
  let new := List.zipWith checkUpdate rows msgs
  let blocks := columns n new
  (List.zipWith (fun b s => rotBlock (b.map (·.1)) (512 - s)) blocks sh ++ post.drop n, new.map fun r => r.map (·.2))

/-- The 34 blocks of 512 values of a codeword. -/
def blocksOf {α : Type} : Nat → List α → List (List α)
  | 0, _ => []
  | n + 1, l => l.take 512 :: blocksOf n (l.drop 512)

/-- Messages of a layer, zero before the first iteration. -/
def msgsOr (m : List (List Int)) (n : Nat) : List (List Int) := if m = [] then List.replicate 512 (List.replicate n 0) else m

/-- The messages of a layer by block and bit, blocks in order. -/
def msgBlocks (q : Nat) (m : List (List Int)) : List (List Int) :=
  let sh := layerShifts q
  List.zipWith (fun b s => rotBlock b (512 - s)) (columns sh.length m) sh

/-- Posterior values: channel values and the check messages kept (R272). -/
def postOf (chan : List Int) (s : LdpcState) : List (List Int) :=
  let add (x y : List (List Int)) : List (List Int) := List.zipWith (List.zipWith (fun a c => clampI (-128) 127 (a + c))) x y
  let b := blocksOf 34 chan
  let b := if s.m0 = [] then b else add (b.take 33) (msgBlocks 0 s.m0) ++ b.drop 33
  if s.m1 = [] then b else add b (msgBlocks 1 s.m1)

/-- Iterations until the syndrome of the posterior decisions is zero, at most n. -/
def iterate : Nat → Nat → List (List Int) → LdpcState → Bool × Nat × List (List Int) × LdpcState
  | 0, i, post, s => (false, i, post, s)
  | n + 1, i, post, s =>
    let (p0, m0) := layerStep 0 post (msgsOr s.m0 33)
    let (p1, m1) := layerStep 1 p0 (msgsOr s.m1 34)
    let s' : LdpcState := { m0 := m0, m1 := m1 }
    if c1Ok (p1.flatten.map hard) then (true, i + 1, p1, s') else iterate n (i + 1) p1 s'

/-- A pass of the decoder (R271, R272): converged, iterations, posterior values and messages. Before the first iteration of the
codeword the channel's own decisions are tried. -/
def ldpcPass (chan : List Int) (s : LdpcState) (n : Nat) : Bool × Nat × List Int × LdpcState :=
  if s.m0 = [] ∧ c1Ok (chan.map hard) then (true, 0, chan, s)
  else
    let (ok, i, post, s') := iterate n 0 (postOf chan s) s
    (ok, i, post.flatten, s')

end Sys2Proof.Machine
end

