-- ==== Sys2Proof/Machine/SampOps.lean ====
section
/-!
DEFINITION. Sys2Proof/Machine/SampOps.lean: one reader of the read channel, sample by sample (spec/10_read_channel.md R255, R258 to
R268): placing raw samples, the front end, adaptation, timing recovery, sync marks and framing. Rounding, interpolator coefficients and
the detectors' scales that the spec does not state are free values of Config; the other conventions are those of log entry 53.
-/

namespace Sys2Proof.Machine

/-- What a reader's processing takes from its slice: instance, stream (S, P and nominal advance per bit), adaptation enables, the run
being verified (R262), and what a reader loads at preamble detection: RDCH_LOOP, analog gain, bank, target, taps and predictor. -/
structure ReadCfg where
  port : Nat := 0
  reader : Nat := 0
  s : Nat := 0
  p : Nat := 2
  adv : Nat := 16777216
  adaptEq : Bool := true
  adaptNp : Bool := true
  adaptGain : Bool := true
  verify : Option (Nat × Nat) := none
  loop : Nat := 0
  gain : Nat := 0
  bank : Nat := 0
  target : Int × Int × Int := (64, 0, -64)
  taps : List Int := []
  p1 : Int := 0
  p2 : Int := 0
  deriving DecidableEq, Repr

/-- What a reader's processing brings up. -/
inductive ReadEvent where
  /-- In tracking (R263); lock lost (R265); back to searching without having been locked to a run (R262). -/
  | locked
  | unlocked
  | dropped
  | syncMiss
  | slot (r : SlotRec)
  /-- The last channel bit of a segment has passed (R261). -/
  | segEnd
  deriving DecidableEq, Repr

/-- 2^24: positions along the raw samples are in units of 2^-24. -/
def rawUnit : Nat := 16777216

/-- A rounding of a reader (log entry 53). -/
def rounded (c : ReadCfg) (r : Reader) (site : Rounding) (n : Int) (d : Nat) : Int :=
  roundFree (Config.roundUp site c.port c.reader r.serial) n d

/-- Loom time of an instant. -/
def loomAt (c : ReadCfg) (pos : Int) : Nat := c.s + pos.toNat * c.p / rawUnit

/-! ### Raw samples (R255, R266) -/

/-- A sample taken at `t` is flagged for a GAIN change (R266). -/
def gainFlag (stamps : List Nat) (t : Nat) : Bool := stamps.any fun x => x ≤ t + 8 && t ≤ x + 200

/-- The samples of a cell from sample j on: 6-bit two's-complement values, each LOST with value 0 where the cell is lost, CLIPPED at −32
or +31 (R235, R255). -/
def cellSamples (c : ReadCfg) (r : Reader) (j : Nat) (cell : Option Bytes) : List RawS :=
  let v := (cell.map leN).getD 0
  (List.range 42).map fun i =>
    let x := toS 6 (bitsOf v (6 * i) 6)
    let g := gainFlag r.stamps (c.s + (j + i) * c.p)
    if cell.isNone then { v := 0, lost := true, flag := true } else { v := x, clip := x = -32 || x = 31, flag := g }

/-- The samples of the cell that begins at sample j join a reader's. -/
def addSamples (c : ReadCfg) (r : Reader) (j : Nat) (cell : Option Bytes) : Reader :=
  let new := cellSamples c r j cell
  let clips := (new.zipIdx.filter fun x => x.1.clip).map fun x => j + x.2
  { r with raw := r.raw ++ new, rawAt := if r.raw.isEmpty then j else r.rawAt,
           clipAt := (r.clipAt ++ clips).filter fun k => j + 42 ≤ k + 16384 }

/-! ### Front end (R258) -/

/-- The 8 raw samples of the next interpolated sample, where all have come. -/
def rawWindow (r : Reader) : Option (List RawS) :=
  let i := Int.fdiv r.pos rawUnit - 3
  if i < r.rawAt then none
  else
    let w := (r.raw.drop (i.toNat - r.rawAt)).take 8
    if w.length = 8 then some w else none

/-- Baseline, interpolator and digital gain: the next sample of one per channel bit. -/
def interpolate (c : ReadCfg) (r : Reader) (w : List RawS) : XOut :=
  let ph := (Int.fmod r.pos rawUnit / 262144).toNat
  let acc := (w.zipIdx.map fun (x, k) => Config.interpTap ph k * (64 * x.v - r.base)).sum
  let x := clampI (-128) 127 (rounded c r .interpolation acc 4194304)
  let here := Int.fdiv r.pos rawUnit
  let passed := (r.raw.zipIdx.filter fun (x, k) => x.clip && r.rawSeen < ((r.rawAt + k : Nat) : Int) && ((r.rawAt + k : Nat) : Int) ≤ here).length
  { x := x * r.g, flag := w.any (·.flag), clip := w.any (·.clip), clips := passed, at_ := r.pos }

/-- Gain steps whose STAMP an instant has reached take effect on the digital gain (R261): g is multiplied by 10^(−n / 40), the greatest
v with v^40 · 10^n ≤ g^40 or the next. -/
def scaleGain (c : ReadCfg) (r : Reader) (n : Int) : Nat :=
  let fits (v : Nat) : Bool := if 0 ≤ n then v ^ 40 * 10 ^ n.toNat ≤ r.g ^ 40 else v ^ 40 ≤ r.g ^ 40 * 10 ^ (-n).toNat
  let v := ((List.range 8192).reverse.find? fits).getD 0
  min 4095 (max 256 (v + if Config.roundUp .gainStep c.port c.reader r.serial then 1 else 0))
def gainsDue (c : ReadCfg) (r : Reader) : Reader :=
  let t := loomAt c r.pos
  (r.gains.filter fun x => x.1 ≤ t).foldl (fun r x => { r with g := scaleGain c r x.2, serial := r.serial + 1 })
    { r with gains := r.gains.filter fun x => t < x.1 }

/-! ### Preamble detection (R262) -/

/-- The quarter-rate pattern of R173 in ±1. -/
def patAt (i : Nat) : Int := if i % 4 < 2 then 1 else -1

/-- Correlation of the last 64 samples with the pattern whose entry at the latest sample is number `phi`. -/
def correlation (xs : List XOut) (phi : Nat) : Int := (((xs.take 64).zipIdx).map fun (x, i) => x.x * patAt (phi + 64 - i)).sum

/-- The alignment with the largest correlation. -/
def bestPhi (xs : List XOut) : Nat × Int :=
  ((List.range 4).map fun f => (f, correlation xs f)).foldl (fun a x => if a.2 < x.2 then x else a) (0, correlation xs 0)

/-- Segment of the verified run and channel bit from its first preamble bit, at a loom time (R262). -/
def verifyBit (v : Nat × Nat) (t : Nat) : Nat × Int :=
  let tw : Int := (max 1 v.2 : Nat)
  let d : Int := (t : Int) - v.1
  let m := (Int.fdiv (2 * d + tw) (2 * tw)).toNat
  (m, Int.fdiv ((d - m * tw) * segBits) tw)

/-- The search covers this instant, and acquisition on a preamble detected here is allowed (R262): in verify within 4,096 bits of the
expected arrival and not past preamble bit 704; on restore always. -/
def mayDetect (c : ReadCfg) (r : Reader) : Bool :=
  match c.verify with
  | some v => let b := (verifyBit v (loomAt c r.pos)).2; -4096 ≤ b && b ≤ 704
  | none => true

/-- Preamble detection: bank, target, predictor and loop settings are loaded, and the search for sync mark 0 is set up (R259, R263,
R264, R282). -/
def detected (c : ReadCfg) (r : Reader) (phi : Nat) : Reader :=
  { r with
    phase := 1, n := 1, phi := phi, loop := c.loop, bank := c.bank, loaded := true, taps := c.taps, p1 := c.p1, p2 := c.p2,
    target := c.target, freq := 0, paths := (List.range 16).map fun s => (0, (List.range 17).map fun i => s.testBit i),
    young := [], outs := [], decided := 0, flagZ := 0, errs := [], flagRun := 0, freqRun := 0, missed := 0, synced := false,
    want := some {}, frames := [], sched := none }

/-! ### Acquisition (R263) -/

/-- The magnetization of preamble bit k after preamble detection, as a = ±1. -/
def preambleA (r : Reader) (k : Int) : Int := patAt (((r.phi : Int) + k) % 4).toNat
/-- The ideal sample of known symbols. -/
def idealOf (t : Int × Int × Int) (a0 a1 a2 : Int) : Int := t.1 * a0 + t.2.1 * a1 + t.2.2 * a2
def preambleD (r : Reader) (k : Int) : Int := idealOf r.target (preambleA r k) (preambleA r (k - 1)) (preambleA r (k - 2))

/-- Bit 31: phase and digital gain are set from bits 0 to 31. -/
def zeroPhaseStart (c : ReadCfg) (r : Reader) : Reader :=
  let xs := ((r.xs.take 32).map (·.x)).reverse
  { r with pos := r.pos + Config.zeroPhase xs * 262144,
           g := if c.adaptGain then min 4095 (max 256 (Config.zeroGain xs)) else r.g }

/-- Fields of RDCH_LOOP. -/
def loopField (r : Reader) (i : Nat) : Nat := bitsOf r.loop (4 * i) 4

/-- The timing loop on an unflagged output with error `e` (R260, R263): gains 2^-kp and 2^-ki. -/
def timingStep (c : ReadCfg) (r : Reader) (e : Int) (kp ki : Nat) : Reader :=
  let lim : Int := (c.adv / 50 : Nat)
  let f := clampI (-lim) lim (r.freq + rounded c r .timing e (2 ^ ki))
  { r with freq := f, pos := r.pos + rounded c { r with serial := r.serial + 1 } .timing e (2 ^ kp), serial := r.serial + 2 }

/-- The digital gain on an output with ideal sample d ≠ 0 (R260): step 2^-mu. -/
def gainAdapt (c : ReadCfg) (r : Reader) (z d : Int) (mu : Nat) : Reader :=
  if !c.adaptGain ∨ d = 0 then r
  else
    let g := (r.g : Int) - rounded c r .digitalGain (Config.gainError ((z.natAbs : Int) - d.natAbs)) (2 ^ mu)
    { r with g := (clampI 256 4095 g).toNat, serial := r.serial + 1 }

/-- High-gain acquisition on output k of the known preamble (R263). -/
def acquireStep (c : ReadCfg) (r : Reader) (k : Int) (y : ZOut) (z1 : Int) : Reader :=
  if k < 32 ∨ 256 ≤ k then r
  else if y.flag then r
  else
    let r := timingStep c r (Config.timingError y.z z1 (preambleD r k) (preambleD r (k - 1))) (loopField r 0) (loopField r 1)
    if y.clip then r else gainAdapt c r y.z (preambleD r k) (loopField r 6 - 3)

/-! ### Tracking (R260, R263, R269) -/

/-- One step of the 16 states' paths on the latest output (R269). -/
def pathStep (d : DetParams) (z0 z1 z2 : Int × Bool) (paths : List (Int × List Bool)) : List (Int × List Bool) :=
  let new := (List.range 16).map fun s' =>
    let s := s' / 2
    let a := s' % 2 = 1
    let p := paths.getD s (0, [])
    let q := paths.getD (s + 8) (0, [])
    let mp := p.1 + branchCost d z0 z1 z2 0 s a
    let mq := q.1 + branchCost d z0 z1 z2 0 (s + 8) a
    if mq < mp then (mq, (decide a :: q.2).take 17) else (mp, (decide a :: p.2).take 17)
  let low := minOf (new.map (·.1))
  new.map fun x => (x.1 - low, x.2)

/-- The decision 16 symbols back on the best path. -/
def tentative (paths : List (Int × List Bool)) : Bool :=
  let best := paths.foldl (fun (a : Int × List Bool) x => if x.1 < a.1 then x else a) (paths.headD (0, []))
  best.2.getD 16 false

/-- The output that is 16 bits old takes its tentative decision (R260): ideal sample and whitened error. -/
def decide16 (r : Reader) (y : ZOut) : ZOut :=
  let m := tentative r.paths
  let o1 := r.outs.getD 0 {}
  let o2 := r.outs.getD 1 {}
  let d := idealOf r.target (aOf m) (aOf o1.m) (aOf o2.m)
  let err (o : ZOut) : Int := if o.flag then 0 else o.z - o.d
  { y with m := m, d := d, w := 128 * (y.z - d) - r.p1 * err o1 - r.p2 * err o2, xs := [] }

/-- Taps, predictor and baseline adapt on an output (R260), from the first sync mark found on (R263). -/
def adaptStep (c : ReadCfg) (r : Reader) (xs : List Int) (y : ZOut) : Reader :=
  let err (o : ZOut) : Int := if o.flag then 0 else o.z - o.d
  let e1 := err (r.outs.getD 1 {})
  let e2 := err (r.outs.getD 2 {})
  let mu := loopField r 4
  let np := 2 ^ loopField r 5 * max 1 Config.predictorScale
  let taps := if c.adaptEq then
      (List.range 16).map fun j =>
        let v := r.taps.getD j 0
        if j = 7 then v
        else clampI (-2048) 2047 (v + rounded c { r with serial := r.serial + j } .tap ((y.d - y.z) * xs.getD j 0) (2 ^ (mu + 10)))
    else r.taps
  let p1 := if c.adaptNp then clampI (-128) 127 (r.p1 + rounded c r .predictor (y.w * e1) np) else r.p1
  let p2 := if c.adaptNp then clampI (-128) 127 (r.p2 + rounded c { r with serial := r.serial + 1 } .predictor (y.w * e2) np) else r.p2
  let b := clampI (-1024) 1024 (r.base + rounded c r .baseline (y.z - y.d) 1024)
  { r with taps := taps, p1 := p1, p2 := p2, base := b, serial := r.serial + 16 }

/-- Decision-directed tracking on an output with its decision (R260, R263, R265). -/
def trackStep (c : ReadCfg) (r : Reader) (xs : List Int) (y : ZOut) : Reader :=
  let o1 := r.outs.getD 1 {}
  if y.flag then { r with flagRun := r.flagRun + 1 }
  else
    let e := Config.timingError y.z o1.z y.d o1.d
    let r := timingStep c { r with flagRun := 0, errs := (e.natAbs :: r.errs).take 256 } e (loopField r 2) (loopField r 3)
    if y.clip then r
    else
      let r := gainAdapt c r y.z y.d (loopField r 6)
      if r.synced then adaptStep c r xs y else r

/-- A condition of R265 other than missed sync marks. -/
def losesLock (c : ReadCfg) (r : Reader) : Bool :=
  (r.errs.length = 256 && 256 * c.adv < 5 * r.errs.sum) || 256 ≤ r.flagRun || 1024 ≤ r.freqRun || 2 ≤ r.missed

/-! ### Sync marks and framing (R264, R172) -/

/-- Differences of the last 64 decisions from the sync mark. -/
def syncDiff (outs : List ZOut) : Nat := (((outs.take 64).map (·.m)).zip syncBits.reverse).countP fun x => x.1 != x.2

/-- A candidate position: the better of the pattern and its complement, or what the run's polarity allows. -/
def syncMatch (pol : Option Bool) (d : Nat) : Nat × Bool :=
  match pol with
  | some inv => (if inv then 64 - d else d, inv)
  | none => if 64 - d < d then (64 - d, true) else (d, false)

/-- The slots that follow sync mark i of the segment whose first channel bit is output `org`. -/
def framesAfter (r : Reader) (i : Nat) (sync : Int) : List Frame :=
  (List.range (min 8 (124 - 8 * i))).map fun k => { seg := r.seg, slot := 8 * i + k, start := r.org + slotStart (8 * i + k), sync := sync }

/-- Nominal first channel bit of sync mark i of a segment. -/
def syncStart (i : Nat) : Nat := 1024 + 64 * i + 144144 * i

/-- The mark after mark i, sought within 64 bits of its nominal position. -/
def nextMark (r : Reader) (i : Nat) : SyncWant :=
  let nom : Int := if i < 15 then r.org + syncStart (i + 1) else r.org + segBits + 1024
  { mark := (i + 1) % 16, nominal := some nom, lo := nom - 64, hi := nom + 64 }

/-- The framing after a sync mark has been found at offset δ, or missed: its slots are placed, and the scheduling point after the last
mark is known (R264, R268). -/
def framed (r : Reader) (i : Nat) (sync : Int) : Reader :=
  { r with
    frames := r.frames ++ framesAfter r i sync, want := some (nextMark r i),
    sched := if i = 15 then some (r.org + 2236280 + 32) else r.sched }

/-- Number of the segment in which a reader acquires: after its last known segment by the samples passed (R280); the first of a run is
segment 0, in verify the one whose preamble it is. -/
def acquiredSeg (c : ReadCfg) (r : Reader) (at_ : Int) : Nat :=
  match r.segAt, c.verify with
  | some (p, n), _ =>
    let len : Int := (max 1 (c.adv * segBits) : Nat)
    n + (Int.fdiv (2 * (at_ - p) + len) (2 * len)).toNat
  | none, some v => (verifyBit v (loomAt c at_)).1
  | none, none => 0

/-- The search for a sync mark ends at its last position (R264): found, or missed. Sync mark 0 sought after preamble detection gives
the first framing; one that shows the detection to have come past preamble bit 704, or none, sends the reader back to searching. -/
def endSync (c : ReadCfg) (r : Reader) (w : SyncWant) : Reader × List ReadEvent :=
  match w.best, w.nominal with
  | some (_, start, inv), none =>
    if start < 320 then ({ r with phase := 0, want := none }, [.dropped])
    else
      let org := start - 1024
      let at_ := ((r.outs.head?.map (·.at_)).getD 0) - (((r.decided : Int) - 1 - org) * c.adv)
      let seg := acquiredSeg c r at_
      let r := { r with org := org, seg := seg, segAt := some (at_, seg), polarity := some inv, synced := true, missed := 0 }
      (framed r 0 0, [])
  | none, none => ({ r with phase := 0, want := none }, [.syncMiss, .dropped])
  | best, some nom =>
    let first : Bool := w.mark = 0
    let delta : Int := match best with | some (_, s, _) => s - nom | none => 0
    let org := r.org + delta + if first then segBits else 0
    let at_ := ((r.outs.head?.map (·.at_)).getD 0) - (((r.decided : Int) - 1 - org) * c.adv)
    let seg := if first then r.seg + 1 else r.seg
    let r := { r with org := org, seg := seg, segAt := if first then some (at_, seg) else r.segAt,
                      missed := if best.isSome then 0 else r.missed + 1, synced := r.synced || best.isSome }
    let r := framed r w.mark (if best.isSome then delta else -128)
    (r, if best.isSome then [] else [.syncMiss])

/-- The search for a sync mark takes in the output just decided. -/
def syncStep (c : ReadCfg) (r : Reader) : Reader × List ReadEvent :=
  match r.want with
  | none => (r, [])
  | some w =>
    let start : Int := (r.decided : Int) - 64
    if start < w.lo ∨ w.hi < start then (r, [])
    else
      let (d, inv) := syncMatch r.polarity (syncDiff r.outs)
      let better : Bool := d ≤ 8 && match w.best with | some (e, _, _) => d < e | none => true
      let w := if better then { w with best := some (d, start, inv) } else w
      let r := { r with want := some w }
      if start = w.hi then endSync c r w else (r, [])

/-! ### Slots (R264, R280) -/

/-- The outputs from `a` to `b − 1`, oldest first. -/
def outsOf (r : Reader) (a b : Nat) : List ZOut := ((r.outs.drop (r.decided - b)).take (b - a)).reverse

/-- A slot whose outputs and detector margin have come is taken out (R269: the detector's output lies 192 bits behind). -/
def cutSlot (c : ReadCfg) (r : Reader) : Reader × List ReadEvent :=
  match r.frames with
  | [] => (r, [])
  | f :: rest =>
    let a := f.start.toNat
    if (r.decided : Int) < f.start + 18018 + 192 then (r, [])
    else
      let first := 128 * (a / 128) - 64
      let mine := outsOf r a (a + 18018)
      let good := mine.filter fun y => !y.flag
      let n := good.length
      let sq := (good.map fun y => ((y.z - y.d) * (y.z - y.d)).toNat).sum
      let w1 := (good.map (·.w)).sum
      let w2 := (good.map fun y => y.w * y.w).sum
      let up := Config.roundUp .mse c.port c.reader r.serial
      let rec_ : SlotRec := {
        reader := c.reader, seg := f.seg, slot := f.slot, zs := (outsOf r first (a + 18210)).map fun y => (y.z, y.flag), first := first,
        start := a, target := r.target, p1 := r.p1, p2 := r.p2, var := r.var.getD (max 1 Config.firstVariance, 1),
        time := loomAt c ((mine.head?.map (·.at_)).getD 0), flagged := 18018 - n, clipped := min 65535 (mine.map (·.clips)).sum,
        mse := if n = 0 then 0 else satN 16 (roundFree up (256 * sq) n).toNat, sync := f.sync, serial := r.serial }
      ({ r with frames := rest, var := if n = 0 then r.var else some (((n : Int) * w2 - w1 * w1).toNat, n * n), serial := r.serial + 1 },
        [.slot rec_])

/-! ### One bit -/

/-- An output takes its decision, and what follows from it. -/
def decideStep (c : ReadCfg) (r : Reader) : Reader × List ReadEvent :=
  match r.young[16]? with
  | none => (r, [])
  | some y0 =>
    let y := decide16 r y0
    let j := r.decided
    let r := { r with outs := (y :: r.outs).take 20000, decided := j + 1, young := r.young.take 16 }
    let r := if 256 ≤ j then trackStep c r y0.xs y else r
    let (r, e1) := syncStep c r
    let (r, e2) := cutSlot c r
    let ended : List ReadEvent := if r.synced ∧ ((j : Int) + 1 = r.org + segBits) then [.segEnd] else []
    if r.phase = 0 then (r, e1)
    else if r.phase = 2 ∧ losesLock c r then ({ r with phase := 0, want := none, frames := [], sched := none }, e1 ++ e2 ++ ended ++ [.unlocked])
    else (r, e1 ++ e2 ++ ended)

/-- The equalized sample that the latest interpolated sample completes (R258, R267). -/
def equalize (c : ReadCfg) (r : Reader) : ZOut :=
  let xs := r.xs.take 16
  let acc := (List.zipWith (fun (t : Int) (x : XOut) => t * x.x) r.taps xs).sum
  let k := r.n - 8
  let y := xs.getD 7 {}
  { z := clampI (-511) 511 (rounded c r .equalizer acc 1048576), flag := xs.any (·.flag) || k < r.flagZ, clip := xs.any (·.clip),
    clips := y.clips, at_ := y.at_, xs := xs.map (·.x) }

/-- One bit of a reader that has detected a preamble: equalizer, paths, loops, decision. -/
def bitStep (c : ReadCfg) (r : Reader) : Reader × List ReadEvent :=
  if r.n < 8 then (r, [])
  else
    let y := equalize c r
    let z1 := r.young.getD 0 {}
    let z2 := r.young.getD 1 {}
    let early : Bool := r.n < 10
    let d : DetParams := { t := r.target, p := (r.p1, r.p2) }
    let f1 : Int × Bool := (z1.z, z1.flag || early)
    let f2 : Int × Bool := (z2.z, z2.flag || early)
    let r := { r with paths := pathStep d (y.z, y.flag) f1 f2 r.paths, young := y :: r.young, serial := r.serial + 1 }
    let lim : Int := (c.adv / 50 : Nat)
    let r := { r with freqRun := if r.freq.natAbs = lim.natAbs then r.freqRun + 1 else 0 }
    decideStep c (acquireStep c r ((r.n : Int) - 8) y z1.z)

/-- The next interpolated sample of a reader (R258, R262, R263), once its raw samples have come; none at a scheduling point (R268) or
for want of samples. -/
def sampleStep (c : ReadCfg) (r : Reader) : Option (Reader × List ReadEvent) :=
  let r := gainsDue c r
  if r.phase ≠ 0 ∧ r.sched = some ((r.n : Int) - 7) then none
  else (rawWindow r).map fun w =>
    let x := interpolate c r w
    let r := { r with
      xs := (x :: r.xs).take 64, rawSeen := Int.fdiv r.pos rawUnit, serial := r.serial + 1 }
    let step (r : Reader) : Reader :=
      let pos := r.pos + c.adv + r.freq
      let keep := (Int.fdiv pos rawUnit - 3).toNat
      { r with pos := pos, raw := r.raw.drop (keep - r.rawAt), rawAt := max r.rawAt keep }
    if r.phase = 0 then
      let (phi, v) := bestPhi r.xs
      if r.xs.length = 64 ∧ (Config.preambleLevel c.gain r.g : Int) < 2 * v ∧ mayDetect c r then (step (detected c r phi), [])
      else (step { r with freq := 0 }, [])
    else
      let r := { r with n := r.n + 1 }
      let r := if r.n = 32 then zeroPhaseStart c r else r
      let (r, e0) : Reader × List ReadEvent := if r.n = 256 ∧ r.phase = 1 then ({ r with phase := 2 }, [.locked]) else (r, [])
      let (r, e1) := bitStep c r
      (step r, e0 ++ e1)

/-- Every sample that can be made, at most `fuel`. -/
def runReader (c : ReadCfg) : Nat → Reader → List ReadEvent → Reader × List ReadEvent
  | 0, r, ev => (r, ev)
  | f + 1, r, ev => match sampleStep c r with
    | none => (r, ev)
    | some (r', e) => runReader c f r' (ev ++ e)

/-! ### Scheduling points and gain (R261, R268) -/

/-- The bank or target changes at a scheduling point: 16 outputs are flagged for a bank, 4 for a target (R266). -/
def rebank (c : ReadCfg) (r : Reader) : Reader :=
  let k := r.n - 7
  let span := if c.bank ≠ r.bank then 16 else if c.target ≠ r.target then 4 else 0
  { r with
    sched := none, bank := c.bank, target := c.target, flagZ := if span = 0 then r.flagZ else max r.flagZ (k + span),
    taps := if c.bank ≠ r.bank then c.taps else r.taps, p1 := if c.bank ≠ r.bank then c.p1 else r.p1,
    p2 := if c.bank ≠ r.bank then c.p2 else r.p2 }

/-- n = round(20 · log10(G) / 0.5) for a digital gain in 2^-10: the n with 10^(2n − 1) ≤ G^80 < 10^(2n + 1) (R261). -/
def gainSteps (g : Nat) : Int :=
  if 1024 ≤ g then
    (((List.range 40).find? fun n => g ^ 80 < 10 ^ (2 * n + 1) * 1024 ^ 80).getD 40 : Nat)
  else -(((List.range 40).find? fun n => 1024 ^ 80 ≤ g ^ 80 * 10 ^ (2 * n + 1)).getD 40 : Nat)

/-- The median of a list: the element with half of the others below it; of an even number the lower of the two (log entry 53). -/
def medianOf (l : List (Nat × Nat)) : Option (Nat × Nat) :=
  (l.mergeSort fun x y => x.1 ≤ y.1)[(l.length - 1) / 2]?

end Sys2Proof.Machine
end

