-- ==== Sys2Proof/Machine/RdchOps.lean ====
section
/-!
DEFINITION. Sys2Proof/Machine/RdchOps.lean: the read channel of a slice (spec/10_read_channel.md R253 to R282) over the readers of
SampOps and the detectors and decoders of DetOps, and the upstream codewords of the heddle link (spec/09_heddle_link.md R228 to R235,
R249).
-/

namespace Sys2Proof.Machine

/-! ### Readers (R253, R259, R282) -/

/-- The logical wrap that the port's read channel reads: of the write run, or of the dataset being read. -/
def wrapRead (b : Block) (p : Nat) : Nat :=
  if 2 ≤ rd b (Fld.RDCH_STATE_MODE p) then ((readNow b p).map (·.lwrap)).getD 0
  else
    let w := b.wport p
    match w.segs.find? fun s => s.run = w.run with
    | some s => s.lwrap
    | none => ((cartOn b p).map (·.lwrap)).getD 0

/-- The bank a reader is to use (R259): 2 × EDGE + DIR of the wrap read, or BANK_FORCE. -/
def wantedBank (b : Block) (p : Nat) : Nat :=
  if rdB b (Fld.RDCH_CTRL_BANK_AUTO p) then
    match cartOn b p with
    | some k => 2 * b2n (wrapEdge k (wrapRead b p)) + b2n (!wrapForward k (wrapRead b p))
    | none => 0
  else rd b (Fld.RDCH_CTRL_BANK_FORCE p)

/-- A bank's target (R259). -/
def bankTarget (b : Block) (p bank : Nat) : Int × Int × Int :=
  let i := bitsOf (rd b (Fld.RDCH_CTRL_BANK_TARGET p)) (2 * bank) 2
  (rdS b (Fld.RDCH_TARGET_T0 p i), rdS b (Fld.RDCH_TARGET_T1 p i), rdS b (Fld.RDCH_TARGET_T2 p i))

/-- What a reader's processing takes from the slice. -/
def readCfg (b : Block) (p r : Nat) : ReadCfg :=
  let s := (b.hdlP p).sample.getD {}
  let bank := wantedBank b p
  { port := p, reader := r, s := s.s, p := s.p, adv := s.adv, adaptEq := rdB b (Fld.RDCH_CTRL_ADAPT_EQ p),
    adaptNp := rdB b (Fld.RDCH_CTRL_ADAPT_NP p), adaptGain := rdB b (Fld.RDCH_CTRL_ADAPT_GAIN p), verify := s.verify,
    loop := regGet b (Reg.RDCH_LOOP p), gain := if r < 32 then rd b (Fld.RDCH_GAIN_GAIN_A p) else rd b (Fld.RDCH_GAIN_GAIN_B p),
    bank := bank, target := bankTarget b p bank, taps := (List.range 16).map fun n => rdS b (Fld.RDCH_COEF_TAP p r bank n),
    p1 := rdS b (Fld.RDCH_NPRED_P1 p r bank), p2 := rdS b (Fld.RDCH_NPRED_P2 p r bank) }

/-- The adapted taps and predictor of the bank in use are written back to its stored copy, tap 7 being as it was (R260). -/
def storeBank (b : Block) (p r : Nat) : Block :=
  let x := readerOf b p r
  if !x.loaded then b
  else
    let b := forEach ((List.range 16).filter (· ≠ 7)) b fun b n => wrS b (Fld.RDCH_COEF_TAP p r x.bank n) (x.taps.getD n 0)
    wrS (wrS b (Fld.RDCH_NPRED_P1 p r x.bank) x.p1) (Fld.RDCH_NPRED_P2 p r x.bank) x.p2

/-- A reader that has no preamble takes another bank at once (R268): the one it had is written back. -/
def bankAtOnce (b : Block) (p r : Nat) : Block :=
  let x := readerOf b p r
  if x.phase = 0 ∧ x.loaded ∧ x.bank ≠ wantedBank b p then
    updReader (storeBank b p r) p r fun x => { x with loaded := false }
  else b

/-- A run of segments begins: the reader searches (R262), its bank is chosen again (R259), segments and polarity start anew. -/
def runAnew (x : Reader) : Reader :=
  { x with phase := 0, freq := 0, want := none, frames := [], sched := none, polarity := none, segAt := none, seg := 0, missed := 0,
           synced := false, loaded := false }

/-- A stream begins: no sample of the one before is left. -/
def streamAnew (x : Reader) : Reader :=
  { runAnew x with raw := [], rawAt := 0, clipAt := [], pos := 50331648, xs := [], rawSeen := 0 }

/-- Every reader of a port starts a run of segments, or a stream. -/
def restartReaders (b : Block) (p : Nat) (f : Reader → Reader) : Block :=
  let b := forEach (tabKeys (b.rdch p).readers) b fun b r => updReader (showLock (storeBank b p r) p r false) p r f
  b.updRdch p fun x => { x with looks := [], reported := [] }

/-- A SAMPLE_START takes effect from its S onward (R257): the lanes' cells count from 0, and the readers start anew. DESIGN CHOICE (log
entry 51): cells that arrive from then on are of the new stream. -/
def streamNow (b : Block) (p : Nat) : Block :=
  match (b.hdlP p).nextSample with
  | some s => if reached b s.s then
      restartReaders (b.updHdl p fun h => { h with sample := some s, nextSample := none, cells := [] }) p streamAnew else b
  | none => b

/-! ### Gain (R261, R268) -/

def gainFld (p : Nat) (mB : Bool) : Fld := if mB then Fld.RDCH_GAIN_GAIN_B p else Fld.RDCH_GAIN_GAIN_A p
/-- The readers of a module. -/
def moduleReaders (mB : Bool) : List Nat := (List.range 32).map fun t => if mB then 32 + t else t
/-- Its locked readers, and the one with the lowest track. -/
def lockedReaders (b : Block) (p : Nat) (mB : Bool) : List Nat := (moduleReaders mB).filter fun r => (readerOf b p r).phase = 2
/-- The median digital gain of its locked readers, with its reader. -/
def medianGain (b : Block) (p : Nat) (mB : Bool) : Option (Nat × Nat) :=
  medianOf ((lockedReaders b p mB).map fun r => ((readerOf b p r).g, r))

/-- Send FRONTEND for a module (R246, R261, R268): GAIN moves by n steps within 0 to 63 at STAMP, BIAS stays; the readers' samples around
STAMP are invalid (R266), and their digital gains are multiplied by 10^(−n / 40) from then on. -/
def gainStep (b : Block) (p : Nat) (mB : Bool) (n : Int) (stamp : Nat) : Block :=
  let f := gainFld p mB
  let g := clampI 0 63 ((rd b f : Int) + n)
  let k := g - rd b f
  if k = 0 then b
  else
    let b := sendMsg b p 6 (leB 8 stamp ++ leB 1 (b2n mB) ++ leB 1 g.toNat ++ leB 1 (tabGet 0 (b.rdch p).bias (b2n mB) % 256))
    let b := inc (wr b f g.toNat) (Fld.RDCH_GAIN_STEPS p)
    forEach (moduleReaders mB) b fun b r => updReader b p r fun x => { x with
      stamps := (stamp :: x.stamps).take 4, gains := x.gains ++ [(stamp, k)] }

/-- Loom time of the next scheduling point after the one of the segment that ends, as the reader's timing loop predicts it (R268): not
earlier than 5 µs from now. -/
def nextPoint (b : Block) (p r : Nat) : Nat :=
  let x := readerOf b p r
  let c := readCfg b p r
  let at_ (i : Nat) : Nat := loomAt c (x.pos + (x.org + (i + 1) * segBits + 2236312 - x.n) * ((c.adv : Int) + x.freq))
  if b.time.now + 20000 ≤ at_ 0 then at_ 0 else at_ 1

/-- The end of a segment (R261): the median digital gain outside 0.707 to 1.414 makes a step due at the next scheduling point. -/
def segmentGain (b : Block) (p r : Nat) : Block :=
  let mB : Bool := 32 ≤ r
  if !rdB b (Fld.RDCH_CTRL_ADAPT_GAIN p) ∨ (lockedReaders b p mB).head? ≠ some r then b
  else match medianGain b p mB with
    | some (g, _) => if g < 724 ∨ 1448 ≤ g then gainStep b p mB (gainSteps g) (nextPoint b p r) else b
    | none => b

/-- The emergency step (R268): the median leaves 0.35 to 2.8, or more than 1/16 of the median reader's last 16,384 raw samples are
clipped. None is made while a step of the module is on its way. -/
def emergency (b : Block) (p : Nat) (mB : Bool) : Block :=
  match medianGain b p mB with
  | none => b
  | some (g, r) =>
    let x := readerOf b p r
    if x.gains ≠ [] ∨ !(g < 359 || 2867 < g || 1024 < x.clipAt.length) then b
    else
      let was := rd b (gainFld p mB)
      let b := gainStep b p mB (gainSteps g) (b.time.now + 20000)
      if rd b (gainFld p mB) = was then b else inc b (Fld.RDCH_INVALID_EMERGENCY p)

/-! ### Samples (R235, R255) -/

/-- The reader of the n-th SAMPLE cell of a lane for a reader set, and its first sample (R234, R235): track t of a module is on lane
t / 8; of both modules reader i is on lane i / 16; a lane carries its readers in ascending order. -/
def cellReader (set lane n : Nat) : Nat × Nat :=
  match set with
  | 0 => (8 * lane + n % 8, 42 * (n / 8))
  | 1 => (32 + 8 * lane + n % 8, 42 * (n / 8))
  | _ => (16 * lane + n % 16, 42 * (n / 16))

/-- What a reader's processing has brought up (R261, R264, R265). -/
def readEvent (p r : Nat) (b : Block) (e : ReadEvent) : Block :=
  match e with
  | .locked => showLock b p r true
  | .unlocked => wr (showLock b p r false) (Fld.RDCH_READER_UNLOCK_EVT p r) 1
  | .dropped => showLock b p r false
  | .syncMiss => inc b (Fld.RDCH_TRUNC_SYNC_MISS p)
  | .slot s => b.updRdch p fun x => { x with slots := x.slots ++ [s] }
  | .segEnd => segmentGain b p r

/-- A reader takes up the samples that have come for it. -/
def advanceReader (b : Block) (p r : Nat) (f : Reader → Reader) : Block :=
  let b := bankAtOnce b p r
  let c := readCfg b p r
  let (x, ev) := runReader c 400 (f (readerOf b p r)) []
  let b := updReader b p r fun _ => x
  let b := wrB (wr b (Fld.RDCH_READER_DGAIN p r) x.g) (Fld.RDCH_READER_GAIN_LIMIT p r) (x.g = 256 || x.g = 4095)
  ev.foldl (readEvent p r) b

/-- A SAMPLE cell on a lane arrives or is lost (R235, R249, R255). -/
def onSample (b : Block) (p lane : Nat) (cell : Option Bytes) : Block :=
  let b := streamNow b p
  match (b.hdlP p).sample with
  | none => b
  | some s =>
    if !linkUp b p then b
    else
      let n := tabGet 0 (b.hdlP p).cells lane
      let b := b.updHdl p fun h => { h with cells := tabUpd 0 h.cells lane (· + 1) }
      let b := when cell.isNone b fun b => inc b (Fld.HDL_CELL_ERR_LOST p)
      if rd b (Fld.RDCH_STATE_MODE p) = 0 then b
      else
        let (r, j) := cellReader s.set lane n
        let b := advanceReader b p r fun x => addSamples (readCfg b p r) x j cell
        emergency b p (32 ≤ r)

/-- The scheduling point of a reader (R260, R268, R282): the adapted bank is written back, a change of bank or target takes effect, and
the reader goes on. -/
def schedulingPoint (b : Block) (p r : Nat) : Block :=
  let x := readerOf b p r
  if !linkUp b p ∨ x.phase = 0 ∨ x.sched ≠ some ((x.n : Int) - 7) then b
  else advanceReader (storeBank b p r) p r (rebank (readCfg (storeBank b p r) p r))

/-! ### Decode reports (R271 to R280) -/

/-- Limits of a pass (R272, RDCH_ITER). -/
def passMax (b : Block) (p i : Nat) : Nat :=
  match i with
  | 1 => rd b (Fld.RDCH_ITER_G1_MAX p)
  | 2 => rd b (Fld.RDCH_ITER_G2_MAX p)
  | 3 => rd b (Fld.RDCH_ITER_G3_MAX p)
  | _ => 0

/-- A slot of a run, as one number. -/
def slotKey (seg slot track : Nat) : Nat := (seg % 65536 * 128 + slot) * 32 + track

/-- A report is delivered (R280): counted, and handed to the verify arbiter, or to the read of a dataset. -/
def deliver (b : Block) (p : Nat) (rep info : Bytes) : Block :=
  let st := fieldAt rep 18 1
  let key := slotKey (fieldAt rep 28 2) (fieldAt rep 17 1) (fieldAt rep 16 1)
  let b := b.updRdch p fun x => { x with reported := (key :: x.reported).take 16384 }
  let lo := rd b (Fld.RDCH_SLOTS_LO_VALUE p) + 1
  let b := wr b (Fld.RDCH_SLOTS_LO_VALUE p) lo
  let b := if lo = 2 ^ 32 then wr b (Fld.RDCH_SLOTS_HI_VALUE p) (rd b (Fld.RDCH_SLOTS_HI_VALUE p) + 1) else b
  let b := when (st % 4 = 1) b fun b => inc b (Fld.RDCH_FAIL_NOT_CONV p)
  let b := when (st % 4 = 2) b fun b => inc b (Fld.RDCH_FAIL_NO_SYNC p)
  let b := when (bitOf st 3) b fun b => inc b (Fld.RDCH_TRUNC_TRUNCATED p)
  let b := inc b (Fld.RDCH_INVALID_FLAGGED p) (fieldAt rep 22 2)
  let r := fieldAt rep 16 1 % 32 + 32 * rd b (Fld.RDCH_STATE_MODULE p)
  let b := wr b (Fld.RDCH_READER_MSE p r) (fieldAt rep 26 2)
  if !runJudged b p then onReport b p rep info
  else if rdB b (Fld.RDCH_STATE_WAIT_BUF p) then b
  else onTapeReport b p rep info

/-- A decode report (R280). `status` holds OUTCOME, HDR_OK, TRUNCATED and the looks. -/
def reportOf (s : SlotRec) (header : Bytes) (status iter globals corrected : Nat) : Bytes :=
  leB 8 s.time ++ header ++ leB 1 (s.reader % 32) ++ leB 1 s.slot ++ leB 1 status ++ leB 1 (min 12 iter + 16 * globals)
    ++ leB 2 corrected ++ leB 2 s.flagged ++ leB 2 s.clipped ++ leB 2 s.mse ++ leB 2 (s.seg % 65536) ++ leB 1 (ofS 8 s.sync) ++ zeros 1

/-- The header that slot-bit LLRs decide, and what they say of the codeword (R270). -/
def headerOf (ls : List Int) : Bytes := packMsb 8 ((ls.take 64).map hard)

/-- The slot-bit LLRs that a detector gives for a slot with a prior (R269, R270). -/
def slotSoft (p : Nat) (s : SlotRec) (prior : List Int) : List Int :=
  let d : DetParams := { t := s.target, p := (s.p1, s.p2), num := s.var.1, den := s.var.2 }
  slotLlrs (detect d (fun k => Config.roundUp .llr p s.reader (s.serial + k)) s.zs s.first s.start 18018 prior)

/-- A stored look restored: 4q (R277). -/
def lookLlrs (l : Look) : List Int := l.q.map (4 * ·)

/-- The stored leading look of a trailing slot (R278): of the same segment count, slot and track, and where both headers hold, with the same
DSN_LO, SDS_KIND and ROW. -/
def lookFor (b : Block) (p : Nat) (s : SlotRec) (header : Bytes) : Option Look :=
  (b.rdch p).looks.find? fun l =>
    let h := headerOf (lookLlrs l)
    l.rec_.seg % 65536 = s.seg % 65536 && l.rec_.slot = s.slot && l.rec_.reader % 32 = s.reader % 32
      && (!(headerOk h && headerOk header) || (slice h 0 3 = slice header 0 3 && slice h 4 2 = slice header 4 2))

/-- The leading look's only pass (R276 to R278): q = clamp(round(L / 4), −7, +7), half away from zero, for the last 24 slots of a
track. -/
def storeLook (b : Block) (p : Nat) (s : SlotRec) : Block :=
  let l : Look := { q := (slotSoft p s []).map fun v => clampI (-7) 7 (roundAway v 4), rec_ := { s with zs := [] } }
  b.updRdch p fun x =>
    let mine := (x.looks.filter fun y => y.rec_.reader = s.reader) ++ [l]
    { x with looks := x.looks.filter (fun y => y.rec_.reader ≠ s.reader) ++ mine.drop (mine.length - 24) }

/-- What a pass of a slot works on: the slot-bit LLRs for header and C1, the trailing look's own, and whether a leading look is combined
(R272, R278). -/
def passInput (b : Block) (p : Nat) (s : SlotRec) : List Int × List Int × Bool :=
  if s.pass = 0 then
    let own := slotSoft p s []
    match (if rd b (Fld.RDCH_STATE_MODE p) = 3 then lookFor b p s (headerOf own) else none) with
    | some l => (List.zipWith (fun a c => clampI (-31) 31 (a + c)) own (lookLlrs l), own, true)
    | none => (own, own, false)
  else
    let ext := List.replicate 64 0 ++ List.zipWith (fun a c => a - c) s.post (s.own.drop 64)
    let own := slotSoft p s (priorsOf ext)
    (own, own, s.lead)

/-- A slot after a pass, with header and outcome. -/
def slotPass (b : Block) (p : Nat) (s : SlotRec) : SlotRec × Bytes × Bool :=
  let (ls, own, lead) := passInput b p s
  let chan := ls.drop 64
  let (ok, it, post, msgs) := ldpcPass chan s.msgs (passMax b p (s.pass + 1))
  ({ s with pass := s.pass + 1, iter := s.iter + it, msgs := msgs, post := post, own := own, lead := lead,
            signs := if s.pass = 0 then chan.map hard else s.signs }, headerOf ls, ok)

/-- Report a slot that has had its last pass (R274, R280). -/
def reportSlot (b : Block) (p : Nat) (s : SlotRec) (header : Bytes) (ok truncated : Bool) : Block :=
  let bits := s.post.map hard
  let status := (if ok then 0 else 1) + 4 * b2n (headerOk header) + 8 * b2n truncated + 16 + 32 * b2n s.lead
  let corrected := (List.zipWith xor bits s.signs).countP id
  deliver b p (reportOf s header status s.iter s.pass corrected) (packMsb 2048 bits)

/-- A further pass follows (R272, R274): the codeword has not converged, another pass is allowed, and the turbo queue of 32 behind the 4
turbo detectors has room. -/
def passMore (b : Block) (p : Nat) (s : SlotRec) (ok : Bool) : Bool := !ok && s.pass < 3 && passMax b p (s.pass + 1) != 0

/-- A slot's pass ends (R271, R272, R274, R278): reported, or queued for another pass. `rest` is the turbo queue without it. -/
def slotEnds (b : Block) (p : Nat) (s : SlotRec) (rest : List SlotRec) : Block :=
  let (s', header, ok) := slotPass b p s
  if passMore b p s' ok && rest.length < 36 then b.updRdch p fun x => { x with turbo := rest ++ [s'] }
  else reportSlot (b.updRdch p fun x => { x with turbo := rest }) p s' header ok (passMore b p s' ok)

/-- The module that leads in a dual-look read (R276): a reader of it. -/
def leads (b : Block) (p r : Nat) : Bool := rd b (Fld.RDCH_STATE_MODE p) = 3 && r / 32 ≠ rd b (Fld.RDCH_STATE_MODULE p)

/-- DECODE_PASS_END: the oldest slot of a reader that waits for its first pass ends it, or with `again` the reader's slot in one of the 4
turbo detectors ends its re-detection (R272, R273). -/
def passEnd (b : Block) (p r : Nat) (again : Bool) : Block :=
  let x := b.rdch p
  if again then
    match (x.turbo.take 4).find? fun s => s.reader = r with
    | some s => slotEnds b p s (x.turbo.erase s)
    | none => b
  else
    match x.slots.find? fun s => s.reader = r with
    | some s =>
      let b := b.updRdch p fun x => { x with slots := x.slots.erase s }
      if leads b p r then storeLook b p s else slotEnds b p s x.turbo
    | none => b

/-- A slot has been read or reported, or is being decoded. -/
def slotKnown (b : Block) (p seg slot track : Nat) : Bool :=
  let x := b.rdch p
  let mine (s : SlotRec) : Bool := s.reader / 32 = rd b (Fld.RDCH_STATE_MODULE p) && s.seg % 65536 = seg && s.slot = slot && s.reader % 32 = track
  x.reported.contains (slotKey seg slot track) || x.slots.any mine || x.turbo.any mine

/-- NO_SYNC_REPORT (R275, R280): in verify a slot that has not been decoded when its last channel bit should have passed. On restore no such
slot is reported; a read that finds no preamble where its dataset should be ends with it (R200, R406; log entry 53). -/
def noSync (b : Block) (p track slot seg : Nat) : Block :=
  match rd b (Fld.RDCH_STATE_MODE p), (b.hdlP p).sample.bind (·.verify) with
  | 1, some (first, tw) =>
    let t (i : Nat) : Nat := first + (seg * segBits + i) * tw / segBits
    let s : SlotRec := { reader := track, seg := seg, slot := slot, time := t (slotStart slot) }
    if slotKnown b p seg slot track ∨ !reached b (t (slotStart slot + 18018)) then b
    else deliver b p (reportOf s (zeros 8) 18 0 0 0) []
  | m, _ => if 2 ≤ m then onNoDataset b p else b

/-- LEAD_ONLY_REPORT (R279): a slot of a dual-look read with no trailing look is decoded from the restored leading LLRs in pass 1 only,
40 µs after it was due behind the leading one (1.6 mm; log entry 53). -/
def leadOnly (b : Block) (p track slot seg : Nat) : Block :=
  let c := (b.hdlP p).sample.getD {}
  match (b.rdch p).looks.find? fun l => l.rec_.seg % 65536 = seg && l.rec_.slot = slot && l.rec_.reader % 32 = track with
  | none => b
  | some l =>
    let gap := (match cartOn b p with | some k => if wrapEdge k (wrapRead b p) then 350000 else 400000 | none => 400000) * c.adv * c.p / rawUnit
    if rd b (Fld.RDCH_STATE_MODE p) ≠ 3 ∨ slotKnown b p seg slot track ∨ !reached b (l.rec_.time + gap + 40 * tUs) then b
    else
      let ls := lookLlrs l
      let chan := ls.drop 64
      let (ok, it, post, _) := ldpcPass chan {} (passMax b p 1)
      let bits := post.map hard
      let corrected := (List.zipWith xor bits (chan.map hard)).countP id
      let status := (if ok then 0 else 1) + 4 * b2n (headerOk (headerOf ls)) + 32
      deliver b p (reportOf { l.rec_ with time := l.rec_.time + gap } (headerOf ls) status it 1 corrected) (packMsb 2048 bits)

/-! ### Restore modes and the look buffer (R253, R254, R257, R276, R277) -/

/-- Some restore under way asks for dual-look. -/
def dualWanted (b : Block) : Bool := b.hq.cmds.any fun (x : Nat × Cmd) => x.2.fin.isNone && x.2.rst.dual && x.2.phase = .working

/-- Speed step of a restore (R254, R276). -/
def restoreStep (b : Block) (p : Nat) (edge dual : Bool) : Nat :=
  if dual then (((List.range 16).reverse.find? fun i => stepSpeed b i ≤ 4000)).getD 0
  else
    let s := rd b (Fld.RDCH_CTRL_RESTORE_STEP p)
    if edge ∨ stepSpeed b s ≤ 9600 then s else (((List.range 16).reverse.find? fun i => stepSpeed b i ≤ 9600)).getD 0

def setMode (b : Block) (p mode period module : Nat) : Block :=
  let b := wr (wr b (Fld.RDCH_STATE_MODE p) mode) (Fld.RDCH_STATE_PERIOD p) period
  wr b (Fld.RDCH_STATE_MODULE p) module

/-- The tape of a port stands still. -/
def tapeStopped (b : Block) (p : Nat) : Bool := (refAt (b.cle p).ref b.time.now).2 = 0

/-- A read of a dataset starts sampling (R253, R254, R257) for the wrap and band it lies in: P and reader set are chosen, TRACK takes the step's bank
(R325), the servo module is the reading module's (R246), and a new SAMPLE_START goes out where they change. S is 20 µs and a millisecond from now (DESIGN CHOICE, log
entry 51), before the tape moves. -/
def startReading (b : Block) (p mode : Nat) : Block :=
  let b := setMode b p mode (rd b (Fld.RDCH_STATE_PERIOD p)) (rd b (Fld.RDCH_STATE_MODULE p))
  let (fwd, edge) := match cartOn b p with
    | some k => (wrapForward k (wrapRead b p), wrapEdge k (wrapRead b p))
    | none => (true, false)
  let fc := max 1 (stepSpeed b (restoreStep b p edge (mode = 3)) * (if edge then 218750 else 250000))
  let per := samplePeriod (if mode = 3 then 4 else 2) 4000000000 fc
  let set := if mode = 3 then 2 else b2n fwd
  let b := b.updRdch p fun x => { x with what := (readNow b p).map fun r => (r.dsNo, r.cat, r.lwrap) }
  let b := setMode b p mode per (b2n fwd)
  let b := wr b (Fld.CLE_TRACK_STATUS_BANK p) (bitsOf (rd b (Fld.CLE_TRACK_BANKMAP_BANK p)) (2 * restoreStep b p edge (mode = 3)) 2)
  let b := if (b.hdlP p).servoModule = b2n fwd then b else sendConfig b p (b2n fwd)
  match (b.hdlP p).nextSample.orElse fun _ => (b.hdlP p).sample with
  | some s => if s.p = per ∧ s.set = set ∧ s.stop.isNone ∧ s.verify.isNone then restartReaders b p runAnew
    else sampleStart b p (b.time.now + 4080000) per set (rawUnit * 4000000000 / (fc * per)) none
  | none => sampleStart b p (b.time.now + 4080000) per set (rawUnit * 4000000000 / (fc * per)) none

/-- Give back the look buffer region of a port at the end of its dual-look run (R277). -/
def dropLook (b : Block) (p : Nat) : Block :=
  let b := { b with sl := { b.sl with
    looks := b.sl.looks.filter fun (x : Nat × Nat) => x.2 ≠ p + 1, lookWait := b.sl.lookWait.filter (· ≠ p) } }
  let b := b.updRdch p fun x => { x with looks := [] }
  wr (wr (wr b (Fld.RDCH_STATE_LOOK_BUF p) 0) (Fld.RDCH_STATE_REGION p) 0) (Fld.RDCH_STATE_WAIT_BUF p) 0

/-- The read channel has nothing to read: SAMPLE_STOP ends the readers' samples; servo and sense sampling go on (R236, R237, R246; DESIGN
CHOICE, log entry 51). -/
def stopSampling (b : Block) (p : Nat) : Block :=
  let b := (setMode (dropLook b p) p 0 0 0).updRdch p fun x => { x with what := none }
  if !linkUp b p then b
  else
    let t := b.time.now + 80000
    let off (s : SampleRun) : SampleRun := { s with stop := some t, verify := none }
    (sendMsg b p 5 (leB 8 t)).updHdl p fun h => { h with sample := h.sample.map off, nextSample := none }

/-- The mode of a port's read channel follows what the port does. P, reader set and module change only while the tape is stopped (R257): at
the start and end of a restore, and at a change of wrap or band; the speed step is chosen again there (R254). -/
def readMode (b : Block) (p : Nat) : Block :=
  let m := rd b (Fld.RDCH_STATE_MODE p)
  if (b.wport p).inRun ∨ !runJudged b p then
    if m = 1 then b
    else
      let fwd := match cartOn b p with | some k => wrapForward k (wrapRead b p) | none => true
      (setMode (dropLook b p) p 1 ((((b.hdlP p).nextSample.orElse fun _ => (b.hdlP p).sample).map (·.p)).getD 0) (b2n fwd)).updRdch p
        fun x => { x with what := none }
  else if reading b p ∧ linkUp b p then
    let key := (readNow b p).map fun r => (r.dsNo, r.cat, r.lwrap)
    if (2 ≤ m ∧ (b.rdch p).what = key) ∨ b.sl.lookWait.contains p ∨ !tapeStopped b p then b
    else if !dualWanted b then startReading (if m = 3 then dropLook b p else b) p 2
    else if m = 3 then startReading b p 3
    else wr { b with sl := { b.sl with lookWait := b.sl.lookWait ++ [p] } } (Fld.RDCH_STATE_WAIT_BUF p) 1
  else if m = 0 ∧ !b.sl.lookWait.contains p then b
  else stopSampling b p

/-- LOOK_BUFFER_GRANT (R277): a free region of a die goes to the oldest request. -/
def grantLook (b : Block) (die : Nat) : Block :=
  match b.sl.lookWait.find? (fun p => p / 16 = die), (List.range 4).find? (fun r => tabGet 0 b.sl.looks (4 * die + r) = 0) with
  | some p, some r =>
    let b := { b with sl := { b.sl with looks := tabSet 0 b.sl.looks (4 * die + r) (p + 1), lookWait := b.sl.lookWait.filter (· ≠ p) } }
    let b := wr (wr (wr b (Fld.RDCH_STATE_LOOK_BUF p) 1) (Fld.RDCH_STATE_REGION p) r) (Fld.RDCH_STATE_WAIT_BUF p) 0
    startReading b p 3
  | _, _ => b

/-- Every port's mode. -/
def readModes (b : Block) : Block :=
  forEach ((tabKeys b.heads.ports ++ b.cons.reads.map (·.port) ++ tabKeys b.sl.rdch).eraseDups) b readMode

/-! ### Codewords (R228 to R231, R249) -/

/-- Deliver a cell by its type (R230); a reserved type, or one not allowed upstream, is discarded and counted. -/
def deliverCell (b : Block) (p lane typ : Nat) (cell : Bytes) : Block :=
  match typ with
  | 0 => b
  | 1 => onMsg b p cell
  | 2 => match (b.hdlP p).markers.find? fun m => m.1 = 65536 + fieldAt cell 18 2 with
    | some (_, t4) => timeExchange b p cell t4
    | none => b
  | 3 => onSample b p lane (some cell)
  | 4 => onServo b p (lane % 2) (some cell)
  | 5 => onSense b p (some cell)
  | _ => inc b (Fld.HDL_CELL_ERR_BAD_TYPE p)

/-- A codeword is discarded (R249): it takes its place in the lane's sequence, and 16 within any 1,024 of a lane take the link DOWN. -/
def discardCodeword (b : Block) (p lane : Nat) : Block :=
  let h := b.hdlP p
  let n := tabGet 0 h.count lane
  let ln := ((tabGet none h.lanes lane).map (·.1)).getD lane
  let b := inc b (Fld.HDL_FEC_UNCORR_COUNT p)
  let ds := ((tabGet [] h.discards lane) ++ [n]).filter fun k => n < k + 1024
  let next := match tabGet 0 h.upSeq ln with | 0 => 0 | s => s % 65536 + 1
  let b := b.updHdl p fun h => { h with
    discards := tabSet [] h.discards lane ds, upSeq := tabSet 0 h.upSeq ln next,
    lossy := if h.lossy.contains ln then h.lossy else h.lossy ++ [ln] }
  if 16 ≤ ds.length then linkDown b p 2 else b

/-- The word as sent: an inverted lane changes the first bit of every PAM4 pair (R226, R227). -/
def upright (b : Block) (p lane : Nat) (word : Bytes) : Bytes :=
  if ((tabGet none (b.hdlP p).lanes lane).map (·.2)).getD false then word.map fun x => x ^^^ 0x55 else word

/-- SAMPLE cells that a discarded codeword took with it are known by BASE (R235): their samples are lost. -/
def lostSamples (b : Block) (p ln base : Nat) : Block :=
  let h := b.hdlP p
  if !h.lossy.contains ln then b
  else
    let gap := ofS 16 ((base : Int) - tabGet 0 h.cells ln)
    let b := b.updHdl p fun h => { h with lossy := h.lossy.filter (· ≠ ln) }
    if h.sample.isSome ∧ linkUp b p ∧ gap < 32768 then forEach (List.range gap) b fun b _ => onSample b p ln none else b

/-- A codeword of 5,440 bits arrives on physical lane `lane` (R228, R229). One with DIR = 0 is discarded too (DESIGN CHOICE, log entry
149: R249 names only an uncorrectable codeword and a failed HCRC). -/
def codeword (b : Block) (p lane : Nat) (word : Bytes) : Block :=
  if !(linkUp b p || (training b p && 6 ≤ (b.hdlP p).step)) then b
  else
    let b := streamNow (b.updHdl p fun h => { h with count := tabUpd 0 h.count lane (· + 1) }) p
    match lcDecode (upright b p lane word) with
    | none => discardCodeword b p lane
    | some (n, h, cells) =>
      let b := if n = 0 then b
        else
          let lo := rd b (Fld.HDL_FEC_CORR_LO_VALUE p) + n
          let b := wr b (Fld.HDL_FEC_CORR_LO_VALUE p) lo
          if 2 ^ 32 ≤ lo then wr b (Fld.HDL_FEC_CORR_HI_VALUE p) (rd b (Fld.HDL_FEC_CORR_HI_VALUE p) + 1) else b
      if !headerHolds h ∨ !bitOf h 18 then discardCodeword b p lane
      else
        let seq := bitsOf h 0 16
        let ln := bitsOf h 16 2
        let others := (List.range 4).filterMap fun i => if i = ln then none else match tabGet 0 (b.hdlP p).upSeq i with
          | 0 => none
          | s => some ((toS 16 (ofS 16 ((s : Int) - 1 - seq))).natAbs)
        let b := b.updHdl p fun x => { x with upSeq := tabSet 0 x.upSeq ln (seq + 1) }
        if others.any (8 < ·) then linkDown b p 3
        else
          let b := if ln = 0 ∧ seq % 256 = 0 then
              b.updHdl p fun x => { x with markers := (x.markers.filter fun m => m.1 < 65536) ++ [(65536 + seq, b.time.now)] } else b
          let b := lostSamples b p ln (bitsOf h 96 16)
          ((List.range 19).zip cells).foldl (fun b x => deliverCell b p ln (cellType h x.1) x.2) b

end Sys2Proof.Machine
end

