-- ==== Sys2Proof/Machine/PoolOps.lean ====
section
/-!
DEFINITION. Sys2Proof/Machine/PoolOps.lean: lines, merge buffers, errors, retirement, fill and test operations of the beam
store (spec/16_beam_store.md).
-/

namespace Sys2Proof.Machine

/-! ### Lines (R418 to R421) -/

/-- Pool channel of a line (R435). -/
def lineCh (b : Block) (line : Nat) : Nat := granuleAt b (64 * line) % beamC b

/-- The byte offset of a line lies in the released pool (R422); with Die S lost its channels are out (R505). -/
def lineIn (b : Block) (line : Nat) : Bool :=
  64 * line < rd b Fld.BEAM_POOL_RELEASED_STEPS * 68719476736 * (if b.beam.half then 2 else 1) && lineCh b line < beamChans b

/-- A line of zeros with valid check symbols, as FILL leaves it (R423). -/
def zeroLine : BeamLine := { data := zeros 64, chk := List.replicate 8 0 }

/-- Check symbols of 64 data bytes before the fold: s_(0,8), s_(0,9), s_(1,8) and so on (R419). -/
def lineChk (data : Bytes) : List Nat :=
  (List.range 4).flatMap fun j => let c := beamCheck (lineSyms data j); [c.1, c.2]

/-- A line with its computed check symbols. -/
def goodLine (data : Bytes) : BeamLine := { data := data, chk := lineChk data }

/-- Stored poison (R421): the check symbols are those of data with s_(0,0) and s_(1,1) each XORed with 1. -/
def poisonLine (data : Bytes) : BeamLine :=
  { data := data, chk := (List.range 4).flatMap fun j =>
      let c := beamCheck ((lineSyms data j).zipIdx.map fun (s, d) => if (j = 0 ∧ d = 0) ∨ (j = 1 ∧ d = 1) then s.xor 1 else s)
      [c.1, c.2] }

/-- A listed line's symbols; a line not listed holds a valid codeword, whose class is that of zeros, the code being linear
(R419, R420). -/
def lineAt (b : Block) (line : Nat) : BeamLine := tabGet zeroLine b.beam.lines line

/-- Whether the model keeps the line's own bytes. -/
def listed (b : Block) (line : Nat) : Bool := (tabKeys b.beam.lines).contains line

def putLine (b : Block) (line : Nat) (l : BeamLine) : Block :=
  b.updBeam fun m => { m with lines := tabSet zeroLine m.lines line l }

/-- The four codewords as read: ten symbols each, with the errors the devices add: codeword, device, XOR (R418). -/
def readSyms (l : BeamLine) (errs : List (Nat × Nat × Nat)) : List (List Nat) :=
  (List.range 4).map fun j =>
    ((lineSyms l.data j ++ [l.chk.getD (2 * j) 0, l.chk.getD (2 * j + 1) 0]).zipIdx.map fun (s, d) =>
      errs.foldl (fun a e => if e.1 = j ∧ e.2.1 = d then a.xor (e.2.2 % 65536) else a) s)

/-- How the four codewords read (R420). -/
def readCws (l : BeamLine) (errs : List (Nat × Nat × Nat)) : List (Option (Option (Nat × Nat))) := (readSyms l errs).map beamCw

/-- Data bytes of codewords' symbols (R418). -/
def symBytes (cws : List (List Nat)) : Bytes := cws.flatMap fun c => (c.take 8).flatMap (leB 2)

/-- Data bytes with single-symbol errors corrected (R420). -/
def corrected (l : BeamLine) (errs : List (Nat × Nat × Nat)) : Bytes :=
  symBytes ((readSyms l errs).map fun c => match beamCw c with
    | some (some (d, e)) => c.zipIdx.map fun (s, i) => if i = d then s.xor e else s
    | _ => c)

/-! ### Logs, buckets and retirement (R428 to R430) -/

/-- DEVICE of a log entry (R429): device, subchannel of the line (R435) and rank. -/
def deviceOf (b : Block) (line dev : Nat) : Nat :=
  dev + 16 * (line % 2) + 32 * (Config.dramRank (b.beam.hashKey.getD []) (64 * line) % 8)

/-- Log an event of a line (R429). -/
def lineLog (b : Block) (kind dev src count line : Nat) : Block :=
  let key := b.beam.hashKey.getD []
  beamLog b kind (lineCh b line) (deviceOf b line dev) src count (64 * line) (Config.dramRow key (64 * line)) (Config.dramBank key (64 * line))

/-- The die-local registers of a pool channel (R416): die and local channel. -/
def chReg (b : Block) (c : Nat) : Nat × Nat := if c < beamC b / 2 then (0, c) else (1, c - beamC b / 2)

/-- One correction of a line (R428): its channel's bucket fills, and overflows at THRESH. -/
def bucketAdd (b : Block) (line src : Nat) : Block :=
  let c := lineCh b line
  let key := b.beam.hashKey.getD []
  let (d, i) := chReg b c
  let level := rd b (Fld.BEAM_CH_BUCKET_LEVEL d i)
  let th := rd b (Fld.BEAM_CH_BUCKET_THRESH d i)
  let b := inc b (Fld.BEAM_CH_ERR_CORRECTED d i)
  let b := wr b (Fld.BEAM_CH_BUCKET_LEVEL d i) (min (level + 1) th)
  if level ≠ th ∧ th ≤ level + 1 then
    let b := beamLog b 4 c 0 src 0 (64 * line) (Config.dramRow key (64 * line)) (Config.dramBank key (64 * line))
    if rdB b (Fld.BEAM_CH_STATUS_OVF d i) then b else setEvent (wr b (Fld.BEAM_CH_STATUS_OVF d i) 1) 2
  else b

/-- A granule is not allocated: free, or beyond those ever allocated (R430). -/
def granuleFree (b : Block) (g : Nat) : Bool :=
  let h := b.beamCh (g % beamC b)
  h.bump ≤ g / beamC b || h.back.contains (g / beamC b)

/-- Log KIND 7 once (R430). -/
def retireFull (b : Block) : Block :=
  if b.beam.fullLogged then b else beamLog (b.updBeam fun m => { m with fullLogged := true }) 7 0 0 4 0 0 0 0

/-- Rank, bank and DRAM row of a line as one number (R430). -/
def rowCode (b : Block) (line : Nat) : Nat :=
  let key := b.beam.hashKey.getD []
  2 ^ 40 * (Config.dramRank key (64 * line) % 8) + 2 ^ 32 * (Config.dramBank key (64 * line) % 64) + Config.dramRow key (64 * line) % 2 ^ 32

/-- Record the DRAM row of a line in the ledger, once, at most 4,096 a channel (R430, R477). -/
def recordRow (b : Block) (line : Nat) : Block :=
  let c := lineCh b line
  let code := rowCode b line
  if (b.beamCh c).rows.contains code then b
  else if 4096 ≤ (b.beamCh c).rows.length then retireFull b
  else
    let b := b.updBeamCh c fun h => { h with rows := insertNat code h.rows }
    ledgerSubmit b regControl (leB 1 0x12 ++ leB 1 c ++ leB 1 (code / 2 ^ 40) ++ leB 1 (code / 2 ^ 32 % 256) ++ leB 4 (code % 2 ^ 32) ++ zeros 24)

/-- Retire a granule (R430): at once if free, else at its release; nothing beyond 65,536. -/
def retireGranule (b : Block) (g src : Nat) : Block :=
  if b.beam.retired.contains g ∨ b.beam.pendRetire.contains g then b
  else if 65536 ≤ b.beam.retired.length + b.beam.pendRetire.length then retireFull b
  else if granuleFree b g then retireNow b g src
  else b.updBeam fun m => { m with pendRetire := insertNat g m.pendRetire }

/-- A line causes its granule's retirement, and its row is recorded (R430); beyond either limit neither is done. -/
def retireLine (b : Block) (line : Nat) : Block :=
  let g := granuleAt b (64 * line)
  let rows := (b.beamCh (lineCh b line)).rows
  if b.beam.retired.contains g ∨ b.beam.pendRetire.contains g then b
  else if 4096 ≤ rows.length ∧ !rows.contains (rowCode b line) then retireFull b
  else if 65536 ≤ b.beam.retired.length + b.beam.pendRetire.length then retireFull b
  else recordRow (retireGranule b g 4) line

/-- A correction in a granule: RETIRE_CE of them within 24 hours retire it (R430). -/
def countCe (b : Block) (line : Nat) : Block :=
  let g := granuleAt b (64 * line)
  let n := rd b Fld.BEAM_CTRL_RETIRE_CE
  let l := (g, b.time.now) :: b.beam.ceLog.filter fun x => since b x.2 < 86400 * tS
  let b := b.updBeam fun m => { m with ceLog := l }
  if n ≠ 0 ∧ n ≤ (l.filter fun x => x.1 = g).length then retireLine b line else b

/-- A Corrected read of a line (R428 to R430). -/
def noteCorrected (b : Block) (line dev src : Nat) : Block :=
  let c := lineCh b line
  let h := b.beamCh c
  let b := bucketAdd b line src
  let quiet : Bool := match h.lastLog with | some t => since b t < tMs | none => false
  let b := if quiet then b.updBeamCh c fun h => { h with unlogged := h.unlogged + 1 }
    else lineLog (b.updBeamCh c fun h => { h with lastLog := some b.time.now, unlogged := 0 }) 1 dev src (satN 32 h.unlogged) line
  countCe b line

/-- An Uncorrectable read of a line, before what R432 makes of it (R429, R430). -/
def noteUncorrectable (b : Block) (line src : Nat) (stored : Bool) : Block :=
  let (d, i) := chReg b (lineCh b line)
  let b := inc b (Fld.BEAM_CH_ERR_UNCORR d i)
  retireLine (lineLog b (if stored then 3 else 2) 0 src 0 line) line

/-! ### Poison (R432) -/

/-- The SEAL_STATE entry of a stream slot is spoilt: the stream's open object ends, and the entry is discarded (R146, R432). -/
def spoilSealState (b : Block) (slot : Nat) : Block :=
  if (b.sealState slot).active then
    let b := match (b.stream slot).obj with
      | some o => endObject b o 0x2003 .poisoned
      | none => b
    dropSeals b ((b.stream slot).gen * 65536 + slot)
  else b

/-- What an Uncorrectable line spoils, by what it holds (R432): a dataset, a written-back context, or restore data of a
command, whose segment is fetched and decoded once more and the second time ends the command. -/
def spoil (b : Block) (line : Nat) (cmd : Option Nat) : Block :=
  let g := granuleAt b (64 * line)
  match cmd with
  | some n =>
    let c := b.cmd n
    if c.fin.isSome ∨ c.phase ≠ .working ∨ c.rst.segs.isEmpty then b
    else if c.rst.poisonRetry then finishCmd b n 0x3001 0 c.result
    else b.updCmd n fun c => { c with rst := { c.rst with
      poisonRetry := true, frame := none, segs := match c.rst.segs with | s :: t => { s with ready := false } :: t | [] => [] } }
  | none =>
    match b.ds.tab.find? fun (x : Nat × Dataset) => x.2.live && x.2.granules.contains g with
    | some (d, _) => poisonDataset b d
    | none =>
      match b.card.saved.find? fun (x : Nat × SavedCtx) => x.2.granules.contains g with
      | some (slot, _) =>
        let b := b.updCtx slot fun c => { c with frameOpen := false, window := [] }
        match (b.stream slot).obj with
        | some o => endObject b o 0x2003 .poisoned
        | none => b
      | none => match b.ciph.sealGranules.findIdx? (· = g) with
        | some i => spoilSealState b (64 * i + line % 64)
        | none => b

/-! ### Reads, merge entries and scrubbing (R420, R425 to R427, R441) -/

/-- The open merge entry of a line. -/
def mergeOf (b : Block) (line : Nat) : Option MergeEntry := (b.beamCh (lineCh b line)).merge.find? fun e => e.line = line

def dropMerge (b : Block) (line : Nat) : Block :=
  b.updBeamCh (lineCh b line) fun h => { h with merge := h.merge.filter fun e => e.line ≠ line }

/-- Bytes of `data` where `mask` has a bit, else those of `old`. -/
def overlay (old data : Bytes) (mask : Nat) : Bytes :=
  (List.range 64).map fun i => if bitOf mask i then data.getD i 0 else old.getD i 0

/-- Write a whole line (R419, R425): an open entry is discarded, and a line the model keeps no bytes of holds its owner's. -/
def writeLine (b : Block) (line : Nat) (data : Bytes) : Block :=
  let b := dropMerge b line
  if listed b line ∨ b.beam.retired.contains (granuleAt b (64 * line)) then putLine b line (goodLine data)
  else b

/-- Write a merge entry back by read-modify-write (R426): fresh check symbols, or stored poison where the read is
Uncorrectable. -/
def rmw (b : Block) (e : MergeEntry) (errs : List (Nat × Nat × Nat)) : Block :=
  let (d, i) := chReg b (lineCh b e.line)
  let l := lineAt b e.line
  let b := inc (dropMerge b e.line) (Fld.BEAM_CH_MERGE_RMW d i)
  let keep := listed b e.line
  let data := overlay (corrected l errs) e.data e.mask
  match beamClass (readCws l errs) with
  | .clean => if keep then putLine b e.line (goodLine data) else b
  | .corrected dev =>
    let b := noteCorrected b e.line dev 2
    if keep then putLine b e.line (goodLine data) else b
  | .uncorrectable => putLine (spoil (noteUncorrectable b e.line 2 false) e.line none) e.line (poisonLine data)
  | .storedPoison => putLine (spoil (noteUncorrectable b e.line 2 true) e.line none) e.line (poisonLine data)

/-- A read of a line by a unit (R420, R422, R425, R428 to R432, R441). -/
def beamRead (b : Block) (line : Nat) (errs : List (Nat × Nat × Nat)) (cmd : Option Nat) : Block :=
  if !lineIn b line then spoil b line cmd
  else
    let l := lineAt b line
    let bad (stored : Bool) : Block :=
      let b := spoil (noteUncorrectable b line 1 stored) line cmd
      match mergeOf b line with
      | some e =>
        let (d, i) := chReg b (lineCh b line)
        putLine (inc (dropMerge b line) (Fld.BEAM_CH_MERGE_RMW d i)) line (poisonLine (overlay (corrected l errs) e.data e.mask))
      | none => b
    match beamClass (readCws l errs) with
    | .clean => b
    | .corrected dev => noteCorrected b line dev 1
    | .uncorrectable => bad false
    | .storedPoison => bad true

/-- The channel has a free merge entry after the oldest has been flushed if need be (R425). -/
def makeEntry (b : Block) (c : Nat) (errs : List (Nat × Nat × Nat)) : Block :=
  match (b.beamCh c).merge with
  | e :: _ =>
    if 32 ≤ (b.beamCh c).merge.length then
      let (d, i) := chReg b c
      rmw (inc b (Fld.BEAM_CH_MERGE_FULL_FLUSH d i)) e errs
    else b
  | [] => b

/-- A write that covers a part of a line (R425): it merges into the line's open entry or takes one; a full entry leaves as a
full-line write. -/
def partialWrite (b : Block) (line mask : Nat) (data : Bytes) (errs : List (Nat × Nat × Nat)) : Block :=
  let full := 2 ^ 64 - 1
  if !lineIn b line ∨ mask % 2 ^ 64 = 0 then b
  else if mask % 2 ^ 64 = full then writeLine b line data
  else
    let c := lineCh b line
    let b := if (mergeOf b line).isNone then makeEntry b c errs else b
    let old := (mergeOf b line).getD { line := line, data := zeros 64, since := b.time.now }
    let e := { old with mask := old.mask.lor (mask % 2 ^ 64), data := overlay old.data data mask }
    if e.mask = full then writeLine b line e.data
    else if (mergeOf b line).isSome then
      b.updBeamCh c fun h => { h with merge := h.merge.map fun x => if x.line = line then e else x }
    else b.updBeamCh c fun h => { h with merge := h.merge ++ [e] }

/-- Lines of the released pool. -/
def poolLines (b : Block) : Nat := rd b Fld.BEAM_POOL_RELEASED_STEPS * 1073741824

/-- The next line is to be scrubbed: the lines of the released pool are spread evenly over SCRUB_HOURS (R427). -/
def scrubDue (b : Block) : Bool :=
  let hours := rd b Fld.BEAM_CTRL_SCRUB_HOURS
  hours ≠ 0 && poolLines b ≠ 0 && !b.beam.dormant && match b.beam.scrubAt with
    | some t => hours * 3600 * tS ≤ since b t * poolLines b
    | none => true

/-- The scrubber reads the next line (R427, R441). -/
def scrubLine (b : Block) (errs : List (Nat × Nat × Nat)) : Block :=
  if !scrubDue b then b
  else
    let line := b.beam.scrubbed % poolLines b
    let b := b.updBeam fun m => { m with scrubbed := (line + 1) % poolLines b, scrubAt := some b.time.now }
    if !lineIn b line ∨ (mergeOf b line).isSome ∨ b.beam.retired.contains (granuleAt b (64 * line)) then b
    else
      let l := lineAt b line
      match beamClass (readCws l errs) with
      | .clean => b
      | .corrected dev =>
        let b := noteCorrected b line dev 0
        if listed b line then putLine b line (goodLine (corrected l errs)) else b
      | .uncorrectable => spoil (putLine (noteUncorrectable b line 0 false) line (poisonLine (symBytes (readSyms l errs)))) line none
      | .storedPoison => noteUncorrectable b line 0 true

/-! ### Fill (R422 to R424) -/

/-- A step is to be filled: up to C steps before READY; after it with AUTO_FILL, or for a BEAM_FILL (R423, R424). -/
def fillWanted (b : Block) : Bool :=
  let rel := rd b Fld.BEAM_POOL_RELEASED_STEPS
  let ready := rd b Fld.BOOT_STATE_STATE = 3
  let target := if !ready then beamC b
    else if rdB b Fld.BEAM_CTRL_AUTO_FILL then rd b Fld.BEAM_POOL_POOL_STEPS
    else b.beam.fills.foldl (fun a n => max a ((b.cmd n).e.param0 % 1024)) 0
  b.boot.beam && b.beam.hashKey.isSome && !b.beam.dormant && rel < min target (rd b Fld.BEAM_POOL_POOL_STEPS)

/-- FILLING shows whether a step is being filled. -/
def showFill (b : Block) : Block := wrB b Fld.BEAM_STATUS_FILLING (fillWanted b)

/-- Released size in bytes (R424). -/
def releasedBytes (b : Block) : Nat := rd b Fld.BEAM_POOL_RELEASED_STEPS * 68719476736

/-- BEAM_FILL commands whose TARGET has been reached complete in acceptance order (R424). -/
def fillsDone (b : Block) : Block :=
  forEach b.beam.fills b fun b n =>
    if (b.cmd n).e.param0 % 1024 ≤ rd b Fld.BEAM_POOL_RELEASED_STEPS then
      finishCmd (b.updBeam fun m => { m with fills := m.fills.erase n }) n 0 0 (leB 8 (releasedBytes b))
    else b

/-- The SEAL_STATE entries take their 1,024 granules from the released pool as soon as its first step is released (R146). -/
def takeSealState (b : Block) : Block :=
  if b.ciph.sealGranules = [] then
    match allocGranules b 1024 with
    | some (gs, b) => { b with ciph := { b.ciph with sealGranules := gs } }
    | none => b
  else b

/-- A step has been filled: it is released (R422, R423). -/
def fillStep (b : Block) : Block :=
  if fillWanted b then
    showFill (fillsDone (takeSealState (wr b Fld.BEAM_POOL_RELEASED_STEPS (rd b Fld.BEAM_POOL_RELEASED_STEPS + 1))))
  else b

/-- Accept a BEAM_FILL (R424). -/
def acceptBeamFill (b : Block) (n : Nat) : Block :=
  let t := (b.cmd n).e.param0 % 1024
  if t = 0 ∨ rd b Fld.BEAM_POOL_POOL_STEPS < t then finishCmd b n 0x1002 0 [] 40
  else if t ≤ rd b Fld.BEAM_POOL_RELEASED_STEPS then finishCmd b n 0 0 (leB 8 (releasedBytes b))
  else showFill (b.updBeam fun m => { m with fills := m.fills ++ [n] })

/-- State of a granule in BEAM_RETIRE's RESULT (R431). -/
def granuleState (b : Block) (g : Nat) : Nat :=
  if b.beam.retired.contains g then 1 else if b.beam.pendRetire.contains g then 2 else 0

/-- Accept a BEAM_RETIRE (R431). -/
def acceptBeamRetire (b : Block) (n : Nat) : Block :=
  let e := (b.cmd n).e
  let off := e.param0
  if off % 4096 ≠ 0 ∨ rd b Fld.BEAM_POOL_POOL_STEPS * 68719476736 ≤ off then finishCmd b n 0x1002 0 [] 40
  else
    let g := granuleAt b off
    let lines := (List.range 64).map (off / 64 + ·)
    let query := bitOf e.param1 1
    let persist := bitOf e.param1 0
    let rows := (b.beamCh (g % beamC b)).rows
    let new := ((lines.map (rowCode b)).eraseDups.filter fun x => !rows.contains x).length
    let tableFull : Bool := (granuleState b g = 0 ∧ 65536 ≤ b.beam.retired.length + b.beam.pendRetire.length)
      ∨ (persist ∧ 4096 < rows.length + new)
    let result (b : Block) : Bytes := leB 4 b.beam.retired.length ++ leB 1 (granuleState b g)
    if query then finishCmd b n 0 0 (result b)
    else if tableFull then finishCmd b n 0x7003 0 []
    else
      let b := retireGranule b g 4
      let b := if persist then forEach lines b recordRow else b
      finishCmd b n 0 0 (result b)

/-! ### Test operations (R433) -/

/-- The line a die's test registers name; the operation is refused unless its granule is retired (R433). -/
def testLine (b : Block) (die : Nat) (f : Block → Nat → Block) : Block :=
  let off := rd b (Fld.BEAM_TEST_LINE_LO_OFFSET die) * 64 + regGet b (Reg.BEAM_TEST_LINE_HI die) * 4294967296
  if beamC b ≠ 0 ∧ b.beam.retired.contains (granuleAt b off) then f b (off / 64)
  else wr b (Fld.BEAM_TEST_CTRL_REFUSED die) 1

/-- The fold of a line's check symbols, in their order (R419). -/
def foldOf (b : Block) (line : Nat) : List Nat :=
  let f := Config.beamFold (b.beam.hashKey.getD []) b.beam.epoch (64 * line)
  (List.range 8).map fun i => bitsOf f (16 * i) 16

/-- BEAM_TEST_DATA and BEAM_TEST_CHK of a die. -/
def testData (b : Block) (die : Nat) : Bytes := (List.range 16).flatMap fun i => leB 4 (regGet b (Reg.BEAM_TEST_DATA die i))
def testChk (b : Block) (die : Nat) : List Nat :=
  (List.range 4).flatMap fun i => let v := regGet b (Reg.BEAM_TEST_CHK die i); [v % 65536, v / 65536]

/-- WRITE_RAW and WRITE_GEN (R433). -/
def writeRaw (b : Block) (die : Nat) : Block :=
  testLine b die fun b line => putLine b line { data := testData b die, chk := List.zipWith Nat.xor (testChk b die) (foldOf b line) }
def writeGen (b : Block) (die : Nat) : Block :=
  testLine b die fun b line => putLine b line { data := testData b die, chk := List.zipWith Nat.xor (lineChk (testData b die)) (testChk b die) }

/-- OUTCOME and DEVICE of BEAM_TEST_RESULT. -/
def outcomeOf : BeamClass → Nat × Nat
  | .clean => (0, 0)
  | .corrected d => (1, d)
  | .uncorrectable => (2, 0)
  | .storedPoison => (3, 0)

/-- READ_RAW (R433): the stored symbols without correction, and the class R420 would give. -/
def readRaw (b : Block) (die : Nat) (errs : List (Nat × Nat × Nat)) : Block :=
  testLine b die fun b line =>
    let syms := readSyms (lineAt b line) errs
    let cws := syms.map beamCw
    let data := symBytes syms
    let chk := List.zipWith Nat.xor (syms.flatMap fun c => c.drop 8) (foldOf b line)
    let b := forEach (List.range 16) b fun b i => regPut b (Reg.BEAM_TEST_DATA die i) (fieldAt data (4 * i) 4)
    let b := forEach (List.range 4) b fun b i => regPut b (Reg.BEAM_TEST_CHK die i) (chk.getD (2 * i) 0 + 65536 * chk.getD (2 * i + 1) 0)
    let (o, d) := outcomeOf (beamClass cws)
    let bits (f : Option (Option (Nat × Nat)) → Bool) : Nat := (cws.zipIdx.map fun (c, j) => if f c then 2 ^ j else 0).sum
    let b := wr (wr b (Fld.BEAM_TEST_RESULT_OUTCOME die) o) (Fld.BEAM_TEST_RESULT_DEVICE die) d
    wr (wr b (Fld.BEAM_TEST_RESULT_CW_ERR die) (bits (·.isSome))) (Fld.BEAM_TEST_RESULT_CW_SINGLE die)
      (bits fun c => match c with | some (some _) => true | _ => false)

/-! ### Keying (R419, R430, R435) -/

/-- Granules with a line in a recorded row of their channel (R430). The rows' granules follow from the placement that HASH_KEY
keys, which is free: at most 128 of them for each row, each a free value. -/
def rowGranules (b : Block) (c : Nat) : List Nat × Block :=
  let n := (b.beamCh c).rows.length * 128
  let f := b.ciph.fresh
  let lim := rd b Fld.BEAM_POOL_POOL_STEPS * stepGranules / beamC b
  (((List.range n).map fun i => beamC b * (Config.freeNat (f + i) % lim) + c).eraseDups,
   { b with ciph := { b.ciph with fresh := f + n } })

/-- The legacy test, over the whole pool before the first fill: the granules of the lines that mismatch are retired, their rows recorded
(R434). -/
def legacyTest (b : Block) : Block :=
  match b.beam.legacy with
  | none => b
  | some mismatch =>
    let b := wr (b.updBeam fun m => { m with legacy := none }) Fld.BEAM_STATUS_LEGACY_DONE 1
    forEach mismatch b fun b line =>
      if 64 * line < rd b Fld.BEAM_POOL_POOL_STEPS * 68719476736 then retireLine (lineLog b 6 0 3 0 line) line else b

/-- HASH_KEY is drawn once the DRBG is seeded; then the granules of recorded rows are retired, and the legacy test runs (R430, R434,
R435). -/
def hashKeyDraw (b : Block) : Block :=
  if drbgOk b ∧ b.beam.hashKey.isNone ∧ b.boot.beam then
    let (k, b) := drbgBytes b 16
    let b := b.updBeam fun m => { m with hashKey := some k }
    showFill (legacyTest (forEach (List.range (beamC b)) b fun b c =>
      let (gs, b) := rowGranules b c
      forEach gs b fun b g => retireGranule b g 4))
  else b

/-! ### Population and training (R416, R417, R434) -/

/-- A population R416 accepts. -/
def populationOk (channels dpc cap : Nat) (uniform : Bool) : Bool :=
  [2, 4, 8, 16].contains channels && (dpc = 1 || dpc = 2) && cap ≤ 4 && uniform

/-- The channels come into the pool at the trained rate; with LEGACY_TEST, the test follows the drawing of HASH_KEY (R416, R417, R434,
R497 step 9). -/
def beamTrained (b : Block) (channels dpc cap rate : Nat) (mrdimm : Bool) (mismatch : List Nat) : Block :=
  let b := wr (wr b Fld.BEAM_STATUS_CHANNELS channels) Fld.BEAM_STATUS_DPC dpc
  let b := wrB (wr (wr b Fld.BEAM_STATUS_RATE rate) Fld.BEAM_STATUS_DIMM_CAP cap) Fld.BEAM_STATUS_MRDIMM mrdimm
  let b := wr b Fld.BEAM_POOL_POOL_STEPS (channels * dpc * 2 ^ cap)
  let b := forEach (List.range channels) b fun b c =>
    let (d, i) := chReg b c
    wr (wr b (Fld.BEAM_CH_STATUS_POPULATED d i) 1) (Fld.BEAM_CH_STATUS_TRAINED d i) 1
  let b := { b with boot := { b.boot with beam := true } }
  if rdB b Fld.BEAM_CTRL_LEGACY_TEST then b.updBeam fun m => { m with legacy := some mismatch } else b

/-! ### Loss of Die S's channels, and DORMANT (R440, R505) -/

/-- Die S's channels leave the pool; what they held is lost as by Uncorrectable lines (R432, R505). -/
def loseDieS (b : Block) : Block :=
  if b.beam.half ∨ beamC b = 0 then b
  else
    let c := beamC b
    let hit (gs : List Nat) : Bool := gs.any fun g => c / 2 ≤ g % c
    let ds := (b.ds.tab.filter fun (x : Nat × Dataset) => x.2.live && hit x.2.granules).map Prod.fst
    let ctxs := (b.card.saved.filter fun (x : Nat × SavedCtx) => hit x.2.granules).map Prod.fst
    let b := forEach ds b poisonDataset
    let b := forEach ctxs b fun b slot =>
      let b := b.updCtx slot fun c => { c with frameOpen := false, window := [] }
      match (b.stream slot).obj with
      | some o => endObject b o 0x2003 .poisoned
      | none => b
    let lost := (b.ciph.sealGranules.zipIdx.filter fun x => hit [x.1]).map Prod.snd
    let slots := (b.ciph.sealStates.filter fun (x : Nat × SealState) => lost.contains (x.1 / 64)).map Prod.fst
    let b := forEach slots b spoilSealState
    let b := b.updBeam fun m => { m with half := true }
    wr (wr b Fld.BEAM_POOL_POOL_STEPS (rd b Fld.BEAM_POOL_POOL_STEPS / 2)) Fld.BEAM_POOL_RELEASED_STEPS
      (rd b Fld.BEAM_POOL_RELEASED_STEPS / 2)

/-- Every merge buffer is drained, and the DIMMs enter self-refresh (R440). -/
def beamSleep (b : Block) : Block :=
  let b := forEach (List.range (beamC b)) b fun b c => forEach (b.beamCh c).merge b fun b e => rmw b e []
  let b := forEach (List.range (beamC b)) b fun b c =>
    let (d, i) := chReg b c
    wr b (Fld.BEAM_CH_STATUS_SELF_REFRESH d i) 1
  showFill (b.updBeam fun m => { m with dormant := true })

/-- The channels exit self-refresh and retrain on wake (R440). -/
def beamWake (b : Block) : Block :=
  let b := forEach (List.range (beamC b)) b fun b c =>
    let (d, i) := chReg b c
    wr b (Fld.BEAM_CH_STATUS_SELF_REFRESH d i) 0
  showFill (b.updBeam fun m => { m with dormant := false })

end Sys2Proof.Machine
end

