-- ==== Sys2Proof/Machine/QuoteOps.lean ====
section
/-!
DEFINITION. Sys2Proof/Machine/QuoteOps.lean: measurement registers and quotes (spec/19_boot_trust.md R515 to R521).
-/

namespace Sys2Proof.Machine

/-! ### Measurement (R515) -/

/-- Measurement register i. -/
def pcr (b : Block) (i : Nat) : Bytes := tabGet (zeros 48) b.boot.pcrs i

/-- Extend a measurement register with a digest: PCR ← SHA-384(PCR ‖ m). -/
def extendWith (b : Block) (i : Nat) (m : Bytes) : Block :=
  { b with boot := { b.boot with pcrs := tabSet (zeros 48) b.boot.pcrs i (sha384 (pcr b i ++ m)) } }

/-- Extend a measurement register by the SHA-384 of a byte string. -/
def measure48 (b : Block) (i : Nat) (input : Bytes) : Block := extendWith b i (sha384 input)

/-- TAMPER is latched (R557). -/
def tampered (b : Block) : Bool := rdB b Fld.WARD_STATUS_TAMPER

/-! ### Identity (R516) -/

/-- The DeviceID private key, 48 bytes: HMAC-SHA-384 of "GVXDEVID" and a counter byte 0 under IDENTITY_ROOT, taken into 1 to n − 1. -/
def deviceKeyOf (root : Bytes) : Bytes := beB 48 (scalarOf (hmac384 root [0x47, 0x56, 0x58, 0x44, 0x45, 0x56, 0x49, 0x44, 0x00]))

/-! ### Quotes (R518 to R521) -/

/-- FLAGS of a quote (R518). -/
def quoteFlags (b : Block) : Nat :=
  let st := rd b Fld.BOOT_STATE_STATE
  b2n (tampered b) + 2 * rd b Fld.BOOT_STATE_CONFIG_LOCK + 4 * rd b Fld.BOOT_STATE_SLOT + 8 * b2n (st = 4 || st = 5)
    + 16 * rd b Fld.BOOT_STATE_HALF_ISOLATED + 32 * rd b Fld.BOOT_STATE_IMAGE_COPY

/-- Bytes 0 to 127 of a quote (R518). PCR_SELECT 0 selects all 24 (R519). -/
def quoteBody (b : Block) (select requester : Nat) (challenge : Bytes) : Bytes :=
  let sel := if select % 2 ^ 24 = 0 then 2 ^ 24 - 1 else select % 2 ^ 24
  let digest := sha384 (((List.range 24).filter (bitOf sel)).flatMap (pcr b))
  [0x47, 0x56, 0x58, 0x51] ++ leB 2 1 ++ leB 2 (quoteFlags b) ++ leB 4 sel ++ leB 1 requester ++ leB 1 (rd b Fld.BOOT_SVN_FW)
    ++ leB 2 b.boot.imageSvn ++ leB 8 b.fuse.serial ++ leB 8 b.time.now ++ slice challenge 0 16 ++ zeros 16 ++ slice digest 0 48 ++ zeros 16

/-- A quote can be made: the attestation key exists, and the DRBG gives the signature's value (R164, R517). -/
def quoteReady (b : Block) : Bool := b.boot.attKey.isSome && b.ciph.drbg = .ready

/-- A quote of 224 bytes, signed with the attestation key (R518); the signature draws its value from the DRBG. -/
def quote (b : Block) (select requester : Nat) (challenge : Bytes) : Bytes × Block :=
  let body := quoteBody b select requester challenge
  let r := drbgScalar b
  (body ++ ecdsaSign (beN (b.boot.attKey.getD [])) (sha384 body) r.1, r.2)

/-- The certificates that CHAIN adds, each after a 4-byte length; at most 4,096 bytes (R519, R522). -/
def chainBytes (b : Block) : Bytes :=
  let d := Config.deviceCert b.fuse.serial
  (leB 4 d.length ++ d ++ leB 4 b.boot.aliasCert.length ++ b.boot.aliasCert).take 4096

/-- Accept an ATTEST_QUOTE (R164, R519); while a reseed of the DRBG is due it waits (R163). -/
def acceptAttestQuote (b : Block) (n : Nat) : Block :=
  let c := b.cmd n
  if !quoteReady b then finishCmd b n 0x6003 0 (leB 4 0)
  else if !drbgOk b then b
  else
    let chain := if bitOf c.e.param0 24 then chainBytes b else []
    let need := 224 + chain.length
    if c.e.length < need then finishCmd b n 0x1002 0 (leB 4 need) 32
    else
      let (q, b) := quote b (c.e.param0 % 2 ^ 24) 0 (leB 8 c.e.param1 ++ leB 8 c.e.param2)
      finishCmd (writeBuf b c.fn c.e c.sgl 0 (q ++ chain)) n 0 0 (leB 4 need)

end Sys2Proof.Machine
end

