-- ==== Sys2Proof/Machine/FabricOps.lean ====
section
/-!
DEFINITION. Sys2Proof/Machine/FabricOps.lean: loom time among parts, shuttle links, the time tree, managers and the
leaderless hold (spec/17_timebase_fabric.md R443 to R472; spec/19_boot_trust.md R520).
-/

namespace Sys2Proof.Machine

/-! ### Time error (R444, R445, R455 to R459; spec/20_safety.md R531 cause 7) -/

def Block.updTime (b : Block) (f : TimeSt → TimeSt) : Block := { b with time := f b.time }

/-- Show TIME_STATUS.ERROR_EST, TIME_OFFSET and TIME_ADJ. -/
def showTime (b : Block) : Block :=
  let b := wr b Fld.TIME_STATUS_ERROR_EST (satN 16 b.time.errorEst)
  let b := wrS b Fld.TIME_OFFSET_THETA b.time.theta
  let b := wr b Fld.TIME_OFFSET_DELAY (satN 16 b.time.delay.toNat)
  wrS b Fld.TIME_ADJ_ADJ b.time.adj

/-- The part belongs to a fabric (R460). -/
def hasFabric (b : Block) : Bool := ownDev b != 0 && rd b Fld.SHUT_ID_FABRIC_ID != 0

/-- The part is the root of its time tree: the manager, or a former manager in hold (R452, R465). -/
def isRoot (b : Block) : Bool := isManager b || b.fab.root

/-- Ports of the part's members of cross-device groups. -/
def crossPorts (b : Block) : List Nat :=
  ((List.range 32).flatMap fun g => let q := b.grp g
    if q.valid && q.cross then (localMembers b q).map fun x => x.2.port else []).eraseDups

/-- The time fault sets or clears (R456): the supervisors stop or release the runs of the part's cross-device members, and the
manager is told. -/
def setFault (b : Block) (on : Bool) : Block :=
  let b := fabricLog (wrB b Fld.TIME_STATUS_FAULT on) 0 (if on then 5 else 6) 0xFF 0
  let b := if on then forEach (crossPorts b) b fun b p =>
      let b := inhibitRun (timeError b p) p
      match memberOn b p with
      | some (g, i) => updMember b g i fun m => { m with out := true, held := false }
      | none => b
    else forEach (crossPorts b) b fun b p => if rdB b (Fld.HDL_STATUS_LOCKED p) then endStopRun b p 7 else b
  if isManager b ∨ managerId b = 0 then b else msgTo b (managerId b) 0x0E (leB 1 (b2n on))

/-- The time fault as ERROR_EST now has it (R456): `good` is true after an exchange. -/
def checkFault (b : Block) (good : Bool) : Block :=
  let b := showTime b
  let within := b.time.errorEst ≤ 4 * rd b Fld.TIME_CTRL_SKEW_LIMIT
  if !within then
    let b := b.updTime fun t => { t with goodRun := 0 }
    if rdB b Fld.TIME_STATUS_FAULT then b else setFault b true
  else if good then
    let b := b.updTime fun t => { t with goodRun := t.goodRun + 1 }
    if rdB b Fld.TIME_STATUS_FAULT && 16 ≤ b.time.goodRun then setFault b false else b
  else b

/-- Steer loom time by an offset θ (R455): a step while no heddle link is UP, else by ADJ. -/
def steer (b : Block) (theta : Int) : Block :=
  if 4000 < theta.natAbs && !(List.range 32).any (linkUp b) then
    let b := fabricLog b 0 10 0xFF 0 (-theta)
    let b := b.updTime fun t => { t with now := (((t.now : Int) - theta) % (2 ^ 64 : Nat)).toNat, integ := 0, lastExchange := (((t.lastExchange : Int) - theta) % (2 ^ 64 : Nat)).toNat }
    { b with boot := { b.boot with since := (((b.boot.since : Int) - theta) % (2 ^ 64 : Nat)).toNat } }
  else
    b.updTime fun t =>
      let i := clampI (-1048576) 1048576 (t.integ + theta)
      let a := clampI (-42950) 42950 (-(theta * 268 + i * 17))
      { t with integ := i, adj := a, adjs := (a :: t.adjs).take 16 }

/-- Show which ports are the parent and in the tree (R453). -/
def showTree (b : Block) : Block :=
  forEach (List.range 4) b fun b p =>
    let par : Bool := b.fab.parent = some p
    let b := wrB b (Fld.SHUT_PORT_STATUS_PARENT (p / 2) (p % 2)) par
    wrB b (Fld.SHUT_PORT_STATUS_IN_TREE (p / 2) (p % 2)) (par || (b.shut p).child)

/-- The exchange with the parent (R454 to R456): the parent's T1 and T4, the part's T2 and T3. -/
def parentExchange (b : Block) (t1 t2 t3 t4 : Nat) : Block :=
  match b.fab.parent with
  | none => b
  | some p =>
    if !shutUp b p ∨ isRoot b then b
    else
      let d := Int.tdiv (((t4 : Int) - t1) - ((t3 : Int) - t2)) 2
      let theta := (t2 : Int) - t1 - d
      let b := wr b (Fld.SHUT_PORT_DELAY_D (p / 2) (p % 2)) (satN 16 d.toNat)
      let b := steer (b.updTime fun t => { t with theta := theta, delay := d }) theta
      let b := b.updTime fun t => { t with
        lastExchange := t.now, missed := 0, errorEst := t.parentErr + 6 + max 4 theta.natAbs }
      checkFault (wr b Fld.TIME_STATUS_STATE 2) true

/-- Holdover (R457): a part with no parent, or whose parent has missed 3 exchanges, holds ADJ, and ERROR_EST grows. -/
def holdover (b : Block) : Block :=
  if isRoot b ∨ !hasFabric b ∨ (b.fab.parent.isSome ∧ since b b.time.lastExchange < 3 * tMs) then b
  else
    let b := if rd b Fld.TIME_STATUS_STATE = 3 then b
      else
        let b := fabricLog (wr b Fld.TIME_STATUS_STATE 3) 0 4 0xFF 0
        b.updTime fun t => { t with
          holdBase := t.errorEst, missed := 3,
          adj := if t.adjs.length = 0 then t.adj else Int.tdiv (t.adjs.foldl (· + ·) 0) t.adjs.length }
    let grown := rd b Fld.TIME_CTRL_HOLDOVER_PPB * since b b.time.lastExchange / 1000000000
    checkFault (b.updTime fun t => { t with errorEst := t.holdBase + grown }) false

/-- The part steers to TIME_REF: it is the manager, or has no fabric, and REF_EN is set (R459). -/
def refRoot (b : Block) : Bool := (isManager b || !hasFabric b) && rdB b Fld.TIME_CTRL_REF_EN

/-- A 1PPS edge at a root with PPS_EN (R459). -/
def ppsEdge (b : Block) : Block :=
  if !refRoot b ∨ !rdB b Fld.TIME_CTRL_PPS_EN then b
  else
    let first := !b.time.ppsSeen
    let b := wr (b.updTime fun t => { t with ppsSeen := true }) Fld.TIME_STATUS_PPS_LOCK 1
    if first && !(List.range 32).any (linkUp b) then
      let t0 := b.time.now
      let b := b.updTime fun t => { t with now := 0, frac := 0, lastExchange := 0 }
      { b with boot := { b.boot with since := (b.boot.since + 2 ^ 64 - t0 % 2 ^ 64) % 2 ^ 64 } }
    else
      let r := b.time.now % tS
      let theta : Int := if 2 * r ≤ tS then (r : Int) else (r : Int) - tS
      showTime (steer (b.updTime fun t => { t with theta := theta }) theta)

/-- TIME_REF or 1PPS is lost at a root (R459): logged; the last ADJ is held. -/
def refLost (b : Block) (pps : Bool) : Block :=
  if !refRoot b ∨ (pps ∧ !rdB b Fld.TIME_CTRL_PPS_EN) then b
  else wr (fabricLog b 0 15 0xFF 0) (if pps then Fld.TIME_STATUS_PPS_LOCK else Fld.TIME_STATUS_REF_LOCK) 0

/-- TIME_REF or 1PPS is there (again) at a root (R459): steering begins; `adj` is the ADJ that makes loom time advance
4,000,000,000 ticks in 10,000,000 cycles of TIME_REF. -/
def refBack (b : Block) (pps : Bool) (adj : Int) : Block :=
  if !refRoot b ∨ (pps ∧ !rdB b Fld.TIME_CTRL_PPS_EN) then b
  else if pps then wr b Fld.TIME_STATUS_PPS_LOCK 1
  else
    let a := clampI (-42950) 42950 adj
    showTime (wr (b.updTime fun t => { t with adj := a, adjs := (a :: t.adjs).take 16 }) Fld.TIME_STATUS_REF_LOCK 1)

/-- The check of Die S's counter (R445): beyond 8 ticks every port of Die S has time error beyond bound (R531). -/
def dieAlign (b : Block) (err : Int) : Block :=
  let b := wrS b Fld.TIME_DIE_ERROR err
  if 8 < err.natAbs then forEach (List.range 16) b fun b i => timeError b (16 + i)
  else forEach (List.range 16) b fun b i => if rdB b (Fld.HDL_STATUS_LOCKED (16 + i)) then endStopRun b (16 + i) 7 else b

/-! ### Links (R446 to R448) -/

/-- A shuttle port is there: those of Die S from its release until the die-to-die link is lost (R471, R495). -/
def shutThere (b : Block) (p : Nat) : Bool := p < 2 || (b.boot.dieS && !rdB b Fld.BOOT_STATE_HALF_ISOLATED)

/-- ENABLE of a shuttle port. -/
def shutOn (b : Block) (p : Nat) : Bool := rdB b (Fld.SHUT_PORT_CTRL_ENABLE (p / 2) (p % 2))

/-- Training starts (R448): training blocks go out on every lane. -/
def shutTrain (b : Block) (p : Nat) : Block :=
  let b := b.updShut p fun h => { start := b.time.now, downAt := h.downAt }
  emit (setShut b p 1) (.shutTrain p 1)

/-- A port leaves UP, or its training ends, for state `st` (R448). -/
def shutLeave (b : Block) (p st : Nat) : Block :=
  let b := if shutUp b p then fabricLog b 0 1 p (peerOf b p) else b
  let b := b.updShut p fun _ => { downAt := b.time.now }
  showTree (setShut b p st)

/-- Write SHUT_PORT_CTRL (R448): ENABLE set trains, cleared disables; RETRAIN takes the link DOWN and retrains it. -/
def writeShutCtrl (b : Block) (p data : Nat) : Block :=
  if !shutThere b p then b
  else
    let was := shutOn b p
    let b := writeFields b (Reg.SHUT_PORT_CTRL (p / 2) (p % 2)) data
    let on := shutOn b p
    if on ∧ !was then shutTrain b p
    else if !on ∧ was then shutLeave b p 0
    else if bitOf data 1 ∧ on ∧ shutState b p ≠ 4 then shutTrain (shutLeave b p 3) p
    else b

/-- The retry timer (R448): a DOWN link is retrained every 100 ms while ENABLE is 1; a training of 250 ms has failed. -/
def shutRetry (b : Block) (p : Nat) : Block :=
  if !shutThere b p ∨ !shutOn b p then b
  else if shutState b p = 3 ∧ 100 * tMs ≤ since b (b.shut p).downAt then shutTrain b p
  else if shutState b p = 1 ∧ 250 * tMs ≤ since b (b.shut p).start then shutLeave b p 3
  else b

/-- The part's DEVICE_ID is found on another part (R460). -/
def foundTwice (b : Block) (p : Nat) : Block :=
  let b := if b.fab.dup then b else fabricLog b 0 12 p (ownDev b)
  b.updFab fun f => { f with dup := true }

/-- IDENT of the peer (R448, R460). -/
def shutIdent (b : Block) (p : Nat) (m : Bytes) : Block :=
  let h := b.shut p
  let dev := fieldAt m 0 2
  if shutState b p ≠ 1 ∨ 250 * tMs ≤ since b h.start then b
  else if !h.sent then b.updShut p fun h => { h with early := some m }
  else if fieldAt m 2 2 ≠ rd b Fld.SHUT_ID_FABRIC_ID then
    let b := fabricLog (shutLeave b p 4) 0 11 p dev
    wr b (Fld.SHUT_PORT_STATUS_PEER (p / 2) (p % 2)) dev
  else if dev = ownDev b then
    if fieldAt m 4 8 = b.fuse.serial then b else foundTwice b p
  else
    let b := wr (setShut b p 2) (Fld.SHUT_PORT_STATUS_PEER (p / 2) (p % 2)) dev
    let b := b.updShut p fun h => { h with ident := true, timeAt := b.time.now, credits := [(0, 128), (1, 128), (2, 128), (3, 128)] }
    let b := b.updFab fun f => { f with firstUp := f.firstUp.orElse fun _ => some b.time.now }
    fabricLog b 0 2 p dev

/-- A training block arrives on a lane (R448): as on a heddle link (log entry 50), with all 4 lanes needed both ways. -/
def shutTraining (b : Block) (p lane : Nat) (inverted : Bool) (control locked : Nat) : Block :=
  let h := b.shut p
  if shutState b p ≠ 1 ∨ h.sent ∨ 250 * tMs ≤ since b h.start then b
  else
    let ready := if bitOf control 7 ∧ !h.ready.contains lane then h.ready ++ [lane] else h.ready
    let lanes := tabSet none h.lanes lane (some (control % 4, inverted))
    let all := ((lanes.filterMap fun (x : Nat × Option (Nat × Bool)) => x.2.map (·.1)).eraseDups).length = 4
    let b := b.updShut p fun h => { h with lanes := lanes, ready := ready }
    if all ∧ ready.length = 4 ∧ locked % 16 = 15 then
      let b := emit (b.updShut p fun h => { h with sent := true, dnAt := b.time.now }) (.shutTrain p 5)
      let b := sendOn b p 0 1 (leB 2 (ownDev b) ++ leB 2 (rd b Fld.SHUT_ID_FABRIC_ID) ++ leB 8 b.fuse.serial ++ leB 1 p) []
      match h.early with
      | some m => shutIdent b p m
      | none => b
    else b

/-! ### Heartbeats and the tree (R452, R453) -/

/-- HEARTBEAT's ARGS (R452). -/
def heartbeatMsg (epoch manager priority hops seq err flags : Nat) : Bytes :=
  leB 4 epoch ++ leB 2 manager ++ leB 1 priority ++ leB 1 hops ++ leB 4 seq ++ leB 2 (satN 16 err) ++ leB 1 flags ++ zeros 5

/-- Send a heartbeat on every UP port but one. -/
def sendHeartbeat (b : Block) (but : Option Nat) (m : Bytes) : Block :=
  forEach (upPorts b) b fun b p => if but = some p then b else sendOn b p (peerOf b p) 3 m []

/-- The port on which the least HOPS was heard over the last 3 heartbeats, then the lowest peer, then the lowest port (R453). -/
def bestPort (b : Block) : Option Nat :=
  let heard (p : Nat) : List (Nat × Nat × Nat) := (b.shut p).heard.filter fun x => x.1 = fabEpoch b
  let ps := (upPorts b).filter fun p => !(heard p).isEmpty && since b (b.shut p).heardAt < 3 * tMs
  let key (p : Nat) : Nat × Nat := (((heard p).map (·.2.2)).foldl min 255, peerOf b p)
  (ps.mergeSort fun x y => let k := key x; let l := key y
    k.1 < l.1 || (k.1 = l.1 && (k.2 < l.2 || (k.2 = l.2 && x ≤ y)))).head?

/-- Choose the parent (R453). -/
def chooseParent (b : Block) : Block :=
  let new := bestPort b
  if new = b.fab.parent then b
  else
    let b := b.updFab fun f => { f with parent := new, routes := f.routes.filter fun (x : Nat × Nat) => new.elim true fun p => x.2 ≠ p + 1 }
    let b := match new with
      | some p =>
        let b := b.updShut p fun h => { h with child := false }
        let b := fabricLog b 0 3 p (peerOf b p)
        if rd b Fld.TIME_STATUS_STATE = 3 then b else wr b Fld.TIME_STATUS_STATE 1
      | none => fabricLog b 0 3 0xFF 0
    showTree b

/-! ### Manager, epochs and hold (R460 to R466) -/

/-- PRIORITY of the part; 0 where it is not a candidate. -/
def ownPriority (b : Block) : Nat := rd b Fld.SHUT_ROLE_PRIORITY

/-- The cross-device groups enter or leave the leaderless hold (R384, R465). -/
def holdGroups (b : Block) (on : Bool) : Block :=
  forEach (List.range 32) b fun b g =>
    if (b.grp g).valid && (b.grp g).cross then b.updGrp g fun q => { q with hold := on } else b

/-- Launched cross-device wefts without an outcome are voided with REASON 3 (R384). -/
def voidCross (b : Block) : Block :=
  forEach (List.range 32) b fun b g =>
    if (b.grp g).valid && (b.grp g).cross then
      forEach ((b.grp g).wefts.filter fun w => w.state = .decided || w.state = .launched) b fun b w =>
        if reached b w.l || w.intentDurable then failWeft b g w.no 3 0x9001 else dropWeft b g w.no
    else b

/-- The part enters the leaderless hold of epoch `e` (R464, R465). -/
def enterHold (b : Block) (e : Nat) : Block :=
  match b.fab.hold with
  | some x => if x < e then b.updFab fun f => { f with hold := some e } else b
  | none =>
    let root := isManager b
    let b := b.updFab fun f => { f with hold := some e, holdAt := b.time.now, root := root }
    let b := if ownPriority b ≠ 0 then wr b Fld.SHUT_ROLE_ROLE 3 else b
    let b := wr b Fld.SHUT_ROLE_MANAGER 0
    fabricLog (setEvent (voidCross (holdGroups b true)) 3) 0x9001 8 0xFF 0

/-- The hold ends (R466). -/
def leaveHold (b : Block) : Block :=
  if b.fab.hold.isNone then b
  else
    let b := b.updFab fun f => { f with hold := none, root := false }
    let b := if ownPriority b ≠ 0 then wr b Fld.SHUT_ROLE_ROLE 1 else b
    fabricLog (holdGroups b false) 0 9 0xFF 0

/-- A conflict of epoch `e` is found: HOLD floods, and the part enters the hold (R464). -/
def conflict (b : Block) (e : Nat) : Block :=
  if b.fab.hold = some e then b else enterHold (flood b none 5 (leB 4 e)) e

/-- To a new manager, parts resend the verdicts without an outcome, and owners their launched wefts (R463; the list in PLAN
layout is a DESIGN CHOICE, log entry 54). -/
def resendAll (b : Block) : Block :=
  if isManager b ∨ managerId b = 0 then b
  else
    let b := forEach b.fab.verdicts b fun b r => msgTo b (managerId b) 9 r
    forEach (List.range 32) b fun b g =>
      let q := b.grp g
      if q.valid && q.cross then
        forEach (q.wefts.filter fun w => w.owner = ownDev b && weftOpen b w) b fun b w =>
          msgTo b (managerId b) 7 (planMsg b q w.no w.l w.tw w.step w.owner 1)
      else b

/-- The part obeys manager `m` of epoch `e` from now on (R464). -/
def obey (b : Block) (e m prio : Nat) : Block :=
  let b := leaveHold b
  let b := wr (wr b Fld.SHUT_EPOCH_EPOCH e) Fld.SHUT_ROLE_MANAGER m
  let b := wr b Fld.SHUT_ROLE_ROLE (if ownPriority b = 0 then 0 else 1)
  let b := b.updFab fun f => { f with mgr := some (m, prio, b.time.now), heardEpoch := max f.heardEpoch e, root := false, epochPending := false, hops := [] }
  let b := (wr (wr b Fld.TIME_STATUS_REF_LOCK 0) Fld.TIME_STATUS_PPS_LOCK 0)
  resendAll (fabricLog b 0 7 0xFF m)

/-- STATE of the groups, in the model's layout (R462; log entry 54). -/
def stateMsg (b : Block) : Bytes :=
  let gs := (List.range 32).filter fun g => (b.grp g).valid && (b.grp g).cross
  leB 1 gs.length ++ gs.flatMap fun g =>
    let q := b.grp g
    let ws := q.wefts.filter (weftOpen b)
    leB 2 q.number ++ leB 1 (smState b g) ++ leB 8 q.weftNext ++ leB 1 (rd b (Fld.WEAVE_SM_STATUS_STEP g)) ++ leB 8 q.nextL ++ leB 1 q.members.length
      ++ (q.members.flatMap fun m => leB 1 (b2n m.failed) ++ leB 1 m.lateRun) ++ leB 1 ws.length
      ++ ws.flatMap fun w => leB 8 w.no ++ leB 2 w.owner ++ leB 8 w.l ++ leB 4 w.tw ++ leB 1 w.grace ++ leB 1 w.places.length
        ++ w.places.flatMap fun p => leB 1 p.verdict

/-- Read `n` items of a message with a reader that answers an item and the rest. -/
def readMany {α : Type} (f : Bytes → α × Bytes) : Nat → Bytes → List α × Bytes
  | 0, m => ([], m)
  | n + 1, m =>
    let (x, r) := f m
    let (l, r) := readMany f n r
    (x :: l, r)

/-- A weft and a group of STATE. -/
def readStWeft (m : Bytes) : StWeft × Bytes :=
  let n := fieldAt m 23 1
  ({ no := fieldAt m 0 8, owner := fieldAt m 8 2, l := fieldAt m 10 8, tw := fieldAt m 18 4, grace := fieldAt m 22 1,
     verdicts := (List.range n).map fun i => fieldAt m (24 + i) 1 }, m.drop (24 + n))
def readStGroup (m : Bytes) : StGroup × Bytes :=
  let n := fieldAt m 20 1
  let ms := (List.range n).map fun i => (fieldAt m (21 + 2 * i) 1 == 1, fieldAt m (22 + 2 * i) 1)
  let r := m.drop (21 + 2 * n)
  let (ws, r') := readMany readStWeft (fieldAt r 0 1) (r.drop 1)
  ({ group := fieldAt m 0 2, state := fieldAt m 2 1, next := fieldAt m 3 8, step := fieldAt m 11 1, l := fieldAt m 12 8,
     members := ms, wefts := ws }, r')

/-- A standby keeps the latest STATE (R462). -/
def stateIn (b : Block) (src : Nat) (m : Bytes) : Block :=
  if fromManager b src ∧ fabRole b = 1 then
    b.updFab fun f => { f with state := (readMany readStGroup (fieldAt m 0 1) (m.drop 1)).1 }
  else b

/-- The new manager continues from its latest STATE; a boundary without a PLAN is a stop (R463). -/
def adoptState (b : Block) : Block :=
  let b := forEach b.fab.state b fun b st =>
    match groupSlot b st.group with
    | none => b
    | some g =>
      let q := b.grp g
      let adopt (x : StWeft) : Weft :=
        match weftOf q x.no with
        | some w => { w with places := w.places.zipIdx.map fun (p, i) =>
            if p.verdict = 0 then { p with verdict := x.verdicts.getD i 0, present := true } else { p with present := true } }
        | none => { no := x.no, l := x.l, tw := x.tw, owner := x.owner, grace := x.grace, state := .launched,
                    places := x.verdicts.zipIdx.map fun (v, i) => { role := roleOf (grpN q) i x.no, present := true, verdict := v } }
      let ws := st.wefts.map adopt
      let more := q.wefts.filter fun w => !ws.any fun x => x.no = w.no
      b.updGrp g fun q => { q with
        weftNext := max q.weftNext st.next, nextL := max q.nextL st.l, wefts := (more ++ ws).mergeSort fun x y => x.no ≤ y.no,
        members := q.members.zipIdx.map fun (m, i) => match st.members[i]? with
          | some (f, l) => { m with failed := f, lateRun := l }
          | none => m }
  forEach (List.range 32) b fun b g =>
    if (b.grp g).valid && (b.grp g).cross && streaming b g then stopGroup b g 1 else b

/-- The part becomes manager (R461, R463, R466): a new epoch, recorded in the ledger before the first heartbeat. -/
def becomeManager (b : Block) : Block :=
  let e := (1 + max b.fab.ledgerEpoch b.fab.heardEpoch) % 2 ^ 32
  let b := leaveHold b
  let b := wr (wr (wr b Fld.SHUT_ROLE_ROLE 2) Fld.SHUT_ROLE_MANAGER (ownDev b)) Fld.SHUT_EPOCH_EPOCH e
  let b := b.updFab fun f => { f with
    ledgerEpoch := e, heardEpoch := e, mgr := some (ownDev b, ownPriority b, b.time.now), epochPending := true, mgrAt := b.time.now, root := false,
    hops := [], parent := none, hbNext := (b.time.now / tMs + 1) * tMs % 2 ^ 64 }
  let b := fabricLog b 0 7 0xFF (ownDev b)
  let b := wr (wr b Fld.TIME_STATUS_STATE 4) Fld.TIME_STATUS_HOPS 0
  let b := showTime (b.updTime fun t => { t with errorEst := 0, parentErr := 0 })
  let b := if rdB b Fld.TIME_STATUS_FAULT then setFault b false else b
  let b := ledgerSubmit b regControl (leB 1 0x11 ++ zeros 3 ++ leB 4 e ++ leB 8 b.time.now ++ zeros 16) .epoch
  recomputeLat (adoptState (showTree b))

/-- The loom time from which a candidate's wait of R461 counts. -/
def waitFrom (b : Block) : Nat := b.fab.firstUp.getD b.boot.since

/-- A candidate that has heard no heartbeat becomes manager after its wait (R461). -/
def election (b : Block) : Block :=
  let p := ownPriority b
  if fabRole b = 1 ∧ p ≠ 0 ∧ b.fab.mgr.isNone ∧ b.fab.hold.isNone ∧ (20 + 10 * (p - 1)) * tMs ≤ since b (waitFrom b) then becomeManager b else b

/-- A standby takes over after 5 ms + 2 ms × (PRIORITY − 1) without a heartbeat (R463, R471). -/
def takeover (b : Block) : Block :=
  let p := ownPriority b
  match b.fab.mgr with
  | some (_, _, t) =>
    if fabRole b = 1 ∧ p ≠ 0 ∧ b.fab.hold.isNone ∧ (5 + 2 * (p - 1)) * tMs ≤ since b t then becomeManager b else b
  | none => b

/-- Write SHUT_CTRL (R466): CLAIM by a candidate in hold claims the fabric. -/
def writeShutCtl (b : Block) (data : Nat) : Block :=
  let b := writeFields b Reg.SHUT_CTRL data
  if bitOf data 0 ∧ fabRole b = 3 then becomeManager b else b

/-- AUTO_CLAIM_MS in hold has passed (R466). -/
def autoClaim (b : Block) : Block :=
  let ms := rd b Fld.SHUT_CTRL_AUTO_CLAIM_MS
  if fabRole b = 3 ∧ ms ≠ 0 ∧ ms * tMs ≤ since b b.fab.holdAt then becomeManager b else b

/-- HOLD for an epoch (R464, R471): one for a lower epoch is ignored. -/
def holdIn (b : Block) (m : Bytes) : Block :=
  let e := fieldAt m 0 4
  if e < fabEpoch b then b
  else enterHold (b.updFab fun f => { f with heardEpoch := max f.heardEpoch e }) e

/-- FLAGS of the heartbeat that a root sends (R452). -/
def heartbeatFlags (b : Block) : Nat :=
  b2n b.fab.hold.isSome + 2 * rd b Fld.TIME_STATUS_REF_LOCK + 4 * rd b Fld.TIME_STATUS_PPS_LOCK

/-- The root's loom time passes a multiple of 1 ms (R452): HEARTBEAT, and STATE to each standby (R462). -/
def heartbeatSend (b : Block) : Block :=
  if !isRoot b ∨ b.fab.epochPending ∨ !reached b b.fab.hbNext then b
  else
    let seq := b.fab.hbSeq
    let b := b.updFab fun f => { f with hbSeq := (seq + 1) % 2 ^ 32, hbNext := (b.time.now / tMs + 1) * tMs % 2 ^ 64 }
    let b := sendHeartbeat b none (heartbeatMsg (fabEpoch b) (ownDev b) (ownPriority b) 0 seq b.time.errorEst (heartbeatFlags b))
    if isManager b then
      forEach (b.fab.cands.filter fun c => c.1 ≠ ownDev b) b fun b c => msgTo b c.1 4 (stateMsg b)
    else b

/-- A manager or root of lower precedence than (epoch, PRIORITY) gives way (R464, R465). -/
def givesWay (b : Block) (e prio : Nat) : Bool := fabEpoch b < e || (fabEpoch b = e && prio < ownPriority b)

/-- A heartbeat arrives on a port (R452, R453, R464). -/
def heartbeatIn (b : Block) (p src : Nat) (m : Bytes) : Block :=
  let e := fieldAt m 0 4
  let mg := fieldAt m 4 2
  let prio := fieldAt m 6 1
  let hops := fieldAt m 7 1
  let seq := fieldAt m 8 4
  if !shutUp b p then b
  else if src = ownDev b ∨ (mg = ownDev b ∧ b.fab.ledgerEpoch < e) then foundTwice b p
  else if mg = ownDev b ∨ e < fabEpoch b then b.updFab fun f => { f with heardEpoch := max f.heardEpoch e }
  else
    let higher := fabEpoch b < e
    let old := b.fab.mgr
    let b := b.updShut p fun h => { h with heard := ((e, seq, hops) :: h.heard.filter fun x => x.1 = e).take 3, heardAt := b.time.now }
    let b := b.updFab fun f => { f with heardEpoch := max f.heardEpoch e }
    -- two managers of one epoch within 3 ms
    let clash : Bool := !higher && (match old with
      | some (m0, _, t) => m0 ≠ mg && (isManager b || since b t < 3 * tMs)
      | none => false)
    let b := if higher && (b.fab.hold.elim true fun x => x < e) then obey b e mg prio
      else if clash then conflict b e
      else if b.fab.hold.isSome then b
      else if old.isNone then obey b e mg prio
      else b.updFab fun f => { f with mgr := some (mg, prio, b.time.now) }
    let b := if b.fab.root && givesWay b e prio then b.updFab fun f => { f with root := false } else b
    if isRoot b then b
    else
      -- the first copy is relayed
      let first : Bool := match b.fab.relayed with
        | some (e0, s0) => e0 < e || (e0 = e && 0 < (seq + 2 ^ 32 - s0) % 2 ^ 32 && (seq + 2 ^ 32 - s0) % 2 ^ 32 < 2 ^ 31)
        | none => true
      let b := if first then b.updFab fun f => { f with relayed := some (e, seq) } else b
      let b := if b.fab.parent.isNone ∨ (higher ∧ first ∧ b.fab.parent ≠ some p) then chooseParent b else b
      let b := if b.fab.parent = some p then
          wr (b.updTime fun t => { t with parentErr := fieldAt m 12 2 }) Fld.TIME_STATUS_HOPS (satN 8 (hops + 1))
        else b
      if first then sendHeartbeat b (some p) (heartbeatMsg e mg prio (min 255 (hops + 1)) seq b.time.errorEst (fieldAt m 14 1)) else b

/-- Three heartbeats missed on the parent port (R453): the part chooses again. -/
def heartbeatMiss (b : Block) : Block :=
  match b.fab.parent with
  | some p => if 3 * tMs ≤ since b (b.shut p).heardAt ∨ !shutUp b p then chooseParent (b.updShut p fun h => { h with heard := [] }) else b
  | none => if isRoot b then b else chooseParent b

/-! ### Reports to the manager (R451, R456, R468, R520) -/

/-- HOPREP (R451): parent, d, θ, ERROR_EST (layout DESIGN CHOICE, log entry 54). -/
def hopRepReport (b : Block) : Block :=
  if isManager b ∨ managerId b = 0 ∨ since b b.fab.hopAt < 100 * tMs then b
  else
    let par := b.fab.parent.elim 0 (peerOf b)
    msgTo (b.updFab fun f => { f with hopAt := b.time.now }) (managerId b) 0x0D
      (leB 2 par ++ leB 4 (satN 32 b.time.delay.toNat) ++ leB 4 (ofS 32 b.time.theta) ++ leB 4 (satN 32 b.time.errorEst))

/-- A HOPREP passes: the peer that has this part as its parent is its child in the tree (R453). -/
def noteChild (b : Block) (p src : Nat) (m : Bytes) : Block :=
  if peerOf b p = src then showTree (b.updShut p fun h => { h with child := fieldAt m 0 2 = ownDev b }) else b

/-- HOPREP at the manager (R468); of a part that has joined, a quote is requested (R520). -/
def hopRepIn (b : Block) (p src : Nat) (m : Bytes) : Block :=
  let b := noteChild b p src m
  if !isManager b then b
  else
    let b := b.updFab fun f => { f with hops := tabUpd {} f.hops src fun h => { h with
      known := true, parent := fieldAt m 0 2, d := fieldAt m 2 4, theta := toS 32 (fieldAt m 6 4), err := fieldAt m 10 4 } }
    let b := recomputeLat b
    if (hopRep b src).asked ∨ !drbgOk b then b
    else
      let b := b.updFab fun f => { f with hops := tabUpd {} f.hops src fun h => { h with asked := true } }
      let (c, b) := drbgBytes b 16
      msgTo b src 0x0F (leB 1 1 ++ zeros 3 ++ slice c 0 16)

/-- TIMEFAULT at the manager (R456). -/
def timeFaultIn (b : Block) (src : Nat) (m : Bytes) : Block :=
  if isManager b then b.updFab fun f => { f with hops := tabUpd {} f.hops src fun h => { h with fault := fieldAt m 0 1 = 1 } } else b

/-- Keep a reply in page 0x0110: one entry per DEVICE_ID, the oldest replaced when 1,024 are held (R520, R578). -/
def keepQuote (b : Block) (src : Nat) (m : Bytes) : Block :=
  let e := leB 2 src ++ leB 1 (fieldAt m 1 1) ++ zeros 29 ++ slice m 20 224
  { b with logs := tabUpd {} b.logs 0x110 fun p =>
      let others := p.entries.filter fun x => fieldAt x 0 2 ≠ src
      { entries := (if others.length < 1024 then others else others.drop 1) ++ [e], written := min (p.written + 1) 0xFFFFFFFF } }

/-- ATTEST (R520): a request of the manager is answered, after a reseed of the DRBG where one is due (R163); a reply is kept by the
manager. -/
def attestIn (b : Block) (src : Nat) (m : Bytes) : Block :=
  if fieldAt m 0 1 = 1 then
    if !fromManager b src then b
    else if quoteReady b ∧ !drbgOk b then b.updFab fun f => { f with attests := f.attests ++ [(src, m)] }
    else if quoteReady b then
      let (q, b) := quote b 0 1 (slice m 4 16)
      msgTo b src 0x0F (leB 1 2 ++ leB 1 0 ++ zeros 18 ++ q)
    else msgTo b src 0x0F (leB 1 2 ++ leB 1 1 ++ zeros 18 ++ zeros 224)
  else if fieldAt m 0 1 = 2 ∧ isManager b then keepQuote b src m
  else b

/-- PLAN at this part: of the manager obeyed; at the manager, the weft of an owner that resends it (R463, R464). -/
def planIn (b : Block) (src : Nat) (m : Bytes) : Block :=
  if fromManager b src then applyPlan b m
  else if isManager b then
    match groupSlot b (fieldAt m 0 2) with
    | some g =>
      let q := b.grp g
      let no := fieldAt m 2 8
      if fieldAt m 24 2 ≠ src ∨ (weftOf q no).isSome then b
      else
        let w : Weft := { no := no, l := fieldAt m 10 8, tw := fieldAt m 20 4, step := fieldAt m 18 1, owner := src, state := .launched,
                          grace := rd b (Fld.WEAVE_GROUP_CFG_GRACE g),
                          places := q.members.zipIdx.map fun (x, i) => { role := roleOf (grpN q) i no, present := !x.failed } }
        b.updGrp g fun q => { q with wefts := (q.wefts ++ [w]).mergeSort fun x y => x.no ≤ y.no, weftNext := max q.weftNext (no + 1) }
    | none => b
  else b

/-- VERDICT at the manager (R382); OUTCOME 4 is a WEFT_ABORT (log entry 54). -/
def verdictMsg (b : Block) (m : Bytes) : Block :=
  match groupSlot b (fieldAt m 16 2) with
  | some g =>
    if !schedules b g ∨ !(b.grp g).cross then b
    else if fieldAt m 19 1 = 4 then abortArrives b g (fieldAt m 0 8)
    else verdictIn b (slice m 0 32)
  | none => b

/-! ### Packets (R447, R449 to R451) -/

/-- CREDIT (R450): credits of a lane come back, 128 at most, and bulk traffic goes on. -/
def creditIn (b : Block) (p lane cells : Nat) : Block :=
  if !shutUp b p then b
  else pumpBulk (b.updShut p fun h => { h with credits := tabUpd 0 h.credits lane fun c => min 128 (c + cells) }) p 16

/-- Deliver a message of another part by its TYPE (R451). -/
def deliverMsg (b : Block) (p src typ : Nat) (m : Bytes) : Block :=
  match typ with
  | 0x02 => creditIn b p (fieldAt m 0 1 % 4) (fieldAt m 1 2)
  | 0x03 => heartbeatIn b p src m
  | 0x04 => stateIn b src m
  | 0x05 => holdIn b m
  | 0x06 => queueIn b src m
  | 0x07 => planIn b src m
  | 0x08 => if b.fab.hold.isNone ∧ fieldAt m 26 2 = src then memberLaunch b m else b
  | 0x09 => verdictMsg b m
  | 0x0A => if fromManager b src then outcomeIn b m else b
  | 0x0B => if fromManager b src then declareIn b m else b
  | 0x0C => regenIn b src m
  | 0x0D => hopRepIn b p src m
  | 0x0E => timeFaultIn b src m
  | 0x0F => attestIn b src m
  | 0x80 => rowIn b m
  | _ => b

/-- PCRC holds (R449). -/
def pcrcOk (head body : Bytes) : Bool := fieldAt head 28 4 = crc32c (slice head 0 28 ++ body)

/-- A flood packet (R450): a copy seen within 100 ms is dropped; else it goes on every other UP port, and is delivered. -/
def floodIn (b : Block) (p : Nat) (head body : Bytes) : Block :=
  let src := fieldAt head 2 2
  let seq := fieldAt head 6 2
  if src = ownDev b ∨ b.fab.seen.any fun x => x.1 = src && x.2.1 = seq && since b x.2.2 ≤ 100 * tMs then b
  else
    let b := b.updFab fun f => { f with seen := (f.seen.filter fun x => since b x.2.2 ≤ 100 * tMs) ++ [(src, seq, b.time.now)] }
    let b := forEach (upPorts b) b fun b q => if q = p then b else emit b (.shutPacket q 0 0 (fieldAt head 4 1) 0xFFFF (head ++ body))
    if pcrcOk head body then deliverMsg b p src (fieldAt head 4 1) (slice head 8 20 ++ body) else b

/-- A packet whose head cell has arrived with its body (R449, R450). -/
def packetIn (b : Block) (p lane : Nat) (bulk : Bool) (head body : Bytes) : Block :=
  let dest := fieldAt head 0 2
  let src := fieldAt head 2 2
  let typ := fieldAt head 4 1
  let m := slice head 8 20 ++ body
  let cells := 1 + body.length / 32
  if typ = 1 then (if pcrcOk head body then shutIdent b p m else b)
  else if !shutUp b p then b
  else if dest = 0xFFFF then floodIn b p head body
  else
    -- packets routed along the tree show where their source lies
    let b := if typ = 2 ∨ typ = 3 ∨ b.fab.parent = some p then b else b.updFab fun f => { f with routes := tabSet 0 f.routes src (p + 1) }
    if dest = ownDev b then
      let b := if bulk then returnCredits b p lane cells else b
      if pcrcOk head body then deliverMsg b p src typ m else b
    else
      let b := if typ = 0x0D then noteChild b p src m else b
      if bulk then
        let b := b.updFab fun f => { f with bulk := f.bulk ++ [{ dest := dest, pkt := some (head ++ body, p, lane) }] }
        pumpBulks b
      else match routeTo b dest with
        | some q => if q ≠ p ∧ shutUp b q then emit b (.shutPacket q 0 0 typ dest (head ++ body)) else b
        | none => b

/-- A cell of a shuttle port, a head cell with its packet (R447 to R451). -/
def shutCell (b : Block) (p lane cell : Nat) (head body : Bytes) : Block :=
  let head := slice head 0 32
  match cell with
  | 0 => b
  | 2 => if shutUp b p then b.updShut p fun h => { h with timeAt := b.time.now } else b
  | 6 => packetIn b p lane false head (slice body 0 (32 * (fieldAt head 5 1 % 8)))
  | 0xB => packetIn b p lane true head (slice body 0 (32 * min 64 (fieldAt head 5 1)))
  | 7 => b
  | 0xC => b
  | _ => if shutState b p = 2 then inc b (Fld.SHUT_PORT_ERR_BAD_TYPE (p / 2) (p % 2)) else b

/-! ### Codewords of shuttle lanes (R447 to R450) -/

/-- A cell of a packet arrives on a lane (R449): with its last body cell the packet is whole. Control cells may come between the cells of
a bulk packet (R450); a body cell with no packet under way is discarded. -/
def rxCell (b : Block) (p lane : Nat) (bulk head : Bool) (cell : Bytes) : Block :=
  let key := 2 * lane + b2n bulk
  let before := if head then [] else tabGet [] (b.shut p).rx key
  if !head ∧ before = [] then b
  else
    let got := before ++ cell
    let n := if bulk then min 64 (fieldAt got 5 1) else fieldAt got 5 1 % 8
    if got.length < 32 * (n + 1) then b.updShut p fun h => { h with rx := tabSet [] h.rx key got }
    else packetIn (b.updShut p fun h => { h with rx := tabSet [] h.rx key [] }) p lane bulk (slice got 0 32) (got.drop 32)

/-- A cell of a codeword arrives (R447). -/
def shutTyped (b : Block) (p lane typ : Nat) (cell : Bytes) : Block :=
  match typ with
  | 6 => rxCell b p lane false true cell
  | 7 => rxCell b p lane false false cell
  | 0xB => rxCell b p lane true true cell
  | 0xC => rxCell b p lane true false cell
  | _ => shutCell b p lane typ cell []

/-- A codeword is discarded: as on a heddle lane (R249, R448), and so is the packet that was arriving on its lane. -/
def shutDiscard (b : Block) (p lane : Nat) : Block :=
  let b := inc b (Fld.SHUT_PORT_ERR_DISCARDED (p / 2) (p % 2))
  let h := b.shut p
  let n := tabGet 0 h.count lane
  let ln := ((tabGet none h.lanes lane).map (·.1)).getD lane
  let ds := ((tabGet [] h.discards lane) ++ [n]).filter fun k => n < k + 1024
  let next := match tabGet 0 h.upSeq ln with | 0 => 0 | s => s % 65536 + 1
  let b := b.updShut p fun h => { h with
    discards := tabSet [] h.discards lane ds, upSeq := tabSet 0 h.upSeq ln next,
    rx := tabSet [] (tabSet [] h.rx (2 * ln) []) (2 * ln + 1) [] }
  if 16 ≤ ds.length then shutLeave b p 3 else b

/-- A codeword of 5,440 bits arrives on a shuttle lane (R228, R447, R448): DIR and BASE are 0. -/
def shutCodeword (b : Block) (p lane : Nat) (word : Bytes) : Block :=
  if !(shutUp b p || (shutState b p = 1 && (b.shut p).ready.length = 4)) then b
  else
    let b := b.updShut p fun h => { h with count := tabUpd 0 h.count lane (· + 1) }
    let inverted := ((tabGet none (b.shut p).lanes lane).map (·.2)).getD false
    match lcDecode (if inverted then word.map fun x => x ^^^ 0x55 else word) with
    | none => shutDiscard b p lane
    | some (_, h, cells) =>
      if !headerHolds h ∨ bitOf h 18 then shutDiscard b p lane
      else
        let seq := bitsOf h 0 16
        let ln := bitsOf h 16 2
        let others := (List.range 4).filterMap fun i => if i = ln then none else match tabGet 0 (b.shut p).upSeq i with
          | 0 => none
          | s => some ((toS 16 (ofS 16 ((s : Int) - 1 - seq))).natAbs)
        let b := b.updShut p fun x => { x with upSeq := tabSet 0 x.upSeq ln (seq + 1) }
        if others.any (8 < ·) then shutLeave b p 3
        else ((List.range 19).zip cells).foldl (fun b x => shutTyped b p ln (cellType h x.1) x.2) b

end Sys2Proof.Machine
end

