-- ==== Sys2Proof/Machine/ScanOps.lean ====
section
/-!
DEFINITION. Sys2Proof/Machine/ScanOps.lean: the ledger at a reset and at start (spec/18_ledger_flash.md R475, R478, R479, R485,
R486, R491, R606) and the recovery that is made from its records (spec/15_consistency.md R392, R396 to R398, R405;
spec/06_sealing.md R150; spec/16_beam_store.md R430; spec/17_timebase_fabric.md R461).
-/

namespace Sys2Proof.Machine

/-! ### The ledger at a reset (R479, R606) -/

/-- A NAND die has a page program in progress. -/
def programming (b : Block) (d : Nat) : Bool :=
  let s := (b.ndie d).state
  s = .program || s = .programSuspended || s = .eraseSuspendedProgram

/-- The page program in progress on a die ends with a pass (R606 step 2). -/
def restProgram (b : Block) (d : Nat) : Block :=
  if !programming b d then b
  else
    let n := b.ndie d
    match n.progFlag with
    | some (f, k) => (addPage b n.progBlock { kind := 2, recs := [flagRecord b f k] }).updNblock k fun x => { x with half := f = 1 }
    | none => addPage b n.progBlock { region := n.progRegion, recs := n.prog.map (·.data) }

/-- An open page that holds records is programmed, and pages for those that wait behind it (R606 step 3). -/
def restPages (b : Block) (r d : Nat) : Nat → List LRec → Block
  | 0, _ => b
  | n + 1, rs =>
    match (if rs = [] then none else nextBlock b r d) with
    | some k =>
      let (now, left) := fitPage 16384 rs
      restPages (addPage b k { region := r, recs := now.map (·.data) }) r d n left
    | none => b
def restPage (b : Block) (r d : Nat) : Block := let rs := (b.openPage r d).recs; restPages b r d rs.length rs

/-- What the ledger island holds of its own is lost: its dies idle, nothing is open, and the regions are locked again. -/
def ledgerIdle (b : Block) : Block :=
  { b with ledg := { blocks := b.ledg.blocks, seq := b.ledg.seq, flagActive := b.ledg.flagActive } }

/-- Object index rows whose CAT_ENTRY record is not in a programmed page. -/
def dropIndex (b : Block) (lost : List LRec) : Block :=
  let es := (lost.filter fun x => fieldAt x.data 0 1 = 5).map fun x => (fieldAt x.data 8 8, slice x.data 16 64)
  let rows := b.cons.index.filter fun r => !es.contains (r.cart, r.entry)
  { b with cons := { b.cons with index := rows } }

/-- The ledger is brought to rest before a reset other than a loss of power (R606). -/
def ledgerRest (b : Block) : Block :=
  if b.ledg.state = .failed then ledgerIdle b
  else
    let b := forEach (List.range 16) b restProgram
    let b := forEach recordRegions b fun b r => forEach (diesOf r) b fun b d => restPage b r d
    ledgerIdle b

/-- Power is lost (R475, R479, R492): a page being programmed is indeterminate, and no block that was open is programmed
again before it is erased. -/
def ledgerTorn (b : Block) : Block :=
  let lost := (List.range 16).flatMap (fun d => (b.ndie d).prog) ++ b.ledg.pages.flatMap fun (x : Nat × OpenPage) => x.2.recs
  let b := dropIndex b lost
  let b := forEach ((List.range 16).filter (programming b)) b fun b d =>
    let n := b.ndie d
    addPage b n.progBlock { region := if n.progFlag.isSome then 0 else n.progRegion, kind := if n.progFlag.isSome then 2 else 1, torn := true }
  let b := forEach (tabKeys b.ledg.blocks) b fun b k => b.updNblock k fun x =>
    { x with shut := x.shut || (!x.pages.isEmpty && x.pages.length < 384) }
  ledgerIdle b

/-! ### The scan (R478, R485, R486, R491) -/

/-- Class TORN or CORRUPT of a block's torn pages: the last page of an open block is TORN, any other CORRUPT (R478). -/
def scanBlock (b : Block) (k : Nat) : Block :=
  let x := b.nblock k
  if x.half then ledgerLog (wr b Fld.LEDG_ERR_HALF_ERASED (min 255 (rd b Fld.LEDG_ERR_HALF_ERASED + 1))) 2 (blockDie k) k 0
  else forEach (x.pages.zipIdx.filter fun y => y.1.torn) b fun b y =>
    if y.2 + 1 = x.pages.length ∧ x.pages.length < 384 then
      ledgerLog (wr b Fld.LEDG_ERR_TORN_FOUND (min 255 (rd b Fld.LEDG_ERR_TORN_FOUND + 1))) 1 (blockDie k) k y.2
    else ledgerLog (inc b Fld.LEDG_ECC_CORRUPT) 8 (blockDie k) k y.2

/-- A torn page that reads BLANK is not the last page that is not BLANK (R478): the position stands empty, and the block
takes no further program (R475). -/
def dropBlank (b : Block) (k : Nat) : Block :=
  b.updNblock k fun x => match x.pages.getLast? with
    | some p => if p.torn then { x with pages := x.pages.dropLast, shut := true } else x
    | none => x

/-- A page whose ECC does not decode is CORRUPT, and the later pages of its block with it: their PREV_SEQ is not that of the block's
previous VALID page (R478). -/
def spoilPage (b : Block) (x : Nat × Nat) : Block :=
  b.updNblock x.1 fun y => { y with pages := y.pages.zipIdx.map fun (p, i) => if x.2 ≤ i then { p with torn := true } else p }

/-- Password of a region: the first 16 bytes of SHA-384 over LEDGER_ROOT, "GVXLPW" and the region's code (R488). -/
def regionPassword (b : Block) (r : Nat) : Bytes :=
  (sha384 (slice b.fuse.ledgerRoot 0 32 ++ [0x47, 0x56, 0x58, 0x4C, 0x50, 0x57] ++ leB 1 r)).take 16

/-- The passwords are derived and presented (R488). A die of `wrong` holds others: they are presented to it 8 times (DESIGN CHOICE, log
entry 157), which locks its regions, and the ledger enters FAILED. -/
def unlockRegions (b : Block) (wrong : List (Fin 16)) : Block :=
  let keys := (List.range 8).map fun i => (i + 1, regionPassword b (i + 1))
  let b := { b with ledg := { b.ledg with keys := keys } }
  forEach (wrong.map Fin.val) b fun b d => ledgerFail (b.updNdie d fun n => { n with wrong := 8, locked := true }) d

/-- Highest SEQ of a block's VALID pages. -/
def topSeq (b : Block) (k : Nat) : Nat := (((b.nblock k).pages.filter fun p => !p.torn).map (·.seq)).foldl max 0

/-- The active flag-log block of each plane: the one whose VALID pages carry the highest SEQ (R485). -/
def findFlags (b : Block) : Block :=
  forEach (List.range 64) b fun b p =>
    let a := b2n (topSeq b (flagBase + 2 * p) < topSeq b (flagBase + 2 * p + 1))
    { b with ledg := { b.ledg with flagActive := tabSet 0 b.ledg.flagActive p a } }

/-- LEDG_STATUS.STATE after the scan: DEGRADED where a plane has no spare left (R482). -/
def scanState (b : Block) : LedgState := if (List.range 64).all fun p => (freeSpare b p).isSome then .ready else .degraded

/-! ### Recovery (R396 to R398) -/

/-- The valid INTENT records of a journal in ledger order, each with its place in the journal and the cartridge that each port
held (R389, R392): of two with the same GROUP and WEFT_NO the later holds. -/
def journalIntents (recs : List (Bytes × Nat)) : List (Bytes × Nat × Tab Nat) :=
  (recs.foldl (fun (a : Tab Nat × List (Bytes × Nat × Tab Nat)) (x : Bytes × Nat) =>
    let r := x.1
    let t := fieldAt r 0 1
    if t = 6 then (tabSet 0 a.1 (fieldAt r 1 1) (if bitOf (fieldAt r 2 1) 0 then 0 else fieldAt r 8 8), a.2)
    else if t = 1 then
      (a.1, (a.2.filter fun y => !(fieldAt y.1 4 2 = fieldAt r 4 2 && fieldAt y.1 8 8 = fieldAt r 8 8)) ++ [(r, x.2, a.1)])
    else a) ([], [])).2

/-- The COMMIT record of a weft. -/
def commitOf (recs : List (Bytes × Nat)) (group weft : Nat) : Option Bytes :=
  (recs.find? fun x => fieldAt x.1 0 1 = 2 && fieldAt x.1 2 2 = group && fieldAt x.1 8 8 = weft).map Prod.fst

/-- MISSING of a committed weft, less the roles that LOCATION records clear (R390). -/
def missingOf (recs : List (Bytes × Nat)) (c : Bytes) (group weft : Nat) : Nat :=
  (recs.filter fun x => fieldAt x.1 0 1 = 4 && fieldAt x.1 2 2 = group && fieldAt x.1 8 8 = weft).foldl (fun m x =>
    let r := fieldAt x.1 4 1
    if bitOf m r then m - 2 ^ r else m) (fieldAt c 24 8)

/-- The weft that an INTENT of a group describes, as R396 step 1 marks it. -/
def weftFrom (b : Block) (recs : List (Bytes × Nat)) (q : Grp) (x : Bytes × Nat × Tab Nat) : Weft :=
  let r := x.1
  let no := fieldAt r 8 8
  let c := commitOf recs q.number no
  let missing := match c with | some c => missingOf recs c q.number no | none => 0
  let places := (List.range (fieldAt r 6 1)).map fun j =>
    let e := slice r (64 + 16 * j) 16
    let i := fieldAt e 0 1
    let m := q.members.getD i {}
    let role := roleOf (grpN q) i no
    let kind := fieldAt e 1 1
    { role := role, kind := kind, dsNo := fieldAt e 8 8, lwrap := fieldAt e 2 2, pos := fieldAt e 4 4 * uLpos,
      cart := if m.dev = ownDev b then tabGet 0 x.2.2 m.port else 0, present := kind != 0,
      verdict := if c.isSome && writtenKind kind && !bitOf missing role then 1 else 0 : Place }
  { no := no, l := fieldAt r 16 8, tw := fieldAt r 24 4, step := fieldAt r 7 1, state := if c.isSome then .committed else .voided,
    places := places, phantom := fieldAt r 32 8, written := fieldAt r 40 8, missing := missing, intentDurable := true,
    forced := bitOf (fieldAt r 3 1) 1, aged := bitOf (fieldAt r 3 1) 2, assessed := true,
    commitSeq := match c with | some c => fieldAt c 16 8 | none => 0, released := true, owner := fieldAt r 28 2 }

/-- Recovery of a group held in a slot (R396 steps 1, 2 and 4): its wefts, and where each INTENT stands in the journal. -/
def recoverGroup (b : Block) (recs : List (Bytes × Nat)) (ints : List (Bytes × Nat × Tab Nat)) (g : Nat) :
    List (Weft × Nat) × Block :=
  let q := b.grp g
  let mine := ints.filter fun x => fieldAt x.1 4 2 = q.number && fieldAt x.1 28 2 = ownDev b
  if !q.valid ∨ mine.isEmpty then ([], b)
  else
    let ws := mine.map fun x => (weftFrom b recs q x, x.2.1)
    let next := 1 + (ws.map fun w => w.1.no).foldl max 0
    let b := b.updGrp g fun q => { q with wefts := ws.map Prod.fst, weftNext := next }
    let dead := ws.filter fun w => w.1.state = .voided
    let b := forEach dead b fun b w => consLog b 0x5003 1 0xFF q.number w.1.no 0
    (ws, wr b Fld.WEAVE_RECOVERY_VOIDED_WEFTS (satN 16 (rd b Fld.WEAVE_RECOVERY_VOIDED_WEFTS + dead.length)))

/-- A later position in write order on a cartridge: higher wrap, or further along it. -/
def laterPos (c : CartK) (x y : Nat × Nat) : Bool :=
  if x.1 ≠ y.1 then x.1 < y.1 else if wrapForward c x.1 then x.2 < y.2 else y.2 < x.2

/-- A VOIDED record of the cartridge, made after the INTENT at `at_`, covers a dataset number (R392). -/
def coveredBy (recs : List (Bytes × Nat)) (cart ds at_ : Nat) : Bool :=
  recs.any fun x => fieldAt x.1 0 1 = 3 && fieldAt x.1 8 8 = cart && at_ < x.2
    && fieldAt x.1 16 8 ≤ ds && ds < fieldAt x.1 16 8 + fieldAt x.1 4 2

/-- What the ledger says of a cartridge (R396 steps 3 and 5, R398, R402, R405). `ws`: the wefts of every group slot with group
number and place of the INTENT. -/
def recoverCart (b : Block) (recs : List (Bytes × Nat)) (ws : List (Nat × Weft × Nat)) (id : Nat) : CartK :=
  let base : CartK := { id := id }
  let dead (group weft : Nat) : Bool := ws.any fun x => x.1 = group && x.2.1.no = weft && x.2.1.state = .voided
  let rows := (b.cons.index.filter fun r => r.cart = id).map (·.entry)
  let placed := ws.flatMap fun x => (x.2.1.places.filter fun p => p.cart = id && p.kind != 0).map fun p => (x, p)
  let kept : List (Nat × Nat × Option Nat) :=
    (rows.filter fun e => entKind e = 2 && !dead (entGroup e) (fieldAt e 24 8)).map (fun e =>
      (fieldAt e 34 2, fieldAt e 36 4 * uLpos, some (fieldAt e 16 8)))
    ++ (rows.filter fun e => entKind e = 7).map (fun e => (fieldAt e 28 2, fieldAt e 32 4 * uLpos, none))
    ++ (placed.filter fun y => y.1.2.1.state = .committed).map (fun y =>
      (y.2.lwrap, y.2.pos, if writtenKind y.2.kind then some y.2.dsNo else none))
    ++ (recs.filter fun x => fieldAt x.1 0 1 = 3 && fieldAt x.1 8 8 = id).map (fun x => (fieldAt x.1 6 2, fieldAt x.1 24 4 * uLpos, none))
    ++ (recs.filter fun x => fieldAt x.1 0 1 = 4 && fieldAt x.1 16 8 = id).map (fun x =>
      (fieldAt x.1 6 2, fieldAt x.1 32 4 * uLpos, some (fieldAt x.1 24 8)))
  let last := kept.foldl (fun (a : Option (Nat × Nat)) k => match a with
    | some y => if laterPos base y (k.1, k.2.1) then some (k.1, k.2.1) else some y
    | none => some (k.1, k.2.1)) none
  let top := (kept.filterMap fun k => k.2.2).foldl (fun a d => max a (d + 1)) 0
  let voids : List VoidP := ((placed.filter fun y => y.1.2.1.state = .voided && writtenKind y.2.kind
      && !coveredBy recs id y.2.dsNo y.1.2.2).map fun y =>
    { group := y.1.1, weft := y.1.2.1.no, reason := 1, first := y.2.dsNo, last := y.2.dsNo, atStart := true })
  let past := (recs.filter fun x => fieldAt x.1 0 1 = 3 && fieldAt x.1 8 8 = id).foldl (fun a x =>
    max a (fieldAt x.1 16 8 + (if fieldAt x.1 1 1 = 1 then 0 else fieldAt x.1 4 2))) top
  let low := match voids with | [] => 0 | v :: t => t.foldl (fun a x => min a x.first) v.first
  let next := if voids.isEmpty then past else max top low
  let (lw, pos) := last.getD (0, dataLo)
  let ups := (recs.filter fun x => fieldAt x.1 0 1 = 7 && fieldAt x.1 8 8 = id).map Prod.fst
  let doubt := ups.foldl (fun (_ : Option (Nat × Nat × Nat × Nat)) r =>
    if fieldAt r 1 1 = 1 then some (fieldAt r 2 1, fieldAt r 4 4, fieldAt r 16 8, fieldAt r 24 8) else none) none
  let done := (ups.filter fun r => fieldAt r 1 1 = 2 && fieldAt r 2 1 = 1).foldl (fun a r => max a (fieldAt r 24 8 + 1)) 0
  let mine := (recs.filter fun x => fieldAt x.1 0 1 = 5 && fieldAt x.1 8 8 = id).map fun x => slice x.1 16 64
  { base with
    dsNext := next, lwrap := lw, pos := if last.isSome then pos else dataLo + spliceGap, tail := last.isSome, voids := voids,
    rollback := if voids.isEmpty then none else some (lw, pos, next),
    unwritten := (mine.filter fun e => done ≤ entSeq e).map fun e => (entSeq e, e, b.time.now),
    catSeq := (rows ++ mine).foldl (fun a e => max a (entSeq e + 1)) 0, doubt := doubt }

/-- The index again holds every entry that the journal holds (R402, R407). -/
def recoverIndex (b : Block) (recs : List (Bytes × Nat)) : Block :=
  let new := (recs.filter fun x => fieldAt x.1 0 1 = 5).map fun x => (fieldAt x.1 8 8, slice x.1 16 64)
  let rows := (new.filter fun y => !b.cons.index.any fun r => r.cart = y.1 && r.entry = y.2).map fun y =>
    ({ cart := y.1, entry := y.2 } : IdxRow)
  addRows b rows

/-- Cartridges that the ledger names. -/
def ledgerCarts (b : Block) (recs : List (Bytes × Nat)) : List Nat :=
  (b.cons.index.map (·.cart) ++ recs.filterMap fun x =>
    if fieldAt x.1 0 1 = 5 ∨ fieldAt x.1 0 1 = 6 then some (fieldAt x.1 8 8) else none).eraseDups

/-- Recovery from the journal (R396): groups, then cartridges, then the index and the commit counter. -/
def recoverJournal (b : Block) : Block :=
  let recs := (ledgerRecords b regJournal).zipIdx
  let ints := journalIntents recs
  let b := recoverIndex b recs
  let (ws, b) := (List.range 32).foldl (fun (a : List (Nat × Weft × Nat) × Block) g =>
    let (l, b) := recoverGroup a.2 recs ints g
    (a.1 ++ l.map fun w => ((b.grp g).number, w), b)) ([], b)
  let carts := (ledgerCarts b recs).map (recoverCart b recs ws)
  let seqs := (recs.filter fun x => fieldAt x.1 0 1 = 2).foldl (fun a x => max a (fieldAt x.1 16 8 + 1)) 0
  let redo := (carts.filter fun c => c.doubt.isSome).length
  wr { b with cons := { b.cons with carts := carts, commitSeq := seqs } } Fld.WEAVE_RECOVERY_CAT_REDO (satN 8 redo)

/-- The epoch and the DRAM rows recorded in the CONTROL region (R430, R461). -/
def recoverControl (b : Block) : Block :=
  let recs := ledgerRecords b regControl
  let ep := (recs.filter fun r => fieldAt r 0 1 = 0x11).foldl (fun a r => max a (fieldAt r 4 4)) 0
  let b := b.updFab fun f => { f with ledgerEpoch := ep }
  forEach (recs.filter fun r => fieldAt r 0 1 = 0x12) b fun b r =>
    b.updBeamCh (fieldAt r 1 1) fun h => { h with
      rows := insertNat (2 ^ 40 * fieldAt r 2 1 + 2 ^ 32 * fieldAt r 3 1 + fieldAt r 4 4) h.rows }

/-- The scan at start and what is taken from it (R396, R478, R485, R486, R491, R497 step 7). `blank`: blocks whose torn page
reads BLANK; `corrupt`: pages, by block and index, with an ECC codeword that does not decode; `fixed`: how many pages are read with
corrected bits; `wrong`: dies with other passwords. Nothing is scanned twice, nor in ROM recovery or before an image is in use. -/
def ledgerScan (b : Block) (blank : List Nat) (corrupt : List (Nat × Nat)) (fixed : Nat) (wrong : List (Fin 16)) : Block :=
  let st := rd b Fld.BOOT_STATE_STATE
  if b.boot.scanned ∨ !((st = 1 ∧ b.boot.image) ∨ st = 5 ∨ st = 7) then b
  else
    let b := forEach (blank.filter fun k => (tabKeys b.ledg.blocks).contains k) b dropBlank
    let b := forEach (corrupt.filter fun x => (tabKeys b.ledg.blocks).contains x.1) b spoilPage
    let b := wr b Fld.LEDG_ECC_CORRECTED (satN 16 (rd b Fld.LEDG_ECC_CORRECTED + fixed))
    let b := wr (wr b Fld.LEDG_ERR_TORN_FOUND 0) Fld.LEDG_ERR_HALF_ERASED 0
    let b := findFlags (forEach (tabKeys b.ledg.blocks) b scanBlock)
    let b := { b with ledg := { b.ledg with state := scanState b }, boot := { b.boot with scanned := true } }
    let b := unlockRegions (recoverControl (recoverJournal b)) wrong
    if st = 1 then nonceStart b else b

end Sys2Proof.Machine
end

