-- ==== Sys2Proof/Machine/QueueOps.lean ====
section
/-!
DEFINITION. Sys2Proof/Machine/QueueOps.lean: the registers of queue pairs, doorbells, Function Level Reset and the tables of
functions and FORCE budgets (spec/02_host_queues.md R37 to R48, R66 to R70).
-/

namespace Sys2Proof.Machine

/-- Port B serves status alone, as its die is never released (R504). -/
def portBAlone (b : Block) : Bool := rdB b Fld.BOOT_STATE_HALF_ISOLATED && !b.boot.dieS

/-- The part presents the function: FN 0, the one of a port B that serves status alone, or a physical function that the image gives an endpoint, or a virtual function that
the host has enabled through NumVFs (R37, R498). -/
def fnThere (b : Block) (fn : Nat) : Bool :=
  let c : FnCfg := tabGet {} b.hq.fns fn
  fn = 0 || (fn = 1 && portBAlone b) || (b.boot.hostPorts && (tabKeys b.hq.fns).contains fn && c.vf ≤ tabGet 0 b.hq.numVfs c.pf)

/-- MSI-X table size of a function (R41). -/
def msixSize (b : Block) (fn : Nat) : Nat := (tabGet {} b.hq.fns fn : FnCfg).msix

/-- The function numbers the pair among its own (R41). -/
def pairThere (b : Block) (fn q : Nat) : Bool := fnThere b fn && decide (q < quotaOf b fn)

/-! ### QP_CTRL (R43, R47) -/

/-- ENABLE goes from 0 to 1 (R43): bases and size are taken, the indices and the phase start over. -/
def pairStart (b : Block) (fn q : Nat) : Block :=
  let sq := rd b (Fld.QP_SQ_BASE_LO_ADDR fn q) * 4096 + regGet b (Reg.QP_SQ_BASE_HI fn q) * 2 ^ 32
  let cq := rd b (Fld.QP_CQ_BASE_LO_ADDR fn q) * 4096 + regGet b (Reg.QP_CQ_BASE_HI fn q) * 2 ^ 32
  b.updQp (qpKey fn q) fun _ =>
    { sqBase := sq, cqBase := cq, sizeLog2 := rd b (Fld.QP_CTRL_SIZE_LOG2 fn q), fetching := true }

/-- ENABLE is cleared (R47): fetching stops, and entries not yet accepted complete with QUEUE_ABORTED. -/
def pairStop (b : Block) (fn q : Nat) : Block :=
  let es := (b.qp (qpKey fn q)).fetched
  let b := b.updQp (qpKey fn q) fun p => { p with fetching := false, fetched := [], held := none }
  forEach es b fun b f => failEntry b fn q f.e 0x1004 0

/-- The word that a write leaves in QP_CTRL (R11, R43): SIZE_LOG2 stands while ENABLE is 1, a VECTOR beyond the function's
table is discarded, and ENABLE is not set while IDLE reads 0. -/
def qpCtrlWord (b : Block) (fn q data : Nat) : Nat :=
  let old := regGet b (Reg.QP_CTRL fn q)
  let new := written b (Reg.QP_CTRL fn q) data false
  let new := if bitOf old 0 then setBits new 1 4 (bitsOf old 1 4) else new
  let new := if bitsOf data 6 11 < msixSize b fn then new else setBits new 6 11 (bitsOf old 6 11)
  if !bitOf old 0 && !qpIdle b fn q then setBits new 0 1 0 else new

/-- The oldest entry not signalled has waited AGG_TIME (R41). -/
def aggTimeUp (b : Block) (fn q : Nat) : Bool :=
  match (b.qp (qpKey fn q)).unsigSince with
  | some t => reached b ((t + rd b (Fld.QP_CTRL_AGG_TIME fn q) * tUs) % 2 ^ 64)
  | none => false

/-- A write to QP_CTRL (R43, R47). -/
def writeQpCtrl (b : Block) (fn q data : Nat) : Block :=
  let was := qpOn b fn q
  let b := regPut b (Reg.QP_CTRL fn q) (qpCtrlWord b fn q data)
  let now := qpOn b fn q
  let b := if !was && now then pairStart b fn q else if was && !now then pairStop b fn q else b
  signalCq b fn q (aggTimeUp b fn q)

/-- A write to a base register: discarded while ENABLE is 1 (R43). -/
def writeQpBase (b : Block) (addr fn q data : Nat) : Block := if qpOn b fn q then b else writeFields b addr data

/-! ### Doorbells (R43 to R46) -/

/-- A doorbell value was out of range: fetching from the pair stops (R44, R46). -/
def doorbellErr (b : Block) (fn q : Nat) : Block :=
  (wr b (Fld.QP_STATUS_DOORBELL_ERR fn q) 1).updQp (qpKey fn q) fun p => { p with fetching := false }

/-- A write to QP_SQ_TAIL_DB (R43, R44). -/
def sqTailDb (b : Block) (fn q index : Nat) : Block :=
  if !qpOn b fn q then b
  else if qpSize (b.qp (qpKey fn q)) ≤ index then doorbellErr b fn q
  else b.updQp (qpKey fn q) fun p => { p with sqTail := index }

/-- The index lies from the CQ head to the CQ tail, both included (R46). -/
def cqHeadOk (p : Qp) (index : Nat) : Bool :=
  decide (index < qpSize p) && decide ((index + qpSize p - p.cqHead) % qpSize p ≤ cqCount p)

/-- A write to QP_CQ_HEAD_DB (R43, R46). -/
def cqHeadDb (b : Block) (fn q index : Nat) : Block :=
  if qpIdle b fn q then b
  else if cqHeadOk (b.qp (qpKey fn q)) index then b.updQp (qpKey fn q) fun p => { p with cqHead := index }
  else doorbellErr b fn q

/-! ### Errors of PCI Express and Function Level Reset (R48) -/

/-- An SQ read, or a CQ write, failed: DMA_ERR is set and fetching from the pair stops (R48). -/
def setDmaErr (b : Block) (fn q : Nat) : Block :=
  (wr b (Fld.QP_STATUS_DMA_ERR fn q) 1).updQp (qpKey fn q) fun p => { p with fetching := false }

/-- Held completions of a pair are written again, in order, as far as the CQ has room (R45, R48). -/
def postAll (b : Block) (fn q : Nat) : Nat → Block
  | 0 => b
  | n + 1 => if (b.qp (qpKey fn q)).waiting.isEmpty then b else postAll (postOne b fn q) fn q n

/-- A write to QP_STATUS: W1C; clearing DMA_ERR lets the held completions go (R48). -/
def writeQpStatus (b : Block) (fn q data : Nat) : Block :=
  let was := dmaErr b fn q
  let b := writeFields b (Reg.QP_STATUS fn q) data
  if was && !dmaErr b fn q then
    let b := b.updQp (qpKey fn q) fun p => { p with cqHeld := false }
    postAll b fn q (b.qp (qpKey fn q)).waiting.length
  else b

/-- A CQ write failed: the entry stays the first of those held, and none is written until DMA_ERR is cleared (R48). -/
def holdCq (b : Block) (fn q : Nat) : Block := (setDmaErr b fn q).updQp (qpKey fn q) fun p => { p with cqHeld := true }

/-- A pair is stopped by a Function Level Reset (R48): entries not accepted are dropped, completions discarded. -/
def pairReset (b : Block) (k : Nat) : Block :=
  let gone := (b.qp k).waiting
  let run := (b.qp k).running
  let b := b.updQp k fun _ => { running := run }
  forEach (gone.filterMap (·.stream)).eraseDups (forEach gone b afterCompletion) flushDone

/-- A Function Level Reset of a function (R48, R68): its pairs stop, its registers take their reset values (PRESUMED, log
entry 55), and the streams opened through it end. -/
def funcReset (b : Block) (fn : Nat) : Block :=
  let b := forEach ((tabKeys b.hq.cmds).filter fun n => (b.cmd n).fn = fn && !(b.cmd n).implicit) b fun b n =>
    b.updCmd n fun c => { c with drop := true }
  let b := forEach ((tabKeys b.hq.qps).filter fun k => k / 1024 = fn) b pairReset
  let b := forEach ((tabKeys b.regs).filter fun a => a / 0x10000 = Reg.QP_CTRL fn 0 / 0x10000) b fun b a => regPut b a (resetVal a)
  forEach ((b.ing.streams.filter fun (x : Nat × Stream) => x.2.isOpen && x.2.fn = fn && x.2.tenant = tenantOf b fn).map Prod.fst)
    b endStream

/-! ### Configuration space (R37, R41; log entry 136) -/

/-- TotalVFs of the endpoint of a physical function (R37). -/
def totalVfs (b : Block) (pf : Nat) : Nat := (b.hq.fns.filter fun (x : Nat × FnCfg) => x.2.pf = pf && x.2.vf != 0).length

/-- Send the messages of a function's pending vectors that may be sent now (R41). -/
def flushPending (b : Block) (fn : Nat) : Block :=
  let due := b.hq.vecPend.filter fun k => k / 2048 = fn && msixAble b fn (k % 2048)
  let b := { b with hq := { b.hq with vecPend := b.hq.vecPend.filter fun k => !due.contains k } }
  forEach due b fun b k => emit b (.msix fn (k % 2048))

/-- A function's MSI-X settings as a reset of the function leaves them. -/
def msixReset (b : Block) (fn : Nat) : Block :=
  { b with hq := { b.hq with
    msixCtl := tabSet 0 b.hq.msixCtl fn 0, vecMask := b.hq.vecMask.filter fun x => decide (x.1 / 2048 ≠ fn)
    vecPend := b.hq.vecPend.filter fun k => k / 2048 ≠ fn } }

/-- NumVFs and VF Enable of a physical function are written (R37): virtual functions appear, or end as by a reset of each. NumVFs
above TotalVFs is discarded, and so is a new number while VFs are enabled. -/
def writeNumVfs (b : Block) (pf data : Nat) : Block :=
  let old := tabGet 0 b.hq.numVfs pf
  let n := if bitOf data 16 then bitsOf data 0 16 else 0
  if ((tabGet {} b.hq.fns pf : FnCfg).vf ≠ 0) ∨ totalVfs b pf < n ∨ (old ≠ 0 ∧ n ≠ 0) then b
  else
    let gone := (List.range old).map (pf + 1 + ·)
    let b := forEach (if n = 0 then gone else []) b fun b f => msixReset (funcReset b f) f
    { b with hq := { b.hq with numVfs := tabSet 0 b.hq.numVfs pf n } }

/-- The host writes configuration space or an MSI-X table of a function: `off` 0 NumVFs (bits 15:0) with VF Enable (bit 16), 4
the Message Control of MSI-X, 0x1000 + 4 v the Vector Control of vector v. -/
def cfgWrite (b : Block) (fn off data : Nat) : Block :=
  if !fnThere b fn || !b.boot.hostPorts then b
  else if off = 0 then writeNumVfs b fn data
  else if off = 4 then
    flushPending { b with hq := { b.hq with msixCtl := tabSet 0 b.hq.msixCtl fn (bitsOf data 14 2 * 2 ^ 14) } } fn
  else if 0x1000 ≤ off ∧ (off - 0x1000) / 4 < msixSize b fn then
    flushPending { b with hq := { b.hq with vecMask := tabSet 1 b.hq.vecMask (2048 * fn + (off - 0x1000) / 4) (data % 2) } } fn
  else b

/-- A Function Level Reset (R48): beside the function's pairs and streams, its MSI-X settings, and the virtual functions of a
physical one (PRESUMED from PCI Express, log entry 136). -/
def functionReset (b : Block) (fn : Nat) : Block :=
  msixReset (funcReset (if (tabGet {} b.hq.fns fn : FnCfg).vf = 0 then writeNumVfs b fn 0 else b) fn) fn

/-! ### Tables of functions and tenants (R66 to R70) -/

/-- The sum of the quotas of all functions. -/
def quotaSum (b : Block) : Nat := ((List.range 256).map (quotaOf b)).sum

/-- A pair of the function has ENABLE 1. -/
def fnEnabled (b : Block) (fn : Nat) : Bool := (List.range (quotaOf b fn)).any fun q => qpOn b fn q

/-- A write to HQI_FN_MAP (R11, R39, R66 to R68): TENANT of FN 0 is read-only, 0 is reserved for every other function. -/
def writeFnMap (b : Block) (fn data : Nat) : Block :=
  let old := tenantOf b fn
  let t := if fn = 0 then 0 else if bitsOf data 0 8 = 0 then old else bitsOf data 0 8
  let quota := if bitsOf data 16 11 ≤ 1024 then bitsOf data 16 11 else quotaOf b fn
  if fnEnabled b fn then b
  else if 1024 < quotaSum b - quotaOf b fn + quota then b
  else
    let b := wr (wr b (Fld.HQI_FN_MAP_TENANT fn) t) (Fld.HQI_FN_MAP_QP_QUOTA fn) quota
    if t = old || (List.range 256).any (fun f => fnThere b f && tenantOf b f = old) then b
    else forEach ((b.ing.streams.filter fun (x : Nat × Stream) => x.2.isOpen && x.2.tenant = old).map Prod.fst) b endStream

/-- A write to HQI_TENANT_FORCE (R69): the bucket is full, and the grid starts at the write. -/
def writeForce (b : Block) (t data : Nat) : Block :=
  let b := writeFields b (Reg.HQI_TENANT_FORCE t) data
  b.updTenant t fun x => { x with tokens := rd b (Fld.HQI_TENANT_FORCE_FORCE_BURST t), gridFrom := b.time.now, gridDone := 0 }

/-- Ticks of the token grid: floor(4,000,000,000 / FORCE_RATE) (R69). -/
def gridTicks (b : Block) (t : Nat) : Nat := 4000000000 / rd b (Fld.HQI_TENANT_FORCE_FORCE_RATE t)

/-- The next grid point of a tenant has come (R69). -/
def gridDue (b : Block) (t : Nat) : Bool :=
  rd b (Fld.HQI_TENANT_FORCE_FORCE_RATE t) != 0 &&
    reached b (((b.tenant t).gridFrom + ((b.tenant t).gridDone + 1) * gridTicks b t) % 2 ^ 64)

/-- A grid point passes: the bucket gains a token if it is below FORCE_BURST (R69). -/
def gridPoint (b : Block) (t : Nat) : Block :=
  if gridDue b t then
    b.updTenant t fun x => { x with gridDone := x.gridDone + 1,
                                    tokens := if x.tokens < rd b (Fld.HQI_TENANT_FORCE_FORCE_BURST t) then x.tokens + 1 else x.tokens }
  else b

end Sys2Proof.Machine
end

