-- ==== Sys2Proof/Machine/ViewOps.lean ====
section
/-!
DEFINITION. Sys2Proof/Machine/ViewOps.lean: what a register reads as (R10, R564 to R567, R575, R580, R581): stored fields, and
those that report state with its home elsewhere in the part.
-/

namespace Sys2Proof.Machine

/-- A word of fields: each value at its lowest bit. -/
def pack (l : List (Nat × Nat)) : Nat := (l.map fun x => x.1 * 2 ^ x.2).sum

/-- The function whose page holds an address (R38). -/
def pageFn (addr : Nat) : Nat := if addr < 0x40000000 then 0 else (addr - 0x40000000) / 0x10000

/-- Die and heddle port of a slice address (R566). -/
def dieOf (addr : Nat) : Nat := addr / 0x10000000 % 2
def portOf (addr : Nat) : Nat := 16 * dieOf addr + (addr % 0x10000000 - 0x1000000) / 0x100000

/-! ### Host, streams, engines and pipelines -/

/-- Held commands that satisfy a test. -/
def heldBy (b : Block) (f : Nat → Sqe → Bool) : Nat :=
  (b.hq.qps.filter fun (x : Nat × Qp) => x.2.held.isSome && match x.2.fetched with | e :: _ => f x.1 e.e | [] => false).length

/-- OWNER and KEY_SLOT of a pipeline's job (CIPH_PIPE_LOCK). -/
def lockOwner (j : Option QueuedJob) : Nat := match j with | some j => jobClass j.job + 1 | none => 0
def jobSlot (b : Block) (j : Option QueuedJob) : Nat :=
  match j.map QueuedJob.job with
  | some (.seal w) => w.key
  | some (.unwrap n _) => bitsOf (b.cmd n).e.param0 0 12
  | some (.openSeg n _) => match (b.cmd n).rst.segs with
    | g :: _ => (slotWithLabel b (b.cmd n).tenant g.keyLabel).getD 0
    | [] => 0
  | none => 0

/-- The tenant whose range holds a key slot. -/
def slotTenant (b : Block) (k : Nat) : Nat := ((List.range 256).find? fun t => inRange b t k).getD 0

/-- STATE of CARD_ENG_STATUS and of CIPH_DRBG_STATUS. -/
def engCode : EngState → Nat
  | .idle => 0
  | .compressing => 1
  | .decompressing => 2
  | .failed => 3
def drbgCode : DrbgState → Nat
  | .uninstantiated => 0
  | .seeding => 1
  | .ready => 2
  | .failed => 3

/-! ### Groups and loom slices -/

/-- STATE of WEAVE_GROUP_STATUS (R375). -/
def groupState (b : Block) (g : Nat) : Nat :=
  let q := b.grp g
  if !q.valid then 0 else if q.hold then 4 else if belowFloor b g then 3 else if liveCount q < grpN q then 2 else 1

/-- The lowest WEFT_NO not yet committed or failed. -/
def weftDone (b : Block) (g : Nat) : Nat :=
  let q := b.grp g
  (q.wefts.filter fun w => w.state = .decided || w.state = .launched || w.state = .entries || w.state = .committing).foldl
    (fun a w => min a w.no) q.weftNext

/-- Datasets of a group whose forced launch is deferred and waits (R366). -/
def deferredOf (b : Block) (g : Nat) : List Dataset := ((b.grp g).queue.map b.dataset).filter (·.deferred)

/-- STATE of a member in WEAVE_MEMBER. -/
def memberCode (b : Block) (m : Member) : Nat := if m.failed then (if m.rejoin then 3 else 2) else if memberAbsent b m || m.out then 1 else 0

/-- STATE of WEAVE_SM_STATUS: run-up from L_r less the ramp on (R218). -/
def smCode (b : Block) (g : Nat) : Nat :=
  let st := smState b g
  if !(b.grp g).valid then 0
  else match (b.grp g).lr with
    | some l => if st ≠ 1 ∧ reached b ((l + 2 ^ 64 - rampTicks b g (rd b (Fld.WEAVE_SM_STATUS_STEP g))) % 2 ^ 64) then 4 else st
    | none => st

/-- Format sequencer j of a port encodes a segment (R206). -/
def seqActive (b : Block) (p j : Nat) : Bool :=
  let w := b.wport p
  w.segs.any fun x => x.run = w.run && x.slot < 104 && x.cut.isNone && !isMarker x && tabGet 0 x.fetched j < 416

/-- A cartridge is mounted on the port (R406). -/
def mountedOn (b : Block) (p : Nat) : Bool := (b.tape p).cart.isSome && (b.tape p).mount.isNone

/-- MODE of LOOM_STATE (R580). -/
def loomMode (b : Block) (p : Nat) : Nat :=
  let t := b.tape p
  if t.cart.isNone then 0
  else if (tabKeys b.cons.rebuilds).contains p || b.cons.patrols.any (fun x => x.repairing && x.port = p) then 5
  else if t.upd.isSome then 6
  else if writing b p then 2
  else match rd b (Fld.RDCH_STATE_MODE p) with
    | 2 => 3
    | 3 => 4
    | _ => 1

/-- A loom slice, a carding cluster and a GCM island of a die have work; the others are clock-gated (R19; DEDUCED, log
entry 56). -/
def sliceBusy (b : Block) (p : Nat) : Bool := rd b (Fld.HDL_STATUS_STATE p) ≠ 0
def clusterBusy (b : Block) (c : Nat) : Bool := (List.range 8).any fun e => let x := b.engine (8 * c + e); x.state = .compressing || x.state = .decompressing
def gcmBusy (b : Block) (i : Nat) : Bool := (List.range 2).any fun k => (b.pipe (2 * i + k)).running.isSome
def gatedOf (b : Block) (die : Nat) : Nat :=
  ((List.range 16).filter fun s => !sliceBusy b (16 * die + s)).length + ((List.range 4).filter fun c => !clusterBusy b (4 * die + c)).length
    + ((List.range 2).filter fun i => !gcmBusy b (2 * die + i)).length

/-! ### Ledger and beam store -/

/-- LedgState as LEDG_STATUS codes it. -/
def ledgCode : LedgState → Nat
  | .scanning => 0
  | .ready => 1
  | .degraded => 2
  | .failed => 3

/-- Erase cycles of the region blocks, summed (LEDG_WEAR). -/
def wearSum (b : Block) : Nat := ((b.ledg.blocks.filter fun (x : Nat × NBlock) => x.1 < spareBase).map fun x => x.2.erases).sum

/-! ### The value of a register -/

/-- The fields of a register that are not stored, as they read. `ix`: instance indices. -/
def viewBits (b : Block) (addr : Nat) (v : View) (ix : List Nat) : Nat :=
  let i := ix.getD 0 0
  let die := dieOf addr
  let p := portOf addr
  let fn := pageFn addr
  match v with
  | .plain => 0
  | .fnInfo => pack [(fn, 0), (tenantOf b fn, 8), (b2n (onPortB b fn), 16), (b2n (fn = 0), 17)]
  | .fnQpCount => quotaOf b fn
  | .qpStatus => pack [(b2n (qpActive b fn i), 0), (b2n (qpIdle b fn i), 1)]
  | .qpSqHead => (b.qp (qpKey fn i)).sqHead
  | .hqiTenantStatus => pack [(b2n (tenantReady b i), 0), (min 1 (heldBy b fun k _ => tenantOf b (k / 1024) = i), 1)]
  | .hqiTenantBeamUsed => tenantDatasets b i
  | .hqiPortStatus => pack [(min 63 (windowUse b (die = 1) / 1048576), 10)]
  | .bobObjTable => usedObjs b
  | .bobObjHeld => min 65535 (heldBy b fun _ e => e.opcode = 3)
  | .bobStreams => openStreams b
  | .bobStatus =>
    let x := b.bobbin (512 * die + i)
    pack [(x.words.length + x.reserved, 0), (b2n x.dropping, 11), (b2n (i < 10), 12), (b2n x.owner.isSome, 13)]
  | .cardEngStatus =>
    let x := b.engine (32 * die + i)
    pack [(engCode x.state, 0), (b2n x.ctx.isSome, 2), (match x.ctx with | some s => (b.stream s).level | none => 0, 3), (x.ctx.getD 0, 7)]
  | .ciphPipeLock =>
    let x := b.pipe (4 * die + i)
    pack [(lockOwner x.running, 0), (lockOwner x.suspended, 3), (jobSlot b x.running, 6)]
  | .ciphNonceNextLo => b.ciph.nonceNext % 2 ^ 32
  | .ciphNonceNextHi => b.ciph.nonceNext / 2 ^ 32 % 2 ^ 32
  | .ciphSlotStatus => pack [(b2n (b.slot i).key.isSome, 0), (slotTenant b i, 1), (boundStreams b i, 9)]
  | .ciphDrbgStatus => drbgCode b.ciph.drbg
  | .weaveGroupId => let q := b.grp i; if q.valid then pack [(q.number, 0), (q.k, 16), (q.m, 22), (1, 31)] else 0
  | .weaveGroupStatus =>
    let q := b.grp i
    pack [(groupState b i, 0), (b2n q.cross, 3), (liveCount q, 4), (min 255 (q.wefts.filter fun w => w.state = .launched).length, 11)]
  | .weaveWeftNextLo => (b.grp i).weftNext % 2 ^ 32
  | .weaveWeftNextHi => (b.grp i).weftNext / 2 ^ 32 % 2 ^ 32
  | .weaveWeftDoneLo => weftDone b i % 2 ^ 32
  | .weaveWeftDoneHi => weftDone b i / 2 ^ 32 % 2 ^ 32
  | .weaveDefer =>
    let l := deferredOf b i
    pack [(min 65535 l.length, 0), (min 65535 ((l.map fun x => since b x.closedAt / tMs).foldl max 0), 16)]
  | .weaveMember =>
    match (b.grp i).members[ix.getD 1 0]? with
    | some m => pack [(m.dev, 0), (m.port, 16), (memberCode b m, 21), (min 255 m.lateRun, 24)]
    | none => 0
  | .weaveSmStatus => smCode b i * 32
  | .weaveSmDemand => min 65535 (groupQ (b.grp i)) * 65536
  | .weaveRebuild => match (b.cons.rebuilds.find? fun (x : Nat × RebuildSt) => x.1 = i) with
    | some (_, r) => pack [((b.grp r.group).number, 0), (1, 16)]
    | none => 0
  | .weaveConsStatus => pack [(min 65535 (b.cons.carts.filter fun c => !c.voids.isEmpty).length, 0),
      (b2n !b.cons.patrols.isEmpty, 16), (b2n !b.cons.reshapes.isEmpty, 17)]
  | .fmtSeqStatus => pack ((List.range 8).map fun j => (b2n (seqActive b p j), j))
  | .rdchLockA => pack ((List.range 32).map fun t => (b2n ((tabGet {} (b.rdch p).readers t).phase = 2), t))
  | .rdchLockB => pack ((List.range 32).map fun t => (b2n ((tabGet {} (b.rdch p).readers (32 + t)).phase = 2), t))
  | .vfyState => pack [((b.wport p).sets.length, 8), (((b.wport p).dues.filter fun d => match d with | .copy _ => true | _ => false).length, 16)]
  | .cleLoopCfg =>
    let n := rd b (Fld.CLE_LOOP_CFG_SECTIONS p i)
    b2n (n != 0 && presetCapable b p i (bankOf b p i) (n - 1)) * 32
  | .beamFreeLo => beamFree b % 2 ^ 32
  | .beamFreeHi => beamFree b / 2 ^ 32
  | .timeNowLo => b.time.now % 2 ^ 32
  | .timeNowHi => b.time.now / 2 ^ 32
  | .ledgStatus => pack [(ledgCode b.ledg.state, 0), (erasing b, 2), (b2n b.ledg.inService, 5)]
  | .ledgWear =>
    let m := (b.ledg.blocks.map fun (x : Nat × NBlock) => x.2.erases).foldl max 0
    pack [(min 255 (m * 100 / 50000), 0), (min 255 (wearSum b * 100 / (50000 * spareBase)), 8),
          (2240 - (b.ledg.blocks.filter fun (x : Nat × NBlock) => x.2.spare.isSome).length, 16)]
  | .bootSvn => pack [(b.fuse.fwSvnMin, 0), (b.fuse.imageSvnMin, 16)]
  | .bootPcr => fieldAt (pcr b i) (4 * ix.getD 1 0) 4
  | .wardClrChal => fieldAt (b.ward.challenge.getD []) (4 * i) 4
  | .sysId => 0
  | .sysRev => pack [(die, 8), (Config.romVersion die % 256, 16)]
  | .sysSerialLo => b.fuse.serial % 2 ^ 32
  | .sysSerialHi => b.fuse.serial / 2 ^ 32 % 2 ^ 32
  | .sysCaps => 0
  | .sysPower => let n := gatedOf b die; pack [(b2n (n = 22), 0), (n, 2)]
  | .loomId => pack [(p, 0), (die, 5), (p % 16, 6)]
  | .loomState =>
    let m := memberOn b p
    pack [(loomMode b p, 0), (b2n m.isSome, 3), (match m with | some (g, i) => g + 32 * i | none => 0, 4), (b2n (mountedOn b p), 15),
          (match cartOn b p with | some c => b2n c.catDegraded | none => 0, 16)]
  | .loomCartLo => if mountedOn b p then (b.tape p).cart.getD 0 % 2 ^ 32 else 0
  | .loomCartHi => if mountedOn b p then (b.tape p).cart.getD 0 / 2 ^ 32 else 0
  | .loomWrap => match cartOn b p with
    | some c => pack [(c.lwrap, 0), (b2n !(wrapForward c c.lwrap), 16), ((wrapOf c c.lwrap).1, 17), (b2n (wrapEdge c c.lwrap), 20)]
    | none => 0

/-- The fields of a register that are write-only read 0 (R10). -/
def hideWo (d : RegDesc) (v : Nat) : Nat := d.fields.foldl (fun a f => if f.acc = .wo then setBits a f.lo f.width 0 else a) v

/-- What a register reads as. -/
def regValue (b : Block) (addr : Nat) : Nat :=
  match regAt addr with
  | some (d, ix) => (hideWo d (regGet b addr)).lor (viewBits b addr d.view ix)
  | none => 0

end Sys2Proof.Machine
end

