-- ==== Sys2Proof/Machine/RegOps.lean ====
section
/-!
DEFINITION. Sys2Proof/Machine/RegOps.lean: register accesses (spec/22_registers.md R567 to R574; spec/00_scope.md R9 to R11) and
the writes with a rule of their own. The writes that order the part as a whole (BOOT_CTRL and its like, WARD_CTRL, SYS_EVENT) are
added in SysOps.
-/

namespace Sys2Proof.Machine

/-! ### Which accesses a block takes (R567, R570, R573) -/

/-- The LO registers of the LO/HI pairs, by place and offset (R9). -/
def loRegs : List (Where × Nat) :=
  [(.fn, 0x2000), (.fn, 0x2008), (.n, 0x400024), (.n, 0x500010), (.n, 0x500018), (.slice, 0x1000C), (.slice, 0x10020),
   (.slice, 0x20020), (.slice, 0x30020), (.n, 0x60000C), (.both, 0x600024), (.n, 0x700000), (.both, 0x8), (.slice, 0x8)]

/-- The register is the LO half, or the HI half, of a pair. -/
def isLo (d : RegDesc) : Bool := loRegs.contains (d.place, d.base)
def isHi (d : RegDesc) : Bool := 4 ≤ d.base && loRegs.contains (d.place, d.base - 4)

/-- Offsets that the HQI block decodes before READY: the function page of FN 0 and HQI_PORT_STATUS (R573). -/
def hqiEarly (addr : Nat) : Bool :=
  let off := addr % 0x10000000
  off = 0x140000 || (addr / 0x10000000 = 0 && off < 0x110000)

/-- The block of an address decodes the requester's accesses in the part's present state (R573). The system cores' do not depend
on it. `who`: 0 the host, 1 to 8 a system core. -/
def decodes (b : Block) (who addr : Nat) : Bool :=
  let st := rd b Fld.BOOT_STATE_STATE
  let blk := addr % 0x10000000 / 0x100000
  if who ≠ 0 then true
  else if portBAlone b ∧ pageFn addr = 1 then true
  else if 0xB08000 ≤ addr ∧ addr < 0xB0C000 then st = 4
  else if st = 3 then true
  else if 0x20000000 ≤ addr ∨ st = 0 then false
  else if st = 4 then blk = 0xB
  else [0, 8, 9, 0xA, 0xB].contains blk || (blk = 1 && hqiEarly addr)

/-- A register on a function page is there: its function is presented, its pair within the quota (R37, R41). -/
def pageThere (b : Block) (addr : Nat) (d : RegDesc) (ix : List Nat) : Bool :=
  if d.place ≠ .fn then true
  else match ix with
    | [] => fnThere b (pageFn addr)
    | q :: _ => pairThere b (pageFn addr) q

/-- The register that an access reaches. -/
def regFor (b : Block) (who addr : Nat) : Option (RegDesc × List Nat) :=
  match regAt addr with
  | some (d, ix) => if decodes b who addr && pageThere b addr d ix then some (d, ix) else none
  | none => none

/-- Die S does not answer accesses forwarded from Die N (R570). -/
def awayS (b : Block) (who addr : Nat) : Bool :=
  who ≤ 4 && addr / 0x10000000 = 1 && (rdB b (Fld.SYS_D2D_LOST 0) || !b.boot.dieS)

/-- The die that counts an access: that of the window, or of the function's port. -/
def countDie (b : Block) (addr : Nat) : Nat := if addr < 0x20000000 then dieOf addr else dieOfFn b (pageFn addr)

/-! ### Reads -/

/-- The read-clear fields of a register are cleared (R10). -/
def clearRc (b : Block) (addr : Nat) (d : RegDesc) : Block :=
  regPut b addr (d.fields.foldl (fun a f => if f.acc = .rc then setBits a f.lo f.width 0 else a) (regGet b addr))

/-- A read of a register: its value, LO latching HI and RC fields clearing with it (R9, R10, R567, R570, R571). -/
def readReg (b : Block) (who addr : Nat) : Nat × Block :=
  if awayS b who addr then (0xFFFFFFFF, inc b (Fld.SYS_D2D_FORWARD_ABORT 0))
  else match regFor b who addr with
    | none => (0, b)
    | some (d, _) =>
      let v := if isHi d then tabGet 0 b.hq.hiLatch (who * 2 ^ 32 + (addr - 4)) else regValue b addr
      let b := if isLo d then
        { b with hq := { b.hq with hiLatch := tabSet 0 b.hq.hiLatch (who * 2 ^ 32 + addr) (regValue b (addr + 4)) } } else b
      (v, clearRc b addr d)

/-! ### Writes with a rule of their own -/

/-- OUT_LO above OUT_HI (CLE_LOOP_LIMIT): discarded as a whole. -/
def writeLoopLimit (b : Block) (addr data : Nat) : Block :=
  if toS 16 (bitsOf data 16 16) < toS 16 (bitsOf data 0 16) then b else writeFields b addr data

/-- MAX_STEP below MIN_STEP (WEAVE_SM_CTRL): discarded as a whole. -/
def writeSmCtrl (b : Block) (addr data : Nat) : Block :=
  if bitsOf data 28 4 < bitsOf data 24 4 then b else writeFields b addr data

/-- FLOOR lies from K + 1 to K + M (WEAVE_GROUP_CFG, R375). -/
def writeGroupCfg (b : Block) (g addr data : Nat) : Block :=
  let q := b.grp g
  let v := written b addr data false
  let f := bitsOf data 0 7
  regPut b addr (if q.k + 1 ≤ f ∧ f ≤ q.k + q.m then v else setBits v 0 7 (bitsOf (regGet b addr) 0 7))

/-- REJOIN and FAIL of WEAVE_MEMBER_CTRL (R374, R376); with both bits set the write is discarded. -/
def writeMemberCtrl (b : Block) (g i data : Nat) : Block :=
  let m := (b.grp g).members.getD i {}
  if !schedules b g || (bitOf data 0 && bitOf data 1) then b
  else if bitOf data 1 then declareFailed b g i
  else if bitOf data 0 ∧ m.failed ∧ (m.dev ≠ ownDev b ∨ health b m.port ≠ 2) then
    tryRestart (updMember b g i fun m => { m with rejoin := true }) g
  else b

/-- The pass limits of RDCH_ITER: at most 12 in all, and no pass 3 without pass 2. -/
def writeIter (b : Block) (addr data : Nat) : Block :=
  let (g1, g2, g3) := (bitsOf data 0 4, bitsOf data 4 4, bitsOf data 8 4)
  if 12 < g1 + g2 + g3 ∨ (g2 = 0 ∧ 0 < g3) then b else writeFields b addr data

/-- A reader reads with a bank (R282). -/
def bankBusy (b : Block) (p r bank : Nat) : Bool :=
  let m := rd b (Fld.RDCH_STATE_MODE p)
  m ≠ 0 && (m = 3 || r / 32 = rd b (Fld.RDCH_STATE_MODULE p)) && (tabGet {} (b.rdch p).readers r : Reader).bank = bank

/-- A write of RDCH_COEF or RDCH_NPRED (R282). -/
def writeCoef (b : Block) (p addr data : Nat) (ix : List Nat) : Block :=
  if bankBusy b p (ix.getD 0 0) (ix.getD 1 0) then b else writeFields b addr data

/-- A write of VFY_CTRL, with DEAD_CLEAR_A and DEAD_CLEAR_B (R298). -/
def writeVfyCtrl (b : Block) (p data : Nat) : Block :=
  (writeFields b (Reg.VFY_CTRL p) data).updWport p fun w =>
    { w with clearA := w.clearA || bitOf data 22, clearB := w.clearB || bitOf data 23 }

/-- The loop is in MANUAL (R325). -/
def manualLoop (b : Block) (p l : Nat) : Bool := loopMode (loopOf (b.cle p) l) = 1

/-- A write of CLE_SEC: taken in MANUAL, or for a bank of TRACK that is not in use (R325). -/
def writeSec (b : Block) (p addr data : Nat) (ix : List Nat) : Block :=
  let l := ix.getD 0 0
  writeFields b addr data (manualLoop b p l || (l = 0 && ix.getD 1 0 ≠ bankOf b p 0))

/-- A write of CLE_RC_TABLE: taken while the loop is not in AUTO or the controller is not enabled (R325). -/
def writeRcTable (b : Block) (p addr data : Nat) (ix : List Nat) : Block :=
  let i := ix.getD 0 0
  let m := loopMode (loopOf (b.cle p) (if i = 0 then 0 else i + 1))
  writeFields b addr data (m = 1 || m = 2 || !rdB b (Fld.CLE_RC_CTRL_ENABLE p i))

/-- A write of CIPH_TENANT_SLOTS (R155): discarded where the range would pass slot 4,095, meet another tenant's, or lose a slot
that holds a key. -/
def writeSlots (b : Block) (t addr data : Nat) : Block :=
  let base := bitsOf data 0 12
  let n := bitsOf data 12 13
  let meets (u : Nat) : Bool := let (c, k) := slotRange b u; u ≠ t && 0 < n && 0 < k && base < c + k && c < base + n
  let loses := b.ciph.slots.any fun (x : Nat × KeySlot) => x.2.key.isSome && inRange b t x.1 && !(base ≤ x.1 && x.1 < base + n)
  if 4096 < base + n || (List.range 256).any meets || loses then b else writeFields b addr data

/-- SYS_EVENT_VEC: a vector beyond FN 0's table is reserved. -/
def writeEventVec (b : Block) (addr data : Nat) : Block := if bitsOf data 0 11 < msixSize b 0 then writeFields b addr data else b

/-- BEAM_TEST_CTRL (R433): an operation, and REFUSED cleared by 1. READ_RAW finds the line's stored symbols. -/
def writeBeamTest (b : Block) (die data : Nat) : Block :=
  let b := writeFields b (Reg.BEAM_TEST_CTRL die) data
  match bitsOf data 0 2 with
  | 1 => writeRaw b die
  | 2 => writeGen b die
  | 3 => readRaw b die []
  | _ => b

/-- A mailbox word is kept until it is used; it reads 0. -/
def writeBox (b : Block) (addr data : Nat) : Block := regPut b addr (data % 2 ^ 32)

/-- A write of a warden rule's register resets the rule's count and state (R553). -/
def writeRule (b : Block) (r addr data : Nat) : Block :=
  { writeFields b addr data with ward := { b.ward with rules := tabSet {} b.ward.rules r {} } }

/-- A write that has reached its register, by the register's place and offset. -/
def regWrite (b : Block) (addr data : Nat) (d : RegDesc) (ix : List Nat) : Block :=
  let i := ix.getD 0 0
  let fn := pageFn addr
  let die := dieOf addr
  let p := portOf addr
  match d.place, d.base with
  | .fn, 0x2000 => writeQpBase b addr fn i data       -- QP_SQ_BASE_LO
  | .fn, 0x2004 => writeQpBase b addr fn i data       -- QP_SQ_BASE_HI
  | .fn, 0x2008 => writeQpBase b addr fn i data       -- QP_CQ_BASE_LO
  | .fn, 0x200C => writeQpBase b addr fn i data       -- QP_CQ_BASE_HI
  | .fn, 0x2010 => writeQpCtrl b fn i data            -- QP_CTRL
  | .fn, 0x2014 => writeQpStatus b fn i data          -- QP_STATUS
  | .fn, 0xC000 => sqTailDb b fn i (bitsOf data 0 12) -- QP_SQ_TAIL_DB
  | .fn, 0xC004 => cqHeadDb b fn i (bitsOf data 0 12) -- QP_CQ_HEAD_DB
  | .n, 0x28 => writeEventVec b addr data             -- SYS_EVENT_VEC
  | .n, 0x110004 => writeForce b i data               -- HQI_TENANT_FORCE
  | .n, 0x120000 => writeFnMap b i data               -- HQI_FN_MAP
  | .both, 0x300000 => writeEngEnable b die data      -- CARD_ENG_ENABLE
  | .n, 0x401000 => writeSlots b i addr data          -- CIPH_TENANT_SLOTS
  | .n, 0x500004 => writeGroupCfg b i addr data       -- WEAVE_GROUP_CFG
  | .n, 0x503000 => writeMemberCtrl b i (ix.getD 1 0) data -- WEAVE_MEMBER_CTRL
  | .n, 0x508100 => writeSmCtrl b addr data           -- WEAVE_SM_CTRL
  | .both, 0x600020 => writeBeamTest b die data       -- BEAM_TEST_CTRL
  | .n, 0x70100C => writeShutCtl b data               -- SHUT_CTRL
  | .both, 0x701100 => writeShutCtrl b (2 * die + i) data -- SHUT_PORT_CTRL
  | .both, 0x901004 => writeSafeCtrl b (16 * die + i) data -- SAFE_PORT_CTRL
  | .n, 0xA00100 => writeRule b i addr data           -- WARD_RULE
  | .n, 0xA00104 => writeRule b i addr data
  | .n, 0xA00108 => writeRule b i addr data
  | .n, 0xA00400 => writeBox b addr data              -- WARD_CLR_DATA
  | .n, 0xB00100 => writeBox b addr data              -- BOOT_EXT_DATA
  | .n, 0xB00200 => writeBox b addr data              -- BOOT_PROV_DATA
  | .n, 0xB08000 => writeBox b addr data              -- BOOT_RCV_BUF
  | .slice, 0x10000 => writeHdlCtrl b p data          -- HDL_CTRL
  | .slice, 0x20008 => writeIter b addr data          -- RDCH_ITER
  | .slice, 0x21000 => writeCoef b p addr data ix     -- RDCH_COEF
  | .slice, 0x25000 => writeCoef b p addr data ix     -- RDCH_NPRED
  | .slice, 0x30000 => writeVfyCtrl b p data          -- VFY_CTRL
  | .slice, 0x50040 => writeFields b addr data (manualLoop b p i) -- CLE_LOOP_CFG
  | .slice, 0x50044 => writeLoopLimit b addr data     -- CLE_LOOP_LIMIT
  | .slice, 0x500A0 => writeRcCtrl b p i data         -- CLE_RC_CTRL
  | .slice, 0x51000 => writeSec b p addr data ix      -- CLE_SEC
  | .slice, 0x51004 => writeSec b p addr data ix
  | .slice, 0x51008 => writeSec b p addr data ix
  | .slice, 0x5100C => writeSec b p addr data ix
  | .slice, 0x54000 => writeRcTable b p addr data ix  -- CLE_RC_TABLE
  | .slice, 0x60000 => writeEdgeTiming b p addr data  -- EDGE_CARRIER
  | .slice, 0x60004 => writeEdgeTiming b p addr data  -- EDGE_TIMING
  | .slice, 0x6000C => if configLocked b then b else writeEdgeMap b p data -- EDGE_MAP
  | .slice, 0x60010 => writeEdgeTest b p data         -- EDGE_TEST
  | _, _ => writeFields b addr data

/-- The register has RWL fields. -/
def hasRwl (d : RegDesc) : Bool := d.fields.any fun f => f.acc = .rwl

end Sys2Proof.Machine
end

