-- ==== Sys2Proof/Machine/BootOps.lean ====
section
/-!
DEFINITION. Sys2Proof/Machine/BootOps.lean: resets of the part, the boot ROM, firmware slots, ROM recovery and provisioning, locking
and the loss of the die-to-die link (spec/19_boot_trust.md R494 to R505, R509 to R517; spec/18_ledger_flash.md R484, R490, R606).
-/

namespace Sys2Proof.Machine

/-! ### Start-up states -/

def bootState (b : Block) : Nat := rd b Fld.BOOT_STATE_STATE

/-! ### Host links (R498, R581) -/

/-- 16 bits of HQI_PORT_STATUS for a link that is up, of `lanes` lanes at most: the negotiated speed and width are free values
among those of R6; flit mode is on at 64 GT/s and there alone. -/
def linkWord (b : Block) (lanes : Nat) : Nat × Block :=
  let (v, b) := freshNat b
  let speed := 1 + v % 6
  (pack [(1, 0), (speed, 1), (lanes / 2 ^ (v / 6 % (Nat.log2 lanes + 1)), 4), (b2n (speed = 6), 9)], b)

/-- The host port of a die links up once it trains: its PERST_N is high, and HOST_PORTS has been applied, or port A serves a recovery
state (R498, R510, R512), or port B that of a Die S that is never released (R504). -/
def portLinks (b : Block) (d : Nat) : Block :=
  let st := bootState b
  let may := if d = 0 then b.boot.hostPorts || st = 4 || st = 5 || st = 7 else b.boot.hostPorts || portBAlone b
  if !may || !(tabKeys b.boot.perst).contains d || rdB b (Fld.HQI_PORT_STATUS_LINK_UP d) then b
  else
    let two := b.hq.fns.any fun (x : Nat × FnCfg) => x.2.endpoint = 2 * d + 1
    let (v, b) := linkWord b (if two then 8 else 16)
    let b := regPut b (Reg.HQI_PORT_STATUS d) v
    if two then
      let (v, b) := linkWord b 8
      wr b (Fld.HQI_PORT_STATUS_SECOND d) v
    else b

/-- Both ports. -/
def hostLinks (b : Block) : Block := portLinks (portLinks b 0) 1

/-- A PERST_N rises (R498). -/
def perstUp (b : Block) (portB : Bool) : Block :=
  hostLinks { b with boot := { b.boot with perst := tabSet 0 b.boot.perst (b2n portB) (b.time.now + 1) } }

/-! ### Recovery states (R499, R510, R512) -/

/-- Start-up stops in a recovery state, which PCR 7 records with its cause (R510, R512, R515; the bytes measured: log entry 57). -/
def stopBoot (b : Block) (state cause : Nat) : Block :=
  hostLinks (measure48 (wr (wr b Fld.BOOT_STATE_STATE state) Fld.BOOT_STATE_CAUSE cause) 7 (leB 1 state ++ leB 1 cause))

/-! ### Reset of the part (R494, R497 steps 1 and 2) -/

/-- What the warden keeps through a reset: everything but the challenge of the start; at a power-on, the tamper record alone
(R494, R546, R557, R559). -/
def wardAfter (w : Warden) (powerOn : Bool) : Warden :=
  if powerOn then { nvm := w.nvm, count := w.nvm.2.2 }
  else { w with challenge := none, power := .run, pwrEn := true, resume := false }

/-- Registers that a reset leaves: those of the warden, but at a power-on (R494). -/
def regsAfter (regs : Tab Nat) (powerOn : Bool) : Tab Nat := if powerOn then [] else regs.filter fun x => x.1 / 0x100000 = 0xA

/-- The tamper latch at a start: set from the record at power-on, cleared by a record that has been cleared (R557, R559);
CIPH_ERASE_STATUS.TAMPER mirrors it. -/
def latchAfter (b : Block) (powerOn : Bool) : Block :=
  let r := b.ward.nvm
  let b := if powerOn then
      wr (wr (wrB b Fld.WARD_STATUS_TAMPER r.1) Fld.WARD_STATUS_CAUSE r.2.1) Fld.WARD_STATUS_TAMPER_COUNT (r.2.2 % 256)
    else if !r.1 && !b.ward.writing then wr (wr b Fld.WARD_STATUS_TAMPER 0) Fld.WARD_STATUS_CAUSE 0
    else b
  let b := wr b Fld.WARD_CLR_CTRL_STATUS 0
  forEach [0, 1] b fun b d => wrB b (Fld.CIPH_ERASE_STATUS_TAMPER d) (tampered b)

/-- The boot ROM's checks of step 2 (R497, R510, R515, R516). -/
def romStart (b : Block) : Block :=
  if b.boot.rom then b
  else
    let b := { b with boot := { b.boot with rom := true, deviceKey := deviceKeyOf b.fuse.identityRoot } }
    let b := wr (forEach [0, 1] b fun b d => wr b (Fld.SYS_POWER_VCORE d) 750) (Fld.SYS_REV_ROLE 0) 1
    let b := measure48 b 0 (leB 4 (Config.romVersion 0) ++ leB 1 b.fuse.lifecycle ++ slice b.fuse.ownerKeyHash 0 48
      ++ leB 1 (b2n (tampered b)) ++ leB 1 (rd b Fld.BOOT_STATE_RESET_CAUSE))
    if b.fuse.lifecycle = 0 then stopBoot b 4 1
    else if rdB b Fld.BOOT_CTRL_RECOVERY_REQ then stopBoot b 4 3
    else b

/-- The part as a reset leaves it, the ledger being at rest (R494, R495, R573). EPOCH of the beam store's symbols changes (R419). -/
def afterReset (b : Block) (cause : Nat) (powerOn : Bool) : Block :=
  let (v, b) := freshNat b
  let req := rd b Fld.BOOT_CTRL_RECOVERY_REQ
  let b : Block := { regs := regsAfter b.regs powerOn, out := b.out, ciph := { fresh := b.ciph.fresh },
                     beam := { epoch := (b.beam.epoch + 1 + v % (2 ^ 32 - 1)) % 2 ^ 32 }, ledg := b.ledg, fuse := b.fuse,
                     cons := { index := b.cons.index, mounts := b.cons.mounts, dropped := b.cons.dropped }, sl := { faultLow := b.sl.faultLow },
                     boot := { dogs := if cause = 3 then b.boot.dogs + 1 else 0, perst := if powerOn then [] else b.boot.perst }, ward := wardAfter b.ward powerOn,
                     lands := { therm := b.lands.therm && !powerOn, extest := b.lands.extest && !powerOn, wardAddr := b.lands.wardAddr } }
  let b := wr (latchAfter b powerOn) Fld.BOOT_STATE_RESET_CAUSE cause
  let b := if powerOn then b else wr b Fld.BOOT_CTRL_RECOVERY_REQ req
  forEach [0, 1] b fun b d => wrB b (Fld.SAFE_STATUS_FAULT_N_IN d) !b.sl.faultLow

/-- A reset of the part (R494): the ledger is first brought to rest (R606), then everything starts from step 1. -/
def resetPart (b : Block) (cause : Nat) (powerOn : Bool) : Block := romStart (afterReset (ledgerRest b) cause powerOn)

/-- POR_N low: the write of a tamper record that is under way ends, as VAON holds (R557, R560, R593). -/
def porReset (b : Block) : Block :=
  let w := b.ward
  resetPart { b with ward := if w.writing then { w with writing := false, nvm := (true, rd b Fld.WARD_STATUS_CAUSE, w.count) } else w } 0 true

/-- Power is lost without warning (R479, R494, R560). -/
def powerLoss (b : Block) : Block := romStart (afterReset (ledgerTorn b) 0 true)

/-! ### Roles (R495, R496) -/

/-- Die S is isolated (R503). -/
def halfIsolated (b : Block) : Block := wr b Fld.BOOT_STATE_HALF_ISOLATED 1

/-- Die S is never released: port B comes up as one x16 endpoint with one function (R504), numbered 1 here and without MSI-X vectors
(DESIGN CHOICE, log entry 159). -/
def portBStatus (b : Block) : Block :=
  let b := halfIsolated b
  hostLinks { b with hq := { b.hq with fns := tabSet {} b.hq.fns 1 { endpoint := 2, pf := 1 } } }

/-- The findings of step 3: whether the link has trained, and the roles latched. A Die N that latched 0 never runs as primary. -/
def roleConfirm (b : Block) (linked roleN roleS : Bool) : Block :=
  let b := romStart b
  if bootState b ≠ 0 ∨ b.boot.roles ∨ rdB b Fld.BOOT_STATE_HALF_ISOLATED then b
  else
    let b := forEach [0, 1] b fun b d => wrB b (Fld.SYS_D2D_LINK_UP d) linked
    let b := wrB (wrB b (Fld.SYS_REV_ROLE 0) roleN) (Fld.SYS_REV_ROLE 1) roleS
    if linked ∧ roleN ∧ !roleS then { b with boot := { b.boot with roles := true } }
    else
      let b := portBStatus b
      if roleN then stopBoot b 7 (if linked then 6 else 7) else b

/-! ### Firmware slots (R487, R490, R500, R511) -/

/-- The i-th block of slot s, 0 A, 1 B; and the number of the slot's next page, 6,144 where it is full. -/
def slotBlock (b : Block) (s i : Nat) : Nat := servedBy b 36 (regionBase (1 + s) + i)
def slotNext (b : Block) (s : Nat) : Nat :=
  match (List.range 16).find? (fun i => decide ((b.nblock (slotBlock b s i)).pages.length < 384)) with
  | some i => 384 * i + (b.nblock (slotBlock b s i)).pages.length
  | none => 6144

/-- The record bytes of a slot's page n, if it is VALID. -/
def slotPage (b : Block) (s n : Nat) : Option Bytes :=
  match (b.nblock (slotBlock b s (n / 384))).pages[n % 384]? with
  | some p => if p.kind = 3 && !p.torn then some (slice p.recs.flatten 0 16384) else none
  | none => none

/-- The header of a slot's image, where it is one. -/
def slotHead (b : Block) (s : Nat) : Option Bytes :=
  match slotPage b s 0 with
  | some h =>
    if slice h 0 8 = [0x47, 0x56, 0x58, 0x46, 0x57, 0x49, 0x4D, 0x47] ∧ fieldAt h 8 2 = 1 ∧ fieldAt h 10 1 ≤ 64
        ∧ 160 ≤ fieldAt h 12 4 ∧ fieldAt h 12 4 ≤ 67108864 then some (slice h 0 64) else none
  | none => none

/-- The slot is a candidate: its SVN is at least FW_SVN_MIN. -/
def slotCandidate (b : Block) (s : Nat) : Bool :=
  match slotHead b s with
  | some h => b.fuse.fwSvnMin ≤ fieldAt h 10 1
  | none => false

/-- The image of a slot, all of whose pages are VALID and whose signature verifies. -/
def slotVerify (b : Block) (s : Nat) : Option Bytes :=
  match slotHead b s with
  | none => none
  | some h =>
    let n := fieldAt h 12 4
    let ps := (List.range (ceilDiv n 16384)).map (slotPage b s)
    let m := (ps.flatMap fun p => p.getD []).take n
    if slotCandidate b s && ps.all Option.isSome
        && ecdsaVerify Config.firmwareKey (sha384 (m.take (n - 96))) (m.drop (n - 96)) then some m else none

/-- The candidates in rank order: by SVN, then by BUILD_SEQ, slot A first on a tie. -/
def slotOrder (b : Block) : List Nat :=
  let rank (s : Nat) : Nat := match slotHead b s with | some h => fieldAt h 10 1 * 2 ^ 64 + fieldAt h 16 8 | none => 0
  match [0, 1].filter (slotCandidate b) with
  | [x, y] => if rank x < rank y then [y, x] else [x, y]
  | l => l

/-- A slot has verified and is booted; Die S is released and runs its part of it (R495, R497 step 4, R500, R515). The engine microcode
of the image is loaded and measured then (DESIGN CHOICE, log entry 57). -/
def bootSlot (b : Block) (s : Nat) (m : Bytes) : Block :=
  let svn := fieldAt m 10 1
  let seq := fieldAt m 16 8
  let b := forEach [0, 1] b fun b d =>
    wr (wr (wr b (Fld.SYS_FW_SVN d) svn) (Fld.SYS_FW_SLOT d) s) (Fld.SYS_FW_BUILD d) (seq % 2 ^ 24)
  let b := wr (wr (wr b Fld.BOOT_SVN_FW svn) Fld.BOOT_STATE_SLOT s) Fld.BOOT_STATE_STATE 1
  let b := measure48 b 1 m
  let b := measure48 b 2 (leB 1 (0x41 + s) ++ leB 1 svn ++ leB 8 seq)
  let b := measure48 b 3 (leB 1 (rd b (Fld.SYS_REV_ROLE 1)) ++ leB 4 (Config.romVersion 1))
  let b := forEach (Config.microcode m) b fun b c => measure48 b 6 c
  { b with boot := { b.boot with dieS := true, entropy := true, build := seq, slotDigest := sha384 m },
           ciph := { b.ciph with keks := true } }

/-- The self-tests of both channels of a die have ended (R538): bit d of `selftest`, die d passed. -/
def selfTest (b : Block) (selftest d : Nat) : Block :=
  if bitOf selftest d then wr (wr (wr b (Fld.SAFE_STATUS_CH_A_OK d) 1) (Fld.SAFE_STATUS_CH_B_OK d) 1) (Fld.SAFE_STATUS_SELFTEST_PASS d) 1
  else raiseFault b d 4

/-- Step 4: the first candidate that verifies is booted; without one the part enters ROM recovery (R500). -/
def slotSelect (b : Block) (selftest : Nat) : Block :=
  let b := romStart b
  if bootState b ≠ 0 ∨ !b.boot.roles then b
  else
    let b := forEach [0, 1] b fun b d => selfTest b selftest d
    match (slotOrder b).findSome? fun s => (slotVerify b s).map fun m => (s, m) with
    | some (s, m) => bootSlot b s m
    | none => stopBoot b 4 2

/-! ### ROM recovery (R484, R511) -/

/-- Program a flag page of block k from the boot ROM (R484, R485): with 2 pages left in the active flag-log block, its standby is
erased with them and takes over. -/
def romFlag (b : Block) (f k : Nat) : Block :=
  let plane := blockPlane k
  let old := flagBlock b plane true
  let next := flagBlock b plane false
  let b := if (b.nblock old).pages.length < 382 then b
    else
      let b := addPage b old { kind := 2, recs := [flagRecord b 1 next] }
      let b := b.updNblock next fun x => { x with pages := [], half := false, shut := false, erases := x.erases + 1 }
      let b := addPage b old { kind := 2, recs := [flagRecord b 2 next] }
      { b with ledg := { b.ledg with flagActive := tabSet 0 b.ledg.flagActive plane ((next - flagBase) % 2) } }
  addPage b (flagBlock b plane true) { kind := 2, recs := [flagRecord b f k] }

/-- Erase one block of a slot (R484); a block whose erase fails is replaced by a spare (R482). -/
def romErase (b : Block) (k : Nat) (ok : Bool) : Block :=
  let b := romFlag b 1 k
  if ok then romFlag (b.updNblock k fun x => { x with pages := [], half := false, shut := false, failed := false, erases := x.erases + 1 }) 2 k
  else retireBlock (ledgerLog (inc (b.updNblock k fun x => { x with half := true }) Fld.LEDG_ERR_ERASE_FAIL) 4 (blockDie k) k 0) k

/-- A slot operation ends with RESULT; PCR 7 takes it (R510; the bytes measured: log entry 57). -/
def rcvEnd (b : Block) (op slot result : Nat) : Block :=
  measure48 (wr b Fld.BOOT_RCV_STATUS_RESULT result) 7 (leB 1 op ++ leB 1 slot ++ leB 1 result)

/-- A slot operation outside ROM recovery is not made: RESULT 4. -/
def rcvOp (b : Block) (f : Block → Block) : Block :=
  let b := romStart b
  if !decodes b 0 Reg.BOOT_RCV_CTRL then b
  else if bootState b = 4 then f b
  else wr b Fld.BOOT_RCV_STATUS_RESULT 4

/-- After two failures in a row a slot is unusable while a block of it has failed and no spare has replaced it (R511). -/
def slotUnusable (b : Block) (s : Nat) : Bool :=
  2 ≤ tabGet 0 b.boot.rcvFails s && (List.range 16).any fun i => (b.nblock (slotBlock b s i)).failed

/-- ERASE of a slot's 16 blocks; `fail`: the block whose erase fails. -/
def rcvErase (b : Block) (data : Nat) (fail : Option Nat) : Block :=
  rcvOp b fun b =>
    let s := bitsOf data 13 1
    let n := match fail with | some i => i | none => 16
    let ks := (List.range 16).map (slotBlock b s)
    if slotUnusable b s then rcvEnd b 1 s 1
    else
      let b := forEach (ks.take n) (findFlags b) fun b k => romErase b k true
      match ks[n]? with
      | some k =>
        let b := romErase b k false
        rcvEnd { b with boot := { b.boot with rcvFails := tabUpd 0 b.boot.rcvFails s (· + 1) } } 1 s 1
      | none => rcvEnd { b with boot := { b.boot with rcvFails := tabSet 0 b.boot.rcvFails s 0 } } 1 s 0

/-- The 16,384 bytes of the page buffer. -/
def rcvBuf (b : Block) : Bytes := (List.range 4096).flatMap fun w => leB 4 (regGet b (Reg.BOOT_RCV_BUF w))

/-- PROGRAM of the slot's next page. -/
def rcvProgram (b : Block) (data : Nat) (pass : Bool) : Block :=
  rcvOp b fun b =>
    let s := bitsOf data 13 1
    let n := bitsOf data 0 13
    let k := slotBlock b s (n / 384)
    if n ≠ slotNext b s ∨ 6144 ≤ n then rcvEnd b 2 s 2
    else if pass && takesPages (b.nblock k) then rcvEnd (addPage b k { kind := 3, region := 1 + s, recs := [rcvBuf b] }) 2 s 0
    else
      let b := ledgerLog (inc b Fld.LEDG_ERR_PROG_FAIL) 3 (blockDie k) k (n % 384)
      rcvEnd (if takesPages (b.nblock k) then addPage b k { kind := 3, region := 1 + s, torn := true } else b) 2 s 1

/-- VERIFY: the slot is checked as R500 would. -/
def rcvVerify (b : Block) (data : Nat) : Block :=
  rcvOp b fun b =>
    let s := bitsOf data 13 1
    rcvEnd b 3 s (if (slotVerify b s).isSome then 0 else 3)

/-- A write of BOOT_RCV_CTRL: the operation OP names. -/
def writeRcvCtrl (b : Block) (data : Nat) : Block :=
  match bitsOf data 14 2 with
  | 1 => rcvErase b data none
  | 2 => rcvProgram b data true
  | 3 => rcvVerify b data
  | _ => b

/-! ### Provisioning and fuses (R513, R514) -/

/-- The 80 bytes of BOOT_PROV_DATA. -/
def provData (b : Block) : Bytes := (List.range 20).flatMap fun w => leB 4 (regGet b (Reg.BOOT_PROV_DATA w))

/-- GO: KEY_ROOT and OWNER_KEY_HASH are programmed and the part is OWNED; where the programming fails the fields hold what they hold. -/
def provGo (b : Block) (data : Nat) (pass : Bool) : Block :=
  let b := romStart b
  if bootState b ≠ 4 ∨ b.fuse.lifecycle ≠ 0 ∨ !bitOf data 0 ∨ rd b Fld.BOOT_PROV_STATUS_STATUS ≠ 0 then b
  else if pass then
    let d := provData b
    wr { b with fuse := { b.fuse with keyRoot := slice d 0 32, ownerKeyHash := slice d 32 48, lifecycle := 1 } } Fld.BOOT_PROV_STATUS_STATUS 2
  else
    let (k, b) := freshBytes b 32
    let (h, b) := freshBytes b 48
    wr { b with fuse := { b.fuse with keyRoot := k, ownerKeyHash := h } } Fld.BOOT_PROV_STATUS_STATUS 3

/-- DECOMMISSION: LIFECYCLE is never reversed. -/
def decommission (b : Block) (data : Nat) : Block :=
  let b := romStart b
  if bootState b = 4 ∧ bitOf data 1 then { b with fuse := { b.fuse with lifecycle := 2 } } else b

/-- A write of BOOT_PROV_CTRL. -/
def writeProvCtrl (b : Block) (data : Nat) : Block := decommission (provGo b data true) data

/-- The minima rise to the SVN of the booted slot and the IMAGE_SVN in use; neither is ever lowered (R513). -/
def raiseSvn (b : Block) : Block :=
  { b with fuse := { b.fuse with fwSvnMin := max b.fuse.fwSvnMin (rd b Fld.BOOT_SVN_FW), imageSvnMin := max b.fuse.imageSvnMin b.boot.imageSvn } }

/-- A write of BOOT_CTRL: RECOVERY_REQ is stored, COMMIT_SVN raises the minima, RESET resets the part. -/
def writeBootCtrl (b : Block) (data : Nat) : Block :=
  let b := writeFields b Reg.BOOT_CTRL data
  let b := if bitOf data 2 then raiseSvn b else b
  if bitOf data 0 then resetPart b 2 false else b

/-- A write of BOOT_EXT_CTRL: with GO, an owner's PCR, 16 to 23, takes the 48 bytes of BOOT_EXT_DATA (R515). -/
def writeExtCtrl (b : Block) (data : Nat) : Block :=
  let i := bitsOf data 0 5
  if bitOf data 5 ∧ 16 ≤ i ∧ i ≤ 23 then
    measure48 b i ((List.range 12).flatMap fun w => leB 4 (regGet b (Reg.BOOT_EXT_DATA w)))
  else b

/-! ### Attestation key (R517, R559) -/

/-- Step 8: the attestation key and its certificate, and the warden's challenge, from the DRBG. With TAMPER latched start-up stops
here (R499). -/
def attestKeyGen (b : Block) : Block :=
  let st := bootState b
  if b.boot.attKey.isSome ∨ !b.boot.scanned ∨ !drbgOk b ∨ !(st = 1 ∨ st = 5 ∨ st = 7) then b
  else
    let (d, b) := drbgScalar b
    let k := beB 48 d
    let (c, b) := drbgBytes b 16
    let cert := Config.aliasCert b.boot.deviceKey (publicKey d) ((List.range 6).flatMap (pcr b))
    let b := { b with boot := { b.boot with attKey := some k, aliasCert := cert }, ward := { b.ward with challenge := some c } }
    if tampered b ∧ st = 1 then wr b Fld.BOOT_STATE_STATE 6 else b

/-! ### Training and locking (R416, R417, R497 steps 9 to 14, R509, R515) -/

/-- Step 9: the population is checked and trained; then the links that the image enables are enabled (steps 10 and 11). -/
def beamTrain (b : Block) (channels dpc cap : Nat) (mrdimm uniform : Bool) (rate : Option Nat) (mismatch : List Nat) : Block :=
  if bootState b ≠ 1 ∨ b.boot.attKey.isNone then b
  else match rate with
    | none => stopBoot b 7 0
    | some r =>
      if !populationOk channels dpc cap uniform then stopBoot b 7 0
      else
        let b := beamTrained (wr b Fld.BOOT_STATE_STATE 2) channels dpc cap r mrdimm mismatch
        let b := forEach b.boot.links b fun b x => match regAt x.1 with
          | some (d, ix) => regWrite b x.1 x.2 d ix
          | none => b
        { b with boot := { b.boot with links := [] } }

/-- Addresses of the instances of a replicated register. -/
def dimAddrs : List (Nat × Nat) → List Nat
  | [] => [0]
  | (n, s) :: t => (List.range n).flatMap fun i => (dimAddrs t).map (i * s + ·)

/-- Every address of a register in the two die windows. -/
def descAddrs (d : RegDesc) : List Nat :=
  let at0 := (dimAddrs d.dims).map (d.base + ·)
  match d.place with
  | .n => at0
  | .both => at0 ++ at0.map (0x10000000 + ·)
  | .slice => (List.range 32).flatMap fun p => at0.map (p / 16 * 0x10000000 + 0x1000000 + p % 16 * 0x100000 + ·)
  | .fn => []

/-- The value bytes of every RWL register of both dies, in address order (R515, PCR 8). -/
def rwlBytes (b : Block) : Bytes :=
  ((regDescs.filter hasRwl).flatMap descAddrs |>.foldr insertNat []).flatMap fun a => leB 4 (regGet b a)

/-- Step 13: at the end of the first fill the configuration is locked and PCR 8 extended; the ledger serves as in service (R488). -/
def configLock (b : Block) : Block :=
  if bootState b ≠ 2 ∨ configLocked b ∨ b.beam.hashKey.isNone ∨ rd b Fld.BEAM_POOL_RELEASED_STEPS < min (beamC b) (rd b Fld.BEAM_POOL_POOL_STEPS) then b
  else
    let b := wr (measure48 b 8 (rwlBytes b)) Fld.BOOT_STATE_CONFIG_LOCK 1
    { b with ledg := { b.ledg with inService := true }, boot := { b.boot with lockAt := b.time.now } }

/-- Step 14, 10 ms later: READY, and the management event (R497, R502). -/
def readyReached (b : Block) : Block :=
  if bootState b ≠ 2 ∨ !configLocked b ∨ !reached b (b.boot.lockAt + 10 * tMs) then b
  else
    let b := wr b Fld.BOOT_STATE_STATE 3
    let b := wr b Fld.BOOT_TIME_MS (satN 16 (since b b.boot.since / tMs))
    setEvent { b with boot := { b.boot with dogs := 0 } } 0

/-- Time of the legacy test, in ticks, where it is enabled: 4 × pool at 37.5 GB/s for each channel, 600 GB/s with 16 (R434; DEDUCED, log
entry 155). -/
def legacyTicks (b : Block) : Nat :=
  if rdB b Fld.BEAM_CTRL_LEGACY_TEST then rd b Fld.BEAM_POOL_POOL_STEPS * 68719476736 * 32 / (75 * beamC b) else 0

/-- The boot watchdog expires before READY, 20 s and the legacy test's time after reset release (R502). -/
def bootWatchdog (b : Block) : Block :=
  if 3 ≤ bootState b ∨ since b b.boot.since < 20 * tS + legacyTicks b then b else resetPart b 3 false

/-! ### The die-to-die link is lost (R503 to R505) -/

/-- The entries that a queue pair of port B has fetched complete with HALF_ISOLATED (R504). -/
def isolatePair (b : Block) (k : Nat) : Block :=
  let es := (b.qp k).fetched
  let b := b.updQp k fun p => { p with fetched := [], held := none }
  forEach es b fun b f => failEntry b (k / 1024) (k % 1024) f.e 0x9002 0

/-- Commands from port B that are accepted and not completed. -/
def portBCmds (b : Block) : List Nat := (b.hq.cmds.filter fun (x : Nat × Cmd) => onPortB b x.2.fn && x.2.fin.isNone).map Prod.fst

/-- Port B's commands end (R504): they complete with HALF_ISOLATED and LEVEL 0, and the open object of each stream that has one
ends (R34). -/
def isolatePortB (b : Block) : Block :=
  let cs := portBCmds b
  let b := forEach cs b fun b n => b.updCmd n fun c => { c with level := 0 }
  let slots := (cs.filterMap fun n => (b.cmd n).stream.map slotOfHandle).eraseDups
  let b := forEach slots b fun b s => match (b.stream s).obj with
    | some o => endObject b o 0x9002 .aborted
    | none => b
  let b := forEach cs b fun b n => if (b.cmd n).fin.isNone then finishCmd b n 0x9002 0 (closes := closesOf (b.cmd n)) else b
  forEach ((tabKeys b.hq.qps).filter fun k => onPortB b (k / 1024)) b isolatePair

/-- Groups that Die S's weave schedules: those of this part alone whose members all lie on Die S's ports. -/
def diesGroups (b : Block) : List Nat :=
  (List.range 32).filter fun g => let q := b.grp g; q.valid && !q.cross && q.members.all fun m => 16 ≤ m.port

/-- Die S declares the loss (R504): keys, safe stop, wefts, sub-blocks, port B. -/
def loseD2dS (b : Block) : Block :=
  let b := halfIsolated (wr (wr b (Fld.SYS_D2D_LOST 1) 1) (Fld.SYS_D2D_LINK_UP 1) 0)
  let b := nameKeys b 1 false
  let b := forEach ((List.range 16).map (16 + ·)) b fun b p => declare b p 11 3 0
  let b := forEach (diesGroups b) b fun b g =>
    forEach ((b.grp g).wefts.map (·.no)) b fun b no => failWeft b g no 3 0x5003
  let b := forEach [4, 5, 6, 7] b fun b i => b.updPipe i fun p => { p with subNext := 0, subEnd := 0 }
  isolatePortB b

/-- Die N declares the loss (R505). Before CONFIG_LOCK start-up stops in FAILED. The log page is the fabric's (DESIGN CHOICE, log
entry 58). -/
def loseD2dN (b : Block) : Block :=
  let b := halfIsolated (wr (wr b (Fld.SYS_D2D_LOST 0) 1) (Fld.SYS_D2D_LINK_UP 0) 0)
  let b := setEvent (fabricLog b 0x9002 1 0xFF 0) 4
  let b := forEach ((List.range 32).map (32 + ·)) b parkEngine
  let b := forEach [2, 3] (loseDieS b) fun b p => if shutState b p = 0 ∨ shutState b p = 3 then b else shutLeave b p 3
  if bootState b < 3 ∧ !configLocked b then stopBoot b 7 7 else b

/-- A die declares the loss, once, of a link that was up. -/
def loseD2d (b : Block) (die : Nat) : Block :=
  if !rdB b (Fld.SYS_D2D_LINK_UP die) then b else if die = 1 then loseD2dS b else loseD2dN b

end Sys2Proof.Machine
end

