-- ==== Sys2Proof/Machine/ImageOps.lean ====
section
/-!
DEFINITION. Sys2Proof/Machine/ImageOps.lean: the Benak image: its layout, what makes a copy valid, and its application
(spec/19_boot_trust.md R498, R506 to R508, R512; spec/14_weave.md R355, R356; spec/17_timebase_fabric.md R460;
spec/21_warden.md R555).
-/

namespace Sys2Proof.Machine

/-! ### Records (R506, R507) -/

/-- A record of an image: its offset in the image, TYPE, CRITICAL, payload. -/
structure BRec where
  at_ : Nat := 0
  typ : Nat := 0
  critical : Bool := false
  body : Bytes := []
  deriving DecidableEq, Repr

/-- `n` records from offset `off`, and the offset of the first that is not well formed. The records fill their part of the image. -/
def parseRecs : Nat → Nat → Bytes → List BRec × Option Nat
  | 0, off, bs => ([], if bs.isEmpty then none else some off)
  | n + 1, off, bs =>
    let len := fieldAt bs 4 4
    let size := 8 + ceilDiv len 8 * 8
    if bs.length < 8 ∨ bs.length < size ∨ 2 ≤ fieldAt bs 2 2 ∨ (slice bs (8 + len) (size - 8 - len)).any (· != 0) then ([], some off)
    else
      let (l, e) := parseRecs n (off + size) (bs.drop size)
      ({ at_ := off, typ := fieldAt bs 0 2, critical := bitOf (fieldAt bs 2 2) 0, body := slice bs 8 len } :: l, e)

/-- The records of a type. -/
def ofType (rs : List BRec) (t : Nat) : List BRec := rs.filter fun r => r.typ = t

/-! ### Legal payloads -/

/-- Endpoints of HOST_PORTS in its order, as `FnCfg.endpoint` numbers them: 0 A or A0, 1 A1, 2 B or B0, 3 B1. -/
def endpointsOf (p : Bytes) : List Nat :=
  (if fieldAt p 0 1 = 1 then [0, 1] else [0]) ++ (if fieldAt p 1 1 = 1 then [2, 3] else [2])

/-- Endpoint, TOTAL_VFS, FN_BASE, MSIX_PF, MSIX_PER_VF of each entry. -/
def portEntries (p : Bytes) : List (Nat × Nat × Nat × Nat × Nat) :=
  (endpointsOf p).zipIdx.map fun x =>
    let e := slice p (8 + 8 * x.2) 8
    (x.1, fieldAt e 0 2, fieldAt e 2 1, fieldAt e 4 2, fieldAt e 6 2)

/-- HOST_PORTS (R36, R37, R41): function indices 0 to 255, each once, FN 0 the first endpoint's; at most 2,048 vectors. -/
def hostPortsOk (p : Bytes) : Bool :=
  let es := portEntries p
  let fns := es.flatMap fun e => (List.range (e.2.1 + 1)).map (e.2.2.1 + ·)
  fieldAt p 0 1 ≤ 1 && fieldAt p 1 1 ≤ 1 && p.length = 8 + 8 * es.length && fieldAt p 2 6 = 0
    && es.zipIdx.all (fun x => fieldAt p (8 + 8 * x.2 + 3) 1 = 0)
    && (es.headD (0, 0, 1, 0, 0)).2.2.1 = 0 && es.all (fun e => e.2.1 + e.2.2.1 ≤ 255) && fns.eraseDups.length = fns.length
    && (es.map fun e => e.2.2.2.1 + e.2.1 * e.2.2.2.2).sum ≤ 2048

/-- MEDIA_PROFILE (R171, R197). -/
def mediaOk (p : Bytes) : Bool :=
  p.length = 8 && 1 ≤ fieldAt p 4 1 && fieldAt p 4 1 ≤ 8 && fieldAt p 5 1 % 2 = 0 && fieldAt p 6 2 = 1

/-- Members of a WARP_GROUP record: DEVICE_ID and PORT. -/
def membersOf (p : Bytes) : List (Nat × Nat) :=
  (List.range (fieldAt p 2 1 + fieldAt p 3 1)).map fun i => (fieldAt p (16 + 4 * i) 2, fieldAt p (18 + 4 * i) 1)

/-- A WARP_GROUP record by itself (R355, R356); `own`: the part's DEVICE_ID. -/
def groupOk (own : Nat) (p : Bytes) : Bool :=
  let k := fieldAt p 2 1
  let m := fieldAt p 3 1
  let f := fieldAt p 4 1
  let lead := fieldAt p 8 2
  let ms := membersOf p
  1 ≤ k && k ≤ 62 && 2 ≤ m && m ≤ 4 && 3 ≤ k + m && k + m ≤ 64 && (f = 0 || (k + 1 ≤ f && f ≤ k + m)) && fieldAt p 5 1 ≤ 7
    && fieldAt p 7 1 ≤ 1 && (lead = 0 || (250 ≤ lead && lead ≤ 10000)) && fieldAt p 12 4 = 0 && p.length = 16 + 4 * (k + m)
    && (List.range (k + m)).all (fun i => fieldAt p (19 + 4 * i) 1 = 0) && ms.all (fun x => x.2 < 32)
    && ms.all (fun x => (ms.filter fun y => y.1 = x.1).length ≤ 32)
    && (bitOf (fieldAt p 7 1) 0 == ms.any fun x => x.1 != own)

/-- SPEED_STEPS (R214): 16 speeds that rise strictly. -/
def risingSteps : List Nat → Bool
  | a :: c :: t => a < c && risingSteps (c :: t)
  | _ => true
def speedsOf (p : Bytes) : List Nat := (List.range 16).map fun i => fieldAt p (2 * i) 2
def speedsOk (p : Bytes) : Bool :=
  p.length = 32 && risingSteps (speedsOf p) && (speedsOf p).all fun v => 2000 ≤ v && v ≤ 10000

/-- Candidates of a fabric record: DEVICE_ID and PRIORITY. -/
def candsOf (p : Bytes) : List (Nat × Nat) :=
  (List.range (min 4 (fieldAt p 9 1))).map fun i => (fieldAt p (12 + 4 * i) 2, fieldAt p (14 + 4 * i) 1)

/-- FABRIC (R460). -/
def fabricOk (p : Bytes) : Bool :=
  let lim (o lo hi : Nat) : Bool := fieldAt p o 2 = 0 || (lo ≤ fieldAt p o 2 && fieldAt p o 2 ≤ hi)
  let cs := candsOf p
  p.length = 28 && 1 ≤ fieldAt p 0 2 && fieldAt p 0 2 ≤ 65534 && 1 ≤ fieldAt p 2 2 && lim 4 10 1000 && lim 6 1 1000
    && fieldAt p 8 1 ≤ 3 && fieldAt p 9 1 ≤ 4 && fieldAt p 10 2 = 0
    && (List.range cs.length).all (fun i => fieldAt p (15 + 4 * i) 1 = 0) && cs.all (fun c => 1 ≤ c.2 && c.2 ≤ 4)
    && (cs.map Prod.snd).eraseDups.length = cs.length

/-- WARDEN_RULES (R553 to R555). -/
def wardenOk (p : Bytes) : Bool :=
  p.length = 480
    && (List.range 16).all (fun c => bitsOf (fieldAt p (2 * c) 1) 3 4 < 10 && fieldAt p (2 * c + 1) 1 < 8)
    && (List.range 32).all fun r =>
        let e := slice p (32 + 12 * r) 12
        let th := toS 32 (fieldAt e 4 4)
        fieldAt e 0 1 = 0xFF || (fieldAt e 0 1 < 16 && fieldAt e 1 1 < 16 && fieldAt e 1 1 % 8 ≤ 4 && 1 ≤ fieldAt e 2 1
          && fieldAt e 3 1 ≤ 4 && -8388608 ≤ th && th ≤ 8388607 && fieldAt e 8 4 < 2 ^ 24)

/-- Entries of a REGISTER record: BAR0 address and value. -/
def regEntries (p : Bytes) : List (Nat × Nat) :=
  (List.range (p.length / 12)).map fun i => (fieldAt p (12 * i) 1 * 0x10000000 + fieldAt p (12 * i + 4) 4, fieldAt p (12 * i + 8) 4)

/-- REGISTER (R507): whole entries that name registers with RW or RWL fields; R_MAX of CLE_RADIUS_RANGE lies above R_MIN. -/
def registersOk (p : Bytes) : Bool :=
  p.length % 12 = 0 && (List.range (p.length / 12)).all fun i =>
    let e := slice p (12 * i) 12
    let a := fieldAt e 0 1 * 0x10000000 + fieldAt e 4 4
    fieldAt e 0 1 ≤ 1 && fieldAt e 1 3 = 0 && fieldAt e 4 4 < 0x10000000 && match regAt a with
      | some (d, _) =>
        d.place != .fn && d.fields.any (fun f => f.acc = .rw || f.acc = .rwl || f.acc = .rwTune || f.acc = .rwEdge)
          && !(d.place = .slice && d.base = 0x50018 && bitsOf (fieldAt e 8 4) 16 16 ≤ bitsOf (fieldAt e 8 4) 0 16)
      | none => false

/-- The part's own DEVICE_ID under the image's fabric record; 0 without one. -/
def imageDev (rs : List BRec) : Nat := match ofType rs 0x12 with | r :: _ => fieldAt r.body 0 2 | [] => 0

/-- The speed steps as the image leaves them still rise (R214). -/
def finalSteps (rs : List BRec) : Bool :=
  let base := match ofType rs 0x11 with | r :: _ => speedsOf r.body | [] => (List.range 16).map fun i => resetVal (Reg.WEAVE_SPEED_STEP i) % 2 ^ 14
  let es := (ofType rs 0x40).flatMap fun r => regEntries r.body
  risingSteps (es.foldl (fun l e => l.zipIdx.map fun x => if e.1 = Reg.WEAVE_SPEED_STEP x.2 then e.2 % 2 ^ 14 else x.1) base)

/-- The part keeps a group that holds a member of its own, or that it may be manager of (R356). -/
def keptGroup (rs : List BRec) (p : Bytes) : Bool :=
  (membersOf p).any (fun x => x.1 = imageDev rs)
    || (bitOf (fieldAt p 7 1) 0 && (ofType rs 0x12).any fun r => (candsOf r.body).any fun c => c.1 = imageDev rs)

/-- A record carries a legal payload and stands in the image as often as R507 allows; `past`: the records before it. -/
def recordOk (rs past : List BRec) (r : BRec) : Bool :=
  let first := (ofType past r.typ).isEmpty
  match r.typ with
  | 0x01 => first && hostPortsOk r.body
  | 0x03 => first && r.body.length = 8 && fieldAt r.body 4 4 < 8
  | 0x04 => first && mediaOk r.body
  | 0x10 =>
    let before := ofType past 0x10
    groupOk (imageDev rs) r.body && (membersOf r.body).eraseDups.length = (membersOf r.body).length
      && before.all (fun q => fieldAt q.body 0 2 != fieldAt r.body 0 2 && (membersOf q.body).all fun x => !(membersOf r.body).contains x)
      && ((before ++ [r]).filter fun q => keptGroup rs q.body).length ≤ 32 && before.length < 32
  | 0x11 => first && speedsOk r.body
  | 0x12 => first && fabricOk r.body
  | 0x40 => registersOk r.body
  | 0x50 => first && wardenOk r.body
  | _ => !r.critical

/-- The first record, if any, that breaks a rule. -/
def badRecord (rs : List BRec) : Option BRec :=
  (rs.zipIdx.find? fun x => !recordOk rs (rs.take x.2) x.1).map Prod.fst

/-! ### Validity of a copy (R506, R508) -/

/-- Records of a copy, and the offset of the first that does not parse. -/
def copyRecs (m : Bytes) : List BRec × Option Nat := parseRecs (fieldAt m 20 4) 128 (slice m 128 (fieldAt m 16 4))

/-- The check of a copy: 0 valid, else its code in BOOT_IMAGE_ERR; and the offset of its first failing record (R508). -/
def copyCheck (b : Block) (m : Bytes) : Nat × Nat :=
  let total := fieldAt m 12 4
  let t := total - 200
  if m.length < 128 ∨ slice m 0 8 ≠ [0x42, 0x45, 0x4E, 0x41, 0x4B, 0x49, 0x4D, 0x47] ∨ fieldAt m 8 2 ≠ 1 then (1, 0)
  else if fieldAt m 124 4 ≠ crc32c (slice m 0 124) ∨ total ≠ 128 + fieldAt m 16 4 + 200 ∨ 33554432 < total ∨ fieldAt m 16 4 % 8 ≠ 0
      ∨ m.length < total ∨ 64 < fieldAt m 10 2 then (2, 0)
  else if sha384 (slice m t 97) ≠ b.fuse.ownerKeyHash then (3, 0)
  else if !ecdsaVerify (slice m t 97) (sha384 (m.take (t + 104))) (slice m (t + 104) 96) then (4, 0)
  else if fieldAt m 10 2 < b.fuse.imageSvnMin then (5, 0)
  else if fieldAt m 24 8 ≠ 0 ∧ fieldAt m 24 8 ≠ b.fuse.serial then (6, 0)
  else
    let (rs, e) := copyRecs m
    match e with
    | some off => (7, off)
    | none => match badRecord rs with
      | some r => (7, r.at_)
      | none =>
        if (ofType rs 1).isEmpty || (ofType rs 3).isEmpty || (ofType rs 4).isEmpty || !finalSteps rs then (7, 0) else (0, 0)

/-! ### Application (R497 step 5, R507, R573) -/

/-- The functions of HOST_PORTS with their MSI-X table sizes (R37, R41). -/
def applyPorts (b : Block) (p : Bytes) : Block :=
  let fns := (portEntries p).flatMap fun e =>
    (e.2.2.1, ({ endpoint := e.1, msix := e.2.2.2.1, pf := e.2.2.1 } : FnCfg))
      :: (List.range e.2.1).map fun v => (e.2.2.1 + 1 + v, ({ endpoint := e.1, msix := e.2.2.2.2, pf := e.2.2.1, vf := v + 1 } : FnCfg))
  { b with hq := { b.hq with fns := fns.foldl (fun t x => tabSet {} t x.1 x.2) b.hq.fns }, boot := { b.boot with hostPorts := true } }

/-- A group taken into slot `slot` (R355): 0 in FLOOR, LATE_LIMIT and LEAD_US encodes the usual value. -/
def applyGroup (b : Block) (slot : Nat) (p : Bytes) : Block :=
  let k := fieldAt p 2 1
  let m := fieldAt p 3 1
  let floor := if fieldAt p 4 1 = 0 then k + m - 1 else fieldAt p 4 1
  let late := if fieldAt p 6 1 = 0 then 8 else fieldAt p 6 1
  let lead := if fieldAt p 8 2 = 0 then 250 else fieldAt p 8 2
  let b := b.updGrp slot fun q => { q with
    valid := true, number := fieldAt p 0 2, k := k, m := m, cross := bitOf (fieldAt p 7 1) 0,
    members := (membersOf p).map fun x => ({ dev := x.1, port := x.2 } : Member) }
  let b := wr (wr (wr b (Fld.WEAVE_GROUP_CFG_FLOOR slot) floor) (Fld.WEAVE_GROUP_CFG_GRACE slot) (fieldAt p 5 1))
    (Fld.WEAVE_GROUP_CFG_LATE_LIMIT slot) late
  setSm (wr (wr b (Fld.WEAVE_GROUP_TIMING_LEAD slot) lead) (Fld.WEAVE_GROUP_TIMING_RETAIN slot) (fieldAt p 10 2)) slot 2

/-- The fabric record (R460): 0 in SKEW_LIMIT and HOLDOVER_PPB encodes the usual value. -/
def applyFabric (b : Block) (p : Bytes) : Block :=
  let b := wr (wr b Fld.SHUT_ID_DEVICE_ID (fieldAt p 0 2)) Fld.SHUT_ID_FABRIC_ID (fieldAt p 2 2)
  let b := wr b Fld.TIME_CTRL_SKEW_LIMIT (if fieldAt p 4 2 = 0 then 100 else fieldAt p 4 2)
  let b := wr b Fld.TIME_CTRL_HOLDOVER_PPB (if fieldAt p 6 2 = 0 then 50 else fieldAt p 6 2)
  let b := wr (wr b Fld.TIME_CTRL_REF_EN (fieldAt p 8 1 % 2)) Fld.TIME_CTRL_PPS_EN (fieldAt p 8 1 / 2)
  b.updFab fun f => { f with cands := candsOf p }

/-- The warden's channels and rules (R555); with no record every channel is disabled and every rule unused. -/
def applyWarden (b : Block) (p : Option Bytes) : Block :=
  let d := p.getD []
  let b := forEach (List.range 16) b fun b c => regPut b (Reg.WARD_CH_CFG c) (fieldAt d (2 * c) 2)
  let b := forEach (List.range 32) b fun b r =>
    let e := slice d (32 + 12 * r) 12
    let ch := if p.isSome then fieldAt e 0 1 else 0xFF
    let b := regPut b (Reg.WARD_RULE r 0) (pack [(ch, 0), (fieldAt e 1 1 % 8, 8), (fieldAt e 1 1 / 8 % 2, 11), (fieldAt e 2 1, 12), (fieldAt e 3 1 % 8, 20)])
    regPut (regPut b (Reg.WARD_RULE r 1) (fieldAt e 4 4)) (Reg.WARD_RULE r 2) (fieldAt e 8 4 % 2 ^ 24)
  { b with ward := { b.ward with rules := [], fir := (List.range 32).map fun i => toS 16 (fieldAt d (416 + 2 * i) 2) } }

/-- A REGISTER entry is applied. The link enables it sets are carried out at steps 10 and 11 (R497); the coefficients that R325
guards in service are taken as given. -/
def imageWrite (b : Block) (x : Nat × Nat) : Block :=
  match regAt x.1 with
  | none => b
  | some (d, ix) =>
    if (d.place = .slice ∧ d.base = 0x10000 ∨ d.place = .both ∧ d.base = 0x701100) ∧ bitOf x.2 0 then
      { b with boot := { b.boot with links := b.boot.links.filter (fun y => y.1 ≠ x.1) ++ [x] } }
    else if d.place = .slice ∧ (d.base / 0x10 = 0x5100 ∨ d.base = 0x54000) then writeFields b x.1 x.2 true
    else regWrite { b with boot := { b.boot with links := b.boot.links.filter (fun y => y.1 ≠ x.1) } } x.1 x.2 d ix

/-- An image is applied: its structured records, then its REGISTER entries in order. -/
def applyImage (b : Block) (rs : List BRec) : Block :=
  let b := forEach (ofType rs 1) b fun b r => applyPorts b r.body
  let b := forEach (ofType rs 3) b fun b r => wr (regPut b Reg.CIPH_NONCE_PREFIX (fieldAt r.body 0 4)) Fld.CIPH_ALARM_MASK_LOCKSTEP (fieldAt r.body 4 1 % 2)
  let b := forEach (ofType rs 3) b fun b r =>
    wr (wr b Fld.CIPH_ALARM_MASK_FORMAT_PATH (fieldAt r.body 4 1 / 2 % 2)) Fld.CIPH_ALARM_MASK_TIME_ERROR (fieldAt r.body 4 1 / 4 % 2)
  let b := forEach (ofType rs 4) b fun b r =>
    let w := if fieldAt r.body 5 1 = 0 then 256 else fieldAt r.body 5 1
    { b with cons := { b.cons with profile := (fieldAt r.body 0 4, fieldAt r.body 4 1, w) } }
  let b := forEach (ofType rs 0x12) b fun b r => applyFabric b r.body
  let b := forEach (((ofType rs 0x10).filter fun r => keptGroup rs r.body).zipIdx) b fun b x => applyGroup b x.2 x.1.body
  let b := forEach (ofType rs 0x11) b fun b r =>
    forEach ((speedsOf r.body).zipIdx) b fun b x => wr b (Fld.WEAVE_SPEED_STEP_SPEED x.2) x.1
  let b := applyWarden b ((ofType rs 0x50).head?.map (·.body))
  forEach ((ofType rs 0x40).flatMap fun r => regEntries r.body) b imageWrite

/-! ### BENAK_READ (R502, R508, R512) -/

/-- A valid copy is used: PCR 4 and 5, IMAGE_SVN, and what it says. -/
def useImage (b : Block) (copy : Nat) (m : Bytes) : Block :=
  let m := m.take (fieldAt m 12 4)
  let b := measure48 b 4 m
  let b := measure48 b 5 (slice m (fieldAt m 12 4 - 200) 97 ++ leB 2 (fieldAt m 10 2) ++ leB 1 copy)
  let b := wr (wr b Fld.BOOT_STATE_IMAGE_COPY copy) Fld.BOOT_SVN_IMG (fieldAt m 10 2)
  hostLinks (applyImage { b with boot := { b.boot with image := true, imageSvn := fieldAt m 10 2 } } (copyRecs m).1)

/-- Both copies are read and checked, and the one with the higher IMAGE_SVN is used; with none the part enters configuration
recovery, as it does after 3 watchdog resets. -/
def benakRead (b : Block) (m0 m1 : Bytes) : Block :=
  if bootState b ≠ 1 ∨ b.boot.image then b
  else if 3 ≤ b.boot.dogs then stopBoot b 5 5
  else
    let size (m : Bytes) (e : Nat) : Nat := if e = 1 ∨ e = 2 then 128 else fieldAt m 12 4
    let c0 := copyCheck b m0
    let c1 := copyCheck b m1
    let b := emit (emit b (.spiRead 0 (size m0 c0.1))) (.spiRead 0x2000000 (size m1 c1.1))
    let second := c1.1 ≠ 1 ∧ (c0.1 = 1 ∨ fieldAt m0 10 2 < fieldAt m1 10 2)
    let b := wr (wr b Fld.BOOT_IMAGE_ERR_ERR0 c0.1) Fld.BOOT_IMAGE_ERR_ERR1 c1.1
    let b := wr b Fld.BOOT_IMAGE_ERR_REC_OFFSET ((if second then c1.2 else c0.2) / 8)
    if c1.1 = 0 ∧ (c0.1 ≠ 0 ∨ fieldAt m0 10 2 < fieldAt m1 10 2) then useImage b 1 m1
    else if c0.1 = 0 then useImage b 0 m0
    else stopBoot b 5 4

end Sys2Proof.Machine
end

