-- ==== Sys2Proof/Machine/WardOps.lean ====
section
/-!
DEFINITION. Sys2Proof/Machine/WardOps.lean: the warden: DORMANT and wake, the sensor converter and its rules, tamper alarms and
their clearing, and the I2C target (spec/21_warden.md R544 to R562; spec/16_beam_store.md R440; spec/23_package_electrical.md R592).
Pins: 12 WARD_ALERT_N, 13 WARD_PWR_EN.
-/

namespace Sys2Proof.Machine

def Block.updWard (b : Block) (f : Warden → Warden) : Block := { b with ward := f b.ward }

/-! ### Log (R562) -/

/-- A warden event is logged: in DORMANT and while waking in the warden's memory, otherwise on page 0x0130. -/
def wardLog (b : Block) (code kind unit : Nat) (value : Int) : Block :=
  let e := leB 8 b.time.now ++ leB 2 code ++ leB 1 kind ++ leB 1 unit ++ leB 4 (ofS 32 value) ++ zeros 16
  let b := b.updWard fun w => { w with newest := (e :: w.newest).take 16 }
  if b.ward.power = .run then logAppend b 0x130 e else b.updWard fun w => { w with dormLog := w.dormLog ++ [e] }

/-- At wake the entries made during DORMANT are copied to the page. -/
def flushDormLog (b : Block) : Block :=
  forEach b.ward.dormLog (b.updWard fun w => { w with dormLog := [] }) fun b e => logAppend b 0x130 e

/-! ### DORMANT (R545 to R547, R592) -/

/-- No weft is launched and uncommitted. -/
def noneLaunched (b : Block) : Bool :=
  b.weave.groups.all fun (x : Nat × Grp) => x.2.wefts.all fun w =>
    w.state = .decided || w.state = .committed || w.state = .voided || w.state = .withdrawn

/-- No ledger record waits to become durable. -/
def noneWaits (b : Block) : Bool :=
  b.ledg.pages.all (fun (x : Nat × OpenPage) => x.2.recs.isEmpty) && b.ledg.dies.all fun (x : Nat × NDie) => x.2.prog.isEmpty

/-- The conditions of R545. -/
def mayDormant (b : Block) : Bool :=
  (List.range 32).all (fun p => portState b p = 0 || (portState b p = 1 && rdB b (Fld.SAFE_PORT_STATE_BRAKE (p / 16) (p % 16))))
    && (tabKeys b.hq.qps).all (fun k => qpIdle b (k / 1024) (k % 1024))
    && !((List.range 256).any fun fn => fnThere b fn && fnEnabled b fn) && noneLaunched b && noneWaits b

/-- DORMANT is requested. -/
def enterDormant (b : Block) : Block :=
  if !mayDormant b then wr b Fld.WARD_STATUS_REFUSED 1
  else
    let b := wardLog (beamSleep b) 0 5 0 0
    emit (b.updWard fun w => { w with power := .dormant, pwrEn := false, resume := true, dormantAt := b.time.now }) (.pin 13 false)

/-- WARD_ALERT_N is held low, or released. -/
def wardAlert (b : Block) (low : Bool) : Block :=
  if rdB b Fld.WARD_CTRL_ALERT = low then b else emit (wrB b Fld.WARD_CTRL_ALERT low) (.pin 12 !low)

/-- A write of WARD_CTRL: WAKE_AFTER, ALERT (W1C), DORMANT. -/
def writeWardCtrl (b : Block) (data : Nat) : Block :=
  let b := wr b Fld.WARD_CTRL_WAKE_AFTER (bitsOf data 2 30)
  let b := if bitOf data 1 then wardAlert b false else b
  if bitOf data 0 then enterDormant b else b

/-- A wake source in DORMANT (R547): WARD_PWR_EN rises. -/
def wake (b : Block) : Block :=
  if b.ward.power ≠ .dormant then b
  else emit (wardLog (b.updWard fun w => { w with power := .waking, pwrEn := true, wakeAt := b.time.now }) 0 4 0 0) (.pin 13 true)

/-- Power-good after a wake: the part resumes if the resume block is intact and the booted slot is unchanged, and is reset otherwise. -/
def powerGood (b : Block) (intact : Bool) : Block :=
  if b.ward.power ≠ .waking then b
  else
    let same := (slotVerify b (rd b Fld.BOOT_STATE_SLOT)).map sha384 = some b.boot.slotDigest
    if intact && b.ward.resume && !tampered b && same then
      flushDormLog (beamWake (b.updWard fun w => { w with power := .run, resume := false }))
    else flushDormLog (resetPart b 4 false)

/-- The wake timer has run out (R547). -/
def wakeTimer (b : Block) : Block :=
  let n := rd b Fld.WARD_CTRL_WAKE_AFTER
  if n ≠ 0 ∧ n * tS ≤ since b b.ward.dormantAt then wake b else b

/-- A rail is not in range 1 s after WARD_PWR_EN rose: back to DORMANT (R592; the entry's VALUE 1: DESIGN CHOICE, log entry 60). -/
def railTimeout (b : Block) : Block :=
  if b.ward.power ≠ .waking ∨ since b b.ward.wakeAt < tS then b
  else emit (wardLog (b.updWard fun w => { w with power := .dormant, pwrEn := false, dormantAt := b.time.now }) 0 4 0 1) (.pin 13 false)

/-! ### Tamper alarms (R556 to R560) -/

/-- The response to an alarm by the phase in which it falls (R558). -/
def tamperResponse (b : Block) : Block :=
  match b.ward.power with
  | .dormant =>
    let b := { b with ciph := { b.ciph with slots := [], keks := false }, boot := { b.boot with attKey := none } }
    wardAlert (b.updWard fun w => { w with resume := false }) true
  | .waking => b.updWard fun w => { w with resume := false }
  | .run => if b.boot.attKey.isSome then nameKeys (nameKeys b 0 true) 1 true else b

/-- A tamper alarm of a source, 1 to 12 as CAUSE counts them (R557). Sources 1 to 11 have enables. -/
def tamperAlarm (b : Block) (cause : Nat) : Block :=
  if cause ≤ 11 ∧ !bitOf (rd b Fld.WARD_TAMPER_EN_EN) (cause - 1) then b
  else
    let was := tampered b
    let old := rd b Fld.WARD_STATUS_CAUSE
    let b := wr (wr b Fld.WARD_STATUS_TAMPER 1) Fld.WARD_STATUS_CAUSE (if bitOf old (cause - 1) then old else old + 2 ^ (cause - 1))
    let b := b.updWard fun w => { w with count := if was then w.count else w.count + 1, writing := true }
    let b := wr b Fld.WARD_STATUS_TAMPER_COUNT (b.ward.count % 256)
    let b := forEach [0, 1] b fun b d => wr b (Fld.CIPH_ERASE_STATUS_TAMPER d) 1
    let b := if rd b Fld.WARD_CLR_CTRL_STATUS = 2 then wr b Fld.WARD_CLR_CTRL_STATUS 3 else b
    let b := wardLog b 0x6004 3 cause 0
    tamperResponse (if b.ward.power = .run then setEvent b 7 else b)

/-- The tamper record is in NVM (R557). -/
def recordWritten (b : Block) : Block :=
  b.updWard fun w => if w.writing then { w with writing := false, nvm := (true, rd b Fld.WARD_STATUS_CAUSE, w.count) } else w

/-- The bytes of the clear mailbox. -/
def clrData (b : Block) : Bytes := (List.range 49).flatMap fun w => leB 4 (regGet b (Reg.WARD_CLR_DATA w))

/-- What the owner signs to clear TAMPER (R559): "GVXTCLR", SERIAL, CHALLENGE, TAMPER_COUNT. -/
def clrMessage (b : Block) : Bytes :=
  [0x47, 0x56, 0x58, 0x54, 0x43, 0x4C, 0x52] ++ leB 8 b.fuse.serial ++ b.ward.challenge.getD [] ++ leB 4 b.ward.count

/-- A write of WARD_CLR_CTRL: with GO, the authorized clear (R559). -/
def tamperClear (b : Block) (data : Nat) : Block :=
  if !bitOf data 0 ∨ bootState b ≠ 6 ∨ rd b Fld.BOOT_STATE_RESET_CAUSE ≠ 0 ∨ 4 ≤ b.ward.clrFails ∨ b.ward.challenge.isNone then b
  else
    let d := clrData b
    if sha384 (slice d 0 97) = b.fuse.ownerKeyHash
        ∧ ecdsaVerify (slice d 0 97) (sha384 (clrMessage b)) (slice d 97 96) ∧ !b.ward.writing then
      wardLog (wr (b.updWard fun w => { w with nvm := (false, 0, w.count) }) Fld.WARD_CLR_CTRL_STATUS 2) 0 6 0 0
    else wr (b.updWard fun w => { w with clrFails := w.clrFails + 1 }) Fld.WARD_CLR_CTRL_STATUS 3

/-- VAON out of bounds, or the core rail low outside DORMANT, for more than 1 µs (R556). -/
def voltageTamper (b : Block) (core : Bool) (nanos : Nat) : Block :=
  if 1000 < nanos && (!core || b.ward.power = .run) then tamperAlarm b 9 else b

/-! ### Decision rules (R553, R554) -/

/-- Take an action: for a rule that fired (KIND 1), or an input found OPEN (KIND 2). -/
def wardAct (b : Block) (code kind unit : Nat) (value : Int) : Block :=
  match code with
  | 1 => wardLog b 0 kind unit value
  | 2 => wake (wardLog b 0 kind unit value)
  | 3 =>
    let b := wardAlert (wardLog b 0 kind unit value) true
    wake (if b.ward.power = .run then setEvent b 5 else b)
  | 4 => tamperAlarm b 12
  | _ => b

/-- A rule meets a result of its channel. -/
def ruleResult (b : Block) (r ch : Nat) (value : Int) (valid isOpen : Bool) : Block :=
  let s : RuleSt := tabGet {} b.ward.rules r
  let set (b : Block) (x : RuleSt) : Block := b.updWard fun w => { w with rules := tabSet {} w.rules r x }
  let th := rdS b (Fld.WARD_RULE_THRESHOLD r)
  let hy : Int := rd b (Fld.WARD_RULE_HYST r)
  let below := rdB b (Fld.WARD_RULE_BELOW r)
  let beyond : Bool := if below then value < th else th < value
  let back : Bool := if below then th + hy < value else value < th - hy
  if isOpen then
    if s.opened then b else wardAct (set b { s with opened := true, count := 0 }) (rd b (Fld.WARD_RULE_OPEN_ACTION r)) 2 ch value
  else if !valid then set b { s with opened := false }
  else if beyond then
    let n := s.count + 1
    if !s.fired && rd b (Fld.WARD_RULE_COUNT r) ≤ n then
      wardAct (set b { count := n, fired := true, opened := false }) (rd b (Fld.WARD_RULE_ACTION r)) 1 r value
    else set b { s with count := n, opened := false }
  else set b { count := 0, fired := s.fired && !back, opened := false }

/-! ### The converter (R548 to R551) -/

def Block.wardCh (b : Block) (c : Nat) : WardCh := tabGet {} b.ward.chans c
def Block.updWardCh (b : Block) (c : Nat) (f : WardCh → WardCh) : Block :=
  b.updWard fun w => { w with chans := tabUpd {} w.chans c f }

/-- Invalid conversions after a change: 3 with sinc3 alone, 5 with FIR. -/
def settleOf (cfg : Nat) : Nat := if bitOf cfg 7 then 5 else 3

/-- An input's window comparator at a boundary (R551): OPEN from the second boundary near a rail to the second inside. An input
without burnout current is never OPEN (R552). -/
def windowSample (x : WardCh) (near : Bool) : WardCh :=
  let n := if near then min 2 (x.near + 1) else 0
  let c := if near then 0 else min 2 (x.clear + 1)
  { x with near := n, clear := c, isOpen := bitsOf x.cfg 8 2 ≠ 0 && (n = 2 || (x.isOpen && c < 2)) }

/-- The channel converted after channel `c`: the next enabled one in ascending order, round to the lowest. -/
def nextChannel (b : Block) (c : Nat) : Option Nat :=
  let on := (List.range 16).filter fun k => bitOf (b.wardCh k).cfg 10
  (on.find? fun k => c < k).orElse fun _ => on.head?

/-- The channel's settings are taken from its register; whether GAIN, RATE, FIR or BURNOUT changed. -/
def takeCfg (b : Block) (c : Nat) : Bool × Block :=
  let v := regGet b (Reg.WARD_CH_CFG c) % 2 ^ 11
  (v % 2 ^ 10 ≠ (b.wardCh c).cfg % 2 ^ 10, b.updWardCh c fun x => { x with cfg := v })

/-- A conversion boundary (R549 to R551): the result of the conversion that ends, the rules on it, and the next conversion.
`near` bit c: a pin of input c lies within 0.1 V of VAON or ground. -/
def conversion (b : Block) (value : Int) (near : Nat) : Block :=
  let was (c : Nat) : Bool := (b.wardCh c).isOpen
  let wasOpen := (List.range 16).map was
  let b := forEach (List.range 16) b fun b c => b.updWardCh c fun x => windowSample x (bitOf near c)
  let (done, b) := match b.ward.cur with
    | none => (true, b)
    | some c =>
      let o := (b.wardCh c).isOpen
      let valid := b.ward.settle = 0 && !o
      let v := clampI (-8388608) 8388607 value
      let b := wrB (wrB (wr (wrS b (Fld.WARD_RESULT_VALUE c) v) (Fld.WARD_RESULT_SETTLE c) b.ward.settle) (Fld.WARD_RESULT_VALID c) valid)
        (Fld.WARD_RESULT_OPEN c) o
      let b := b.updWard fun w => { w with settle := w.settle - 1 }
      (valid, forEach ((List.range 32).filter fun r => rd b (Fld.WARD_RULE_CHANNEL r) = c) b fun b r => ruleResult b r c v valid o)
  let changed := match b.ward.cur with | some c => (takeCfg b c).1 | none => false
  let b := forEach (List.range 16) b fun b c => (takeCfg b c).2
  let c0 := b.ward.cur.getD 16
  let keep := !done && bitOf (b.wardCh c0).cfg 10
  let next := if keep then some c0 else nextChannel b c0
  match next with
  | none => b.updWard fun w => { w with cur := none, settle := 0 }
  | some c =>
    let reopened := wasOpen.getD c false && !(b.wardCh c).isOpen
    let fresh := b.ward.cur ≠ some c || changed || reopened
    b.updWard fun w => { w with cur := some c, settle := if fresh then settleOf (b.wardCh c).cfg else w.settle }

/-! ### I2C (R521, R561) -/

/-- Power state as I2C shows it: 0 RUN, 1 IDLE, 2 DORMANT, 3 waking. -/
def powerCode (b : Block) : Nat :=
  match b.ward.power with
  | .run => bitsOf (regValue b (Reg.SYS_POWER 0)) 0 2
  | .dormant => 2
  | .waking => 3

/-- The byte at a pointer; 0x00 where none is mapped. -/
def i2cByte (b : Block) (p : Nat) : Byte :=
  let p := p % 65536
  let w := b.ward
  if p = 0 then BitVec.ofNat 8 (powerCode b)
  else if p = 1 then BitVec.ofNat 8 (b2n (tampered b))
  else if p = 2 then BitVec.ofNat 8 (rd b Fld.WARD_STATUS_CAUSE)
  else if p = 3 then BitVec.ofNat 8 (bootState b)
  else if 0x10 ≤ p ∧ p < 0x50 then BitVec.ofNat 8 (regValue b (Reg.WARD_RESULT ((p - 0x10) / 4)) / 2 ^ (8 * (p % 4)))
  else if p = 0x220 then BitVec.ofNat 8 w.quoteState
  else if 0x300 ≤ p ∧ p < 0x3E0 then w.quote.getD (p - 0x300) 0
  else if 0x400 ≤ p ∧ p < 0x600 then (w.newest.getD ((p - 0x400) / 32) []).getD (p % 32) 0
  else 0

/-- A quote is requested with the PCR_SELECT and CHALLENGE written before (R521): not ready in DORMANT and before step 8, and pending
while a reseed of the DRBG is due (R163). -/
def i2cQuote (b : Block) (value : Nat) : Block :=
  let b := b.updWard fun w => { w with request := (w.request ++ zeros 21).take 20 ++ leB 1 value }
  if value ≠ 1 then b
  else if b.ward.power ≠ .run ∨ !quoteReady b then b.updWard fun w => { w with quoteState := 3 }
  else
    if !drbgOk b then b.updWard fun w => { w with quoteState := 1 }
    else
      let (q, b) := quote b (fieldAt b.ward.request 0 3) 2 (slice b.ward.request 4 16)
      b.updWard fun w => { w with quote := q, quoteState := 2 }

/-- Write a byte at the pointer; false where it is NAKed. -/
def i2cWrite (b : Block) (v : Byte) : Bool × Block :=
  let p := b.ward.ptr
  let ok := p = 0x100 || (0x200 ≤ p && p < 0x215)
  let b := if p = 0x100 ∧ v = 1 then wake b
    else if p = 0x214 then i2cQuote b v.toNat
    else if 0x200 ≤ p ∧ p < 0x214 then b.updWard fun w => { w with request := (w.request ++ zeros 21).take 21 |>.set (p - 0x200) v }
    else b
  (ok, if ok then b.updWard fun w => { w with ptr := (p + 1) % 65536 } else b)

/-- Write bytes until one is NAKed. -/
def i2cWrites (b : Block) : Bytes → Block
  | [] => b
  | v :: t => let (ok, b) := i2cWrite b v; if ok then i2cWrites b t else b

/-- A transfer: two bytes of pointer, bytes written there, then bytes read from where the pointer stands. -/
def i2cTransfer (b : Block) (bytes : Bytes) (reads : Nat) : Block :=
  if bytes.length < 2 then b
  else
    let b := i2cWrites (b.updWard fun w => { w with ptr := fieldAt bytes 0 2 }) (bytes.drop 2)
    let p := b.ward.ptr
    if reads = 0 then b
    else emit (b.updWard fun w => { w with ptr := (p + reads) % 65536 }) (.i2cData ((List.range reads).map fun i => i2cByte b (p + i)))

end Sys2Proof.Machine
end

