-- ==== Sys2Proof/Machine/SysOps.lean ====
section
/-!
DEFINITION. Sys2Proof/Machine/SysOps.lean: register accesses from outside, the management event, core exceptions, and lands of the
die (spec/22_registers.md R567 to R579; spec/23_package_electrical.md R591, R601, R604). Pin 11: THERMTRIP_N.
-/

namespace Sys2Proof.Machine

/-! ### Management event (R576) -/

/-- A write of SYS_EVENT or SYS_EVENT_EN that leaves an enabled event set sends one message; where none was set before it, the
message is that of the change, sent as the step settles. -/
def afterEventWrite (before b : Block) : Block := if eventsOn b && eventsOn before then eventMsg b else b

/-- A write of SYS_EVENT: W1C. -/
def writeEvent (b : Block) (data : Nat) : Block := afterEventWrite b (writeFields b Reg.SYS_EVENT data)

/-- A write of SYS_EVENT_EN. -/
def writeEventEn (b : Block) (data : Nat) : Block := afterEventWrite b (writeFields b Reg.SYS_EVENT_EN data)

/-! ### Register writes (R10, R567, R568, R570) -/

/-- A write that has reached its register. -/
def routeWrite (b : Block) (addr data : Nat) (d : RegDesc) (ix : List Nat) : Block :=
  match d.place, d.base with
  | .n, 0x20 => writeEvent b data           -- SYS_EVENT
  | .n, 0x24 => writeEventEn b data         -- SYS_EVENT_EN
  | .n, 0xA00004 => writeWardCtrl b data    -- WARD_CTRL
  | .n, 0xA0000C => tamperClear b data      -- WARD_CLR_CTRL
  | .n, 0xB00004 => writeBootCtrl b data    -- BOOT_CTRL
  | .n, 0xB00140 => writeExtCtrl b data     -- BOOT_EXT_CTRL
  | .n, 0xB00260 => writeProvCtrl b data    -- BOOT_PROV_CTRL
  | .n, 0xB00300 => writeRcvCtrl b data     -- BOOT_RCV_CTRL
  | _, _ => regWrite b addr data d ix

/-- A write from a requester: `enables` are the byte enables of the dword (R568). Addresses from 2^32 on stand for the
configuration space and MSI-X table of function (addr − 2^32) / 2^16, outside BAR0 (DESIGN CHOICE, log entry 136). A write to RWL fields after CONFIG_LOCK leaves them
and is counted (R10). -/
def regAccess (b : Block) (who addr enables data : Nat) : Block :=
  let addr := addr / 4 * 4
  if 2 ^ 32 ≤ addr then (if who = 0 ∧ addr < 2 ^ 32 + 2 ^ 24 then cfgWrite b ((addr - 2 ^ 32) / 65536) (addr % 65536) data else b)
  else if awayS b who addr then inc b (Fld.SYS_D2D_FORWARD_ABORT 0)
  else match regFor b who addr with
    | none => inc b (Fld.SYS_ERR_BAD_ACCESS (countDie b addr))
    | some (d, ix) =>
      if enables ≠ 15 then inc b (Fld.SYS_ERR_BAD_ACCESS (countDie b addr))
      else
        let b := if configLocked b ∧ hasRwl d then inc b (Fld.SYS_ERR_LOCKED_WRITE (countDie b addr)) else b
        routeWrite b addr data d ix

/-- A write from the host of the whole register at `addr`, whose effect is `f`: `there` says that the register is on its page. -/
def hostWrites (b : Block) (addr : Nat) (f : Block → Block) (there : Bool := true) : Block :=
  if awayS b 0 addr then inc b (Fld.SYS_D2D_FORWARD_ABORT 0)
  else if decodes b 0 addr && there then f b
  else inc b (Fld.SYS_ERR_BAD_ACCESS (countDie b addr))

/-- Data of a write that sets bit `i`, and of one that clears it. -/
def withBit (data : Word) (i : Nat) : Nat := setBits data.toNat i 1 1
def withoutBit (data : Word) (i : Nat) : Nat := setBits data.toNat i 1 0

/-- A read from a requester: the value goes out. -/
def regRead (b : Block) (who addr : Nat) : Block :=
  let (v, b) := readReg b who (addr / 4 * 4)
  emit b (.regData v)

/-! ### Core exceptions (R579) -/

/-- A core restarts its task: 0 the loom core of a slice, 1 the host queue core, 2 a system core. A write run on the slice's port
ends (R250, R293). -/
def coreException (b : Block) (die core slice counter : Nat) : Block :=
  if !dieUp b die then b
  else match core with
    | 0 =>
      let p := 16 * die + slice
      let b := inc (internalError b die (0x10 + slice) 0xFFFF 9 counter) (Fld.LOOM_CORE_RESTARTS p)
      if writing b p then endRunNow b p else b
    | 1 => internalError b die 1 0xFFFF 9 counter
    | _ => internalError b die 0 0xFFFF 9 counter

/-! ### Lands (R591, R601, R604) -/

/-- A junction sensor reads `temp` tenths of a degree: from 112 °C THERMTRIP_N and FAULT_N go low. -/
def thermtrip (b : Block) (die : Nat) (temp : Int) : Block :=
  let b := wrS b (Fld.SYS_TEMP_TJ die) (clampI (-32768) 32767 temp)
  let b := if rdS b (Fld.SYS_TEMP_TJ_MAX die) < rdS b (Fld.SYS_TEMP_TJ die) then wr b (Fld.SYS_TEMP_TJ_MAX die) (rd b (Fld.SYS_TEMP_TJ die)) else b
  if temp < 1120 then b
  else raiseFault (emit { b with lands := { b.lands with therm := true } } (.pin 11 false)) die 0

/-- VID code of a die: 10 from release (R591). -/
def vidOf (b : Block) (die : Nat) : Nat := tabGet 10 b.lands.vid die

/-- A die moves its VID code by one step: from 1 ms after release, at most once every 10 µs, codes 0 to 30. -/
def vidStep (b : Block) (die : Nat) (up : Bool) : Block :=
  let v := vidOf b die
  let last := tabGet 0 b.lands.vidAt die
  if since b b.boot.since < tMs ∨ (last ≠ 0 ∧ since b last < 10 * tUs) ∨ (up ∧ 30 ≤ v) ∨ (!up ∧ v = 0) then b
  else
    let n := if up then v + 1 else v - 1
    let l := b.lands
    let b := { b with lands := { l with vid := tabSet 10 l.vid die n, vidAt := tabSet 0 l.vidAt die b.time.now } }
    wr b (Fld.SYS_POWER_VCORE die) (700 + 5 * n)

/-- A TAP instruction: 0 BYPASS, 1 SAMPLE/PRELOAD, 2 EXTEST; an owned part has BYPASS alone. EXTEST drives SAFE_STOP_N and FAULT_N low
while it stays selected. -/
def tapInstruction (b : Block) (inst : Nat) : Block :=
  let ext : Bool := inst = 2 && b.fuse.lifecycle = 0
  if ext == b.lands.extest then b
  else
    let b := { b with lands := { b.lands with extest := ext } }
    if ext then
      let b := forEach (List.range 32) (emit b (.pin 10 false)) fun b p => emit (hardStop b p) (.pin (100 + p) false)
      forEach [0, 1] b fun b d => wr b (Fld.SAFE_STATUS_FAULT_N_IN d) 0
    else if faultNLow b then b
    else
      let b := forEach (List.range 32) (emit b (.pin 10 true)) fun b p => emit b (.pin (100 + p) (portState b p ≠ 0))
      forEach (List.range 32) (forEach [0, 1] b fun b d => wr b (Fld.SAFE_STATUS_FAULT_N_IN d) 1) leaveHard

end Sys2Proof.Machine
end

