-- ==== Sys2Proof/Machine/AcceptOps.lean ====
section
/-!
DEFINITION. Sys2Proof/Machine/AcceptOps.lean: the dispatch of a fetched entry: its checks, holds and acceptance, and what each
opcode does once accepted (spec/02_host_queues.md R39, R53 to R66; spec/03_ingest.md R77, R82 to R86; spec/06_sealing.md R150;
spec/12_track_following_cle.md R326, R329; spec/18_ledger_flash.md R489; spec/19_boot_trust.md R498, R499, R512;
spec/22_registers.md R577, R578).
-/

namespace Sys2Proof.Machine

/-! ### Checks of a dispatched entry -/

/-- The command changes tape, and a FAILED ledger refuses it (R489). -/
def needsLedger (e : Sqe) : Bool :=
  [1, 3, 4, 0x10, 0x21, 0x22].contains e.opcode || (e.opcode = 0x20 && bitOf e.param0 16) || (e.opcode = 0x51 && bitOf e.param1 0)

/-- R53 and R82: the command does not fit the stream's state. -/
def sequenceBad (b : Block) (e : Sqe) : Bool :=
  let obj := (b.stream (slotOfHandle e.handle)).obj
  match e.opcode with
  | 2 => obj.isSome
  | 3 => obj.isSome
  | 4 => match obj with | none => true | some o => 4294967295 ≤ (b.obj o).records
  | 5 => obj.isNone
  | 7 => match obj with | none => true | some o => (b.obj o).objectId != slice e.objectId 0 16
  | _ => false

/-- OPEN_STREAM's checks 2 to 4 (R77): status and DETAIL of the first that fails. -/
def openStreamFault (b : Block) (t : Nat) (e : Sqe) : Option (Nat × Nat) :=
  let slot := bitsOf e.param0 20 12
  if (groupSlot b (bitsOf e.param0 0 16)).isNone then some (0x1002, 40)
  else if !inRange b t slot || (b.slot slot).key.isNone || (b.slot slot).closing then some (0x6005, 0)
  else if 65536 ≤ openStreams b then some (0x7002, 0)
  else none

/-- Checks at dispatch, each of which completes the command without acceptance (R53, R77, R82, R150, R489, R499, R512). -/
def dispatchFault (b : Block) (t : Nat) (e : Sqe) : Option (Nat × Nat) :=
  let st := bootState b
  if st = 6 && !early e.opcode then some (0x6004, 0)
  else if (st = 5 || st = 7) && !early e.opcode then some (0x1006, 0)
  else if usesHandle e.opcode && !handleOk b t e.handle then some (0x1003, 0)
  else if sequenceBad b e then some (0x1005, 0)
  else if b.ledg.state = .failed && needsLedger e then some (0xA002, 0)
  else if e.opcode = 4 && (!rdB b Fld.CIPH_NONCE_STATUS_ENABLED || 2 ^ 64 - 2 ^ 20 ≤ b.ciph.nonceNext) then some (0xA001, 0)
  else if e.opcode = 1 then openStreamFault b t e
  else none

/-- OPEN_OBJECTs held on every queue, the hold that began first first (R85). -/
def heldOpens (b : Block) : List Nat :=
  let ks := (tabKeys b.hq.qps).filter fun k => (b.qp k).held.isSome && match (b.qp k).fetched with | f :: _ => f.e.opcode = 3 | [] => false
  ks.mergeSort fun x y => since b (((b.qp y).held.getD {}).since) ≤ since b (((b.qp x).held.getD {}).since)

/-- An in-flight entry is free. -/
def objRoom (b : Block) : Bool := usedObjs b < 1048576

/-- A record fits its object's 16 TiB (R83). -/
def recordFits (b : Block) (e : Sqe) : Bool :=
  (b.obj (((b.stream (slotOfHandle e.handle)).obj).getD 0)).accepted + e.length ≤ 17592186044416

/-- The hold a dispatched command enters (R56, R85): none where its precondition holds; for a PUT_RECORD, whether it waits for the
pool itself. -/
def holdOf (b : Block) (t : Nat) (e : Sqe) : Option Bool :=
  match e.opcode with
  | 3 => if objRoom b && (heldOpens b).isEmpty then none else some false
  | 4 => if !recordFits b e then none
         else if !poolRoom b e.length then some true
         else if !quotaRoom b t e.length then some false
         else none
  | _ => none

/-! ### Stream commands -/

/-- OPEN_STREAM (R76 to R79). -/
def acceptOpenStream (b : Block) (k : Nat) (f : Fetched) : Block :=
  let slot := lowestNot (fun s : Stream => s.isOpen) 0 b.ing.streams
  let gen := (b.stream slot).gen % 65535 + 1
  let h := gen * 65536 + slot
  let (n, b) := newCmd b k f none none 0 false .working
  let b := b.updStream slot fun _ =>
    { isOpen := true, gen := gen, group := bitsOf f.e.param0 0 16, level := bitsOf f.e.param0 16 4,
      keySlot := bitsOf f.e.param0 20 12, bound := true, tenant := tenantOf b (k / 1024), fn := k / 1024, nextSeq := 1 }
  finishCmd b n 0 0 (leB 4 h)

/-- OPEN_OBJECT (R80, R84). -/
def acceptOpenObject (b : Block) (k : Nat) (f : Fetched) : Block :=
  let slot := slotOfHandle f.e.handle
  let o := lowestNot (fun x : Obj => x.used) 0 b.ing.objs
  let (seq, b) := takeSeq b slot
  let (n, b) := newCmd b k f (some f.e.handle) (some o) seq false .working
  let b := b.updObj o fun _ =>
    { used := true, objectId := slice f.e.objectId 0 16, stream := f.e.handle, gmacOnly := bitOf f.e.param0 0, openCmd := n }
  let b := b.updStream slot fun s => { s with obj := some o }
  finishCmd b n 0 0 (leB 4 o)

/-- A PUT_RECORD ends its object by the implicit abort of R62 (R63): BEAM_FULL or OBJECT_TOO_LARGE. -/
def implicitAbort (b : Block) (k : Nat) (f : Fetched) (status detail : Nat) : Block :=
  let slot := slotOfHandle f.e.handle
  match (b.stream slot).obj with
  | none => failEntry b (k / 1024) (k % 1024) f.e status detail
  | some o =>
    let (seq, b) := takeSeq b slot
    let (n, b) := newCmd b k f (some f.e.handle) (some o) seq false .working
    endObject b o status .aborted (some (n, status, detail))

/-- PUT_RECORD (R56, R57, R62, R80). -/
def acceptPutRecord (b : Block) (k : Nat) (f : Fetched) : Block :=
  if !recordFits b f.e then pumpStream (implicitAbort b k f 0x2005 0) f.e.handle
  else
    let slot := slotOfHandle f.e.handle
    let o := ((b.stream slot).obj).getD 0
    let (seq, b) := takeSeq b slot
    let b := b.updObj o fun x => { x with accepted := x.accepted + f.e.length, records := x.records + 1 }
    (newCmd b k f (some f.e.handle) (some o) seq (bitOf f.e.flags 0) .waitBobbin).2

/-- CLOSE_OBJECT, FLUSH and CLOSE_STREAM (R33, R53, R59, R78): they take their effects in SEQ order. -/
def acceptEnding (b : Block) (k : Nat) (f : Fetched) : Block :=
  let slot := slotOfHandle f.e.handle
  let obj := if f.e.opcode = 5 then (b.stream slot).obj else none
  let (seq, b) := takeSeq b slot
  let (_, b) := newCmd b k f (some f.e.handle) obj seq (f.e.opcode = 6 || bitOf f.e.flags 0) .working
  let b := match obj with
    | some o => (b.updObj o fun x => { x with closed := true }).updStream slot fun s => { s with obj := none }
    | none => b
  let b := if f.e.opcode = 2 then b.updStream slot fun s => { s with closing := true } else b
  pumpStream b f.e.handle

/-- ABORT_OBJECT (R62, R63, R100). -/
def acceptAbort (b : Block) (k : Nat) (f : Fetched) : Block :=
  let slot := slotOfHandle f.e.handle
  let o := ((b.stream slot).obj).getD 0
  let (seq, b) := takeSeq b slot
  let (n, b) := newCmd b k f (some f.e.handle) (some o) seq false .working
  pumpStream (endObject b o 0x2001 .aborted (some (n, 0, 0))) f.e.handle

/-! ### GET_LOG (R577, R578) -/

/-- Log pages: number and entry bytes, in ascending order. -/
def logPages : List (Nat × Nat) :=
  [(0x0000, 16), (0x0010, 32), (0x0020, 32), (0x0030, 48), (0x0080, 32), (0x0090, 32), (0x00A0, 32), (0x00B0, 32), (0x00C0, 32),
   (0x00D0, 32), (0x00E0, 32), (0x00F0, 32), (0x0100, 32), (0x0110, 256), (0x0120, 32), (0x0130, 32)]

/-- The bytes of a page, oldest entry first; the directory is built when it is read. -/
def logBytes (b : Block) (page : Nat) : Bytes :=
  if page = 0 then
    logPages.flatMap fun (p, size) =>
      let l : LogPage := tabGet {} b.logs p
      if p = 0 then leB 2 0 ++ leB 2 16 ++ leB 4 16 ++ leB 4 16 ++ leB 4 0
      else leB 2 p ++ leB 2 size ++ leB 4 (logCap p) ++ leB 4 l.entries.length ++ leB 4 l.written
  else (tabGet {} b.logs page : LogPage).entries.flatten

/-- GET_LOG. -/
def acceptGetLog (b : Block) (n : Nat) : Block :=
  let c := b.cmd n
  let page := bitsOf c.e.param0 0 16
  if !(logPages.map Prod.fst).contains page then finishCmd b n 0x1002 0 [] 40
  else if c.tenant ≠ 0 then finishCmd b n 0x1006 0
  else
    let data := ((logBytes b page).drop c.e.param1).take c.e.length
    finishCmd (writeBuf b c.fn c.e c.sgl 0 data) n 0 0 (leB 8 data.length)

/-! ### TUNE_LOOP (R326) -/

/-- Checks 1 and 2, and check 3 of LENGTH. -/
def tuneFault (b : Block) (e : Sqe) : Option (Nat × Nat) :=
  let p := bitsOf e.param0 0 5
  let l := bitsOf e.param0 8 3
  let k := bitsOf e.param0 12 2
  let a := bitsOf e.param0 16 2
  if !linkUp b p || 6 ≤ l || (l ≠ 0 && k ≠ 0) || (a = 3 && (l ≠ 0 || k = bankOf b p 0)) then some (0x1002, 40)
  else if a ≠ 3 && 2 ≤ rd b (Fld.HDL_XPORT_STATE p) then some (0x1002, 40)
  else if (a = 0 || a = 3) && (e.length < 32 || 512 < e.length || e.length % 32 ≠ 0) then some (0x1002, 32)
  else none

/-- Check 3 of the records, and check 4. -/
def bankOk (b : Block) (p l : Nat) (data : Bytes) : Bool :=
  let n := data.length / 32
  let others := ((List.range 6).filter fun i => i ≠ 0 && i ≠ l).map fun i => rd b (Fld.CLE_LOOP_CFG_SECTIONS p i)
  (List.range n).all (fun i =>
    fieldAt data (32 * i + 8) 4 < 2 ^ 20 && fieldAt data (32 * i + 16) 16 = 0
      && toS 16 (fieldAt data (32 * i + 12) 2) ≤ toS 16 (fieldAt data (32 * i + 14) 2))
    && (l = 0 || others.sum + n ≤ 64)

/-- TUNE_LOOP accepted. -/
def acceptTune (b : Block) (n : Nat) : Block :=
  let c := b.cmd n
  match tuneFault b c.e with
  | some (st, d) => finishCmd b n st 0 [] d
  | none =>
    let a := bitsOf c.e.param0 16 2
    let image : Bool := a = 0 || a = 3
    let t : Tune := { cmd := n, loop := bitsOf c.e.param0 8 3, bank := bitsOf c.e.param0 12 2, action := a, ready := !image,
                      manOut := if a = 1 && bitOf c.e.param1 16 then some (toS 16 (bitsOf c.e.param1 0 16)) else none }
    let b := b.updCle (bitsOf c.e.param0 0 5) fun x => { x with tunes := x.tunes ++ [t] }
    if image then readBuf b c.fn c.e c.sgl 0 c.e.length else b

/-- Bytes of a bank image arrive; the whole image is checked. -/
def tuneData (b : Block) (n : Nat) (data : Bytes) : Block :=
  let c := b.cmd n
  let p := bitsOf c.e.param0 0 5
  match (b.cle p).tunes.find? fun t => t.cmd = n with
  | none => b
  | some t =>
    let all := t.data ++ data
    if t.ready || c.e.length < all.length then b
    else
      let whole : Bool := all.length = c.e.length
      if whole && !bankOk b p t.loop all then
        finishCmd (b.updCle p fun x => { x with tunes := x.tunes.filter fun y => y.cmd ≠ n }) n 0x1002 0 [] 32
      else b.updCle p fun x => { x with tunes := x.tunes.map fun y => if y.cmd = n then { y with data := all, ready := whole } else y }

/-! ### INJECT_CAPTURE (R329) -/

/-- The tape streams at a constant step: a run whose L_r has passed. -/
def atSpeed (b : Block) (p : Nat) : Bool := match (b.cle p).ref with | .run _ _ lr _ _ => reached b lr | _ => false

/-- The checks that are not of the entry alone: a frequency above 0.45 of the tick rate; then busy, a write run, a loop not in AUTO,
TRACK not at a constant step. -/
def injectFault (b : Block) (e : Sqe) : Option (Nat × Nat) :=
  let p := bitsOf e.param0 0 5
  let l := bitsOf e.param0 8 3
  let kind := bitsOf e.param0 16 2
  let fast (f : Nat) : Bool := 9 * tickRate b p l < 20 * f
  let x := loopOf (b.cle p) l
  if ((kind = 1 || kind = 2) && fast (bitsOf e.param1 0 16)) || (kind = 2 && fast (bitsOf e.param1 16 16)) then some (0x1002, 48)
  else if (b.cle p).inj.isSome || (kind ≠ 0 && (writing b p || x.hold || x.manual || (l = 0 && !atSpeed b p))) then some (0x1002, 40)
  else none

/-- INJECT_CAPTURE accepted. -/
def acceptInject (b : Block) (n : Nat) : Block :=
  let e := (b.cmd n).e
  match injectFault b e with
  | some (st, d) => finishCmd b n st 0 [] d
  | none =>
    let j : Inject := { cmd := n, loop := bitsOf e.param0 8 3, node := bitsOf e.param0 11 5, kind := bitsOf e.param0 16 2,
                        amp := bitsOf e.param0 32 15, f0 := bitsOf e.param1 0 16, f1 := bitsOf e.param1 16 16,
                        duration := bitsOf e.param1 32 32, select := bitsOf e.param2 0 32, decim := bitsOf e.param2 32 8,
                        atOnce := bitOf e.param2 40, active := bitsOf e.param0 16 2 ≠ 0,
                        capturing := bitsOf e.param0 16 2 = 0 || bitOf e.param2 40 }
    b.updCle (bitsOf e.param0 0 5) fun x => { x with inj := some j }

/-! ### Acceptance -/

/-- MOUNT accepted; at a MOUNT the radii start from the middle of their range, and the reels' sum of squares is to be recorded anew
(R320, R530). -/
def acceptMountCmd (b : Block) (n : Nat) : Block :=
  let p := bitsOf (b.cmd n).e.param0 0 5
  let b := acceptMount b n
  match (b.tape p).mount with
  | some (m, _) => if m = n then reelStart b p else b
  | none => b

/-- The commands that act on no stream, once accepted. -/
def acceptOther (b : Block) (n : Nat) : Block :=
  match (b.cmd n).e.opcode with
  | 0x10 => acceptMountCmd b n
  | 0x11 => acceptUnmount b n
  | 0x20 => acceptPatrol b n
  | 0x21 => acceptRebuild b n
  | 0x22 => acceptReshape b n
  | 0x30 => acceptKeyLoad b n
  | 0x31 => acceptKeyDrop b n
  | 0x32 => acceptAttestQuote b n
  | 0x33 => acceptGetEntropy b n
  | 0x40 => acceptGetLog b n
  | 0x41 => acceptTune b n
  | 0x42 => acceptInject b n
  | 0x50 => acceptBeamFill b n
  | 0x51 => acceptBeamRetire b n
  | _ => acceptRead b n

/-- Accept the entry of queue k (R55, R59). -/
def accept (b : Block) (k : Nat) (f : Fetched) : Block :=
  match f.e.opcode with
  | 1 => acceptOpenStream b k f
  | 3 => acceptOpenObject b k f
  | 4 => acceptPutRecord b k f
  | 2 => acceptEnding b k f
  | 5 => acceptEnding b k f
  | 6 => acceptEnding b k f
  | 7 => acceptAbort b k f
  | _ => let (n, b) := newCmd b k f none none 0xFFFFFFFFFFFFFFFF false .working; acceptOther b n

/-- The entry is accepted, not ended by the implicit abort of OBJECT_TOO_LARGE: its tenant is charged (R65, R66). -/
def charged (b : Block) (e : Sqe) : Bool := e.opcode ≠ 4 || recordFits b e

/-- Take the head entry of queue k, and charge its tenant by the weight it had when it was dispatched. -/
def takeEntry (b : Block) (t weight k : Nat) (f : Fetched) : Block :=
  let b := popHead b k
  let b := if charged b f.e then charge b t weight f.e else b
  accept b k f

/-- Dispatch the head entry of queue k of tenant t (R53, R55, R56, R65, R66). -/
def dispatch (b : Block) (t k : Nat) : Block :=
  match (b.qp k).fetched with
  | [] => b
  | f :: _ =>
    match dispatchFault b t f.e with
    | some (st, d) => failEntry (popHead b k) (k / 1024) (k % 1024) f.e st d
    | none =>
      match holdOf b t f.e with
      | some pool => b.updQp k fun p => { p with held := some { since := b.time.now, weight := weightOf b t, pool := pool } }
      | none => takeEntry b t (weightOf b t) k f

/-- A dispatch slot of the scheduler (R65). -/
def slotOnce (b : Block) : Block :=
  let b := refreshReady b
  match schedPick b with
  | none => b
  | some (t, k) => dispatch (schedTake b t k) t k

/-! ### Held commands (R55, R56, R85) -/

/-- The precondition of the held head of queue k holds. -/
def heldReady (b : Block) (k : Nat) (f : Fetched) : Bool :=
  if f.e.opcode = 3 then objRoom b && (heldOpens b).head? = some k
  else poolRoom b f.e.length && quotaRoom b (tenantOf b (k / 1024)) f.e.length

/-- A held command is accepted once its precondition holds. A command whose stream has changed meanwhile so that a check of R53
fails completes with that check's status. -/
def heldAccept (b : Block) (k : Nat) : Block :=
  match (b.qp k).fetched, (b.qp k).held with
  | f :: _, some h =>
    let t := tenantOf b (k / 1024)
    match dispatchFault b t f.e with
    | some (st, d) => failEntry (popHead b k) (k / 1024) (k % 1024) f.e st d
    | none => if heldReady b k f then takeEntry b t h.weight k f else b
  | _, _ => b

/-- Time a hold has lasted, in ms, saturating (R51). -/
def heldMs (b : Block) (h : Held) : Nat := min 65535 (since b h.since / tMs)

/-- A held OPEN_OBJECT reaches OBJ_HOLD (R85): an entry free for it lets it be accepted, else TABLE_FULL,
counted in TIMEOUTS. -/
def objHoldExpiry (b : Block) (k : Nat) : Block :=
  match (b.qp k).fetched, (b.qp k).held with
  | f :: _, some h =>
    let lim := rd b Fld.HQI_HOLD_OBJ_HOLD
    if f.e.opcode ≠ 3 ∨ since b h.since < lim * tMs then b
    else if objRoom b && (heldOpens b).head? = some k then heldAccept b k
    else failEntry (popHead (inc b Fld.BOB_OBJ_HELD_TIMEOUTS) k) (k / 1024) (k % 1024) f.e 0x7001 lim
  | _, _ => b

/-- A held PUT_RECORD reaches BEAM_HOLD (R56, R62): BEAM_FULL with the implicit abort. -/
def beamHoldExpiry (b : Block) (k : Nat) : Block :=
  match (b.qp k).fetched, (b.qp k).held with
  | f :: _, some h =>
    if f.e.opcode ≠ 4 ∨ since b h.since < rd b Fld.HQI_HOLD_BEAM_HOLD * tMs then b
    else pumpStream (implicitAbort (popHead b k) k f 0x7003 (heldMs b h)) f.e.handle
  | _, _ => b

/-! ### A command from the host -/

/-- Dispatch slots pass until queue k has no entry left to dispatch, or its head must wait. -/
def runSlots (b : Block) (k : Nat) : Nat → Block
  | 0 => b
  | n + 1 =>
    if (b.qp k).fetched.isEmpty || (b.qp k).held.isSome || (schedPick (refreshReady b)).isNone then b
    else runSlots (slotOnce b) k n

/-- Entries that wait to be dispatched. -/
def fetchedCount (b : Block) : Nat := (b.hq.qps.map fun (x : Nat × Qp) => x.2.fetched.length).sum

/-- The host places an entry at the tail of an SQ and rings the doorbell (R44); with nothing before it in the queue it is fetched
(R55), and dispatch slots pass (R65). -/
def submit (b : Block) (fn q : Nat) (e : Sqe) (sgl : List Sgl) : Block :=
  let k := qpKey fn q
  let p := b.qp k
  if !qpActive b fn q || sqCount p + 1 = qpSize p then b
  else
    let first : Bool := sqCount p = 0
    let b := sqTailDb b fn q ((p.sqTail + 1) % qpSize p)
    if first && canFetch b fn q then
      let b := fetchEntry b fn q e sgl
      runSlots b k (fetchedCount b)
    else b

end Sys2Proof.Machine
end

