-- ==== Sys2Proof/Machine/PumpOps.lean ====
section
/-!
DEFINITION. Sys2Proof/Machine/PumpOps.lean: what goes on by itself once its condition holds: verdicts handed to those they
are for, commits taken up by RESHAPE, catalogue updates, MOUNT, UNMOUNT, REBUILD, PATROL, RESHAPE and restores.
-/

namespace Sys2Proof.Machine

/-- Hand out the verdicts of segments that are not a weft's (R295, R381, R608). -/
def drainDone (b : Block) : Block :=
  let l := b.heads.done
  forEach l { b with heads := { b.heads with done := [] } } fun b (p, s, pass) =>
    if s.kind = 7 then updWritten b p pass
    else if s.kind = 6 then voidDone b p s pass
    else if s.kind = 4 then b
    else rebuildVerdict b p s pass

/-- Failed transports reach weave (R298, R374). -/
def drainFailed (b : Block) : Block :=
  let l := b.heads.failed
  forEach l { b with heads := { b.heads with failed := [] } } transportFailed

/-- Commits reach the reshapes (R412). -/
def drainNews (b : Block) : Block :=
  let l := b.weave.news
  forEach l { b with weave := { b.weave with news := [] } } fun b x => reshapeNews b x.1 x.2

/-- One round of the tape procedures of each port. -/
def pumpTapes (b : Block) : Block :=
  forEach (tabKeys b.cons.tapes) b fun b p => pumpMount (pumpUpd (beginUpd b p) p) p

/-- One round of the commands that wait for datasets. -/
def pumpReads (b : Block) : Block :=
  let b := forEach (tabKeys b.cons.rebuilds) b pumpRebuild
  let b := forEach b.cons.patrols b fun b x => match b.cons.patrols.find? fun y => y.cmd = x.cmd with
    | some y => pumpPatrol b y
    | none => b
  let b := forEach b.cons.reshapes b fun b x => match b.cons.reshapes.find? fun y => y.cmd = x.cmd with
    | some y => pumpReshape b y
    | none => b
  forEach (restores b) b pumpRestore

/-- A command that waits for DRBG output, a quote the warden or the manager waits for: served, or told that there is no seed (R163, R164,
R520, R521). -/
def serveWaiters (b : Block) : Block :=
  let b := forEach (entropyWaiters b) b fun b n => if (b.cmd n).e.opcode = 0x33 then acceptGetEntropy b n else acceptAttestQuote b n
  let b := if b.ward.quoteState = 1 ∧ b.ward.power = .run then i2cQuote b 1 else b
  forEach b.fab.attests (b.updFab fun f => { f with attests := [] }) fun b x => attestIn b x.1 x.2

/-- What waits for the DRBG goes on once no reseed is due. -/
def pumpEntropy (b : Block) : Block := if b.ciph.drbg = .ready && !drbgOk b then b else serveWaiters b

/-- Open jobs and unwrap jobs whose command has ended leave the waiting jobs. -/
def pruneJobs (b : Block) : Block :=
  { b with ciph := { b.ciph with queue := b.ciph.queue.filter fun j => match j.job with
    | .seal _ => true
    | .openSeg n _ => (b.cmd n).fin.isNone && (b.cmd n).rst.segs ≠ []
    | .unwrap n _ => (b.cmd n).e.opcode = 0x30 && (b.cmd n).fin.isNone } }

/-- Everything that goes on by itself. -/
def pumpAll (b : Block) : Block :=
  let b := pumpEntropy (pruneJobs b)
  let b := drainNews (drainDone (drainFailed b))
  let b := pumpTapes (pumpTapes (pumpTapes (pumpTapes b)))
  pumpLedger (parkEngines (readModes (pumpReads (pumpReads b))))

end Sys2Proof.Machine
end

