-- ==== Sys2Proof/Machine/Run.lean ====
section
/-!
DEFINITION. Sys2Proof/Machine/Run.lean: the frame every meaning is built in: time passes, the command takes its
effect, and what follows from the new state at once is settled.
-/

namespace Sys2Proof.Machine

/-- The part runs: it is neither in DORMANT nor waking (R545, R547). -/
def awake (b : Block) : Bool := b.ward.power = .run

/-- What follows at once from a command's effect: what goes on by itself goes on, write data that is due goes out (R240), tenants that
become ready take their start tags (R65), a management event message is sent when SYS_EVENT & SYS_EVENT_EN becomes nonzero (R576), and
the cells of the step go out in codewords (R228). -/
def settle (before after : Block) : Block :=
  let b := refreshReady (when (awake after) after fun b => sendWrites (pumpAll b))
  lines (if awake b && eventsOn b && !eventsOn before then eventMsg b else b)

/-- The block as a command finds it: `dt` ticks have passed, and the outputs are to be those of this step. -/
def begun (dt : Nat) (s : State) : Block := elapse dt { s.blk with out := [] }

/-- Run a command's effect `f` after `dt` ticks; the queue of waiting commands is not touched. In DORMANT and while waking the
command reaches nothing (R545; DESIGN CHOICE, log entry 62). -/
def runCmd (dt : Nat) (s : State) (f : Block → Block) : Host.Outcome State Fault Refusal :=
  let b := begun dt s
  .next { s with blk := if awake b then settle b (f b) else b }

/-- Run an event of the warden or of the power supply, which has its effect in DORMANT too. -/
def runWard (dt : Nat) (s : State) (f : Block → Block) : Host.Outcome State Fault Refusal :=
  let b := begun dt s
  .next { s with blk := settle b (f b) }

end Sys2Proof.Machine
end

