-- ==== Sys2Proof/Machine/BeamStore.lean ====
section
/-!
DEFINITION. Sys2Proof/Machine/BeamStore.lean: the beam store's commands (spec/16_beam_store.md).
-/

namespace Sys2Proof.Machine

/-- BEAM_READ (R420, R428 to R432): a line is read for a launch, a regeneration or another requester; `errs` are the XORs
its devices put on the symbols of its codewords, `cmd` the command whose restore data the line holds. -/
def execBeamRead (dt line : Nat) (errs : List (Nat × Nat × Nat)) (cmd : Option Nat) (s : State) : Host.Outcome State Fault Refusal :=
  runCmd dt s fun b => if beamC b = 0 then b else beamRead b line errs cmd

/-- BEAM_PARTIAL_WRITE (R425). `errs` stands for the read of an entry flushed for want of a free one. -/
def execBeamPartialWrite (dt line mask : Nat) (bytes : Bytes) (errs : List (Nat × Nat × Nat)) (s : State) : Host.Outcome State Fault Refusal :=
  runCmd dt s fun b => if beamC b = 0 then b else partialWrite b line mask bytes errs

/-- MERGE_ENTRY_TIMEOUT (R425, R426): the channel's oldest entry, 256 ns after its first byte. -/
def execMergeEntryTimeout (dt : Nat) (ch : Fin 16) (errs : List (Nat × Nat × Nat)) (s : State) : Host.Outcome State Fault Refusal :=
  runCmd dt s fun b =>
    match (b.beamCh ch.val).merge with
    | e :: _ => if 1024 ≤ since b e.since then rmw b e errs else b
    | [] => b

/-- SCRUB_LINE (R427). -/
def execScrubLine (dt : Nat) (errs : List (Nat × Nat × Nat)) (s : State) : Host.Outcome State Fault Refusal :=
  runCmd dt s fun b => scrubLine b errs

/-- BUCKET_LEAK (R428): LEVEL loses 1, LEAK_S seconds after the last leak. -/
def execBucketLeak (dt : Nat) (ch : Fin 16) (s : State) : Host.Outcome State Fault Refusal :=
  runCmd dt s fun b =>
    let (d, i) := chReg b ch.val
    if ch.val < beamC b ∧ rd b (Fld.BEAM_CH_BUCKET_LEAK_S d i) * tS ≤ since b (b.beamCh ch.val).leakAt then
      let b := b.updBeamCh ch.val fun h => { h with leakAt := b.time.now }
      wr b (Fld.BEAM_CH_BUCKET_LEVEL d i) (rd b (Fld.BEAM_CH_BUCKET_LEVEL d i) - 1)
    else b

/-- FILL_STEP_DONE (R422, R423). -/
def execFillStepDone (dt : Nat) (s : State) : Host.Outcome State Fault Refusal := runCmd dt s fillStep

/-- WRITE_RAW (R433). -/
def execWriteRaw (dt : Nat) (die : Fin 2) (s : State) : Host.Outcome State Fault Refusal := runCmd dt s fun b => writeRaw b die.val

/-- WRITE_GEN (R433). -/
def execWriteGen (dt : Nat) (die : Fin 2) (s : State) : Host.Outcome State Fault Refusal := runCmd dt s fun b => writeGen b die.val

/-- READ_RAW (R433). -/
def execReadRaw (dt : Nat) (die : Fin 2) (errs : List (Nat × Nat × Nat)) (s : State) : Host.Outcome State Fault Refusal :=
  runCmd dt s fun b => readRaw b die.val errs

/-- HASH_KEY_DRAW (R435). -/
def execHashKeyDraw (dt : Nat) (s : State) : Host.Outcome State Fault Refusal := runCmd dt s hashKeyDraw

end Sys2Proof.Machine
end

