-- ==== Sys2Proof/Machine/Boot.lean ====
section
/-!
DEFINITION. Sys2Proof/Machine/Boot.lean: the commands of start-up, recovery and provisioning (spec/19_boot_trust.md R494 to R517;
spec/18_ledger_flash.md R491).
-/

namespace Sys2Proof.Machine

/-- LEDGER_SCAN (R396, R478, R491). -/
def execLedgerScan (dt : Nat) (found : FlashScan) (s : State) : Host.Outcome State Fault Refusal :=
  runCmd dt s fun b => ledgerScan b found.blank found.corrupt found.fixed found.wrong

/-- RESET_OF_PART (R494): `cause` as RESET_CAUSE counts it. -/
def execResetOfPart (dt : Nat) (cause : Fin 5) (s : State) : Host.Outcome State Fault Refusal :=
  runWard dt s fun b => if b.ward.power = .dormant ∧ cause ≠ 0 then b else resetPart b cause (cause = 0)

/-- POR_N (R494, R598): low for at least 10 µs. -/
def execPorN (dt : Nat) (micros : Nat) (s : State) : Host.Outcome State Fault Refusal :=
  runWard dt s fun b => if 10 ≤ micros then porReset b else b

/-- SYS_RESET_N (R494, R598): low for at least 10 µs; not sampled while VIO is off. -/
def execSysResetN (dt : Nat) (micros : Nat) (s : State) : Host.Outcome State Fault Refusal :=
  runWard dt s fun b => if 10 ≤ micros ∧ b.ward.power ≠ .dormant then resetPart b 1 false else b

/-- BOOT_RESET: a write of BOOT_CTRL (R494). -/
def execBootReset (dt : Nat) (data : Word) (s : State) : Host.Outcome State Fault Refusal :=
  runCmd dt s fun b => hostWrites b Reg.BOOT_CTRL (fun b => writeBootCtrl b (withBit data 0))

/-- PERST_N rises (R498). -/
def execPerstN (dt : Nat) (portB : Bool) (s : State) : Host.Outcome State Fault Refusal :=
  runCmd dt s fun b => perstUp b portB

/-- ROLE_CONFIRM (R496). -/
def execRoleConfirm (dt : Nat) (linked roleN roleS : Bool) (s : State) : Host.Outcome State Fault Refusal :=
  runCmd dt s fun b => roleConfirm b linked roleN roleS

/-- SLOT_SELECT (R500). -/
def execSlotSelect (dt : Nat) (selftest : Fin 4) (s : State) : Host.Outcome State Fault Refusal :=
  runCmd dt s fun b => slotSelect b selftest

/-- BENAK_READ (R506 to R508). -/
def execBenakRead (dt : Nat) (copy0 copy1 : Bytes) (s : State) : Host.Outcome State Fault Refusal :=
  runCmd dt s fun b => benakRead b copy0 copy1

/-- ATTEST_KEY_GEN (R517). -/
def execAttestKeyGen (dt : Nat) (s : State) : Host.Outcome State Fault Refusal := runCmd dt s attestKeyGen

/-- BEAM_TRAIN (R416, R417, R434). -/
def execBeamTrain (dt : Nat) (channels dpc cap : Nat) (mrdimm uniform : Bool) (rate : Option (Fin 4)) (mismatch : List Nat)
    (s : State) : Host.Outcome State Fault Refusal :=
  runCmd dt s fun b => beamTrain b channels dpc cap mrdimm uniform (rate.map Fin.val) mismatch

/-- CONFIG_LOCK (R509). -/
def execConfigLock (dt : Nat) (s : State) : Host.Outcome State Fault Refusal := runCmd dt s configLock

/-- READY_REACHED (R497 step 14). -/
def execReadyReached (dt : Nat) (s : State) : Host.Outcome State Fault Refusal := runCmd dt s readyReached

/-- BOOT_WATCHDOG_EXPIRY (R502). -/
def execBootWatchdogExpiry (dt : Nat) (s : State) : Host.Outcome State Fault Refusal := runCmd dt s bootWatchdog

/-- D2D_LINK_LOSS (R503 to R505). -/
def execD2dLinkLoss (dt : Nat) (die : Fin 2) (s : State) : Host.Outcome State Fault Refusal :=
  runCmd dt s fun b => loseD2d b die

/-- RCV_ERASE (R511). -/
def execRcvErase (dt : Nat) (data : Word) (fail : Option (Fin 16)) (s : State) : Host.Outcome State Fault Refusal :=
  runCmd dt s fun b => rcvErase b data.toNat (fail.map Fin.val)

/-- RCV_PROGRAM (R511). -/
def execRcvProgram (dt : Nat) (data : Word) (pass : Bool) (s : State) : Host.Outcome State Fault Refusal :=
  runCmd dt s fun b => rcvProgram b data.toNat pass

/-- RCV_VERIFY (R511). -/
def execRcvVerify (dt : Nat) (data : Word) (s : State) : Host.Outcome State Fault Refusal :=
  runCmd dt s fun b => rcvVerify b data.toNat

/-- PROV_GO (R514). -/
def execProvGo (dt : Nat) (data : Word) (pass : Bool) (s : State) : Host.Outcome State Fault Refusal :=
  runCmd dt s fun b => provGo b data.toNat pass

/-- DECOMMISSION (R514). -/
def execDecommission (dt : Nat) (data : Word) (s : State) : Host.Outcome State Fault Refusal :=
  runCmd dt s fun b => decommission b data.toNat

/-- COMMIT_SVN: a write of BOOT_CTRL (R513). -/
def execCommitSvn (dt : Nat) (data : Word) (s : State) : Host.Outcome State Fault Refusal :=
  runCmd dt s fun b => hostWrites b Reg.BOOT_CTRL (fun b => writeBootCtrl b (withBit data 2))

/-- PCR_EXTEND (R515). -/
def execPcrExtend (dt : Nat) (data : Word) (s : State) : Host.Outcome State Fault Refusal :=
  runCmd dt s fun b => hostWrites b Reg.BOOT_EXT_CTRL (fun b => writeExtCtrl b (withBit data 5))

/-- POWER_LOSS (R475, R479, R494). -/
def execPowerLoss (dt : Nat) (s : State) : Host.Outcome State Fault Refusal := runWard dt s powerLoss

end Sys2Proof.Machine
end

