-- ==== Sys2Proof/Machine/Carding.lean ====
section
/-!
DEFINITION. Sys2Proof/Machine/Carding.lean: compression jobs and their blocks (spec/04_carding.md R102 to R121,
spec/05_match_finding.md R127 to R139).
-/

namespace Sys2Proof.Machine

/-- COMPRESSION_JOB_START (R103, R104). -/
def execCompressionJobStart (dt : Nat) (die : Fin 2) (s : State) : Host.Outcome State Fault Refusal :=
  runCmd dt s fun b =>
    match oldestJob b die.val with
    | none => b
    | some n =>
      let slot := slotOfHandle ((b.cmd n).stream.getD 0)
      match assignEngine b die.val slot with
      | none => b
      | some (e, b) => b.updEngine e fun x => { x with
          state := .compressing, ctx := some slot, job := some n, input := [], inputEnd := false, output := [],
          jobConsumed := 0, jobShrunk := 0 }

/-- All bytes are equal. -/
def allEqual : Bytes → Bool
  | [] => true
  | a :: t => t.all (· = a)

/-- How a block is written (R113, R117): content taken, block type, content bytes written, NOT_SHRUNK blocks, and the
context the compression leaves. -/
def blockPlan (x : CardCtx) (level : Nat) (room : Nat) (content : Bytes) : Nat × Nat × Bytes × Nat × CardCtx :=
  let c := content.length
  let (kind, body, ns, x') :=
    if level = 0 then (0, content, 0, x)
    else if 2 ≤ c && allEqual content then (1, content.take 1, 0, x)
    else
      let (cd, x') := compressBlock x level content
      if c ≤ cd.length then (0, content, 1, x) else (2, cd, 0, x')
  if room < body.length then (room, 0, content.take room, ns, x) else (c, kind, body, ns, x')

/-- The context after a block of `content` written in `n` frame bytes (R105, R121, R128). -/
def ctxAfter (x : CardCtx) (content : Bytes) (n ns e seq : Nat) : CardCtx :=
  let w := x.window ++ content
  let f := insertBlock x content
  { x with window := w.drop (w.length - 1048576), position := (x.position + content.length) % 4294967296, head := f.head,
           chain := f.chain, frameBytes := x.frameBytes + n,
           frameHash := xxUpdate x.frameHash content, notShrunk := x.notShrunk + ns, engine := e, seq := seq }

/-- The record's last byte is in an emitted block (R22, R33, R118). -/
def recordEnd (b : Block) (e n slot : Nat) : Block :=
  let c := b.cmd n
  let out := (b.engine e).output
  let b := b.updCmd n fun c => { c with phase := .staging }
  let b := if c.taped then beginClose (finishSegment b slot out [] (some n) true true) slot 4 (forcedBy b n)
    else match (b.stream slot).dataset with
      | some d => enqueueSeal b { stream := c.stream.getD 0, cmd := some n, dataset := d, seg := curSeg (b.dataset d),
                                  key := (b.stream slot).keySlot, data := out, recordEnd := true } (e / 32)
      | none => b
  parkEngine (endJob b e n .recordEnd false (if c.taped then 7 else 0)) e

/-- The engine fails on a second mismatch (R114). -/
def engineFails (b : Block) (e n slot : Nat) : Block :=
  let c := b.cmd n
  let o := c.obj.getD 0
  let id := (b.obj o).objectId
  let b := wr b (Fld.CARD_ENG_FAILED_FAILED (e / 32)) ((rd b (Fld.CARD_ENG_FAILED_FAILED (e / 32))).lor (2 ^ (e % 32)))
  let b := inc b (Fld.CARD_CMP_MISMATCH_FAILED (e / 32))
  let b := cardLog b 0xA001 3 e ((b.stream slot).gen * 65536 + slot) id c.seq 1
  let b := internalError b (e / 32) 3 (e % 32) 1 c.seq
  endObject b o 0x2003 .engineFailed

/-- A block is emitted (R117, R121, R190): the frame, the record map, the segment and the object take it. -/
def emitPlanned (b : Block) (e n slot o d : Nat) (level : Nat) (content : Bytes) (room : Nat) : Block :=
  let c := b.cmd n
  let x := b.ctx slot
  let y := b.dataset d
  let i := curSeg y
  let g := y.segs.getD i {}
  let (k, kind, body, ns, x') := blockPlan x level room content
  let taken := content.take k
  let bytes := blockHeader false kind (if kind = 2 then body.length else k) ++ body
  let starts := c.consumed = 0
  let entry := (g.offset + 128 + x.frameBytes) + 2 ^ 23 * i
  let b := b.updCtx slot fun _ => ctxAfter x' taken bytes.length ns e c.seq
  let b := b.updDataset d fun y => { y with map := if starts then y.map ++ [entry] else y.map }
  let b := updSeg b d i fun g => { g with
    seqHi := c.seq, plainLength := g.plainLength + k,
    recordCount := g.recordCount + (if starts ∨ g.plainLength = 0 then 1 else 0),
    firstMap := if starts ∧ g.mapCount = 0 then y.map.length else g.firstMap,
    mapCount := g.mapCount + (if starts then 1 else 0) }
  let b := b.updObj o fun z => { z with
    hash := xxUpdate z.hash taken, emitted := z.emitted + k, started := z.started + (if starts then 1 else 0),
    starts := if starts then z.starts ++ [(c.seq, z.emitted)] else z.starts }
  let b := b.updCmd n fun c => { c with consumed := c.consumed + k, firstAt := if starts then some (d, i) else c.firstAt }
  let b := inc b (Fld.CARD_NOT_SHRUNK_COUNT (e / 32)) ns
  let b := b.updEngine e fun z => { z with
    input := z.input.drop k, output := z.output ++ bytes, jobConsumed := z.jobConsumed + k, jobShrunk := z.jobShrunk + ns }
  if (b.engine e).input = [] ∧ (b.engine e).inputEnd then recordEnd b e n slot else b

/-- One pass of R117 with the frame open. Where the room and the record map are used up at once, the cause is the map (log entry
71). -/
def blockPass (b : Block) (e n slot o : Nat) (bad1 bad2 : Bool) : Block :=
  match (b.stream slot).dataset with
  | none => b
  | some d =>
    let c := b.cmd n
    let level := (b.stream slot).level
    let room := frameRoom b slot - 10
    let mapFull := c.consumed = 0 && (b.dataset d).map.length = 2304
    if room < 1 || mapFull then frameFull b e n slot (if mapFull then 2 else 1)
    else if bad1 && bad2 then engineFails b e n slot
    else
      let b := if bad1 then cardLog (inc b (Fld.CARD_CMP_MISMATCH_RETRIED (e / 32))) 0 2 e (c.stream.getD 0)
        (b.obj o).objectId c.seq 1 else b
      let inp := (b.engine e).input
      emitPlanned b e n slot o d level (inp.take (blockLen level inp)) room.toNat

/-- BLOCK_EMIT (R112 to R119, R190): the engine's job makes one pass of R117, once its input buffer holds a whole block
or the record's end. `bad1` and `bad2` say that the compare of R114 finds a mismatch, at first and again. -/
def execBlockEmit (dt : Nat) (engine : Fin 64) (bad1 bad2 : Bool) (s : State) : Host.Outcome State Fault Refusal :=
  runCmd dt s fun b =>
    let e := engine.val
    let x := b.engine e
    match x.state, x.job with
    | .compressing, some n =>
      if x.input = [] || !(x.inputEnd || 131072 ≤ x.input.length) then b
      else
        let c := b.cmd n
        let h := c.stream.getD 0
        let slot := slotOfHandle h
        let o := c.obj.getD 0
        let r := if (b.ctx slot).frameOpen then (SegStart.started, b)
          else startSegment b slot o n ((b.obj o).started - (if c.consumed = 0 then 0 else 1)) (c.consumed ≠ 0)
        match r with
        | (.poolEmpty, _) => b
        | (.objectEnded, b) => noteReady (pumpStream b h)
        | (.started, b') =>
          let b' := if (b.ctx slot).frameOpen then b' else b'.updEngine e fun x => { x with output := x.output ++ frameHeader }
          noteReady (pumpStream (blockPass b' e n slot o bad1 bad2) h)
    | _, _ => b

/-- CARD_ENG_ENABLE_WRITE (R104): engine enables; a disabled idle engine writes its context back at once. -/
def execCardEngEnableWrite (dt : Nat) (die : Fin 2) (data : Word) (s : State) : Host.Outcome State Fault Refusal :=
  runCmd dt s fun b => hostWrites b (Reg.CARD_ENG_ENABLE die.val) (fun b => writeEngEnable b die.val data.toNat)

end Sys2Proof.Machine
end

