-- ==== Sys2Proof/Machine/Cross.lean ====
section
/-!
DEFINITION. Sys2Proof/Machine/Cross.lean: wefts of cross-device groups (spec/14_weave.md R374, R376, R382 to R384;
spec/17_timebase_fabric.md R451, R467 to R469).
-/

namespace Sys2Proof.Machine

/-- CROSS_PLAN_EVAL (R217, R218, R382, R467 step 1). -/
def execCrossPlanEval (dt : Nat) (g : Fin 32) (s : State) : Host.Outcome State Fault Refusal := runCmd dt s fun b => planEval b g.val

/-- PLAN (R451, R463, R467 step 2). -/
def execPlan (dt : Nat) (port : Fin 4) (src : Nat) (m : Bytes) (s : State) : Host.Outcome State Fault Refusal :=
  runCmd dt s fun b => if shutUp b port.val then planIn b src m else b

/-- LAUNCH (R364, R467 steps 3 to 5). -/
def execLaunch (dt : Nat) (port : Fin 4) (src : Nat) (m : Bytes) (s : State) : Host.Outcome State Fault Refusal :=
  runCmd dt s fun b => if shutUp b port.val ∧ b.fab.hold.isNone ∧ fieldAt m 26 2 = src then memberLaunch b m else b

/-- LAUNCH_MISSING (R467). -/
def execLaunchMissing (dt : Nat) (g : Fin 32) (s : State) : Host.Outcome State Fault Refusal := runCmd dt s fun b => launchMissing b g.val

/-- VERDICT (R368 to R371, R382, R463). -/
def execVerdict (dt : Nat) (port : Fin 4) (src : Nat) (m : Bytes) (s : State) : Host.Outcome State Fault Refusal :=
  runCmd dt s fun b => if shutUp b port.val ∧ src ≠ ownDev b then verdictMsg b m else b

/-- OUTCOME (R382, R390, R402). -/
def execOutcome (dt : Nat) (port : Fin 4) (src : Nat) (m : Bytes) (s : State) : Host.Outcome State Fault Refusal :=
  runCmd dt s fun b => if shutUp b port.val ∧ fromManager b src then outcomeIn b m else b

/-- DECLARE (R374, R376). -/
def execDeclare (dt : Nat) (port : Fin 4) (src : Nat) (m : Bytes) (s : State) : Host.Outcome State Fault Refusal :=
  runCmd dt s fun b => if shutUp b port.val ∧ fromManager b src then declareIn b m else b

/-- REGEN (R209, R383). -/
def execRegen (dt : Nat) (port : Fin 4) (src : Nat) (m : Bytes) (s : State) : Host.Outcome State Fault Refusal :=
  runCmd dt s fun b => if shutUp b port.val then regenIn b src m else b

/-- QUEUE (R215, R382). -/
def execQueue (dt : Nat) (port : Fin 4) (src : Nat) (m : Bytes) (s : State) : Host.Outcome State Fault Refusal :=
  runCmd dt s fun b => if shutUp b port.val then queueIn b src m else b

/-- QUEUE_REPORT (R382). -/
def execQueueReport (dt : Nat) (s : State) : Host.Outcome State Fault Refusal := runCmd dt s queueReport

/-- ROW (R382, R451, R469). -/
def execRow (dt : Nat) (port : Fin 4) (src : Nat) (m : Bytes) (s : State) : Host.Outcome State Fault Refusal :=
  runCmd dt s fun b => if shutUp b port.val ∧ src ≠ ownDev b then rowIn b m else b

end Sys2Proof.Machine
end

