-- ==== Sys2Proof/Machine/Erasure.lean ====
section
/-!
DEFINITION. Sys2Proof/Machine/Erasure.lean: the erasure of keys (spec/06_sealing.md R160 to R162).
-/

namespace Sys2Proof.Machine

/-- KEY_ERASURE (R160, R161): an erasure that an alarm has ordered on a die is complete, `duration` units of 10 ns after
the alarm, at most 5 µs. -/
def execKeyErasure (dt : Nat) (die : Fin 2) (duration : Nat) (s : State) : Host.Outcome State Fault Refusal :=
  runCmd dt s fun b =>
    match b.ciph.eraseDue.filter fun x => x.1 = die.val with
    | [] => b
    | l => eraseDie b die.val (l.any (·.2)) duration

end Sys2Proof.Machine
end

