-- ==== Sys2Proof/Machine/Fabric.lean ====
section
/-!
DEFINITION. Sys2Proof/Machine/Fabric.lean: loom time, shuttle links, the time tree and the manager
(spec/17_timebase_fabric.md R443 to R466, R472; spec/19_boot_trust.md R520).
-/

namespace Sys2Proof.Machine

/-- SHUT_ENABLE (R448): a write of SHUT_PORT_CTRL. -/
def execShutEnable (dt : Nat) (port : Fin 4) (data : Word) (s : State) : Host.Outcome State Fault Refusal :=
  runCmd dt s fun b => hostWrites b (Reg.SHUT_PORT_CTRL (port.val / 2) (port.val % 2)) (fun b => writeShutCtrl b port.val data.toNat)

/-- SHUT_RETRAIN (R448): a write of SHUT_PORT_CTRL with RETRAIN. -/
def execShutRetrain (dt : Nat) (port : Fin 4) (data : Word) (s : State) : Host.Outcome State Fault Refusal :=
  runCmd dt s fun b => hostWrites b (Reg.SHUT_PORT_CTRL (port.val / 2) (port.val % 2)) (fun b => writeShutCtrl b port.val (withBit data 1))

/-- SHUT_TIME_TIMEOUT (R448): no TIME cell for 3 ms. -/
def execShutTimeTimeout (dt : Nat) (port : Fin 4) (s : State) : Host.Outcome State Fault Refusal :=
  runCmd dt s fun b => if shutUp b port.val ∧ 3 * tMs ≤ since b (b.shut port.val).timeAt then shutLeave b port.val 3 else b

/-- SHUT_RETRY_TIMER (R448). -/
def execShutRetryTimer (dt : Nat) (port : Fin 4) (s : State) : Host.Outcome State Fault Refusal :=
  runCmd dt s fun b => shutRetry b port.val

/-- PACKET_RECEIVE (R447, R449, R450): a cell of type `cell` is received; with a head cell, its packet. -/
def execPacketReceive (dt : Nat) (port : Fin 4) (lane : Fin 4) (cell : Fin 16) (head body : Bytes) (s : State) : Host.Outcome State Fault Refusal :=
  runCmd dt s fun b => shutCell b port.val lane.val cell.val head body

/-- CREDIT (R450). -/
def execCredit (dt : Nat) (port : Fin 4) (lane : Fin 4) (cells : Nat) (s : State) : Host.Outcome State Fault Refusal :=
  runCmd dt s fun b => creditIn b port.val lane.val cells

/-- HEARTBEAT_SEND (R452, R462). -/
def execHeartbeatSend (dt : Nat) (s : State) : Host.Outcome State Fault Refusal := runCmd dt s heartbeatSend

/-- HEARTBEAT (R452, R453, R464). -/
def execHeartbeat (dt : Nat) (port : Fin 4) (src : Nat) (m : Bytes) (s : State) : Host.Outcome State Fault Refusal :=
  runCmd dt s fun b => heartbeatIn b port.val src m

/-- HEARTBEAT_MISS (R453). -/
def execHeartbeatMiss (dt : Nat) (s : State) : Host.Outcome State Fault Refusal := runCmd dt s heartbeatMiss

/-- PARENT_TIME_EXCHANGE (R454 to R456). -/
def execParentTimeExchange (dt : Nat) (t1 t2 t3 t4 : Nat) (s : State) : Host.Outcome State Fault Refusal :=
  runCmd dt s fun b => parentExchange b t1 t2 t3 t4

/-- HOLDOVER (R457): also each evaluation of ERROR_EST in holdover. -/
def execHoldover (dt : Nat) (s : State) : Host.Outcome State Fault Refusal := runCmd dt s holdover

/-- PPS_EDGE (R459). -/
def execPpsEdge (dt : Nat) (s : State) : Host.Outcome State Fault Refusal := runCmd dt s ppsEdge

/-- TIME_REF_LOST (R459): TIME_REF is lost, or 1PPS where `pps`. -/
def execTimeRefLost (dt : Nat) (pps : Bool) (s : State) : Host.Outcome State Fault Refusal := runCmd dt s fun b => refLost b pps

/-- DIE_ALIGN_CHECK (R445): `err` is the error of Die S's counter in ticks. -/
def execDieAlignCheck (dt : Nat) (err : Int) (s : State) : Host.Outcome State Fault Refusal := runCmd dt s fun b => dieAlign b err

/-- MANAGER_ELECTION (R461). -/
def execManagerElection (dt : Nat) (s : State) : Host.Outcome State Fault Refusal := runCmd dt s election

/-- STATE (R462). -/
def execState (dt : Nat) (port : Fin 4) (src : Nat) (m : Bytes) (s : State) : Host.Outcome State Fault Refusal :=
  runCmd dt s fun b => if shutUp b port.val then stateIn b src m else b

/-- STANDBY_TAKEOVER (R463). -/
def execStandbyTakeover (dt : Nat) (s : State) : Host.Outcome State Fault Refusal := runCmd dt s takeover

/-- HOLD (R464, R465, R471). -/
def execHold (dt : Nat) (port : Fin 4) (src : Nat) (m : Bytes) (s : State) : Host.Outcome State Fault Refusal :=
  runCmd dt s fun b => if shutUp b port.val ∧ src ≠ ownDev b then holdIn b m else b

/-- CLAIM (R466): a write of SHUT_CTRL. -/
def execClaim (dt : Nat) (data : Word) (s : State) : Host.Outcome State Fault Refusal := runCmd dt s fun b =>
  hostWrites b Reg.SHUT_CTRL (fun b => writeShutCtl b (withBit data 0))

/-- AUTO_CLAIM_EXPIRY (R466). -/
def execAutoClaimExpiry (dt : Nat) (s : State) : Host.Outcome State Fault Refusal := runCmd dt s autoClaim

/-- HOPREP (R451, R468). -/
def execHoprep (dt : Nat) (port : Fin 4) (src : Nat) (m : Bytes) (s : State) : Host.Outcome State Fault Refusal :=
  runCmd dt s fun b => if shutUp b port.val then hopRepIn b port.val src m else b

/-- TIMEFAULT (R456). -/
def execTimefault (dt : Nat) (port : Fin 4) (src : Nat) (m : Bytes) (s : State) : Host.Outcome State Fault Refusal :=
  runCmd dt s fun b => if shutUp b port.val then timeFaultIn b src m else b

/-- ATTEST (R520). -/
def execAttest (dt : Nat) (port : Fin 4) (src : Nat) (m : Bytes) (s : State) : Host.Outcome State Fault Refusal :=
  runCmd dt s fun b => if shutUp b port.val then attestIn b src m else b

/-- HOPREP_REPORT (R451). -/
def execHoprepReport (dt : Nat) (s : State) : Host.Outcome State Fault Refusal := runCmd dt s hopRepReport

/-- TIME_REF_RESTORED (R459). -/
def execTimeRefRestored (dt : Nat) (pps : Bool) (adj : Int) (s : State) : Host.Outcome State Fault Refusal :=
  runCmd dt s fun b => refBack b pps adj

end Sys2Proof.Machine
end

