-- ==== Sys2Proof/Machine/Formatting.lean ====
section
/-!
DEFINITION. Sys2Proof/Machine/Formatting.lean: the format sequencers of a loom slice (spec/08_formatting.md R205 to R210;
spec/20_safety.md R535).
-/

namespace Sys2Proof.Machine

/-- Change a planned segment of a port. -/
def updWseg (b : Block) (p idx : Nat) (f : WSeg → WSeg) : Block :=
  b.updWport p fun w => { w with segs := w.segs.map fun s => if s.idx = idx then f s else s }

/-- The next segment of the port's run that is not written whole. -/
def nextSeg (w : Wport) : Option WSeg := w.segs.find? fun s => s.run = w.run && s.slot < 124 && s.cut.isNone

/-- A data role's source is in the beam store, unpoisoned (R209, R432). -/
def roleLive (b : Block) (w : Weft) (r : Nat) : Bool :=
  match (w.places.find? fun p => p.role = r && p.kind = 1).bind (·.dataset) with
  | some d => (b.dataset d).live && !(b.dataset d).poisoned
  | none => true

/-- The source of a segment's rows can be read (R205). -/
def sourceLive (b : Block) (s : WSeg) : Bool :=
  s.content.isSome || isMarker s || match weftOf (b.grp s.g) s.weft with
    | some w => if s.role < (b.grp s.g).k then roleLive b w s.role else (List.range (b.grp s.g).k).all (roleLive b w)
    | none => false

/-- The first slot whose rows can still be requested: it begins at least 4 slot times from now (R206). -/
def firstInTime (b : Block) (x : WSeg) : Nat :=
  ((List.range 104).find? fun k => b.time.now + 4 * 18018 * x.tw / segBits ≤ bitTime x (slotStart k)).getD 104

/-- The codeword of row request n of sequencer j: for each slot rows 2k and 2k + 1 of its two sub-datasets (R205). -/
def requestOf (j n : Nat) : Nat := 16 * (2 * (n / 4) + n % 4 / 2) + (2 * j + n % 2)

/-- ROW_FETCH (R206): sequencer `seq` of a slice requests its next data row, from 250 µs before the launch instant on,
while it holds fewer than 16 rows. Rows go to slots in pairs of each of its two sub-datasets. A row whose slot begins within 4 slot
times is requested no more, and is missing. -/
def execRowFetch (dt : Nat) (port : Fin 32) (seq : Fin 8) (s : State) : Host.Outcome State Fault Refusal :=
  runCmd dt s fun b =>
    let w := b.wport port.val
    match w.segs.find? fun x => x.run = w.run && x.slot < 104 && x.cut.isNone && !isMarker x && tabGet 0 x.fetched seq.val < 416 with
    | none => b
    | some x =>
      let n := tabGet 0 x.fetched seq.val
      let m := max n (4 * firstInTime b x)
      let b := updWseg b port.val x.idx fun x => { x with
        fetched := tabSet 0 x.fetched seq.val m, missed := x.missed ++ (List.range (m - n)).map fun i => requestOf seq.val (n + i) }
      if m < 416 ∧ m - 4 * x.slot < 16 ∧ reached b (x.l - 250 * tUs) ∧ sourceLive b x then
        updWseg b port.val x.idx fun x => { x with fetched := tabSet 0 x.fetched seq.val (m + 1) }
      else b

/-- Codeword (sds, row) of a segment is complete when slot k is due (R206, R207, R535). -/
def cwComplete (b : Block) (x : WSeg) (k sds row : Nat) : Bool :=
  sourceLive b x && !x.bad.contains (16 * row + sds) && min 416 (4 * k + 4) ≤ tabGet 0 x.fetched (sds / 2)
    && (if row < 208 then !x.missed.contains (16 * row + sds) else !x.missed.any fun e => e % 16 = sds)
    && match x.rows with
      | none => true
      | some l => if row < 208 then l.contains (16 * row + sds) else (List.range 208).all fun r => l.contains (16 * r + sds)

/-- What a slot of a track carries: header and row, and whether a codeword was late (R175, R198, R207, R208). -/
def slotContent (b : Block) (p : Nat) (x : WSeg) (k t failed : Nat) : Bytes × Bytes × Bool :=
  let fill := (fillHeader x k, zeros 2048)
  let w := b.wport p
  if isMarker x then (if k < 120 then (placedHeader b w x t k, x.marker, false) else (fill.1, fill.2, false))
  else if bitOf failed t then (fill.1, fill.2, false)
  else if k < 120 then
    let (sds, row) := cwAt k t
    if cwComplete b x k sds row then (dsHeader b x sds row, dsRow (segContent b x) sds row, false)
    else (fill.1, fill.2, !x.bad.contains (16 * row + sds))
  else match tabGet (0, 4096, false) w.alloc (128 * x.idx + 4 * t + (k - 120)) with
    | (i, e, true) => match segOf w i with
      | some v =>
        let header := dsHeader b v (e % 16) (e / 16)
        if v.rows.isSome then
          match tabFind v.regen e with
          | some row => (header, row, false)
          | none => (fill.1, fill.2, true)
        else if sourceLive b v then (header, dsRow (segContent b v) (e % 16) (e / 16), false)
        else (fill.1, fill.2, true)
      | none => (fill.1, fill.2, false)
    | _ => (fill.1, fill.2, false)

/-- The codes of R239 for channel bits from bit `i` of the run on, with the magnetization before and the last transition. -/
def transCodes : Nat → Bool → Option Nat → List Bool → List Nat × Bool × Option Nat
  | _, mag, last, [] => ([], mag, last)
  | i, mag, last, m :: t =>
    let code := if m = mag then 0 else match last with
      | some j => if i = j + 1 then 3 else if i = j + 2 then 2 else 1
      | none => 1
    let (cs, m', l') := transCodes (i + 1) m (if m = mag then last else some i) t
    (code :: cs, m', l')

/-- Form slot k of a segment on one track, with the preamble, sync mark or postamble beside it (R172, R173, R182, R239). -/
def sendSlot (b : Block) (p : Nat) (x : WSeg) (k t : Nat) (header row : Bytes) : Block :=
  let w := b.wport p
  let mag := w.mags.getD t false
  let pre := (if k = 0 then ambleBits 256 else []) ++ (if k % 8 = 0 then syncBits else [])
  let bits := pre ++ modulate (pre.getLastD mag) (slotBits header row) ++ (if k = 123 then ambleBits 128 else [])
  let first := (x.idx - w.runFirst) * segBits + slotStart k - pre.length
  let last := (tabGet 0 w.lastTr t)
  let (codes, mag', last') := transCodes first mag (if last = 0 then none else some (last - 1)) bits
  b.updWport p fun w => { formCodes b w t first codes with
    mags := w.mags.set t mag', lastTr := tabSet 0 w.lastTr t (match last' with | some i => i + 1 | none => 0) }

/-- The writing of a dataset begins: its verify set, with the tracks dead for the module lost from the start (R284, R297). -/
def beginSet (b : Block) (p : Nat) (x : WSeg) : Block :=
  let mB := byModuleB b p x
  let dead := rd b (if mB then Fld.VFY_DEAD_B_DEAD p else Fld.VFY_DEAD_A_DEAD p)
  let v : VSet := { idx := x.idx, lost := (List.range 32).filter (bitOf dead) }
  b.updWport p fun w => { w with sets := w.sets ++ [v], hist := w.hist ++ [(x.idx, mB, [], false)] }

/-- A weft abort (R536): the dataset is treated as poisoned, and WEFT_ABORT goes to the scheduler. -/
def weftAbort (b : Block) (p : Nat) (x : WSeg) : Block :=
  let b := inc b (Fld.SAFE_PORT_COUNT_ABORTS (p / 16) (p % 16))
  let b := safetyAlarm (safeLog b 13 p 5 3 x.weft) Fld.CIPH_ALARM_MASK_FORMAT_PATH
  let b := { b with heads := { b.heads with aborts := b.heads.aborts ++ [(x.g, x.weft)] } }
  match x.dataset with
  | some d => poisonDataset b d
  | none => b

/-- A failed check of R535 at slot k: 1 C1 or 2 demodulation of the tracks in `mask`; 3 C2 syndromes of the sub-datasets
in `mask`, whose check rows then carry fill; 4 the weft encoder of a parity role; 5 the DIT of a data role. -/
def pathFail (b : Block) (p : Nat) (x : WSeg) (k fail mask : Nat) : Block :=
  let enc (n : Nat) (b : Block) : Block := safeLog (inc b (Fld.SAFE_PORT_COUNT_ENC_FAIL (p / 16) (p % 16)) n) 14 p 0 3 0
  match fail with
  | 1 => enc (popN 32 mask) b
  | 2 => enc (popN 32 mask) b
  | 3 =>
    if k < 104 ∧ !isMarker x then
      let es := ((List.range 16).filter (bitOf mask)).flatMap fun s => (List.range 32).map fun i => 16 * (208 + i) + s
      enc (popN 16 mask) (updWseg b p x.idx fun x => { x with bad := x.bad ++ es })
    else b
  | 4 => if (b.grp x.g).k ≤ x.role ∧ x.kind ≠ 7 ∧ !isMarker x then enc 1 (updSet b p x.idx fun v => { v with encFail := true }) else b
  | 5 => if x.role < (b.grp x.g).k ∧ 100 ≤ k ∧ k < 104 ∧ (x.kind = 1 ∨ x.kind = 2 ∨ x.kind = 5) then weftAbort b p x else b
  | _ => b

/-- A copy is written into rewrite slot j of segment x on track t: it is counted, and noted for the verdict record of its
dataset (R299). DEDUCED (log entry 135): a copy is used when it is written. -/
def noteCopy (b : Block) (p : Nat) (x : WSeg) (t j : Nat) : Block :=
  let (i, _, _) := tabGet (0, 4096, false) (b.wport p).alloc (128 * x.idx + 4 * t + j)
  updSet (inc b (Fld.VFY_REWRITE_COUNT p)) p i fun v => { v with rewrites := v.rewrites + 1, third := v.third || x.idx = i + 3 }

/-- Slot k of segment x is sent on track t: its codeword, or fill where that is late or failed (R207, R535). -/
def writeTrack (x : WSeg) (p k failed : Nat) (b : Block) (t : Nat) : Block :=
  let (header, row, late) := slotContent b p x k t failed
  let b := when late b fun b => inc b (Fld.FMT_LATE_LATE_CW p)
  let b := if k < 120 ∧ !isMarker x then
      let (sds, r) := cwAt k t
      let crc := crc32c (dsRow (segContent b x) sds r)
      updWseg b p x.idx fun x => { x with crcs := tabSet 4294967296 x.crcs (16 * r + sds) crc }
    else if 120 ≤ k ∧ header ≠ fillHeader x k then noteCopy b p x t (k - 120)
    else b
  sendSlot b p x k t header row

/-- The slot of a segment is sent on every track, with the outcome of the checks of R535 (R207, R208). -/
def writeSlot (b : Block) (p : Nat) (x : WSeg) (fail mask : Nat) : Block :=
  let k := x.slot
  let b := if k = 0 ∧ !isMarker x then beginSet b p x else b
  let b := pathFail b p x k fail mask
  match segOf (b.wport p) x.idx with
  | none => b
  | some x =>
    let failed := if fail = 1 ∨ fail = 2 then mask else 0
    let b := forEach (List.range 32) b (writeTrack x p k failed)
    updWseg b p x.idx fun x => { x with slot := k + 1 }

/-- The INTENT of the weft launched at a segment's instant is durable (R22): of a cross-device group no LAUNCH goes out before
(R467). A run that no group launches has none. -/
def intentHolds (b : Block) (p : Nat) (x : WSeg) : Bool :=
  match (b.wport p).what with
  | .group g => (b.grp g).cross || !(b.grp g).wefts.any fun w => w.l = x.l && !w.intentDurable
  | _ => true

/-- SLOT_WRITE (R207, R208): the next slot of the port's run is sent on every track, from 12 µs before it is due on; no bit of a
weft whose INTENT is not durable (R22).
`fail` and `mask` are the outcome of the checks of R535 (`pathFail`). -/
def execSlotWrite (dt : Nat) (port : Fin 32) (fail mask : Nat) (s : State) : Host.Outcome State Fault Refusal :=
  runCmd dt s fun b =>
    match nextSeg (b.wport port.val) with
    | none => b
    | some x =>
      if !linkUp b port.val ∨ !intentHolds b port.val x ∨ !reached b (bitTime x (slotStart x.slot) - 48000) then b
      else writeSlot b port.val x fail mask

/-- REGEN_REQUEST (R208 to R210): the rewrite slot `slot` (0 to 3) of track `track`, of the `seg`-th segment of the run
planned or to come, has been allocated; the sequencer takes the request, or refuses it when it comes too late, and the
arbiter then allocates again. -/
def execRegenRequest (dt : Nat) (port : Fin 32) (seg : Nat) (track : Fin 32) (slot : Fin 4) (s : State) :
    Host.Outcome State Fault Refusal :=
  runCmd dt s fun b =>
    let p := port.val
    let w := b.wport p
    let n := w.runFirst + seg
    let key := 128 * n + 4 * track.val + slot.val
    match tabGet (0, 4096, false) w.alloc key with
    | (i, e, false) =>
      match segOf w i, segStart w n with
      | some v, some l =>
        if e < 4096 then
          if b.time.now + regenLead b v e ≤ l + slotStart (120 + slot.val) * v.tw / segBits then
            let b := inc (b.updWport p fun w => { w with alloc := tabSet (0, 4096, false) w.alloc key (i, e, true) }) (Fld.FMT_REGEN_COUNT p)
            if v.rows.isSome then msgTo b (((weftOf (b.grp v.g) v.weft).map (·.owner)).getD 0) 0x0C (regenMsg b v e) else b
          else
            checkVerdict (refuseCopy (inc b (Fld.FMT_LATE_REGEN_REFUSED p)) p i e n slot.val) p i
        else b
      | _, _ => b
    | _ => b

end Sys2Proof.Machine
end

