-- ==== Sys2Proof/Machine/Heddle.lean ====
section
/-!
DEFINITION. Sys2Proof/Machine/Heddle.lean: the heddle link (spec/09_heddle_link.md R226 to R250, R607).
-/

namespace Sys2Proof.Machine

/-- HDL_ENABLE (R248): a write of HDL_CTRL. -/
def execHdlEnable (dt : Nat) (port : Fin 32) (data : Word) (s : State) : Host.Outcome State Fault Refusal :=
  runCmd dt s fun b => hostWrites b (Reg.HDL_CTRL port.val) (fun b => writeHdlCtrl b port.val data.toNat)

/-- HDL_TRAINING_TIMEOUT (R248): a step of training has missed its time. -/
def execHdlTrainingTimeout (dt : Nat) (port : Fin 32) (s : State) : Host.Outcome State Fault Refusal :=
  runCmd dt s fun b => if training b port.val ∧ reached b (b.hdlP port.val).due then attemptFails b port.val else b

/-- HDL_RETRAIN: RETRAIN is written with 1: an UP link goes DOWN and retrains (R248). -/
def execHdlRetrain (dt : Nat) (port : Fin 32) (s : State) : Host.Outcome State Fault Refusal :=
  runCmd dt s fun b => hostWrites b (Reg.HDL_CTRL port.val) (fun b => writeHdlCtrl b port.val (setBits (regGet b (Reg.HDL_CTRL port.val)) 1 1 1))

/-- CODEWORD_RECEIVE (R228 to R231, R249): the 5,440 bits of a codeword, scrambled and with whatever errors they have, on a heddle port,
or on a shuttle port (R447, R448). -/
def execCodewordReceive (dt : Nat) (shuttle : Bool) (port : Fin 32) (lane : Fin 4) (header : BitVec 276) (cells : BitVec 4864)
    (check : BitVec 300) (s : State) : Host.Outcome State Fault Refusal :=
  runCmd dt s fun b =>
    if shuttle then shutCodeword b (port.val % 4) lane.val (wireWord header cells check)
    else codeword b port.val lane.val (wireWord header cells check)

/-- STATUS_TIMEOUT (R249 condition 4): no STATUS for 5 ms. -/
def execStatusTimeout (dt : Nat) (port : Fin 32) (s : State) : Host.Outcome State Fault Refusal :=
  runCmd dt s fun b => if linkUp b port.val ∧ 5 * tMs ≤ since b (b.hdlP port.val).statusAt then linkDown b port.val 4 else b

/-- MARKER_SEND (R232). -/
def execMarkerSend (dt : Nat) (port : Fin 32) (seq : Nat) (s : State) : Host.Outcome State Fault Refusal :=
  runCmd dt s fun b => markerSend b port.val seq

/-- TIME_EXCHANGE (R232, R233): the upstream TIME cell of the marker that arrived at `t4`. -/
def execTimeExchange (dt : Nat) (port : Fin 32) (cell : Bytes) (t4 : Nat) (s : State) : Host.Outcome State Fault Refusal :=
  runCmd dt s fun b => timeExchange b port.val (slice cell 0 32) t4

/-- SAMPLE_CELL (R235, R255, R258 to R268): a cell, or its loss. -/
def execSampleCell (dt : Nat) (port : Fin 32) (lane : Fin 4) (lost : Bool) (cell : Bytes) (s : State) : Host.Outcome State Fault Refusal :=
  runCmd dt s fun b => onSample b port.val lane.val (if lost then none else some (slice cell 0 32))

/-- SCHEDULING_POINT (R260, R261, R268, R282) of the reader of a module on the track 16 × role + 8 × half + place. -/
def execSchedulingPoint (dt : Nat) (port : Fin 32) (moduleB : Bool) (role : Fin 2) (half : Fin 2) (place : Fin 8) (s : State) :
    Host.Outcome State Fault Refusal :=
  runCmd dt s fun b => schedulingPoint b port.val (readerNo moduleB role (8 * half.val + place.val))

/-- SERVO_CELL (R236, R281, R307, R308): a cell, or its loss. -/
def execServoCell (dt : Nat) (port : Fin 32) (reader : Fin 2) (lost : Bool) (cell : Bytes) (s : State) : Host.Outcome State Fault Refusal :=
  runCmd dt s fun b => onServo b port.val reader.val (if lost then none else some (slice cell 0 32))

/-- SENSE_CELL (R237, R344, R346). -/
def execSenseCell (dt : Nat) (port : Fin 32) (cell : Option Bytes) (s : State) : Host.Outcome State Fault Refusal :=
  runCmd dt s fun b => onSense b port.val (cell.map fun c => slice c 0 32)

/-- TRANSDUCER_EVALUATION (R346 condition 2). -/
def execTransducerEvaluation (dt : Nat) (port : Fin 32) (s : State) : Host.Outcome State Fault Refusal :=
  runCmd dt s fun b => evalTransducers b port.val

/-- EDGE_KEEPALIVE (R243): no EDGE cell for 10 µs, so an empty one is sent. -/
def execEdgeKeepalive (dt : Nat) (port : Fin 32) (s : State) : Host.Outcome State Fault Refusal :=
  runCmd dt s fun b => if linkUp b port.val ∧ 10 * tUs ≤ since b (b.hdlP port.val).edgeAt then sendEdgeCell b port.val [] else b

/-- IDENT (R246, R248 step 6). -/
def execIdent (dt : Nat) (port : Fin 32) (seq : Nat) (payload : Bytes) (s : State) : Host.Outcome State Fault Refusal :=
  runCmd dt s fun b => freshMsg b port.val seq fun b => onIdent b port.val payload

/-- STATUS (R246). -/
def execStatus (dt : Nat) (port : Fin 32) (seq : Nat) (payload : Bytes) (s : State) : Host.Outcome State Fault Refusal :=
  runCmd dt s fun b => freshMsg b port.val seq fun b => onStatus b port.val payload

/-- EVENT (R246, R247). -/
def execEvent (dt : Nat) (port : Fin 32) (seq : Nat) (payload : Bytes) (s : State) : Host.Outcome State Fault Refusal :=
  runCmd dt s fun b => freshMsg b port.val seq fun b => onEvent b port.val payload

/-- ACK (R245, R246, R607). -/
def execAck (dt : Nat) (port : Fin 32) (seq : Nat) (payload : Bytes) (s : State) : Host.Outcome State Fault Refusal :=
  runCmd dt s fun b => freshMsg b port.val seq fun b => onAck b port.val payload

/-- MSG_RESEND (R245, R249 condition 5). -/
def execMsgResend (dt : Nat) (port : Fin 32) (s : State) : Host.Outcome State Fault Refusal :=
  runCmd dt s fun b => msgResend b port.val

/-- LANE_LOCK_LOSS (R249 condition 1, R250): an active lane of an UP link loses lock: of a heddle link's four upstream lanes
or its two downstream lanes with a role, or any lane of a shuttle link (R446, R448). -/
def execLaneLockLoss (dt : Nat) (shuttle : Bool) (port : Fin 32) (upstream : Bool) (lane : Fin 4) (s : State) : Host.Outcome State Fault Refusal :=
  runCmd dt s fun b =>
    if shuttle then (if shutUp b (port.val % 4) then shutLeave b (port.val % 4) 3 else b)
    else if upstream || lane.val == rd b (Fld.HDL_STATUS_ROLE0 port.val) || lane.val == rd b (Fld.HDL_STATUS_ROLE1 port.val) then
      linkDown b port.val 1
    else b

/-- TRAINING_BLOCK (R227, R248, R448): a training block is received on a lane of a heddle or shuttle port. -/
def execTrainingBlock (dt : Nat) (shuttle : Bool) (port : Fin 32) (lane : Fin 4) (inverted : Bool) (control : Nat) (locked : Nat) (s : State) :
    Host.Outcome State Fault Refusal :=
  runCmd dt s fun b =>
    if shuttle then shutTraining b (port.val % 4) lane.val inverted control locked
    else trainingBlock b port.val lane.val inverted control locked

end Sys2Proof.Machine
end

