-- ==== Sys2Proof/Machine/HostQueue.lean ====
section
/-!
DEFINITION. Sys2Proof/Machine/HostQueue.lean: the commands of the host, and what happens to queue pairs, fetched entries, holds,
completions and tenants (spec/02_host_queues.md R36 to R71; spec/03_ingest.md R76 to R86). A row of an opcode is the host placing
that entry in queue pair q of function fn, with what follows at once (DESIGN CHOICE, log entry 63).
-/

namespace Sys2Proof.Machine

/-- OPEN_STREAM (R76 to R79, R86). -/
def execOpenStream (dt : Nat) (fn : Fin 256) (q : Fin 1024) (e : Sqe) (sgl : List Sgl) (s : State) : Host.Outcome State Fault Refusal :=
  runCmd dt s fun b => submit b fn.val q.val { e with opcode := 1 } sgl

/-- CLOSE_STREAM (R53, R59, R78). -/
def execCloseStream (dt : Nat) (fn : Fin 256) (q : Fin 1024) (e : Sqe) (sgl : List Sgl) (s : State) : Host.Outcome State Fault Refusal :=
  runCmd dt s fun b => submit b fn.val q.val { e with opcode := 2 } sgl

/-- OPEN_OBJECT (R80, R84, R85). -/
def execOpenObject (dt : Nat) (fn : Fin 256) (q : Fin 1024) (e : Sqe) (sgl : List Sgl) (s : State) : Host.Outcome State Fault Refusal :=
  runCmd dt s fun b => submit b fn.val q.val { e with opcode := 3 } sgl

/-- PUT_RECORD (R56, R57, R62, R82, R150). -/
def execPutRecord (dt : Nat) (fn : Fin 256) (q : Fin 1024) (e : Sqe) (sgl : List Sgl) (s : State) : Host.Outcome State Fault Refusal :=
  runCmd dt s fun b => submit b fn.val q.val { e with opcode := 4 } sgl

/-- CLOSE_OBJECT (R59, R108, R189). -/
def execCloseObject (dt : Nat) (fn : Fin 256) (q : Fin 1024) (e : Sqe) (sgl : List Sgl) (s : State) : Host.Outcome State Fault Refusal :=
  runCmd dt s fun b => submit b fn.val q.val { e with opcode := 5 } sgl

/-- FLUSH (R33, R59). -/
def execFlush (dt : Nat) (fn : Fin 256) (q : Fin 1024) (e : Sqe) (sgl : List Sgl) (s : State) : Host.Outcome State Fault Refusal :=
  runCmd dt s fun b => submit b fn.val q.val { e with opcode := 6 } sgl

/-- ABORT_OBJECT (R62, R63, R100). -/
def execAbortObject (dt : Nat) (fn : Fin 256) (q : Fin 1024) (e : Sqe) (sgl : List Sgl) (s : State) : Host.Outcome State Fault Refusal :=
  runCmd dt s fun b => submit b fn.val q.val { e with opcode := 7 } sgl

/-- MOUNT (R406). -/
def execMount (dt : Nat) (fn : Fin 256) (q : Fin 1024) (e : Sqe) (sgl : List Sgl) (s : State) : Host.Outcome State Fault Refusal :=
  runCmd dt s fun b => submit b fn.val q.val { e with opcode := 0x10 } sgl

/-- UNMOUNT (R403, R489). -/
def execUnmount (dt : Nat) (fn : Fin 256) (q : Fin 1024) (e : Sqe) (sgl : List Sgl) (s : State) : Host.Outcome State Fault Refusal :=
  runCmd dt s fun b => submit b fn.val q.val { e with opcode := 0x11 } sgl

/-- LOCATE (R54, R407). -/
def execLocate (dt : Nat) (fn : Fin 256) (q : Fin 1024) (e : Sqe) (sgl : List Sgl) (s : State) : Host.Outcome State Fault Refusal :=
  runCmd dt s fun b => submit b fn.val q.val { e with opcode := 0x12 } sgl

/-- READ_OBJECT (R54, R407). -/
def execReadObject (dt : Nat) (fn : Fin 256) (q : Fin 1024) (e : Sqe) (sgl : List Sgl) (s : State) : Host.Outcome State Fault Refusal :=
  runCmd dt s fun b => submit b fn.val q.val { e with opcode := 0x13 } sgl

/-- READ_RECORD (R54, R407). -/
def execReadRecord (dt : Nat) (fn : Fin 256) (q : Fin 1024) (e : Sqe) (sgl : List Sgl) (s : State) : Host.Outcome State Fault Refusal :=
  runCmd dt s fun b => submit b fn.val q.val { e with opcode := 0x14 } sgl

/-- PATROL (R408). -/
def execPatrol (dt : Nat) (fn : Fin 256) (q : Fin 1024) (e : Sqe) (sgl : List Sgl) (s : State) : Host.Outcome State Fault Refusal :=
  runCmd dt s fun b => submit b fn.val q.val { e with opcode := 0x20 } sgl

/-- REBUILD (R380). -/
def execRebuild (dt : Nat) (fn : Fin 256) (q : Fin 1024) (e : Sqe) (sgl : List Sgl) (s : State) : Host.Outcome State Fault Refusal :=
  runCmd dt s fun b => submit b fn.val q.val { e with opcode := 0x21 } sgl

/-- RESHAPE (R411). -/
def execReshape (dt : Nat) (fn : Fin 256) (q : Fin 1024) (e : Sqe) (sgl : List Sgl) (s : State) : Host.Outcome State Fault Refusal :=
  runCmd dt s fun b => submit b fn.val q.val { e with opcode := 0x22 } sgl

/-- KEY_LOAD (R157). -/
def execKeyLoad (dt : Nat) (fn : Fin 256) (q : Fin 1024) (e : Sqe) (sgl : List Sgl) (s : State) : Host.Outcome State Fault Refusal :=
  runCmd dt s fun b => submit b fn.val q.val { e with opcode := 0x30 } sgl

/-- KEY_DROP (R158). -/
def execKeyDrop (dt : Nat) (fn : Fin 256) (q : Fin 1024) (e : Sqe) (sgl : List Sgl) (s : State) : Host.Outcome State Fault Refusal :=
  runCmd dt s fun b => submit b fn.val q.val { e with opcode := 0x31 } sgl

/-- ATTEST_QUOTE (R519). -/
def execAttestQuote (dt : Nat) (fn : Fin 256) (q : Fin 1024) (e : Sqe) (sgl : List Sgl) (s : State) : Host.Outcome State Fault Refusal :=
  runCmd dt s fun b => submit b fn.val q.val { e with opcode := 0x32 } sgl

/-- GET_ENTROPY (R164). -/
def execGetEntropy (dt : Nat) (fn : Fin 256) (q : Fin 1024) (e : Sqe) (sgl : List Sgl) (s : State) : Host.Outcome State Fault Refusal :=
  runCmd dt s fun b => submit b fn.val q.val { e with opcode := 0x33 } sgl

/-- GET_LOG (R577, R578). -/
def execGetLog (dt : Nat) (fn : Fin 256) (q : Fin 1024) (e : Sqe) (sgl : List Sgl) (s : State) : Host.Outcome State Fault Refusal :=
  runCmd dt s fun b => submit b fn.val q.val { e with opcode := 0x40 } sgl

/-- TUNE_LOOP (R326). -/
def execTuneLoop (dt : Nat) (fn : Fin 256) (q : Fin 1024) (e : Sqe) (sgl : List Sgl) (s : State) : Host.Outcome State Fault Refusal :=
  runCmd dt s fun b => submit b fn.val q.val { e with opcode := 0x41 } sgl

/-- INJECT_CAPTURE (R329). -/
def execInjectCapture (dt : Nat) (fn : Fin 256) (q : Fin 1024) (e : Sqe) (sgl : List Sgl) (s : State) : Host.Outcome State Fault Refusal :=
  runCmd dt s fun b => submit b fn.val q.val { e with opcode := 0x42 } sgl

/-- BEAM_FILL (R424). -/
def execBeamFill (dt : Nat) (fn : Fin 256) (q : Fin 1024) (e : Sqe) (sgl : List Sgl) (s : State) : Host.Outcome State Fault Refusal :=
  runCmd dt s fun b => submit b fn.val q.val { e with opcode := 0x50 } sgl

/-- BEAM_RETIRE (R431). -/
def execBeamRetire (dt : Nat) (fn : Fin 256) (q : Fin 1024) (e : Sqe) (sgl : List Sgl) (s : State) : Host.Outcome State Fault Refusal :=
  runCmd dt s fun b => submit b fn.val q.val { e with opcode := 0x51 } sgl

/-- QP_ENABLE (R43): a write of QP_CTRL with ENABLE 1. -/
def execQpEnable (dt : Nat) (fn : Fin 256) (q : Fin 1024) (data : Word) (s : State) : Host.Outcome State Fault Refusal :=
  runCmd dt s fun b => hostWrites b (Reg.QP_CTRL fn.val q.val) (fun b => writeQpCtrl b fn.val q.val (withBit data 0)) (pairThere b fn.val q.val)

/-- QP_DISABLE (R47): a write of QP_CTRL with ENABLE 0. -/
def execQpDisable (dt : Nat) (fn : Fin 256) (q : Fin 1024) (data : Word) (s : State) : Host.Outcome State Fault Refusal :=
  runCmd dt s fun b => hostWrites b (Reg.QP_CTRL fn.val q.val) (fun b => writeQpCtrl b fn.val q.val (withoutBit data 0)) (pairThere b fn.val q.val)

/-- QP_SQ_TAIL_DB (R44). -/
def execQpSqTailDb (dt : Nat) (fn : Fin 256) (q : Fin 1024) (index : Nat) (s : State) : Host.Outcome State Fault Refusal :=
  runCmd dt s fun b => hostWrites b (Reg.QP_SQ_TAIL_DB fn.val q.val) (fun b => sqTailDb b fn.val q.val (bitsOf index 0 12)) (pairThere b fn.val q.val)

/-- QP_CQ_HEAD_DB (R46). -/
def execQpCqHeadDb (dt : Nat) (fn : Fin 256) (q : Fin 1024) (index : Nat) (s : State) : Host.Outcome State Fault Refusal :=
  runCmd dt s fun b => hostWrites b (Reg.QP_CQ_HEAD_DB fn.val q.val) (fun b => cqHeadDb b fn.val q.val (bitsOf index 0 12)) (pairThere b fn.val q.val)

/-- DMA_ERR_CLEAR (R48): a write of 1 to DMA_ERR in QP_STATUS. -/
def execDmaErrClear (dt : Nat) (fn : Fin 256) (q : Fin 1024) (s : State) : Host.Outcome State Fault Refusal :=
  runCmd dt s fun b => hostWrites b (Reg.QP_STATUS fn.val q.val) (fun b => writeQpStatus b fn.val q.val 8) (pairThere b fn.val q.val)

/-- FUNCTION_LEVEL_RESET (R48, R68). -/
def execFunctionLevelReset (dt : Nat) (fn : Fin 256) (s : State) : Host.Outcome State Fault Refusal :=
  runCmd dt s fun b => if fnThere b fn.val then functionReset b fn.val else b

/-- SQ_ENTRY_FETCH (R49, R55): the 64 bytes read, and the scatter list they name. -/
def execSqEntryFetch (dt : Nat) (fn : Fin 256) (q : Fin 1024) (raw : Bytes) (sgl : List Sgl) (s : State) : Host.Outcome State Fault Refusal :=
  runCmd dt s fun b => if canFetch b fn.val q.val then fetchEntry b fn.val q.val (sqeOf raw) sgl else b

/-- SQ_READ_FAILED (R48). -/
def execSqReadFailed (dt : Nat) (fn : Fin 256) (q : Fin 1024) (s : State) : Host.Outcome State Fault Refusal :=
  runCmd dt s fun b => if canFetch b fn.val q.val then setDmaErr b fn.val q.val else b

/-- CQ_WRITE_FAILED (R48): the entry stays the first of those held, and the CQ tail where it is. -/
def execCqWriteFailed (dt : Nat) (fn : Fin 256) (q : Fin 1024) (s : State) : Host.Outcome State Fault Refusal :=
  runCmd dt s fun b =>
    let p := b.qp (qpKey fn.val q.val)
    if !p.waiting.isEmpty && !cqFull p && !p.cqHeld then holdCq b fn.val q.val else b

/-- DISPATCH_SLOT (R65, R66). -/
def execDispatchSlot (dt : Nat) (s : State) : Host.Outcome State Fault Refusal :=
  runCmd dt s fun b => slotOnce b

/-- OBJ_HOLD_EXPIRY (R85). -/
def execObjHoldExpiry (dt : Nat) (fn : Fin 256) (q : Fin 1024) (s : State) : Host.Outcome State Fault Refusal :=
  runCmd dt s fun b => objHoldExpiry b (qpKey fn.val q.val)

/-- BEAM_HOLD_EXPIRY (R56, R62). -/
def execBeamHoldExpiry (dt : Nat) (fn : Fin 256) (q : Fin 1024) (s : State) : Host.Outcome State Fault Refusal :=
  runCmd dt s fun b => beamHoldExpiry b (qpKey fn.val q.val)

/-- HELD_COMMAND_ACCEPT (R55, R66, R85). -/
def execHeldCommandAccept (dt : Nat) (fn : Fin 256) (q : Fin 1024) (s : State) : Host.Outcome State Fault Refusal :=
  runCmd dt s fun b => heldAccept b (qpKey fn.val q.val)

/-- COMPLETION_POST (R45, R59 to R61, R74). -/
def execCompletionPost (dt : Nat) (fn : Fin 256) (q : Fin 1024) (s : State) : Host.Outcome State Fault Refusal :=
  runCmd dt s fun b => postOne b fn.val q.val

/-- AGG_TIME_EXPIRY (R41). -/
def execAggTimeExpiry (dt : Nat) (fn : Fin 256) (q : Fin 1024) (s : State) : Host.Outcome State Fault Refusal :=
  runCmd dt s fun b => if aggTimeUp b fn.val q.val then signalCq b fn.val q.val true else b

/-- FORCE_TOKEN_GRID (R69). -/
def execForceTokenGrid (dt : Nat) (tenant : Fin 256) (s : State) : Host.Outcome State Fault Refusal :=
  runCmd dt s fun b => gridPoint b tenant.val

/-- HQI_TENANT_FORCE_WRITE (R69). -/
def execHqiTenantForceWrite (dt : Nat) (tenant : Fin 256) (data : Word) (s : State) : Host.Outcome State Fault Refusal :=
  runCmd dt s fun b => hostWrites b (Reg.HQI_TENANT_FORCE tenant.val) (fun b => writeForce b tenant.val data.toNat)

/-- HQI_FN_MAP_WRITE (R66 to R68). -/
def execHqiFnMapWrite (dt : Nat) (fn : Fin 256) (data : Word) (s : State) : Host.Outcome State Fault Refusal :=
  runCmd dt s fun b => hostWrites b (Reg.HQI_FN_MAP fn.val) (fun b => writeFnMap b fn.val data.toNat)

end Sys2Proof.Machine
end

