-- ==== Sys2Proof/Machine/Ingest.lean ====
section
/-!
DEFINITION. Sys2Proof/Machine/Ingest.lean: the DMA engine and the bobbin FIFOs (spec/03_ingest.md R87 to R101).
-/

namespace Sys2Proof.Machine

/-- BOBBIN_GRANT (R96). -/
def execBobbinGrant (dt : Nat) (die : Fin 2) (s : State) : Host.Outcome State Fault Refusal :=
  runCmd dt s fun b =>
    match waitingRecord b die.val, freeBobbin b die.val with
    | some n, some m =>
      let k := 512 * die.val + m
      let b := b.updBobbin k fun _ => { owner := some n, left := (b.cmd n).e.length }
      noteReady (b.updCmd n fun c => { c with bobbin := some k, phase := .transfer })
    | _, _ => b

/-- DMA_READ_REQUEST (R57, R95): issued in acceptance order among the records of a port whose bobbins can take every wide word their
next request's data can fill. -/
def execDmaReadRequest (dt cmd len : Nat) (s : State) : Host.Outcome State Fault Refusal :=
  runCmd dt s fun b =>
    let c := b.cmd cmd
    match c.bobbin with
    | some k =>
      if c.requested + len ≤ c.e.length ∧ dmaTurn b cmd len then
        let b := readBuf b c.fn c.e c.sgl c.requested len
        let b := b.updBobbin k fun x => { x with
          reserved := x.reserved + wordsFor c.requested len, left := x.left - len, due := x.due + len }
        b.updCmd cmd fun c => { c with requested := c.requested + len }
      else b
    | none => b

/-- DMA_READ_COMPLETION (R88, R89, R93, R94, R100): record bytes arrive in order and are packed into wide words. The bank image of a
TUNE_LOOP comes in the same way (R326). -/
def execDmaReadCompletion (dt cmd : Nat) (data : Bytes) (s : State) : Host.Outcome State Fault Refusal :=
  runCmd dt s fun b =>
    match bobbinOf b cmd with
    | some k => if data ≠ [] ∧ data.length ≤ (b.bobbin k).due ∧ !(b.bobbin k).allIn then recordBytes b k cmd data else b
    | none => if (b.cmd cmd).e.opcode = 0x41 then tuneData b cmd data else b

/-- DMA_READ_FAILED (R98, R101): the packet ends with a poisoned terminator word. -/
def execDmaReadFailed (dt cmd : Nat) (s : State) : Host.Outcome State Fault Refusal :=
  runCmd dt s fun b =>
    match bobbinOf b cmd with
    | some k =>
      if 0 < (b.bobbin k).due ∧ !(b.bobbin k).allIn then
        let b := if (b.cmd cmd).e.opcode = 4 then b.updCmd cmd fun c => { c with ended := true } else b
        terminate (inc b (Fld.BOB_ERR_COUNT_PCIE_ERR (k / 512))) k true
      else b
    | none => b

/-! ### The read side -/

/-- The carding engine takes a wide word of its record (R99): poison ends the object, with DROP_REST where the word had not LAST;
otherwise the bytes join its input buffer, and the bobbin is released with the packet's last word (R96). -/
def engineTakes (b : Block) (k n e : Nat) (data : Bytes) (side : Nat) (poison last : Bool) : Block :=
  if poison then
    let b := if last then settleBobbin b k else dropRest b k
    match (b.cmd n).obj with
    | some o => endObject b o 0x2003 .poisoned
    | none => b
  else settleBobbin (b.updEngine e fun x => { x with input := x.input ++ data.take (side % 128), inputEnd := last }) k

/-- BOBBIN_WIDE_READ (R91, R92, R99, R100): the consumer of the bobbin reads one wide word, of which `flipData` and
`flipSide` give the bits that have flipped in the store. A record bobbin is read by the engine that runs the record's job, while its
input buffer holds fewer than 131,072 bytes (R113); the packet of an ended object is dropped when it reaches its consumer. -/
def execBobbinWideRead (dt : Nat) (die : Fin 2) (bobbin : Fin 512) (flipData : Bytes) (flipSide : Nat) (s : State) :
    Host.Outcome State Fault Refusal :=
  runCmd dt s fun b =>
    let k := 512 * die.val + bobbin.val
    let x := b.bobbin k
    match x.words with
    | [] => emit b (.wide idleWord.data idleWord.side)
    | w :: _ =>
      if x.dropping then emit b (.wide idleWord.data idleWord.side)
      else if bobbin.val < 10 then readCredited b k w flipData flipSide
      else if x.dead then readDead b k w flipData flipSide
      else match x.owner with
        | none => b
        | some n => match jobEngine b n with
          | none => b
          | some e =>
            if 131072 ≤ (b.engine e).input.length then b
            else
              let ((data, side, poison, last), b) := readWord b k w flipData flipSide
              noteReady (pumpStream (engineTakes b k n e data side poison last) ((b.cmd n).stream.getD 0))

/-- DROP_REST (R93, R94). -/
def execDropRest (dt : Nat) (die : Fin 2) (bobbin : Fin 512) (s : State) : Host.Outcome State Fault Refusal :=
  runCmd dt s fun b =>
    let k := 512 * die.val + bobbin.val
    if (b.bobbin k).inPacket then (if bobbin.val < 10 then discardCredited b k else dropRest b k)
    else inc b (Fld.BOB_DROP_COUNT_EMPTY_DROPS die.val)

/-- CREDITED_WRITE (R97): the ledger writer writes a record only with credits for all of it, and keeps it waiting otherwise; a safety
event path without credits counts the event. -/
def execCreditedWrite (dt : Nat) (die : Fin 2) (bobbin : Fin 10) (data : Bytes) (s : State) : Host.Outcome State Fault Refusal :=
  runCmd dt s fun b =>
    let k := 512 * die.val + bobbin.val
    if data = [] then b
    else if bobbin.val < 2 then
      let b := overflowEvent b k
      if (b.bobbin k).missed = 0 ∧ creditRoom b k data.length then creditedPacket b k data
      else b.updBobbin k fun x => { x with missed := x.missed + 1 }
    else writePend k ((b.bobbin k).pend ++ [data]) b

end Sys2Proof.Machine
end

