-- ==== Sys2Proof/Machine/LedgerFlash.lean ====
section
/-!
DEFINITION. Sys2Proof/Machine/LedgerFlash.lean: the ledger island in service (spec/18_ledger_flash.md R480 to R484).
-/

namespace Sys2Proof.Machine

/-- LEDGER_RECORD_SUBMIT (R477, R480, R481, R483): system firmware hands a record of 1 to 16,382 bytes to a region of
records. -/
def execLedgerRecordSubmit (dt : Nat) (region : Fin 9) (data : Bytes) (s : State) : Host.Outcome State Fault Refusal :=
  runCmd dt s fun b =>
    if 4 ≤ region.val ∧ 1 ≤ data.length ∧ data.length ≤ 16382 ∧ b.ledg.state ≠ .scanning then ledgerSubmit b region.val data else b

/-- PAGE_GATHER_TIMEOUT (R480): the open page of a region on a die is due 10 µs after its first URGENT record or 1 ms after
its first record; its program starts as soon as the die allows. -/
def execPageGatherTimeout (dt : Nat) (region : Fin 9) (die : Fin 16) (s : State) : Host.Outcome State Fault Refusal :=
  runCmd dt s fun b =>
    let p := b.openPage region.val die.val
    let up : Bool := match p.urgentAt with | some t => 10 * tUs ≤ since b t | none => false
    if p.recs ≠ [] ∧ b.ledg.state ≠ .scanning ∧ (p.due ∨ up ∨ tMs ≤ since b p.first) then
      wantDie (b.updOpenPage region.val die.val fun p => { p with due := true }) die.val
    else b

/-- PAGE_PROGRAM_DONE (R480, R482, R484). -/
def execPageProgramDone (dt : Nat) (die : Fin 16) (pass : Bool) (s : State) : Host.Outcome State Fault Refusal :=
  runCmd dt s fun b => programDone b die.val pass

/-- BLOCK_ERASE (R482, R484, R486, R487). -/
def execBlockErase (dt : Nat) (block : Nat) (s : State) : Host.Outcome State Fault Refusal :=
  runCmd dt s fun b => if block < flagBase then beginErase b block else b

/-- ERASE_DONE (R482, R484). -/
def execEraseDone (dt : Nat) (die : Fin 16) (pass : Bool) (s : State) : Host.Outcome State Fault Refusal :=
  runCmd dt s fun b => eraseDone b die.val pass

/-- ERASE_SUSPEND_DONE (R483): the erase is suspended and what waits is issued; with nothing waiting it resumes. -/
def execEraseSuspendDone (dt : Nat) (die : Fin 16) (s : State) : Host.Outcome State Fault Refusal :=
  runCmd dt s fun b =>
    if (b.ndie die.val).state = .eraseSuspending then
      resumeErase (startProgram (b.updNdie die.val fun n => { n with state := .eraseSuspended }) die.val) die.val
    else b

/-- ERASE_RUN_EXPIRY (R483). -/
def execEraseRunExpiry (dt : Nat) (die : Fin 16) (s : State) : Host.Outcome State Fault Refusal :=
  runCmd dt s fun b =>
    let n := b.ndie die.val
    if n.state = .erase ∧ 500 * tUs ≤ since b n.eraseSince then
      wantDie (b.updNdie die.val fun n => { n with ranLong := true }) die.val
    else b

end Sys2Proof.Machine
end

