-- ==== Sys2Proof/Machine/Loops.lean ====
section
/-!
DEFINITION. Sys2Proof/Machine/Loops.lean: the control-law engines' ticks (spec/12_track_following_cle.md R304 to R333).
-/

namespace Sys2Proof.Machine

/-- CLE_B_TICK (R304). -/
def execCleBTick (dt : Nat) (port : Fin 32) (s : State) : Host.Outcome State Fault Refusal :=
  runCmd dt s fun b => cleBTick b port.val

/-- CLE_A_TICK (R305): a servo frame has completed. -/
def execCleATick (dt : Nat) (port : Fin 32) (s : State) : Host.Outcome State Fault Refusal :=
  runCmd dt s fun b => cleATick b port.val

/-- CLE_A_IDLE_TICK (R305): no frame for 100 µs; the held FINE is sent again. -/
def execCleAIdleTick (dt : Nat) (port : Fin 32) (s : State) : Host.Outcome State Fault Refusal :=
  runCmd dt s fun b => cleAIdle b port.val

/-- SERVO_FRAME_MISSING (R309). -/
def execServoFrameMissing (dt : Nat) (port : Fin 32) (s : State) : Host.Outcome State Fault Refusal :=
  runCmd dt s fun b => frameMissing b port.val

/-- OFFLOAD_STEP (R311): after 1,024 frames in AUTO the mean FINE is taken, and OFFLOAD moves if it exceeds 8,192. -/
def execOffloadStep (dt : Nat) (port : Fin 32) (s : State) : Host.Outcome State Fault Refusal :=
  runCmd dt s fun b => offloadStep b port.val

/-- TICK_OVERRUN (R333): a tick is abandoned, its outputs stay held. -/
def execTickOverrun (dt : Nat) (port : Fin 32) (cleB : Bool) (s : State) : Host.Outcome State Fault Refusal :=
  runCmd dt s fun b => let b := inc b (Fld.CLE_TIMING_OVERRUN port.val)
    if cleB then b.updCle port.val fun c => { c with tick := c.tick + 1 } else b

/-- INJECTION_END (R329, R332): the injection has lasted DURATION ticks, or to the end of its capture. -/
def execInjectionEnd (dt : Nat) (port : Fin 32) (s : State) : Host.Outcome State Fault Refusal :=
  runCmd dt s fun b => injectionEnd b port.val

/-- CAPTURE_FULL (R331, R332): the capture is full and the injection has ended; the buffer is written and the command completes. -/
def execCaptureFull (dt : Nat) (port : Fin 32) (s : State) : Host.Outcome State Fault Refusal :=
  runCmd dt s fun b => captureFull b port.val

/-- RC_CLEAR (R322): a write of CLE_RC_CTRL; CLEAR zeroes the table at the next tick. -/
def execRcClear (dt : Nat) (port : Fin 32) (rc : Fin 3) (data : Word) (s : State) : Host.Outcome State Fault Refusal :=
  runCmd dt s fun b => hostWrites b (Reg.CLE_RC_CTRL port.val rc.val) (fun b => writeRcCtrl b port.val rc.val (withBit data 2))

/-- UNSETTLED_CHECK (R327). -/
def execUnsettledCheck (dt : Nat) (port : Fin 32) (s : State) : Host.Outcome State Fault Refusal :=
  runCmd dt s fun b => unsettledCheck b port.val

end Sys2Proof.Machine
end

