-- ==== Sys2Proof/Machine/ReadChannel.lean ====
section
/-!
DEFINITION. Sys2Proof/Machine/ReadChannel.lean: the read channel's reports (spec/10_read_channel.md R271 to R280) and the clearing of dead marks (spec/11_verify_rewrite.md R298).
-/

namespace Sys2Proof.Machine

/-- DECODE_PASS_END (R269 to R274, R278, R280): a first pass of a slot of the reader of a module on the track 16 × role + place ends, or
with `again` a further one. -/
def execDecodePassEnd (dt : Nat) (port : Fin 32) (moduleB : Bool) (role : Fin 2) (place : Fin 16) (again : Bool) (s : State) :
    Host.Outcome State Fault Refusal :=
  runCmd dt s fun b => passEnd b port.val (readerNo moduleB role place.val) again

/-- NO_SYNC_REPORT (R275): a slot that is not decoded gets a report with OUTCOME NO_SYNC. -/
def execNoSyncReport (dt : Nat) (port : Fin 32) (missed : TrackSlot) (s : State) : Host.Outcome State Fault Refusal :=
  runCmd dt s fun b => noSync b port.val missed.track.val missed.at_.slot.val missed.at_.segment.val

/-- LOOK_BUFFER_GRANT (R277). -/
def execLookBufferGrant (dt : Nat) (die : Fin 2) (s : State) : Host.Outcome State Fault Refusal :=
  runCmd dt s fun b => grantLook b die.val

/-- LEAD_ONLY_REPORT (R279): the trailing slot is missing, and the leading look alone is decoded in pass 1. -/
def execLeadOnlyReport (dt : Nat) (port : Fin 32) (track : Fin 32) (missed : SlotAt) (s : State) : Host.Outcome State Fault Refusal :=
  runCmd dt s fun b => leadOnly b port.val track.val missed.slot.val missed.segment.val

/-- DEAD_CLEAR_A (R298): a write of VFY_CTRL with bit 22 set orders module A's dead marks cleared at the next run start. -/
def execDeadClearA (dt : Nat) (port : Fin 32) (data : Word) (s : State) : Host.Outcome State Fault Refusal :=
  runCmd dt s fun b => hostWrites b (Reg.VFY_CTRL port.val) (fun b => writeVfyCtrl b port.val (withBit data 22))

/-- DEAD_CLEAR_B (R298). -/
def execDeadClearB (dt : Nat) (port : Fin 32) (data : Word) (s : State) : Host.Outcome State Fault Refusal :=
  runCmd dt s fun b => hostWrites b (Reg.VFY_CTRL port.val) (fun b => writeVfyCtrl b port.val (withBit data 23))

end Sys2Proof.Machine
end

