-- ==== Sys2Proof/Machine/Reel.lean ====
section
/-!
DEFINITION. Sys2Proof/Machine/Reel.lean: the reel drive (spec/13_reel_drive.md R336 to R353).
-/

namespace Sys2Proof.Machine

/-- CARRIER_PERIOD_COMPILE (R337 to R343, R531). -/
def execCarrierPeriodCompile (dt : Nat) (port : Fin 32) (lockstep : Bool) (check : Nat) (s : State) : Host.Outcome State Fault Refusal :=
  runCmd dt s fun b => compilePeriod b port.val lockstep check

/-- EDGE_CARRIER_WRITE (R340). -/
def execEdgeCarrierWrite (dt : Nat) (port : Fin 32) (data : Word) (s : State) : Host.Outcome State Fault Refusal :=
  runCmd dt s fun b => hostWrites b (Reg.EDGE_CARRIER port.val) (fun b => writeEdgeTiming b port.val (Reg.EDGE_CARRIER port.val) data.toNat)

/-- EDGE_TIMING_WRITE (R340). -/
def execEdgeTimingWrite (dt : Nat) (port : Fin 32) (data : Word) (s : State) : Host.Outcome State Fault Refusal :=
  runCmd dt s fun b => hostWrites b (Reg.EDGE_TIMING port.val) (fun b => writeEdgeTiming b port.val (Reg.EDGE_TIMING port.val) data.toNat)

/-- EDGE_MAP_WRITE (R353). -/
def execEdgeMapWrite (dt : Nat) (port : Fin 32) (data : Word) (s : State) : Host.Outcome State Fault Refusal :=
  runCmd dt s fun b => hostWrites b (Reg.EDGE_MAP port.val) (fun b => 
    if configLocked b then inc b (Fld.SYS_ERR_LOCKED_WRITE (port.val / 16)) else writeEdgeMap b port.val data.toNat)

/-- EDGE_TEST_WRITE (R341, R353). -/
def execEdgeTestWrite (dt : Nat) (port : Fin 32) (data : Word) (s : State) : Host.Outcome State Fault Refusal :=
  runCmd dt s fun b => hostWrites b (Reg.EDGE_TEST port.val) (fun b => writeEdgeTest b port.val data.toNat)

end Sys2Proof.Machine
end

