-- ==== Sys2Proof/Machine/Restoring.lean ====
section
/-!
DEFINITION. Sys2Proof/Machine/Restoring.lean: opening and decoding the segments of a restore (spec/06_sealing.md R159;
spec/04_carding.md R122 to R125; spec/01_architecture.md R24; spec/02_host_queues.md R54).
-/

namespace Sys2Proof.Machine

/-- The job that starts next on a pipeline, if it is an open job (R152). -/
def openJobFor (b : Block) (p : Nat) : Option QueuedJob := (nextJob b p).filter fun j => jobKind j.job = 1

/-- The tag of a segment as read, under a key (R145, R187). -/
def openTag (key : Bytes) (g : RSeg) (id : Bytes) : Bytes :=
  if g.mode = 1 then gcmTag key g.nonce (readAad g id ++ g.message) [] else gcmTag key g.nonce (readAad g id) g.message

/-- An open job ends (R159): `upset` is a mismatch that the pipeline itself makes. -/
def openEnd (b : Block) (p n : Nat) (tried : Option Nat) (upset : Bool) : Block :=
  let c := b.cmd n
  if c.fin.isSome then b
  else match c.rst.segs with
    | [] => b
    | g :: _ =>
      match slotWithLabel b c.tenant g.keyLabel with
      | none => readFail b n 0x6005
      | some k =>
        let key := (b.slot k).key.getD []
        if !upset && openTag key g c.rst.objectId = g.tag then
          let plain := if g.mode = 1 then g.message else gcmCrypt key g.nonce g.message
          updRst b n fun r => { r with frame := some plain, frameAt := b.time.now }
        else if tried.isNone then
          { b with ciph := { b.ciph with queue := b.ciph.queue ++
            [{ job := .openSeg n (some p), since := b.time.now, die := dieOfFn b c.fn }] } }
        else readFail (inc b Fld.CIPH_ERR_COUNT_TAG_MISMATCH) n 0x6006

/-- An open job starts (R151 to R153, R159). Its first check needs a slot that holds the key and is open to new jobs; a slot that
KEY_DROP is closing counts as one that holds none (DESIGN CHOICE, log entry 21). The second check has the slot already. -/
def openStart (b : Block) (p n : Nat) (tried : Option Nat) (j : QueuedJob) : Block :=
  match (b.cmd n).rst.segs with
  | [] => b
  | g :: _ =>
    let free : Bool := match slotWithLabel b (b.cmd n).tenant g.keyLabel with
      | some k => !(b.slot k).closing
      | none => false
    if tried.isSome || free then (if mayStart b p j then placeJob b p j else b)
    else readFail { b with ciph := { b.ciph with queue := b.ciph.queue.erase j } } n 0x6005

/-- OPEN_JOB (R151 to R153, R159). `start`: where the job whose turn it is on the pipeline is an open job, it starts; otherwise the
running one ends. -/
def execOpenJob (dt : Nat) (pipe : Fin 8) (start upset : Bool) (s : State) : Host.Outcome State Fault Refusal :=
  runCmd dt s fun b =>
    let p := pipe.val
    if start then
      match openJobFor b p with
      | some j => match j.job with
        | .openSeg n tried => openStart b p n tried j
        | _ => b
      | none => b
    else match (b.pipe p).running with
      | some j => match j.job with
        | .openSeg n tried => forEach (tabKeys b.ciph.slots) (openEnd (freePipe b p) p n tried upset) zeroizeSlot
        | _ => b
      | none => b

/-! ### Decoding -/

/-- The frame of a segment and its trailer, where it has one (R189). -/
def splitTrailer (g : RSeg) (plain : Bytes) : Bytes × Option Bytes :=
  if g.last then (plain.take (plain.length - 16), some (plain.drop (plain.length - 16))) else (plain, none)

/-- A decode of a segment's frame with its checks (R122, R124): the content, or none. Where the trailer is reached, the object length is
compared, and the object checksum where the whole object has been decoded from its first byte (DEDUCED, log entry 143). -/
def decodeSeg (r : Restore) (g : RSeg) (plain : Bytes) : Option Bytes :=
  let (frame, tr) := splitTrailer g plain
  (frameDec frame).bind fun c =>
    let lenOk := c.length = g.plainLength && match tr with
      | some t => fieldAt t 8 8 = g.objectOffset + c.length
      | none => true
    let hashOk := match tr, r.hash with
      | some t, some h => beN (slice t 0 8) = xxDigest (xxUpdate h c)
      | _, _ => true
    if lenOk && hashOk then some c else none

/-- A decoded segment of READ_OBJECT goes to the host (R24, R54). -/
def deliverObject (b : Block) (n : Nat) (g : RSeg) (content : Bytes) : Block :=
  let c := b.cmd n
  let r := c.rst
  let part := (content.drop (r.pos - g.objectOffset)).take r.left
  let b := writeBuf b c.fn c.e c.sgl c.written part
  let b := b.updCmd n fun c => { c with
    written := c.written + part.length
    rst := { r with segs := r.segs.drop 1, frame := none, poisonRetry := false, pos := r.pos + part.length
                    left := r.left - part.length, hash := r.hash.map fun h => xxUpdate h content } }
  if (r.segs.drop 1).isEmpty then finishCmd b n 0 0 (leB 8 (b.cmd n).written) else b

/-- What READ_RECORD takes of a decoded segment: the bytes, and whether the record ends in it (R190). -/
def recordPart (r : Restore) (g : RSeg) (frame content : Bytes) (i : Nat) : Bytes × Bool :=
  match r.recAt with
  | none =>
    let j := i - firstStart g
    let lo := contentAt frame (g.starts.getD j 0)
    if j + 1 < g.starts.length then ((content.drop lo).take (contentAt frame (g.starts.getD (j + 1) 0) - lo), true)
    else (content.drop lo, g.last)
  | some _ =>
    match g.starts with
    | s :: _ => (content.take (contentAt frame s), true)
    | [] => (content, g.last)

/-- A decoded segment of READ_RECORD (R54, R190): the record goes to the host once it is whole. A record index beyond the
object's last record completes with BAD_FIELD (DESIGN CHOICE, log entry 49). -/
def deliverRecord (b : Block) (n i : Nat) (g : RSeg) (plain content : Bytes) : Block :=
  let c := b.cmd n
  let r := c.rst
  if r.recAt.isNone ∧ firstStart g + g.starts.length ≤ i then
    if g.last then finishCmd b n 0x1002 0 [] 40
    else updRst b n fun r => { r with segs := r.segs.drop 1, frame := none, hash := r.hash.map fun h => xxUpdate h content }
  else
    let (part, done) := recordPart r g (splitTrailer g plain).1 content i
    let acc := r.acc ++ part
    if done ∨ (r.segs.drop 1).isEmpty then
      if c.e.length < acc.length then finishCmd b n 0x1002 0 (leB 8 acc.length) 32
      else finishCmd (writeBuf b c.fn c.e c.sgl 0 acc) n 0 0 (leB 8 acc.length)
    else updRst b n fun r => { r with
      segs := r.segs.drop 1, frame := none, poisonRetry := false, recAt := some 0, acc := acc,
      hash := r.hash.map fun h => xxUpdate h content }

/-- The engine of the second decode: another one of the die that is idle and in service, its context written back; or the same (R123). -/
def secondEngine (b : Block) (die e : Nat) : Nat × Block :=
  let es := ((List.range 32).map (32 * die + ·)).filter fun x => x ≠ e && engineUp b x && (b.engine x).state = .idle
  match es with
  | [] => (e, b)
  | e0 :: _ =>
    let x := es.foldl (fun a y => if since b (b.engine a).idleSince < since b (b.engine y).idleSince then y else a) e0
    match writeBack b x with
    | some b => (x, b.updEngine x fun z => { z with idleSince := b.time.now })
    | none => (e, b)

/-- DECOMPRESSION_JOB (R103, R104, R122 to R125): the opened segment of restore `cmd`, where its job is the oldest of the die, is decoded
on an engine of the die. `bad1` and `bad2`: the first and the second decode go wrong in the engine. ENGINE of the log entries of the
retry is the first decode's (DESIGN CHOICE, log entry 144). -/
def execDecompressionJob (dt : Nat) (die : Fin 2) (cmd : Nat) (bad1 bad2 : Bool) (s : State) : Host.Outcome State Fault Refusal :=
  runCmd dt s fun b =>
    let c := b.cmd cmd
    match c.rst.frame, c.rst.segs, idlestEngine b die.val with
    | some plain, g :: _, some e =>
      if oldestCard b die.val ≠ some cmd then b
      else match writeBack b e with
        | none => b
        | some b =>
          let b := b.updEngine e fun x => { x with idleSince := b.time.now }
          let deliver (b : Block) (content : Bytes) : Block := match c.rst.record with
            | some i => deliverRecord b cmd i g plain content
            | none => deliverObject b cmd g content
          let good := decodeSeg c.rst g plain
          match (if bad1 then none else good), (if bad2 then none else good) with
          | some content, _ => deliver b content
          | none, some content =>
            let b := (secondEngine b die.val e).2
            deliver (cardLog (inc b (Fld.CARD_RESTORE_ERR_RETRIED die.val)) 0 4 e 0 c.rst.objectId g.objectOffset 1) content
          | none, none =>
            let b := (secondEngine b die.val e).2
            readFail (cardLog (inc b (Fld.CARD_RESTORE_ERR_FAILED die.val)) 0x2006 5 e 0 c.rst.objectId g.objectOffset 1) cmd 0x2006
    | _, _, _ => b

end Sys2Proof.Machine
end

