-- ==== Sys2Proof/Machine/Sealing.lean ====
section
/-!
DEFINITION. Sys2Proof/Machine/Sealing.lean: seal and unwrap jobs, nonce reservations, key slots and the DRBG
(spec/06_sealing.md).
-/

namespace Sys2Proof.Machine

/-- SEAL_JOB (R144 to R153). `start`: where the job whose turn it is on the pipeline is a seal job, it starts; otherwise the running
seal job ends. A segment that must start when no counter value may be used ends its object (R150). -/
def execSealJob (dt : Nat) (pipe : Fin 8) (start : Bool) (s : State) : Host.Outcome State Fault Refusal :=
  runCmd dt s fun b =>
    let p := pipe.val
    if start then
      let starved := b.ciph.queue.findSome? fun j => match j.job with
        | .seal w => if !(b.sealState (slotOfHandle w.stream)).active && !nonceMay b then some w.stream else none
        | _ => none
      match starved with
      | some h => endSealed (if nonceStatus b = 0xA001 then internalError b 0 4 0xFFFF 3 b.ciph.nonceNext else b) h (nonceStatus b)
      | none =>
        match nextJob b p with
        | some j => match j.job with
          | .seal w => if mayStart b p j then sealStart (placeJob b p j) p w else b
          | _ => b
        | none => b
    else match (b.pipe p).running with
      | some j => match j.job with
        | .seal w =>
          let b := sealEnd (freePipe b p) w
          noteReady (pumpStream (forEach (tabKeys b.ciph.slots) b zeroizeSlot) w.stream)
        | _ => b
      | none => b

/-- A KEY_LOAD writes its slot, or fails (R157). -/
def unwrapEnd (b : Block) (n : Nat) (blob : Bytes) : Block :=
  let c := b.cmd n
  let k := bitsOf c.e.param0 0 12
  let b := { b with ciph := { b.ciph with keks := true } }
  match kwUnwrap (kekOf b c.tenant) blob with
  | none => finishCmd (inc b Fld.CIPH_ERR_COUNT_UNWRAP_FAIL) n 0x6002 0
  | some key =>
    if (b.slot k).key.isSome then finishCmd b n 0x1002 0 [] 40
    else if (slotWithLabel b c.tenant c.e.param1).isSome then finishCmd b n 0x1002 0 [] 48
    else
      let b := b.updSlot k fun _ => { key := some (slice key 0 32), label := c.e.param1, tenant := c.tenant }
      finishCmd b n 0 0 (leB 2 k)

/-- The KEY_LOAD whose blob has not been read for longest: no unwrap job of it waits or runs. -/
def waitingUnwrap (b : Block) : Option Nat :=
  (b.hq.cmds.find? fun (x : Nat × Cmd) => x.2.e.opcode = 0x30 && x.2.fin.isNone
    && !(pipeJobs b ++ b.ciph.queue).any fun j => match j.job with | .unwrap n _ => n = x.1 | _ => false).map Prod.fst

/-- The blob of the oldest KEY_LOAD that waits for it has been read: its unwrap job joins the waiting jobs (R151, R157). -/
def queueUnwrap (b : Block) (blob : Bytes) : Block :=
  match waitingUnwrap b with
  | some n => { b with ciph := { b.ciph with
      queue := b.ciph.queue ++ [{ job := .unwrap n (slice blob 0 40), since := b.time.now, die := dieOfFn b (b.cmd n).fn }] } }
  | none => b

/-- UNWRAP_JOB (R151, R153, R157). `start`: the bytes `blob` of the oldest KEY_LOAD without them have been read from the host, and its
unwrap job waits; where an unwrap job may start on the pipeline, it does. Otherwise the running unwrap ends. -/
def execUnwrapJob (dt : Nat) (pipe : Fin 8) (start : Bool) (blob : Bytes) (s : State) : Host.Outcome State Fault Refusal :=
  runCmd dt s fun b =>
    let p := pipe.val
    if start then
      let b := queueUnwrap b blob
      match nextJob b p with
      | some j => if jobKind j.job = 2 ∧ mayStart b p j then placeJob b p j else b
      | none => b
    else match (b.pipe p).running with
      | some j => match j.job with
        | .unwrap n bl => unwrapEnd (freePipe b p) n bl
        | _ => b
      | none => b

/-- NONCE_RESERVATION (R149, R150). -/
def execNonceReservation (dt : Nat) (s : State) : Host.Outcome State Fault Refusal := runCmd dt s reserveNonces

/-- KEY_SLOT_ZEROIZE (R158). -/
def execKeySlotZeroize (dt : Nat) (slot : Fin 4096) (s : State) : Host.Outcome State Fault Refusal :=
  runCmd dt s fun b => zeroizeSlot b slot.val

/-- The DRBG takes a seed that has passed (R163): instantiated, or reseeded where it was ready. -/
def seedDrbg (b : Block) (samples : Bytes) : Block :=
  let seed := seedOf samples
  let r := if b.ciph.drbg = .ready then drbgReseed b.ciph.drbgKey b.ciph.drbgV seed else drbgInit seed
  { b with ciph := { b.ciph with drbg := .ready, drbgKey := r.1, drbgV := r.2, genCalls := 0, seedTime := b.time.now } }

/-- The start-up test of the source fails (R163): it is started again, three times at most, and has then FAILED. -/
def startupFails (b : Block) : Block :=
  if b.ciph.retries < 3 then
    inc { b with ciph := { b.ciph with retries := b.ciph.retries + 1, drbg := .seeding, noise := {}, srcTested := false } }
      Fld.CIPH_DRBG_STATUS_RESTARTS
  else internalError (drbgGone b .failed) 0 4 0xFFFF 4 0

/-- A health test fails in service (R164): the DRBG is uninstantiated, and a new seed is taken after a new start-up test (DESIGN CHOICE,
log entry 142). -/
def healthFails (b : Block) : Block :=
  let b := drbgGone b .uninstantiated
  inc { b with ciph := { b.ciph with retries := 0, noise := {}, srcTested := false } } Fld.CIPH_DRBG_STATUS_HEALTH_FAIL

/-- The source's samples pass through its tests: whether one fails, and the block with the tests' state. -/
def testNoise (b : Block) (samples : Bytes) : Bool × Block :=
  let r := noiseTest b.ciph.noise samples
  (r.2, { b with ciph := { b.ciph with noise := r.1 } })

/-- The start-up test over the first 1,024 samples, where the source has not passed it; then 2,048 samples for a seed (R163). -/
def takeSeed (b : Block) (samples : Bytes) : Block :=
  let head := samples.take (samples.length - 2048)
  let r := testNoise b head
  if r.1 then startupFails r.2
  else
    let b := { r.2 with ciph := { r.2.ciph with srcTested := true } }
    let r := testNoise b (samples.drop head.length)
    if r.1 then healthFails r.2 else seedDrbg r.2 (samples.drop head.length)

/-- DRBG_SEED (R163, R164): the source, released at start, gives the samples of its start-up test, where it has still to pass it, and
those of a seed. -/
def execDrbgSeed (noise : NoiseIn) (s : State) : Host.Outcome State Fault Refusal :=
  runCmd noise.dt s fun b =>
    if !b.boot.entropy || b.ciph.drbg = .failed || b.ciph.drbg = .ready
        || noise.samples.length ≠ (if b.ciph.srcTested then 2048 else 3072) then b
    else takeSeed b noise.samples

/-- DRBG_RESEED (R163): after 65,536 generate calls or 10 s. What waited for it goes on. -/
def execDrbgReseed (noise : NoiseIn) (s : State) : Host.Outcome State Fault Refusal :=
  runCmd noise.dt s fun b =>
    if b.ciph.drbg = .ready ∧ !drbgOk b ∧ noise.samples.length = 2048 then takeSeed b noise.samples else b

/-- HEALTH_TEST_FAILURE (R163, R164): further samples pass through the tests. A failure at start-up is retried three times, then the
source has FAILED; one in service uninstantiates the DRBG. -/
def execHealthTestFailure (noise : NoiseIn) (startup : Bool) (s : State) : Host.Outcome State Fault Refusal :=
  runCmd noise.dt s fun b =>
    if b.ciph.drbg = .failed || !b.boot.entropy || (startup && b.ciph.drbg = .ready) then b
    else
      let r := testNoise b noise.samples
      if r.1 then (if startup then startupFails r.2 else healthFails r.2) else r.2

end Sys2Proof.Machine
end

