-- ==== Sys2Proof/Machine/Supervisor.lean ====
section
/-!
DEFINITION. Sys2Proof/Machine/Supervisor.lean: functional safety (spec/20_safety.md R523 to R542).
-/

namespace Sys2Proof.Machine

/-- GRANT_REQUEST (R526): `pass` is the outcome of the permit test, where one is due (R538). -/
def execGrantRequest (dt : Nat) (port : Fin 32) (pass : Bool) (s : State) : Host.Outcome State Fault Refusal :=
  runCmd dt s fun b => grantMotion b port.val pass

/-- GRANT_RETURN (R526). -/
def execGrantReturn (dt : Nat) (port : Fin 32) (s : State) : Host.Outcome State Fault Refusal :=
  runCmd dt s fun b => giveBack b port.val

/-- CHANNEL_COMPARE (R529, R538): `differ` says that the channels differ; `fault` is a FAULT_CAUSE found beside it, 0 none. -/
def execChannelCompare (dt : Nat) (die : Fin 2) (differ : Bool) (fault : Fin 5) (s : State) : Host.Outcome State Fault Refusal :=
  runCmd dt s fun b => compareChannels b die.val differ fault.val

/-- CLE_HEARTBEAT (R527, R529). -/
def execCleHeartbeat (dt : Nat) (port : Fin 32) (cleB own crcOk : Bool) (s : State) : Host.Outcome State Fault Refusal :=
  runCmd dt s fun b => onHeartbeat b port.val cleB own crcOk

/-- HEARTBEAT_DEADLINE (R529). -/
def execHeartbeatDeadline (dt : Nat) (port : Fin 32) (cleB : Bool) (s : State) : Host.Outcome State Fault Refusal :=
  runCmd dt s fun b => heartbeatDeadline b port.val cleB

/-- OVERSPEED_WINDOW (R531 cause 5). -/
def execOverspeedWindow (dt : Nat) (port : Fin 32) (s : State) : Host.Outcome State Fault Refusal :=
  runCmd dt s fun b => overspeed b port.val

/-- SAFE_PORT_CLEAR (R532): a write of SAFE_PORT_CTRL. -/
def execSafePortClear (dt : Nat) (port : Fin 32) (data : Word) (s : State) : Host.Outcome State Fault Refusal :=
  runCmd dt s fun b => hostWrites b (Reg.SAFE_PORT_CTRL (port.val / 16) (port.val % 16)) (fun b => writeSafeCtrl b port.val (withBit data 0))

/-- FAULT_N_EXTERNAL (R534, R602): FAULT_N has been low from outside for 1 µs, or is released. -/
def execFaultNExternal (dt : Nat) (low : Bool) (s : State) : Host.Outcome State Fault Refusal :=
  runCmd dt s fun b => faultExternal b low

/-- PERMIT_TEST_DUE (R538): a port in SAFE has had no permit test for 24 h. -/
def execPermitTestDue (dt : Nat) (port : Fin 32) (pass : Bool) (s : State) : Host.Outcome State Fault Refusal :=
  runCmd dt s fun b => if portState b port.val = 1 ∧ !permitFresh b port.val then permitTest b port.val pass else b

end Sys2Proof.Machine
end

