-- ==== Sys2Proof/Machine/System.lean ====
section
/-!
DEFINITION. Sys2Proof/Machine/System.lean: register accesses, the management event, core exceptions and lands of the dies
(spec/22_registers.md R567 to R579; spec/23_package_electrical.md R591, R601, R604).
-/

namespace Sys2Proof.Machine

/-- THERMTRIP (R604): the sensor in tenths of a degree. -/
def execThermtrip (dt : Nat) (die : Fin 2) (temp : Int) (s : State) : Host.Outcome State Fault Refusal :=
  runCmd dt s fun b => thermtrip b die.val temp

/-- VID_STEP (R591). -/
def execVidStep (dt : Nat) (die : Fin 2) (up : Bool) (s : State) : Host.Outcome State Fault Refusal :=
  runCmd dt s fun b => vidStep b die.val up

/-- SYS_EVENT_WRITE (R576). -/
def execSysEventWrite (dt : Nat) (data : Word) (s : State) : Host.Outcome State Fault Refusal :=
  runCmd dt s fun b => hostWrites b Reg.SYS_EVENT (fun b => writeEvent b data.toNat)

/-- SYS_EVENT_EN_WRITE (R576). -/
def execSysEventEnWrite (dt : Nat) (data : Word) (s : State) : Host.Outcome State Fault Refusal :=
  runCmd dt s fun b => hostWrites b Reg.SYS_EVENT_EN (fun b => writeEventEn b data.toNat)

/-- CORE_EXCEPTION (R579): 0 the loom core of a slice, 1 the host queue core, 2 a system core. -/
def execCoreException (dt : Nat) (die : Fin 2) (core : Fin 3) (slice : Fin 16) (counter : Nat) (s : State) : Host.Outcome State Fault Refusal :=
  runCmd dt s fun b => coreException b die.val core.val slice.val counter

/-- LO_READ_LATCH (R9, R567): a read by a requester; of a LO register it latches HI. -/
def execLoReadLatch (dt : Nat) (who : Fin 9) (addr : Nat) (s : State) : Host.Outcome State Fault Refusal :=
  runCmd dt s fun b => regRead b who.val addr

/-- RC_READ (R10, R567): a read by a requester; read-clear fields clear. -/
def execRcRead (dt : Nat) (who : Fin 9) (addr : Nat) (s : State) : Host.Outcome State Fault Refusal :=
  runCmd dt s fun b => regRead b who.val addr

/-- REGISTER_WRITE (R10, R11, R567, R568, R570, R573). -/
def execRegisterWrite (dt : Nat) (who : Fin 9) (addr : Nat) (enables : Fin 16) (data : Word) (s : State) : Host.Outcome State Fault Refusal :=
  runCmd dt s fun b => regAccess b who.val addr enables.val data.toNat

/-- TAP_INSTRUCTION (R601). -/
def execTapInstruction (dt : Nat) (inst : Fin 3) (s : State) : Host.Outcome State Fault Refusal :=
  runCmd dt s fun b => tapInstruction b inst.val

end Sys2Proof.Machine
end

