-- ==== Sys2Proof/Machine/Warden.lean ====
section
/-!
DEFINITION. Sys2Proof/Machine/Warden.lean: the commands of the warden (spec/21_warden.md R545 to R562; spec/19_boot_trust.md R521;
spec/23_package_electrical.md R592). The warden runs in DORMANT too.
-/

namespace Sys2Proof.Machine

/-- DORMANT_REQUEST (R545): a write of WARD_CTRL with DORMANT 1. -/
def execDormantRequest (dt : Nat) (data : Word) (s : State) : Host.Outcome State Fault Refusal :=
  runCmd dt s fun b => hostWrites b Reg.WARD_CTRL (fun b => writeWardCtrl b (withBit data 0))

/-- WARD_WAKE_N (R547): low for 1 ms. -/
def execWardWakeN (dt : Nat) (micros : Nat) (s : State) : Host.Outcome State Fault Refusal :=
  runWard dt s fun b => if 1000 ≤ micros then wake b else b

/-- WAKE_AFTER_EXPIRY (R547). -/
def execWakeAfterExpiry (dt : Nat) (s : State) : Host.Outcome State Fault Refusal :=
  runWard dt s fun b => wakeTimer b

/-- POWER_GOOD_RESUME (R547). -/
def execPowerGoodResume (dt : Nat) (intact : Bool) (s : State) : Host.Outcome State Fault Refusal :=
  runWard dt s fun b => powerGood b intact

/-- WAKE_RAIL_TIMEOUT (R592). -/
def execWakeRailTimeout (dt : Nat) (s : State) : Host.Outcome State Fault Refusal :=
  runWard dt s fun b => railTimeout b

/-- CONVERSION_RESULT (R549 to R554). -/
def execConversionResult (dt : Nat) (value : Int) (near : Nat) (s : State) : Host.Outcome State Fault Refusal :=
  runWard dt s fun b => conversion b value near

/-- WARD_CH_CFG_WRITE (R550): the settings are taken at the next conversion boundary. -/
def execWardChCfgWrite (dt : Nat) (ch : Fin 16) (data : Word) (s : State) : Host.Outcome State Fault Refusal :=
  runCmd dt s fun b => hostWrites b (Reg.WARD_CH_CFG ch.val) (fun b => writeFields b (Reg.WARD_CH_CFG ch.val) data.toNat)

/-- MESH_FAULT (R556). -/
def execMeshFault (dt : Nat) (pair : Fin 4) (s : State) : Host.Outcome State Fault Refusal :=
  runWard dt s fun b => tamperAlarm b (1 + pair.val)

/-- TAMPER_N_LOW (R556): low for at least 4 µs. -/
def execTamperNLow (dt : Nat) (n : Fin 4) (micros : Nat) (s : State) : Host.Outcome State Fault Refusal :=
  runWard dt s fun b => if 4 ≤ micros then tamperAlarm b (5 + n.val) else b

/-- VOLTAGE_TAMPER (R556). -/
def execVoltageTamper (dt : Nat) (core : Bool) (nanos : Nat) (s : State) : Host.Outcome State Fault Refusal :=
  runWard dt s fun b => voltageTamper b core nanos

/-- TEMPERATURE_TAMPER (R556): the sensor in tenths of a degree. -/
def execTemperatureTamper (dt : Nat) (temp : Int) (s : State) : Host.Outcome State Fault Refusal :=
  runWard dt s fun b => if temp < -450 ∨ 1150 < temp then tamperAlarm b 10 else b

/-- CLOCK_TAMPER (R556). -/
def execClockTamper (dt : Nat) (s : State) : Host.Outcome State Fault Refusal :=
  runWard dt s fun b => tamperAlarm b 11

/-- TAMPER_RECORD_WRITTEN (R557). -/
def execTamperRecordWritten (dt : Nat) (s : State) : Host.Outcome State Fault Refusal :=
  runWard dt s fun b => recordWritten b

/-- TAMPER_CLEAR_GO (R559): a write of WARD_CLR_CTRL with GO. -/
def execTamperClearGo (dt : Nat) (data : Word) (s : State) : Host.Outcome State Fault Refusal :=
  runCmd dt s fun b => hostWrites b Reg.WARD_CLR_CTRL (fun b => tamperClear b (withBit data 0))

/-- ALERT_CLEAR (R554): a write of 1 to ALERT in WARD_CTRL. -/
def execAlertClear (dt : Nat) (data : Word) (s : State) : Host.Outcome State Fault Refusal :=
  runCmd dt s fun b => hostWrites b Reg.WARD_CTRL (fun b => writeWardCtrl b (withBit data 1))

/-- I2C_TRANSFER (R561): the bytes written, and how many are then read. -/
def execI2cTransfer (dt : Nat) (bytes : Bytes) (reads : Nat) (s : State) : Host.Outcome State Fault Refusal :=
  runWard dt s fun b => i2cTransfer b bytes reads

/-- I2C_WAKE (R547, R561): a byte written to the WAKE register. -/
def execI2cWake (dt : Nat) (value : Fin 256) (s : State) : Host.Outcome State Fault Refusal :=
  runWard dt s fun b => if value = 1 then wake b else b

/-- I2C_QUOTE_REQUEST (R521, R561): a byte written to GO. -/
def execI2cQuoteRequest (dt : Nat) (value : Fin 256) (s : State) : Host.Outcome State Fault Refusal :=
  runWard dt s fun b => i2cQuote b value.val

end Sys2Proof.Machine
end

