-- ==== Sys2Proof/Machine/Weaving.lean ====
section
/-!
DEFINITION. Sys2Proof/Machine/Weaving.lean: the weft scheduler's commands (spec/08_formatting.md R215 to R222;
spec/14_weave.md R357 to R378; spec/15_consistency.md R403; spec/20_safety.md R536).
-/

namespace Sys2Proof.Machine

/-- WEFT_ABORT_RECEIVE (R536): the oldest WEFT_ABORT fails its weft. -/
def execWeftAbortReceive (dt : Nat) (s : State) : Host.Outcome State Fault Refusal :=
  runCmd dt s fun b =>
    match b.heads.aborts with
    | [] => b
    | (g, no) :: t => abortArrives { b with heads := { b.heads with aborts := t } } g no

/-- Speed matching of a group with demand `lambda` and queue length `q` (R215, R216). -/
def speedMatch (b : Block) (g lambda q : Nat) : Block :=
  let b := wr b (Fld.WEAVE_SM_DEMAND_LAMBDA g) (satN 16 lambda)
  match wantStep b g lambda q with
  | none => b
  | some w =>
    let b := wr b (Fld.WEAVE_SM_STATUS_WANT g) w
    if rd b (Fld.WEAVE_SM_STATUS_STEP g) < w ∧ rd b (Fld.WEAVE_SM_CTRL_Q_HIGH_WEFTS g) * (b.grp g).k ≤ q ∧ smState b g = 1 then
      b.updGrp g fun x => { x with speedChange := true }
    else b

/-- SPEED_MATCH_EVAL (R215, R216): speed matching evaluates every 100 ms of loom time. -/
def execSpeedMatchEval (dt : Nat) (g : Fin 32) (s : State) : Host.Outcome State Fault Refusal :=
  runCmd dt s fun b =>
    let early : Bool := match (b.grp g.val).evalAt with | some t => since b t < 100 * tMs | none => false
    if schedules b g.val ∧ !early then
      let b := b.updGrp g.val fun x => { x with closes := x.closes.filter fun t => since b t < tS, evalAt := some b.time.now }
      speedMatch b g.val (lambdaNow b (b.grp g.val)) (groupQ (b.grp g.val))
    else b

/-- WEFT_DECISION_POINT (R217, R220, R362 to R366): from L minus the launch lead on, the boundary at L is decided; for a
cross-device group, the owner makes up its weft (R467). -/
def execWeftDecisionPoint (dt : Nat) (g : Fin 32) (s : State) : Host.Outcome State Fault Refusal :=
  runCmd dt s fun b =>
    if (b.grp g.val).cross then ownerPoint b g.val
    else if schedules b g.val ∧ streaming b g.val ∧ reached b ((b.grp g.val).nextL - leadTicks b g.val) then decideBoundary b g.val else b

/-- CAT_AGE_EXPIRY (R403): the oldest unwritten entry of the port's cartridge has reached CAT_AGE. The update begins at
once where the port is in no run, else at the next stop. -/
def execCatAgeExpiry (dt : Nat) (port : Fin 32) (s : State) : Host.Outcome State Fault Refusal :=
  runCmd dt s fun b =>
    match (cartOn b port.val).bind fun c => c.unwritten.head? with
    | some (_, _, t) =>
      if rd b Fld.WEAVE_CAT_CTRL_CAT_AGE * tS ≤ since b t then
        b.updTape port.val fun x => { x with aged := true, wantUpd := x.wantUpd || (runOver b port.val && x.mount.isNone) }
      else b
    | none => b

/-- The tape rests at its run-up point, and the head has settled since its last lateral move (R312). -/
def restsHeld (b : Block) (p : Nat) : Bool := (refAt (b.cle p).ref b.time.now).2 = 0 && !(b.cle p).settling

/-- Member i can report itself held: its group is stopped, and a member on this part is not absent, its run over, at rest at its run-up point,
its catalogue written, and no time fault stands for a cross-device group (R218, R312, R403, R456). -/
def canHold (b : Block) (g i : Nat) : Bool :=
  let m := (b.grp g).members.getD i {}
  let t := b.tape m.port
  if m.dev != ownDev b then i < (b.grp g).members.length && !streaming b g && isManager b && (!m.failed || m.rejoin)
  else i < (b.grp g).members.length && !streaming b g && !((b.grp g).cross && rdB b Fld.TIME_STATUS_FAULT) && runOver b m.port && restsHeld b m.port && t.upd.isNone && !t.wantUpd
    && !memberAbsent b { m with failed := m.failed && !m.rejoin, await := false }

/-- MEMBER_HELD_REPORT (R218). -/
def execMemberHeldReport (dt : Nat) (g : Fin 32) (i : Fin 64) (s : State) : Host.Outcome State Fault Refusal :=
  runCmd dt s fun b =>
    if canHold b g.val i.val then
      let b := updMember b g.val i.val fun m => { m with held := true }
      let b := b.updGrp g.val fun q => { q with lastHeld := b.time.now, heldAt := q.heldAt.orElse fun _ => some b.time.now }
      let b := if (waitedFor b g.val).all (·.held) ∧ !(b.grp g.val).full then setSm b g.val 3 else b
      tryRestart b g.val
    else b

/-- GROUP_RESTART (R218). -/
def execGroupRestart (dt : Nat) (g : Fin 32) (s : State) : Host.Outcome State Fault Refusal :=
  runCmd dt s fun b => tryRestart b g.val

/-- HOLD_WAIT_TIMEOUT (R222): 5 s after the later of the restart condition and the first held report, the group restarts
without the members not held. -/
def execHoldWaitTimeout (dt : Nat) (g : Fin 32) (s : State) : Host.Outcome State Fault Refusal :=
  runCmd dt s fun b =>
    match (b.grp g.val).condAt, (b.grp g.val).heldAt with
    | some c, some h =>
      if mayRestart b g.val ∧ restartDue b g.val ∧ 5 * tS ≤ since b c ∧ 5 * tS ≤ since b h then setRestart b g.val else b
    | _, _ => b

/-- INTENT_DEADLINE (R365): 20 µs before L, a weft whose intent is not durable is withdrawn with those decided after it,
and its boundary becomes a stop. -/
def execIntentDeadline (dt : Nat) (g : Fin 32) (s : State) : Host.Outcome State Fault Refusal :=
  runCmd dt s fun b =>
    if (b.grp g.val).cross then crossDeadline b g.val
    else if !schedules b g.val then b
    else match (b.grp g.val).wefts.find? fun w => w.state = .decided && !w.intentDurable with
      | none => b
      | some w =>
        if reached b (w.l - 80000) then
          stopGroup (internalError (withdrawFrom b g.val w.no) 0 5 g.val 5 w.no) g.val 1
        else b

/-- VERDICT_ARRIVAL (R368 to R373): the oldest verdict record on its way reaches the scheduler. -/
def execVerdictArrival (dt : Nat) (s : State) : Host.Outcome State Fault Refusal :=
  runCmd dt s fun b =>
    match b.heads.verdicts with
    | [] => b
    | r :: t =>
      let b := { b with heads := { b.heads with verdicts := t } }
      match groupSlot b (fieldAt r 16 2) with
      | some g => if schedules b g then verdictIn b r else sendVerdict b r
      | none => b

/-- VERIFY_DUE (R369): wefts whose L + 3 T_w has come commit if enough members have passed. -/
def execVerifyDue (dt : Nat) (g : Fin 32) (s : State) : Host.Outcome State Fault Refusal :=
  runCmd dt s fun b => if schedules b g.val then assessAll b g.val else b

/-- GRACE_EXPIRY (R372): the oldest weft whose G has come and that has not been assessed yet. -/
def execGraceExpiry (dt : Nat) (g : Fin 32) (s : State) : Host.Outcome State Fault Refusal :=
  runCmd dt s fun b =>
    if !schedules b g.val then b
    else match (b.grp g.val).wefts.find? fun w => !w.assessed && w.state != .withdrawn with
      | none => b
      | some w => if reached b (w.l + (3 + w.grace) * w.tw) then assessLate b g.val w.no else b

/-- DECLARE_FAILED (R374): bit 1 of a write to WEAVE_MEMBER_CTRL. -/
def execDeclareFailed (dt : Nat) (g : Fin 32) (i : Fin 64) (data : Word) (s : State) : Host.Outcome State Fault Refusal :=
  runCmd dt s fun b => hostWrites b (Reg.WEAVE_MEMBER_CTRL g.val i.val) (fun b => writeMemberCtrl b g.val i.val (withBit data 1))

/-- REJOIN (R376): bit 0 of a write to WEAVE_MEMBER_CTRL, for a failed member whose health is not FAILED. -/
def execRejoin (dt : Nat) (g : Fin 32) (i : Fin 64) (data : Word) (s : State) : Host.Outcome State Fault Refusal :=
  runCmd dt s fun b => hostWrites b (Reg.WEAVE_MEMBER_CTRL g.val i.val) (fun b => writeMemberCtrl b g.val i.val (withBit data 0))

/-- DATASET_RELEASE (R377, R378): the group's next dataset whose release is allowed. -/
def execDatasetRelease (dt : Nat) (g : Fin 32) (s : State) : Host.Outcome State Fault Refusal :=
  runCmd dt s fun b => releaseNext b g.val

end Sys2Proof.Machine
end

