-- ==== Sys2Proof/Machine/Dispatch.lean ====
section
/-!
DEFINITION. Sys2Proof/Machine/Dispatch.lean: one arm per command, each a call of that command's meaning.
-/

namespace Sys2Proof.Machine

def exec (i : Instr) (s : State) : Host.Outcome State Fault Refusal :=
  match i with
  | .openStream dt fn q e sgl => Sys2Proof.Machine.execOpenStream dt fn q e sgl s
  | .closeStream dt fn q e sgl => Sys2Proof.Machine.execCloseStream dt fn q e sgl s
  | .openObject dt fn q e sgl => Sys2Proof.Machine.execOpenObject dt fn q e sgl s
  | .putRecord dt fn q e sgl => Sys2Proof.Machine.execPutRecord dt fn q e sgl s
  | .closeObject dt fn q e sgl => Sys2Proof.Machine.execCloseObject dt fn q e sgl s
  | .flush dt fn q e sgl => Sys2Proof.Machine.execFlush dt fn q e sgl s
  | .abortObject dt fn q e sgl => Sys2Proof.Machine.execAbortObject dt fn q e sgl s
  | .mount dt fn q e sgl => Sys2Proof.Machine.execMount dt fn q e sgl s
  | .unmount dt fn q e sgl => Sys2Proof.Machine.execUnmount dt fn q e sgl s
  | .locate dt fn q e sgl => Sys2Proof.Machine.execLocate dt fn q e sgl s
  | .readObject dt fn q e sgl => Sys2Proof.Machine.execReadObject dt fn q e sgl s
  | .readRecord dt fn q e sgl => Sys2Proof.Machine.execReadRecord dt fn q e sgl s
  | .patrol dt fn q e sgl => Sys2Proof.Machine.execPatrol dt fn q e sgl s
  | .rebuild dt fn q e sgl => Sys2Proof.Machine.execRebuild dt fn q e sgl s
  | .reshape dt fn q e sgl => Sys2Proof.Machine.execReshape dt fn q e sgl s
  | .keyLoad dt fn q e sgl => Sys2Proof.Machine.execKeyLoad dt fn q e sgl s
  | .keyDrop dt fn q e sgl => Sys2Proof.Machine.execKeyDrop dt fn q e sgl s
  | .attestQuote dt fn q e sgl => Sys2Proof.Machine.execAttestQuote dt fn q e sgl s
  | .getEntropy dt fn q e sgl => Sys2Proof.Machine.execGetEntropy dt fn q e sgl s
  | .getLog dt fn q e sgl => Sys2Proof.Machine.execGetLog dt fn q e sgl s
  | .tuneLoop dt fn q e sgl => Sys2Proof.Machine.execTuneLoop dt fn q e sgl s
  | .injectCapture dt fn q e sgl => Sys2Proof.Machine.execInjectCapture dt fn q e sgl s
  | .beamFill dt fn q e sgl => Sys2Proof.Machine.execBeamFill dt fn q e sgl s
  | .beamRetire dt fn q e sgl => Sys2Proof.Machine.execBeamRetire dt fn q e sgl s
  | .qpEnable dt fn q data => Sys2Proof.Machine.execQpEnable dt fn q data s
  | .qpDisable dt fn q data => Sys2Proof.Machine.execQpDisable dt fn q data s
  | .qpSqTailDb dt fn q index => Sys2Proof.Machine.execQpSqTailDb dt fn q index s
  | .qpCqHeadDb dt fn q index => Sys2Proof.Machine.execQpCqHeadDb dt fn q index s
  | .dmaErrClear dt fn q => Sys2Proof.Machine.execDmaErrClear dt fn q s
  | .functionLevelReset dt fn => Sys2Proof.Machine.execFunctionLevelReset dt fn s
  | .sqEntryFetch dt fn q raw sgl => Sys2Proof.Machine.execSqEntryFetch dt fn q raw sgl s
  | .sqReadFailed dt fn q => Sys2Proof.Machine.execSqReadFailed dt fn q s
  | .cqWriteFailed dt fn q => Sys2Proof.Machine.execCqWriteFailed dt fn q s
  | .dispatchSlot dt => Sys2Proof.Machine.execDispatchSlot dt s
  | .objHoldExpiry dt fn q => Sys2Proof.Machine.execObjHoldExpiry dt fn q s
  | .beamHoldExpiry dt fn q => Sys2Proof.Machine.execBeamHoldExpiry dt fn q s
  | .heldCommandAccept dt fn q => Sys2Proof.Machine.execHeldCommandAccept dt fn q s
  | .completionPost dt fn q => Sys2Proof.Machine.execCompletionPost dt fn q s
  | .aggTimeExpiry dt fn q => Sys2Proof.Machine.execAggTimeExpiry dt fn q s
  | .forceTokenGrid dt tenant => Sys2Proof.Machine.execForceTokenGrid dt tenant s
  | .hqiTenantForceWrite dt tenant data => Sys2Proof.Machine.execHqiTenantForceWrite dt tenant data s
  | .hqiFnMapWrite dt fn data => Sys2Proof.Machine.execHqiFnMapWrite dt fn data s
  | .dmaReadRequest dt cmd len => Sys2Proof.Machine.execDmaReadRequest dt cmd len s
  | .dmaReadCompletion dt cmd data => Sys2Proof.Machine.execDmaReadCompletion dt cmd data s
  | .dmaReadFailed dt cmd => Sys2Proof.Machine.execDmaReadFailed dt cmd s
  | .bobbinGrant dt die => Sys2Proof.Machine.execBobbinGrant dt die s
  | .bobbinWideRead dt die bobbin flipData flipSide => Sys2Proof.Machine.execBobbinWideRead dt die bobbin flipData flipSide s
  | .dropRest dt die bobbin => Sys2Proof.Machine.execDropRest dt die bobbin s
  | .creditedWrite dt die bobbin data => Sys2Proof.Machine.execCreditedWrite dt die bobbin data s
  | .compressionJobStart dt die => Sys2Proof.Machine.execCompressionJobStart dt die s
  | .blockEmit dt engine bad1 bad2 => Sys2Proof.Machine.execBlockEmit dt engine bad1 bad2 s
  | .decompressionJob dt die cmd bad1 bad2 => Sys2Proof.Machine.execDecompressionJob dt die cmd bad1 bad2 s
  | .cardEngEnableWrite dt die data => Sys2Proof.Machine.execCardEngEnableWrite dt die data s
  | .sealJob dt pipe start => Sys2Proof.Machine.execSealJob dt pipe start s
  | .openJob dt pipe start upset => Sys2Proof.Machine.execOpenJob dt pipe start upset s
  | .unwrapJob dt pipe start blob => Sys2Proof.Machine.execUnwrapJob dt pipe start blob s
  | .nonceReservation dt => Sys2Proof.Machine.execNonceReservation dt s
  | .keySlotZeroize dt slot => Sys2Proof.Machine.execKeySlotZeroize dt slot s
  | .keyErasure dt die duration => Sys2Proof.Machine.execKeyErasure dt die duration s
  | .drbgSeed noise => Sys2Proof.Machine.execDrbgSeed noise s
  | .drbgReseed noise => Sys2Proof.Machine.execDrbgReseed noise s
  | .healthTestFailure noise startup => Sys2Proof.Machine.execHealthTestFailure noise startup s
  | .rowFetch dt port seq => Sys2Proof.Machine.execRowFetch dt port seq s
  | .slotWrite dt port fail mask => Sys2Proof.Machine.execSlotWrite dt port fail mask s
  | .weftAbortReceive dt => Sys2Proof.Machine.execWeftAbortReceive dt s
  | .regenRequest dt port seg track slot => Sys2Proof.Machine.execRegenRequest dt port seg track slot s
  | .speedMatchEval dt g => Sys2Proof.Machine.execSpeedMatchEval dt g s
  | .weftDecisionPoint dt g => Sys2Proof.Machine.execWeftDecisionPoint dt g s
  | .catAgeExpiry dt port => Sys2Proof.Machine.execCatAgeExpiry dt port s
  | .memberHeldReport dt g mi => Sys2Proof.Machine.execMemberHeldReport dt g mi s
  | .groupRestart dt g => Sys2Proof.Machine.execGroupRestart dt g s
  | .holdWaitTimeout dt g => Sys2Proof.Machine.execHoldWaitTimeout dt g s
  | .intentDeadline dt g => Sys2Proof.Machine.execIntentDeadline dt g s
  | .verdictArrival dt => Sys2Proof.Machine.execVerdictArrival dt s
  | .verifyDue dt g => Sys2Proof.Machine.execVerifyDue dt g s
  | .graceExpiry dt g => Sys2Proof.Machine.execGraceExpiry dt g s
  | .declareFailed dt g mi data => Sys2Proof.Machine.execDeclareFailed dt g mi data s
  | .rejoin dt g mi data => Sys2Proof.Machine.execRejoin dt g mi data s
  | .datasetRelease dt g => Sys2Proof.Machine.execDatasetRelease dt g s
  | .hdlEnable dt port data => Sys2Proof.Machine.execHdlEnable dt port data s
  | .hdlTrainingTimeout dt port => Sys2Proof.Machine.execHdlTrainingTimeout dt port s
  | .hdlRetrain dt port => Sys2Proof.Machine.execHdlRetrain dt port s
  | .codewordReceive dt shuttle port lane header cells check => Sys2Proof.Machine.execCodewordReceive dt shuttle port lane header cells check s
  | .laneLockLoss dt shuttle port upstream lane => Sys2Proof.Machine.execLaneLockLoss dt shuttle port upstream lane s
  | .statusTimeout dt port => Sys2Proof.Machine.execStatusTimeout dt port s
  | .markerSend dt port seq => Sys2Proof.Machine.execMarkerSend dt port seq s
  | .timeExchange dt port cell t4 => Sys2Proof.Machine.execTimeExchange dt port cell t4 s
  | .sampleCell dt port lane lost cell => Sys2Proof.Machine.execSampleCell dt port lane lost cell s
  | .schedulingPoint dt port moduleB role half place => Sys2Proof.Machine.execSchedulingPoint dt port moduleB role half place s
  | .servoCell dt port reader lost cell => Sys2Proof.Machine.execServoCell dt port reader lost cell s
  | .senseCell dt port cell => Sys2Proof.Machine.execSenseCell dt port cell s
  | .transducerEvaluation dt port => Sys2Proof.Machine.execTransducerEvaluation dt port s
  | .edgeKeepalive dt port => Sys2Proof.Machine.execEdgeKeepalive dt port s
  | .ident dt port seq payload => Sys2Proof.Machine.execIdent dt port seq payload s
  | .status dt port seq payload => Sys2Proof.Machine.execStatus dt port seq payload s
  | .event dt port seq payload => Sys2Proof.Machine.execEvent dt port seq payload s
  | .ack dt port seq payload => Sys2Proof.Machine.execAck dt port seq payload s
  | .msgResend dt port => Sys2Proof.Machine.execMsgResend dt port s
  | .decodePassEnd dt port moduleB role place again => Sys2Proof.Machine.execDecodePassEnd dt port moduleB role place again s
  | .noSyncReport dt port missed => Sys2Proof.Machine.execNoSyncReport dt port missed s
  | .lookBufferGrant dt die => Sys2Proof.Machine.execLookBufferGrant dt die s
  | .leadOnlyReport dt port track missed => Sys2Proof.Machine.execLeadOnlyReport dt port track missed s
  | .deadClearA dt port data => Sys2Proof.Machine.execDeadClearA dt port data s
  | .deadClearB dt port data => Sys2Proof.Machine.execDeadClearB dt port data s
  | .cleBTick dt port => Sys2Proof.Machine.execCleBTick dt port s
  | .cleATick dt port => Sys2Proof.Machine.execCleATick dt port s
  | .cleAIdleTick dt port => Sys2Proof.Machine.execCleAIdleTick dt port s
  | .servoFrameMissing dt port => Sys2Proof.Machine.execServoFrameMissing dt port s
  | .offloadStep dt port => Sys2Proof.Machine.execOffloadStep dt port s
  | .tickOverrun dt port cleB => Sys2Proof.Machine.execTickOverrun dt port cleB s
  | .injectionEnd dt port => Sys2Proof.Machine.execInjectionEnd dt port s
  | .captureFull dt port => Sys2Proof.Machine.execCaptureFull dt port s
  | .rcClear dt port rc data => Sys2Proof.Machine.execRcClear dt port rc data s
  | .carrierPeriodCompile dt port lockstep check => Sys2Proof.Machine.execCarrierPeriodCompile dt port lockstep check s
  | .edgeCarrierWrite dt port data => Sys2Proof.Machine.execEdgeCarrierWrite dt port data s
  | .edgeTimingWrite dt port data => Sys2Proof.Machine.execEdgeTimingWrite dt port data s
  | .edgeMapWrite dt port data => Sys2Proof.Machine.execEdgeMapWrite dt port data s
  | .edgeTestWrite dt port data => Sys2Proof.Machine.execEdgeTestWrite dt port data s
  | .grantRequest dt port pass => Sys2Proof.Machine.execGrantRequest dt port pass s
  | .grantReturn dt port => Sys2Proof.Machine.execGrantReturn dt port s
  | .channelCompare dt die differ fault => Sys2Proof.Machine.execChannelCompare dt die differ fault s
  | .cleHeartbeat dt port cleB own crcOk => Sys2Proof.Machine.execCleHeartbeat dt port cleB own crcOk s
  | .heartbeatDeadline dt port cleB => Sys2Proof.Machine.execHeartbeatDeadline dt port cleB s
  | .overspeedWindow dt port => Sys2Proof.Machine.execOverspeedWindow dt port s
  | .safePortClear dt port data => Sys2Proof.Machine.execSafePortClear dt port data s
  | .faultNExternal dt low => Sys2Proof.Machine.execFaultNExternal dt low s
  | .beamRead dt line errs cmd => Sys2Proof.Machine.execBeamRead dt line errs cmd s
  | .beamPartialWrite dt line mask bytes errs => Sys2Proof.Machine.execBeamPartialWrite dt line mask bytes errs s
  | .mergeEntryTimeout dt ch errs => Sys2Proof.Machine.execMergeEntryTimeout dt ch errs s
  | .scrubLine dt errs => Sys2Proof.Machine.execScrubLine dt errs s
  | .bucketLeak dt ch => Sys2Proof.Machine.execBucketLeak dt ch s
  | .fillStepDone dt => Sys2Proof.Machine.execFillStepDone dt s
  | .writeRaw dt die => Sys2Proof.Machine.execWriteRaw dt die s
  | .writeGen dt die => Sys2Proof.Machine.execWriteGen dt die s
  | .readRaw dt die errs => Sys2Proof.Machine.execReadRaw dt die errs s
  | .hashKeyDraw dt => Sys2Proof.Machine.execHashKeyDraw dt s
  | .shutEnable dt port data => Sys2Proof.Machine.execShutEnable dt port data s
  | .shutRetrain dt port data => Sys2Proof.Machine.execShutRetrain dt port data s
  | .shutTimeTimeout dt port => Sys2Proof.Machine.execShutTimeTimeout dt port s
  | .shutRetryTimer dt port => Sys2Proof.Machine.execShutRetryTimer dt port s
  | .packetReceive dt port lane cell head body => Sys2Proof.Machine.execPacketReceive dt port lane cell head body s
  | .credit dt port lane cells => Sys2Proof.Machine.execCredit dt port lane cells s
  | .heartbeatSend dt => Sys2Proof.Machine.execHeartbeatSend dt s
  | .heartbeat dt port src m => Sys2Proof.Machine.execHeartbeat dt port src m s
  | .heartbeatMiss dt => Sys2Proof.Machine.execHeartbeatMiss dt s
  | .parentTimeExchange dt t1 t2 t3 t4 => Sys2Proof.Machine.execParentTimeExchange dt t1 t2 t3 t4 s
  | .holdover dt => Sys2Proof.Machine.execHoldover dt s
  | .ppsEdge dt => Sys2Proof.Machine.execPpsEdge dt s
  | .timeRefLost dt pps => Sys2Proof.Machine.execTimeRefLost dt pps s
  | .dieAlignCheck dt err => Sys2Proof.Machine.execDieAlignCheck dt err s
  | .managerElection dt => Sys2Proof.Machine.execManagerElection dt s
  | .state dt port src m => Sys2Proof.Machine.execState dt port src m s
  | .standbyTakeover dt => Sys2Proof.Machine.execStandbyTakeover dt s
  | .hold dt port src m => Sys2Proof.Machine.execHold dt port src m s
  | .claim dt data => Sys2Proof.Machine.execClaim dt data s
  | .autoClaimExpiry dt => Sys2Proof.Machine.execAutoClaimExpiry dt s
  | .crossPlanEval dt g => Sys2Proof.Machine.execCrossPlanEval dt g s
  | .plan dt port src m => Sys2Proof.Machine.execPlan dt port src m s
  | .launch dt port src m => Sys2Proof.Machine.execLaunch dt port src m s
  | .launchMissing dt g => Sys2Proof.Machine.execLaunchMissing dt g s
  | .verdict dt port src m => Sys2Proof.Machine.execVerdict dt port src m s
  | .outcome dt port src m => Sys2Proof.Machine.execOutcome dt port src m s
  | .declare dt port src m => Sys2Proof.Machine.execDeclare dt port src m s
  | .regen dt port src m => Sys2Proof.Machine.execRegen dt port src m s
  | .hoprep dt port src m => Sys2Proof.Machine.execHoprep dt port src m s
  | .timefault dt port src m => Sys2Proof.Machine.execTimefault dt port src m s
  | .queue dt port src m => Sys2Proof.Machine.execQueue dt port src m s
  | .queueReport dt => Sys2Proof.Machine.execQueueReport dt s
  | .row dt port src m => Sys2Proof.Machine.execRow dt port src m s
  | .attest dt port src m => Sys2Proof.Machine.execAttest dt port src m s
  | .ledgerRecordSubmit dt region data => Sys2Proof.Machine.execLedgerRecordSubmit dt region data s
  | .pageGatherTimeout dt region die => Sys2Proof.Machine.execPageGatherTimeout dt region die s
  | .pageProgramDone dt die pass => Sys2Proof.Machine.execPageProgramDone dt die pass s
  | .blockErase dt block => Sys2Proof.Machine.execBlockErase dt block s
  | .eraseDone dt die pass => Sys2Proof.Machine.execEraseDone dt die pass s
  | .ledgerScan dt found => Sys2Proof.Machine.execLedgerScan dt found s
  | .resetOfPart dt cause => Sys2Proof.Machine.execResetOfPart dt cause s
  | .porN dt micros => Sys2Proof.Machine.execPorN dt micros s
  | .sysResetN dt micros => Sys2Proof.Machine.execSysResetN dt micros s
  | .bootReset dt data => Sys2Proof.Machine.execBootReset dt data s
  | .perstN dt portB => Sys2Proof.Machine.execPerstN dt portB s
  | .roleConfirm dt linked roleN roleS => Sys2Proof.Machine.execRoleConfirm dt linked roleN roleS s
  | .slotSelect dt selftest => Sys2Proof.Machine.execSlotSelect dt selftest s
  | .benakRead dt copy0 copy1 => Sys2Proof.Machine.execBenakRead dt copy0 copy1 s
  | .attestKeyGen dt => Sys2Proof.Machine.execAttestKeyGen dt s
  | .beamTrain dt channels dpc cap mrdimm uniform rate mismatch => Sys2Proof.Machine.execBeamTrain dt channels dpc cap mrdimm uniform rate mismatch s
  | .configLock dt => Sys2Proof.Machine.execConfigLock dt s
  | .readyReached dt => Sys2Proof.Machine.execReadyReached dt s
  | .bootWatchdogExpiry dt => Sys2Proof.Machine.execBootWatchdogExpiry dt s
  | .d2dLinkLoss dt die => Sys2Proof.Machine.execD2dLinkLoss dt die s
  | .rcvErase dt data fail => Sys2Proof.Machine.execRcvErase dt data fail s
  | .rcvProgram dt data pass => Sys2Proof.Machine.execRcvProgram dt data pass s
  | .rcvVerify dt data => Sys2Proof.Machine.execRcvVerify dt data s
  | .provGo dt data pass => Sys2Proof.Machine.execProvGo dt data pass s
  | .decommission dt data => Sys2Proof.Machine.execDecommission dt data s
  | .commitSvn dt data => Sys2Proof.Machine.execCommitSvn dt data s
  | .pcrExtend dt data => Sys2Proof.Machine.execPcrExtend dt data s
  | .dormantRequest dt data => Sys2Proof.Machine.execDormantRequest dt data s
  | .wardWakeN dt micros => Sys2Proof.Machine.execWardWakeN dt micros s
  | .wakeAfterExpiry dt => Sys2Proof.Machine.execWakeAfterExpiry dt s
  | .powerGoodResume dt intact => Sys2Proof.Machine.execPowerGoodResume dt intact s
  | .wakeRailTimeout dt => Sys2Proof.Machine.execWakeRailTimeout dt s
  | .conversionResult dt value near => Sys2Proof.Machine.execConversionResult dt value near s
  | .wardChCfgWrite dt ch data => Sys2Proof.Machine.execWardChCfgWrite dt ch data s
  | .meshFault dt pair => Sys2Proof.Machine.execMeshFault dt pair s
  | .tamperNLow dt n micros => Sys2Proof.Machine.execTamperNLow dt n micros s
  | .voltageTamper dt core nanos => Sys2Proof.Machine.execVoltageTamper dt core nanos s
  | .temperatureTamper dt temp => Sys2Proof.Machine.execTemperatureTamper dt temp s
  | .clockTamper dt => Sys2Proof.Machine.execClockTamper dt s
  | .tamperClearGo dt data => Sys2Proof.Machine.execTamperClearGo dt data s
  | .alertClear dt data => Sys2Proof.Machine.execAlertClear dt data s
  | .i2cTransfer dt bytes reads => Sys2Proof.Machine.execI2cTransfer dt bytes reads s
  | .i2cWake dt value => Sys2Proof.Machine.execI2cWake dt value s
  | .i2cQuoteRequest dt value => Sys2Proof.Machine.execI2cQuoteRequest dt value s
  | .thermtrip dt die temp => Sys2Proof.Machine.execThermtrip dt die temp s
  | .vidStep dt die up => Sys2Proof.Machine.execVidStep dt die up s
  | .sysEventWrite dt data => Sys2Proof.Machine.execSysEventWrite dt data s
  | .sysEventEnWrite dt data => Sys2Proof.Machine.execSysEventEnWrite dt data s
  | .coreException dt die core slice counter => Sys2Proof.Machine.execCoreException dt die core slice counter s
  | .loReadLatch dt who addr => Sys2Proof.Machine.execLoReadLatch dt who addr s
  | .rcRead dt who addr => Sys2Proof.Machine.execRcRead dt who addr s
  | .registerWrite dt who addr enables data => Sys2Proof.Machine.execRegisterWrite dt who addr enables data s
  | .trainingBlock dt shuttle port lane inverted control locked => Sys2Proof.Machine.execTrainingBlock dt shuttle port lane inverted control locked s
  | .powerLoss dt => Sys2Proof.Machine.execPowerLoss dt s
  | .eraseSuspendDone dt die => Sys2Proof.Machine.execEraseSuspendDone dt die s
  | .eraseRunExpiry dt die => Sys2Proof.Machine.execEraseRunExpiry dt die s
  | .tamperRecordWritten dt => Sys2Proof.Machine.execTamperRecordWritten dt s
  | .permitTestDue dt port pass => Sys2Proof.Machine.execPermitTestDue dt port pass s
  | .unsettledCheck dt port => Sys2Proof.Machine.execUnsettledCheck dt port s
  | .hoprepReport dt => Sys2Proof.Machine.execHoprepReport dt s
  | .tapInstruction dt inst => Sys2Proof.Machine.execTapInstruction dt inst s
  | .timeRefRestored dt pps adj => Sys2Proof.Machine.execTimeRefRestored dt pps adj s

end Sys2Proof.Machine
end

