-- ==== Sys2Proof/Safety.lean ====
section
/-!
DEFINITION. Sys2Proof/Safety.lean: what counts as a safe run, and the words the statements about the block use: what a command
leaves, when nothing more follows from it, and when a host command reaches its acceptance.
-/

namespace Sys2Proof

open Machine

/-- The state after a step, where the step answers one. -/
def next? (o : Host.Outcome Machine.State Machine.Fault Machine.Refusal) : Option Machine.State :=
  match o with
  | .next t => some t
  | .fault _ => none
  | .refused _ => none

/-- The state after `n` steps, where each answers a next state. -/
def runN (s : Machine.State) : Nat → Option Machine.State
  | 0 => some s
  | n + 1 => (next? (Machine.step s)).bind fun t => runN t n

/-- Every step of the first `n` answers a next state: the block stops on nothing. -/
def SafeFor (s : Machine.State) (n : Nat) : Prop := (runN s n).isSome = true

/-- What a command with the effect `f` leaves: `dt` ticks have passed, `f` has been done, and what follows at once is settled. -/
def after (dt : Nat) (s : Machine.State) (f : Block → Block) : Machine.State :=
  { s with blk := settle (begun dt s) (f (begun dt s)) }

/-- Nothing goes on by itself, no tenant becomes ready, no management event newly asks for its message, and no cell is to go out in a
codeword: a command that leaves `a` from `b` leaves just `a`. -/
def Still (b a : Block) : Prop :=
  sendWrites (pumpAll a) = a ∧ refreshReady a = a ∧ (eventsOn a = true → eventsOn b = true) ∧ lines a = a

/-- The command has its effect in DORMANT too: it is an event of the warden, of the reset inputs or of the power supply. -/
def wardRow : Instr → Bool
  | .resetOfPart .. | .porN .. | .sysResetN .. | .powerLoss .. | .wardWakeN .. | .wakeAfterExpiry .. | .powerGoodResume ..
  | .wakeRailTimeout .. | .conversionResult .. | .meshFault .. | .tamperNLow .. | .voltageTamper .. | .temperatureTamper ..
  | .clockTamper .. | .tamperRecordWritten .. | .i2cTransfer .. | .i2cWake .. | .i2cQuoteRequest .. => true
  | _ => false

/-- A write of the host reaches the register at `addr`: the die answers, and the block decodes it (R570, R573). -/
def HostReaches (b : Block) (addr : Nat) : Prop := awayS b 0 addr = false ∧ decodes b 0 addr = true

/-! ### A host command alone in the part -/

/-- No queue holds a fetched entry. -/
def Idle (b : Block) : Prop := ∀ x ∈ b.hq.qps, x.2.fetched = [] ∧ x.2.held = none

/-- Queue pair q of function fn, whose SQ is empty, can take an entry: the pair fetches, the entry passes the fetch checks, and its
tenant's weight, its port's window and the part's start-up let it be dispatched. -/
def Takes (b : Block) (fn q : Nat) (e : Sqe) (sgl : List Sgl) : Prop :=
  let p := b.qp (qpKey fn q)
  Idle b ∧ qpActive b fn q = true ∧ p.sqHead = p.sqTail ∧ p.sqTail < qpSize p ∧ 1 < qpSize p
    ∧ cqFull p = false ∧ fetchFault fn e sgl = none ∧ rdB b Fld.BOOT_STATE_HALF_ISOLATED = false
    ∧ weightOf b (tenantOf b fn) ≠ 0 ∧ windowRoom b fn e = true ∧ (early e.opcode = true ∨ starting b = false)

/-- The part as the entry leaves the scheduler: fetched, and chosen by a dispatch slot. -/
def chosen (b : Block) (fn q : Nat) (e : Sqe) (sgl : List Sgl) : Block :=
  let k := qpKey fn q
  let b := fetchEntry (sqTailDb b fn q (((b.qp k).sqTail + 1) % qpSize (b.qp k))) fn q e sgl
  schedTake (refreshReady b) (tenantOf b fn) k

/-- The entry is accepted at its dispatch: no check fails and no hold begins. -/
def Accepted (b : Block) (fn q : Nat) (e : Sqe) (sgl : List Sgl) : Prop :=
  Takes b fn q e sgl ∧ dispatchFault (chosen b fn q e sgl) (tenantOf b fn) e = none
    ∧ holdOf (chosen b fn q e sgl) (tenantOf b fn) e = none

/-- The part with the entry taken from its queue and its tenant charged, as its acceptance finds it (R65). -/
def taken (b : Block) (fn q : Nat) (e : Sqe) (sgl : List Sgl) : Block :=
  let w := chosen b fn q e sgl
  charge (popHead w (qpKey fn q)) (tenantOf b fn) (weightOf w (tenantOf b fn)) e

/-- The part with an accepted command that is no stream's, and the command's number in it. -/
def entered (b : Block) (fn q : Nat) (e : Sqe) (sgl : List Sgl) : Nat × Block :=
  newCmd (taken b fn q e sgl) (qpKey fn q) ⟨e, sgl⟩ none none 0xFFFFFFFFFFFFFFFF false .working

/-! ### The reader of a slot (R182) -/

/-- The scrambled bits y that channel bits show after a channel bit `mag`: y[i] = m[i] xor m[i - 1]. -/
def flips : Bool → List Bool → List Bool
  | _, [] => []
  | mag, m :: t => xor m mag :: flips m t

/-- The bits u before the scrambler, from the last three scrambled bits: u[i] = y[i] xor y[i - 2] xor y[i - 3]. -/
def unscramble : Bool → Bool → Bool → List Bool → List Bool
  | _, _, _, [] => []
  | y1, y2, y3, y :: t => xor y (xor y2 y3) :: unscramble y y1 y2 t

/-- The slot bits a reader recovers from channel bits: the augmenting bit of each 33 is dropped. -/
def readSlot (mag : Bool) (ms : List Bool) : List Bool :=
  (((unscramble false false false (flips mag ms)).zipIdx).filter fun x => x.2 % 33 != 0).map (·.1)

/-! ### Nonces (R147, R149) -/

/-- The sub-blocks of the pipelines lie below the next value of the counter, and no two share a value. -/
def NonceInv (b : Block) : Prop :=
  (∀ p, (b.pipe p).subEnd ≤ b.ciph.nonceNext)
    ∧ ∀ p q, p ≠ q → ∀ v, ¬ (((b.pipe p).subNext ≤ v ∧ v < (b.pipe p).subEnd) ∧ ((b.pipe q).subNext ≤ v ∧ v < (b.pipe q).subEnd))

/-- A counter value is at hand for a pipeline. -/
def Drawable (b : Block) (p : Nat) : Prop := (b.pipe p).subNext < (b.pipe p).subEnd ∨ b.ciph.nonceNext < b.ciph.nonceEnd

/-- Pipelines draw values one after the other, each where one is at hand: the values, and the block. -/
inductive Draws : Block → List Nat → Block → Prop
  | none (b : Block) : Draws b [] b
  | more {b c : Block} {vs : List Nat} (p : Nat) : Drawable b p → Draws (drawNonce b p).2 vs c → Draws b ((drawNonce b p).1 :: vs) c

end Sys2Proof
end

