-- ==== Sys2Proof/Certificates/Slice0/Obligations.lean ====
section
/-!
DEFINITION. Sys2Proof/Certificates/Slice0/Obligations.lean: what is stated of the block for the provers, each by a name of its own.
-/

open Sys2Proof Sys2Proof.Machine

/-- A step takes the command at the front of the queue and runs it on the state with the queue's rest. That an empty queue idles is the
model's choice (log entry 2). -/
def Obligations.StepTakesFrontCommand : Prop :=
  ∀ (c : Instr) (s : State),
    step { s with pending := c :: s.pending } = exec c s ∧ step { s with pending := [] } = .next { s with pending := [] }

/-- No command stops the block, whatever its operands and whatever the state; the queue is not touched. -/
def Obligations.EveryCommandAnswersNext : Prop :=
  ∀ (c : Instr) (s : State), ∃ t, exec c s = .next t ∧ t.pending = s.pending

/-- Runs are safe, and the queue is first in, first out. -/
def Obligations.RunsTakeCommandsInOrder : Prop :=
  ∀ (s : State) (n : Nat), SafeFor s n ∧ ∀ t, runN s n = some t → t.pending = s.pending.drop n

/-- In DORMANT and while waking only the warden, the reset inputs and the supply reach the part (log entry 62: what else is commanded
then has no effect). -/
def Obligations.DormantLeavesOnlyTheWarden : Prop :=
  ∀ (c : Instr) (s : State), awake s.blk = false → wardRow c = false →
    ∃ dt, exec c s = .next { s with blk := elapse dt { s.blk with out := [] } }

/-- The tenants that the scheduler holds as ready are those that are ready (R65), before and after every step. -/
def Obligations.StepsKeepReadyTenants : Prop :=
  ∀ s t : State, s.blk.hq.ready = readyTenants s.blk → step s = .next t → t.blk.hq.ready = readyTenants t.blk

/-- The invariant of the ready tenants holds at reset. -/
def Obligations.ResetHasExactReadyTenants : Prop :=
  State.reset.pending = [] ∧ State.reset.blk.hq.qps = [] ∧ State.reset.blk.hq.ready = []
    ∧ State.reset.blk.hq.ready = readyTenants State.reset.blk

/-- The management event (R576). That a masked vector becomes pending is presumed (log entry 136). -/
def Obligations.EventsSendTheirMessage : Prop :=
  ∀ (c : Instr) (s t : State), exec c s = .next t → eventsOn s.blk = false → awake t.blk = true → eventsOn t.blk = true →
    let v := rd t.blk Fld.SYS_EVENT_VEC_VECTOR
    (msixAble t.blk 0 v = true → Output.msix 0 v ∈ t.blk.out) ∧ (msixAble t.blk 0 v = false → v ∈ t.blk.hq.vecPend)

/-- The rate of loom time (R444). The fraction below a tick is kept by the model. -/
def Obligations.LoomTimeAdvancesEvenly : Prop :=
  ∀ (b : Block) (d e : Nat), b.time.frac < 2 ^ 32 → -(2 ^ 32 : Int) ≤ b.time.adj →
    (((elapse d b).time.now * 2 ^ 32 + (elapse d b).time.frac : Nat) : Int)
        = ((b.time.now * 2 ^ 32 + b.time.frac : Nat) + (d : Int) * (2 ^ 32 + b.time.adj)) % (2 ^ 96 : Nat)
      ∧ elapse e (elapse d b) = elapse (d + e) b
      ∧ elapse d b = { b with time := { b.time with now := (elapse d b).time.now, frac := (elapse d b).time.frac } }

/-- Acceptance of the stream commands (R55, R59). The row stands for the entry placed, its doorbell, fetch and dispatch (log entry 63). -/
def Obligations.StreamCommandsAreAccepted : Prop :=
  ∀ (dt : Nat) (s : State) (fn : Fin 256) (q : Fin 1024) (e : Sqe) (sgl : List Sgl), awake s.blk = true →
    let k := qpKey fn.val q.val
    let ok (e : Sqe) : Prop := Accepted (begun dt s) fn.val q.val e sgl
    let at' (f : Block → Nat → Fetched → Block) (e : Sqe) := after dt s fun b => f (taken b fn.val q.val e sgl) k ⟨e, sgl⟩
    (let e := { e with opcode := 1 }; ok e → exec (.openStream dt fn q e sgl) s = .next (at' acceptOpenStream e))
      ∧ (let e := { e with opcode := 2 }; ok e → exec (.closeStream dt fn q e sgl) s = .next (at' acceptEnding e))
      ∧ (let e := { e with opcode := 3 }; ok e → exec (.openObject dt fn q e sgl) s = .next (at' acceptOpenObject e))
      ∧ (let e := { e with opcode := 4 }; ok e → recordFits (chosen (begun dt s) fn.val q.val e sgl) e = true → exec (.putRecord dt fn q e sgl) s = .next (at' acceptPutRecord e))
      ∧ (let e := { e with opcode := 5 }; ok e → exec (.closeObject dt fn q e sgl) s = .next (at' acceptEnding e))
      ∧ (let e := { e with opcode := 6 }; ok e → exec (.flush dt fn q e sgl) s = .next (at' acceptEnding e))
      ∧ (let e := { e with opcode := 7 }; ok e → exec (.abortObject dt fn q e sgl) s = .next (at' acceptAbort e))

/-- Acceptance of the commands that act on no stream (R55). The row stands for the entry placed, its doorbell, fetch and dispatch (log
entry 63). -/
def Obligations.OtherHostCommandsAreAccepted : Prop :=
  ∀ (dt : Nat) (s : State) (fn : Fin 256) (q : Fin 1024) (e : Sqe) (sgl : List Sgl), awake s.blk = true →
    let ok (e : Sqe) : Prop := Accepted (begun dt s) fn.val q.val e sgl
    let at' (f : Block → Nat → Block) (e : Sqe) := after dt s fun b =>
      f (entered b fn.val q.val e sgl).2 (entered b fn.val q.val e sgl).1
    (let e := { e with opcode := 0x10 }; ok e → exec (.mount dt fn q e sgl) s = .next (at' acceptMountCmd e))
      ∧ (let e := { e with opcode := 0x11 }; ok e → exec (.unmount dt fn q e sgl) s = .next (at' acceptUnmount e))
      ∧ (let e := { e with opcode := 0x12 }; ok e → exec (.locate dt fn q e sgl) s = .next (at' acceptRead e))
      ∧ (let e := { e with opcode := 0x13 }; ok e → exec (.readObject dt fn q e sgl) s = .next (at' acceptRead e))
      ∧ (let e := { e with opcode := 0x14 }; ok e → exec (.readRecord dt fn q e sgl) s = .next (at' acceptRead e))
      ∧ (let e := { e with opcode := 0x20 }; ok e → exec (.patrol dt fn q e sgl) s = .next (at' acceptPatrol e))
      ∧ (let e := { e with opcode := 0x21 }; ok e → exec (.rebuild dt fn q e sgl) s = .next (at' acceptRebuild e))
      ∧ (let e := { e with opcode := 0x22 }; ok e → exec (.reshape dt fn q e sgl) s = .next (at' acceptReshape e))
      ∧ (let e := { e with opcode := 0x30 }; ok e → exec (.keyLoad dt fn q e sgl) s = .next (at' acceptKeyLoad e))
      ∧ (let e := { e with opcode := 0x31 }; ok e → exec (.keyDrop dt fn q e sgl) s = .next (at' acceptKeyDrop e))
      ∧ (let e := { e with opcode := 0x32 }; ok e → exec (.attestQuote dt fn q e sgl) s = .next (at' acceptAttestQuote e))
      ∧ (let e := { e with opcode := 0x33 }; ok e → exec (.getEntropy dt fn q e sgl) s = .next (at' acceptGetEntropy e))
      ∧ (let e := { e with opcode := 0x40 }; ok e → exec (.getLog dt fn q e sgl) s = .next (at' acceptGetLog e))
      ∧ (let e := { e with opcode := 0x41 }; ok e → exec (.tuneLoop dt fn q e sgl) s = .next (at' acceptTune e))
      ∧ (let e := { e with opcode := 0x42 }; ok e → exec (.injectCapture dt fn q e sgl) s = .next (at' acceptInject e))
      ∧ (let e := { e with opcode := 0x50 }; ok e → exec (.beamFill dt fn q e sgl) s = .next (at' acceptBeamFill e))
      ∧ (let e := { e with opcode := 0x51 }; ok e → exec (.beamRetire dt fn q e sgl) s = .next (at' acceptBeamRetire e))

/-- Enabling and disabling a queue pair (R43, R47), with what they leave alone. -/
def Obligations.QueuePairsStartAndStop : Prop :=
  ∀ (dt : Nat) (s : State) (fn : Fin 256) (q : Fin 1024) (data : Word), awake s.blk = true →
    let b := begun dt s
    let k := qpKey fn.val q.val
    HostReaches b (Reg.QP_CTRL fn.val q.val) → pairThere b fn.val q.val = true →
    exec (.qpEnable dt fn q data) s = .next (after dt s fun b => writeQpCtrl b fn.val q.val (withBit data 0))
    ∧ exec (.qpDisable dt fn q data) s = .next (after dt s fun b => writeQpCtrl b fn.val q.val (withoutBit data 0))
    ∧ ∀ d : Nat, let c := writeQpCtrl b fn.val q.val d
      (qpOn b fn.val q.val = false → qpOn c fn.val q.val = true →
        c.qp k = { sqBase := rd b (Fld.QP_SQ_BASE_LO_ADDR fn.val q.val) * 4096 + regGet b (Reg.QP_SQ_BASE_HI fn.val q.val) * 2 ^ 32
                   cqBase := rd b (Fld.QP_CQ_BASE_LO_ADDR fn.val q.val) * 4096 + regGet b (Reg.QP_CQ_BASE_HI fn.val q.val) * 2 ^ 32
                   sizeLog2 := rd c (Fld.QP_CTRL_SIZE_LOG2 fn.val q.val), sqHead := 0, sqTail := 0, cqHead := 0, cqTail := 0
                   phase := true, fetching := true })
      ∧ (qpOn b fn.val q.val = true → qpOn c fn.val q.val = false →
        (c.qp k).fetching = false ∧ (c.qp k).fetched = [] ∧ (c.qp k).held = none ∧ (c.qp k).running = (b.qp k).running
          ∧ (c.qp k).waiting = (b.qp k).waiting ++ (b.qp k).fetched.map (fun f =>
              { cid := f.e.cid, status := 0x1004, seq := 0xFFFFFFFFFFFFFFFF, opcode := f.e.opcode, handle := f.e.handle })
          ∧ (c.qp k).sqHead = (b.qp k).sqHead ∧ (c.qp k).sqTail = (b.qp k).sqTail ∧ (c.qp k).cqHead = (b.qp k).cqHead
          ∧ (c.qp k).cqTail = (b.qp k).cqTail)
      ∧ (∀ j, j ≠ k → c.qp j = b.qp j) ∧ (∀ a, a ≠ Reg.QP_CTRL fn.val q.val → regGet c a = regGet b a)
      ∧ c = { b with regs := c.regs, hq := { b.hq with qps := c.hq.qps }, out := c.out }

/-- The submission doorbell (R43, R44) and its frame. -/
def Obligations.TailDoorbellsMoveOneIndex : Prop :=
  ∀ (dt : Nat) (s : State) (fn : Fin 256) (q : Fin 1024) (index : Nat), awake s.blk = true →
    let b := begun dt s
    let k := qpKey fn.val q.val
    let i := index % 4096
    let c := sqTailDb b fn.val q.val i
    HostReaches b (Reg.QP_SQ_TAIL_DB fn.val q.val) → pairThere b fn.val q.val = true →
    exec (.qpSqTailDb dt fn q index) s = .next (after dt s fun b => sqTailDb b fn.val q.val i)
    ∧ (Still b c → exec (.qpSqTailDb dt fn q index) s = .next { s with blk := c })
    ∧ (qpOn b fn.val q.val = false → c = b)
    ∧ (qpOn b fn.val q.val = true → i < 2 ^ (b.qp k).sizeLog2 →
        (c.qp k) = { b.qp k with sqTail := i } ∧ (∀ j, j ≠ k → c.qp j = b.qp j)
          ∧ c = { b with hq := { b.hq with qps := c.hq.qps } })
    ∧ (qpOn b fn.val q.val = true → 2 ^ (b.qp k).sizeLog2 ≤ i →
        rd c (Fld.QP_STATUS_DOORBELL_ERR fn.val q.val) = 1 ∧ (c.qp k) = { b.qp k with fetching := false }
          ∧ (∀ j, j ≠ k → c.qp j = b.qp j) ∧ (∀ a, a ≠ Reg.QP_STATUS fn.val q.val → regGet c a = regGet b a)
          ∧ c = { b with regs := c.regs, hq := { b.hq with qps := c.hq.qps } })

/-- The completion doorbell (R46) and its frame. -/
def Obligations.HeadDoorbellsFreeOnlyWrittenSlots : Prop :=
  ∀ (dt : Nat) (s : State) (fn : Fin 256) (q : Fin 1024) (index : Nat), awake s.blk = true →
    let b := begun dt s
    let k := qpKey fn.val q.val
    let p := b.qp k
    let n := 2 ^ p.sizeLog2
    let i := index % 4096
    let c := cqHeadDb b fn.val q.val i
    HostReaches b (Reg.QP_CQ_HEAD_DB fn.val q.val) → pairThere b fn.val q.val = true → qpIdle b fn.val q.val = false →
    p.cqHead < n → p.cqTail < n →
    exec (.qpCqHeadDb dt fn q index) s = .next (after dt s fun b => cqHeadDb b fn.val q.val i)
    ∧ (Still b c → exec (.qpCqHeadDb dt fn q index) s = .next { s with blk := c })
    ∧ (i < n ∧ (i + n - p.cqHead) % n ≤ (p.cqTail + n - p.cqHead) % n →
        c.qp k = { p with cqHead := i } ∧ (∀ j, j ≠ k → c.qp j = b.qp j) ∧ c = { b with hq := { b.hq with qps := c.hq.qps } })
    ∧ (¬ (i < n ∧ (i + n - p.cqHead) % n ≤ (p.cqTail + n - p.cqHead) % n) →
        (c.qp k).cqHead = p.cqHead ∧ c.qp k = { p with fetching := false }
          ∧ rd c (Fld.QP_STATUS_DOORBELL_ERR fn.val q.val) = 1
          ∧ (∀ j, j ≠ k → c.qp j = b.qp j) ∧ (∀ a, a ≠ Reg.QP_STATUS fn.val q.val → regGet c a = regGet b a)
          ∧ c = { b with regs := c.regs, hq := { b.hq with qps := c.hq.qps } })
    ∧ cqCount (c.qp k) ≤ cqCount p

/-- The fetch checks (R55), in their order. -/
def Obligations.FetchedEntriesAreCheckedInOrder : Prop :=
  ∀ (dt : Nat) (s : State) (fn : Fin 256) (q : Fin 1024) (raw : Bytes) (sgl : List Sgl), awake s.blk = true →
    let b := begun dt s
    let k := qpKey fn.val q.val
    let e := sqeOf raw
    let c := fetchEntry b fn.val q.val e sgl
    let p := { b.qp k with sqHead := ((b.qp k).sqHead + 1) % 2 ^ (b.qp k).sizeLog2 }
    let fails (st d : Nat) : Prop := c.qp k = { p with
      waiting := p.waiting ++ [{ cid := e.cid, status := st, seq := 0xFFFFFFFFFFFFFFFF, detail := d, opcode := e.opcode, handle := e.handle }] }
    let permitted : Bool := opcodes.contains e.opcode && !(fn0Ops.contains e.opcode && fn.val != 0)
    canFetch b fn.val q.val = true →
    exec (.sqEntryFetch dt fn q raw sgl) s = .next (after dt s fun b => fetchEntry b fn.val q.val e sgl)
    ∧ (opcodes.contains e.opcode = false → fails 0x1001 0)
    ∧ (opcodes.contains e.opcode = true → fn0Ops.contains e.opcode = true → fn.val ≠ 0 → fails 0x1006 0)
    ∧ (∀ d, permitted = true → fieldFault e sgl = some d → fails 0x1002 d)
    ∧ (permitted = true → fieldFault e sgl = none → rdB b Fld.BOOT_STATE_HALF_ISOLATED = true → onPortB b fn.val = true → fails 0x9002 0)
    ∧ (permitted = true → fieldFault e sgl = none → (rdB b Fld.BOOT_STATE_HALF_ISOLATED && onPortB b fn.val) = false →
        c.qp k = { p with fetched := p.fetched ++ [⟨e, sgl⟩] })
    ∧ (∃ r, c.out = .hostRead fn.val ((b.qp k).sqBase + 64 * (b.qp k).sqHead) 64 :: r)
    ∧ (∀ j, j ≠ k → c.qp j = b.qp j) ∧ c = { b with out := c.out, hq := { b.hq with qps := c.hq.qps } }

/-- Commands that only FN 0 may send (R40). -/
def Obligations.FunctionZeroCommandsAreNotPermittedElsewhere : Prop :=
  ∀ (b : Block) (fn q : Nat) (e : Sqe) (sgl : List Sgl), e.opcode ∈ [0x10, 0x11, 0x20, 0x21, 0x22, 0x41, 0x42, 0x50, 0x51] →
    (fn ≠ 0 →
      let c := fetchEntry b fn q e sgl
      let p := b.qp (qpKey fn q)
      c.qp (qpKey fn q) = { p with
          sqHead := (p.sqHead + 1) % qpSize p
          waiting := p.waiting ++ [{ cid := e.cid, status := 0x1006, seq := 0xFFFFFFFFFFFFFFFF, opcode := e.opcode, handle := e.handle }] }
        ∧ (∀ j, j ≠ qpKey fn q → c.qp j = b.qp j) ∧ c = { b with out := c.out, hq := { b.hq with qps := c.hq.qps } })
    ∧ (∀ d, fetchFault 0 e sgl ≠ some (0x1006, d))

/-- The posting of a completion (R45, R51, R61). -/
def Obligations.CompletionsArePostedIntoFreedSlots : Prop :=
  ∀ (dt : Nat) (s : State) (fn : Fin 256) (q : Fin 1024), awake s.blk = true →
    let b := begun dt s
    let k := qpKey fn.val q.val
    let p := b.qp k
    let c := postOne b fn.val q.val
    exec (.completionPost dt fn q) s = .next (after dt s fun b => postOne b fn.val q.val)
    ∧ (p.waiting = [] ∨ cqCount p + 1 = qpSize p ∨ p.cqHeld = true → c = b)
    ∧ (∀ x rest, p.waiting = x :: rest → cqCount p + 1 ≠ qpSize p → p.cqHeld = false →
        (∃ r, c.out = .hostWrite fn.val (p.cqBase + 32 * p.cqTail)
            (leB 2 x.cid ++ leB 2 x.status ++ leB 2 p.sqHead ++ leB 1 x.level ++ zeros 1 ++ leB 8 x.seq ++ slice x.result 0 12
              ++ leB 2 x.detail ++ leB 2 (if p.phase then 0x8000 else 0)) :: r)
        ∧ (cqEntry p x).length = 32
        ∧ (∃ more, (c.qp k).waiting = rest ++ more ∧ (x.stream = none → more = []))
        ∧ (c.qp k).cqTail = (p.cqTail + 1) % qpSize p
        ∧ (c.qp k).phase = (if p.cqTail + 1 = qpSize p then !p.phase else p.phase)
        ∧ (c.qp k).sqHead = p.sqHead ∧ (c.qp k).sqTail = p.sqTail ∧ (c.qp k).cqHead = p.cqHead ∧ (c.qp k).fetched = p.fetched
        ∧ (∀ j, j ≠ k → ∃ more n, c.qp j = { b.qp j with waiting := (b.qp j).waiting ++ more, running := n })
        ∧ (x.stream = none → x.closes = none → (∀ j, j ≠ k → c.qp j = b.qp j) ∧ (∀ a, regGet c a = regGet b a)))

/-- The scheduler of R65. -/
def Obligations.SchedulerServesLeastStartTag : Prop :=
  ∀ (dt : Nat) (s : State), awake s.blk = true →
    let b := begun dt s
    let r := refreshReady b
    exec (.dispatchSlot dt) s = .next (after dt s slotOnce)
    ∧ (∀ t, (r.tenant t).tag = if t ∈ readyTenants b ∧ t ∉ b.hq.ready then max (b.tenant t).tag b.hq.vtime else (b.tenant t).tag)
    ∧ (readyTenants b = [] → slotOnce b = r)
    ∧ (∀ t k, schedPick r = some (t, k) →
        tenantReady r t = true ∧ weightOf r t ≠ 0 ∧ tenantOf r (k / 1024) = t ∧ queueReady r k = true
        ∧ (∀ u ∈ readyTenants r, (r.tenant t).tag ≤ (r.tenant u).tag ∧ ((r.tenant u).tag = (r.tenant t).tag → t ≤ u))
        ∧ slotOnce b = dispatch (schedTake r t k) t k
        ∧ (schedTake r t k).hq.vtime = (r.tenant t).tag
        ∧ ((schedTake r t k).tenant t).lastQ = globalQp r (k / 1024) (k % 1024))

/-- The ends of a hold (R56, R62, R85). -/
def Obligations.HeldCommandsEndOneWay : Prop :=
  ∀ (dt : Nat) (s : State) (fn : Fin 256) (q : Fin 1024) (f : Fetched) (r : List Fetched) (h : Held), awake s.blk = true →
    let b := begun dt s
    let k := qpKey fn.val q.val
    (b.qp k).fetched = f :: r → (b.qp k).held = some h →
    (dispatchFault b (tenantOf b fn.val) f.e = none → heldReady b k f = true →
        exec (.heldCommandAccept dt fn q) s = .next (after dt s fun b => takeEntry b (tenantOf b fn.val) h.weight k f))
    ∧ (f.e.opcode = 3 → rd b Fld.HQI_HOLD_OBJ_HOLD * 4000000 ≤ since b h.since → objRoom b = false →
        exec (.objHoldExpiry dt fn q) s = .next (after dt s fun b =>
          failEntry (popHead (inc b Fld.BOB_OBJ_HELD_TIMEOUTS) k) fn.val q.val f.e 0x7001 (rd b Fld.HQI_HOLD_OBJ_HOLD)))
    ∧ (f.e.opcode = 4 → rd b Fld.HQI_HOLD_BEAM_HOLD * 4000000 ≤ since b h.since →
        exec (.beamHoldExpiry dt fn q) s = .next (after dt s fun b =>
          pumpStream (implicitAbort (popHead b k) k f 0x7003 (min 65535 (since b h.since / 4000000))) f.e.handle))

/-- Errors of PCI Express on a pair, and Function Level Reset (R48). -/
def Obligations.DmaErrorsStopFetchingAndKeepEntries : Prop :=
  ∀ (dt : Nat) (s : State) (fn : Fin 256) (q : Fin 1024), awake s.blk = true →
    let b := begun dt s
    let k := qpKey fn.val q.val
    let c := setDmaErr b fn.val q.val
    let h := holdCq b fn.val q.val
    let w := writeQpStatus b fn.val q.val 8
    let v := (writeFields b (Reg.QP_STATUS fn.val q.val) 8).updQp k fun p => { p with cqHeld := false }
    (canFetch b fn.val q.val = true → exec (.sqReadFailed dt fn q) s = .next (after dt s fun b => setDmaErr b fn.val q.val))
    ∧ ((b.qp k).waiting ≠ [] → cqFull (b.qp k) = false → (b.qp k).cqHeld = false →
        exec (.cqWriteFailed dt fn q) s = .next (after dt s fun b => holdCq b fn.val q.val))
    ∧ (HostReaches b (Reg.QP_STATUS fn.val q.val) → pairThere b fn.val q.val = true →
        exec (.dmaErrClear dt fn q) s = .next (after dt s fun b => writeQpStatus b fn.val q.val 8))
    ∧ (fnThere b fn.val = true → exec (.functionLevelReset dt fn) s = .next (after dt s fun b => functionReset b fn.val))
    ∧ h = c.updQp k (fun p => { p with cqHeld := true })
    ∧ (dmaErr b fn.val q.val = false → w.hq = b.hq)
    ∧ (dmaErr b fn.val q.val = true → w = postAll v fn.val q.val (b.qp k).waiting.length)
    ∧ (dmaErr v fn.val q.val = false ∧ v.qp k = { b.qp k with cqHeld := false } ∧ (∀ j, j ≠ k → v.qp j = b.qp j)
        ∧ ∀ a, a ≠ Reg.QP_STATUS fn.val q.val → regGet v a = regGet b a)
    ∧ (rd c (Fld.QP_STATUS_DMA_ERR fn.val q.val) = 1 ∧ c.qp k = { b.qp k with fetching := false }
        ∧ (∀ j, j ≠ k → c.qp j = b.qp j) ∧ (∀ a, a ≠ Reg.QP_STATUS fn.val q.val → regGet c a = regGet b a))
    ∧ ((∀ x ∈ b.ing.streams, (x.2.isOpen && x.2.fn == fn.val) = false) → (tabGet {} b.hq.fns fn.val : FnCfg).vf ≠ 0 →
        (∀ n, n / 1024 = fn.val → (b.qp n).waiting = []) →
        (∀ n, n / 1024 = fn.val →
          let p := (functionReset b fn.val).qp n
          p.fetching = false ∧ p.fetched = [] ∧ p.held = none ∧ p.waiting = []))

/-- Interrupt aggregation (R41) and FORCE budgets (R69). -/
def Obligations.SignalsAndForceBudgetsFollowTheirClocks : Prop :=
  ∀ (dt : Nat) (s : State) (fn t : Fin 256) (q : Fin 1024) (data : Word), awake s.blk = true →
    let b := begun dt s
    let k := qpKey fn.val q.val
    (aggTimeUp b fn.val q.val = true → rdB b (Fld.QP_CTRL_IE fn.val q.val) = true → 0 < (b.qp k).unsignalled →
        exec (.aggTimeExpiry dt fn q) s = .next (after dt s fun b =>
          sendMsix (b.updQp k fun p => { p with unsignalled := 0, unsigSince := none }) fn.val (rd b (Fld.QP_CTRL_VECTOR fn.val q.val))))
    ∧ (gridDue b t.val = true →
        exec (.forceTokenGrid dt t) s = .next (after dt s fun b => b.updTenant t.val fun x =>
          { x with gridDone := x.gridDone + 1
                   tokens := if x.tokens < rd b (Fld.HQI_TENANT_FORCE_FORCE_BURST t.val) then x.tokens + 1 else x.tokens }))
    ∧ (gridDue b t.val = false → exec (.forceTokenGrid dt t) s = .next (after dt s id))
    ∧ (HostReaches b (Reg.HQI_TENANT_FORCE t.val) →
        exec (.hqiTenantForceWrite dt t data) s = .next (after dt s fun b => writeForce b t.val data.toNat)
        ∧ let c := writeForce b t.val data.toNat
          (c.tenant t.val).tokens = rd c (Fld.HQI_TENANT_FORCE_FORCE_BURST t.val)
            ∧ (c.tenant t.val).gridFrom = b.time.now ∧ (c.tenant t.val).gridDone = 0 ∧ (c.tenant t.val).tag = (b.tenant t.val).tag
            ∧ (∀ u, u ≠ t.val → c.tenant u = b.tenant u))

/-- Writes of the function map (R67). -/
def Obligations.FunctionMapWritesAreDiscardedWhole : Prop :=
  ∀ (dt : Nat) (s : State) (fn : Fin 256) (data : Word), awake s.blk = true →
    let b := begun dt s
    let f := fn.val
    let quota := if bitsOf data.toNat 16 11 ≤ 1024 then bitsOf data.toNat 16 11 else quotaOf b f
    let total := quotaSum b - quotaOf b f + quota
    HostReaches b (Reg.HQI_FN_MAP f) →
    ((∃ q, q < quotaOf b f ∧ qpOn b f q = true) → exec (.hqiFnMapWrite dt fn data) s = .next (after dt s id))
    ∧ (1024 < total → exec (.hqiFnMapWrite dt fn data) s = .next (after dt s id))
    ∧ ((∀ q, q < quotaOf b f → qpOn b f q = false) → total ≤ 1024 →
        exec (.hqiFnMapWrite dt fn data) s = .next (after dt s fun b => writeFnMap b f data.toNat)
        ∧ (b.ing.streams = [] →
          let c := writeFnMap b f data.toNat
          rd c (Fld.HQI_FN_MAP_QP_QUOTA f) = quota
            ∧ rd c (Fld.HQI_FN_MAP_TENANT f) = (if f = 0 then 0 else if bitsOf data.toNat 0 8 = 0 then tenantOf b f else bitsOf data.toNat 0 8)
            ∧ (∀ a, a ≠ Reg.HQI_FN_MAP f → regGet c a = regGet b a)))

/-- Completion of the rows of chapter 3. -/
def Obligations.BobbinRowsTakeTheirEffect : Prop :=
  ∀ (dt : Nat) (s : State), awake s.blk = true →
    let b := begun dt s
    (∀ (die : Fin 2) (n m : Nat), waitingRecord b die.val = some n → freeBobbin b die.val = some m →
      exec (.bobbinGrant dt die) s = .next (after dt s fun b =>
        noteReady ((b.updBobbin (512 * die.val + m) fun _ => { owner := some n, left := (b.cmd n).e.length }).updCmd n
          fun c => { c with bobbin := some (512 * die.val + m), phase := .transfer })))
    ∧ (∀ cmd len k : Nat, let c := b.cmd cmd
      c.bobbin = some k → c.requested + len ≤ c.e.length → dmaTurn b cmd len = true →
      exec (.dmaReadRequest dt cmd len) s = .next (after dt s fun b =>
        ((readBuf b c.fn c.e c.sgl c.requested len).updBobbin k fun x =>
            { x with reserved := x.reserved + wordsFor c.requested len, left := x.left - len, due := x.due + len }).updCmd cmd
          fun c => { c with requested := c.requested + len }))
    ∧ (∀ (cmd k : Nat) (data : Bytes),
      let x := b.bobbin k
      let last : Bool := decide (x.due = data.length ∧ x.left = 0)
      let p := packWords last ((x.packing ++ data).length / 64 + 1) (x.packing ++ data)
      bobbinOf b cmd = some k → (b.cmd cmd).e.opcode = 4 → x.dead = false → x.allIn = false → data ≠ [] → data.length ≤ x.due →
      exec (.dmaReadCompletion dt cmd data) s = .next (after dt s fun b =>
        storeWords ((b.updBobbin k fun x => { x with packing := p.2, due := x.due - data.length }).updCmd cmd
          fun c => { c with arrived := c.arrived + data.length }) k p.1 last))
    ∧ (∀ cmd k : Nat, bobbinOf b cmd = some k → (b.cmd cmd).e.opcode = 4 → 0 < (b.bobbin k).due → (b.bobbin k).allIn = false →
      exec (.dmaReadFailed dt cmd) s = .next (after dt s fun b =>
        terminate (inc (b.updCmd cmd fun c => { c with ended := true }) (Fld.BOB_ERR_COUNT_PCIE_ERR (k / 512))) k true))
    ∧ (∀ (die : Fin 2) (m : Fin 512) (flip : Bytes) (side n e : Nat) (w : WideWord) (ws : List WideWord),
      let k := 512 * die.val + m.val
      let r := readWord b k w flip side
      (b.bobbin k).words = w :: ws → (b.bobbin k).dropping = false → (b.bobbin k).dead = false → 10 ≤ m.val →
      (b.bobbin k).owner = some n → jobEngine b n = some e → (b.engine e).input.length < 131072 →
      exec (.bobbinWideRead dt die m flip side) s = .next (after dt s fun b =>
        noteReady (pumpStream (engineTakes r.2 k n e r.1.1 r.1.2.1 r.1.2.2.1 r.1.2.2.2) ((b.cmd n).stream.getD 0))))
    ∧ (∀ (die : Fin 2) (m : Fin 512), let k := 512 * die.val + m.val
      ((b.bobbin k).inPacket = false →
        exec (.dropRest dt die m) s = .next (after dt s fun b => inc b (Fld.BOB_DROP_COUNT_EMPTY_DROPS die.val)))
      ∧ ((b.bobbin k).inPacket = true → 10 ≤ m.val → (b.bobbin k).allIn = true →
        exec (.dropRest dt die m) s = .next (after dt s fun b =>
          inc (releaseBobbin (b.updBobbin k fun x => { x with dropping := true, inPacket := false }) k) (Fld.BOB_DROP_COUNT_DROPS die.val)))
      ∧ ((b.bobbin k).inPacket = true → 10 ≤ m.val → (b.bobbin k).allIn = false →
        exec (.dropRest dt die m) s = .next (after dt s fun b =>
          b.updBobbin k fun x => { x with words := [], taken := x.wrote, dropping := true, inPacket := false })))
    ∧ (∀ (die : Fin 2) (m : Fin 10) (data : Bytes), let k := 512 * die.val + m.val
      let n := ceilDiv data.length 16
      let ws := (packWords true (data.length / 64 + 1) data).1
      let room : Prop := n ≤ (b.bobbin k).credits ∧ (b.bobbin k).words.length + ceilDiv data.length 64 ≤ 1024
      data ≠ [] →
      (room → (b.bobbin k).missed = 0 → (b.bobbin k).pend = [] →
        exec (.creditedWrite dt die m data) s = .next (after dt s fun b => b.updBobbin k fun x =>
          { x with words := x.words ++ ws, packets := x.packets ++ [ws.length], credits := x.credits - n }))
      ∧ (¬ room → m.val < 2 → (b.bobbin k).missed = 0 →
        exec (.creditedWrite dt die m data) s = .next (after dt s fun b => b.updBobbin k fun x => { x with missed := 1 }))
      ∧ (¬ room → 2 ≤ m.val → (b.bobbin k).pend = [] →
        exec (.creditedWrite dt die m data) s = .next (after dt s fun b => b.updBobbin k fun x => { x with pend := [data] })))

/-- The idle word (R92). -/
def Obligations.EmptyBobbinsReadIdle : Prop :=
  (∀ (dt : Nat) (s : State) (die : Fin 2) (m : Fin 512) (flip : Bytes) (side : Nat), awake s.blk = true →
    let b := begun dt s
    let x := b.bobbin (512 * die.val + m.val)
    (x.words = [] ∨ x.dropping = true) →
    exec (.bobbinWideRead dt die m flip side) s = .next (after dt s fun b => emit b (.wide (zeros 64) (512 + sideParity (zeros 64) 512))))
  ∧ (∀ (bs : Bytes) (last poison term : Bool), bs.length ≤ 64 → bitOf (wideWord bs last poison term).side 9 = false)

/-- The packing of bytes into wide words (R89). -/
def Obligations.PackingKeepsEveryByte : Prop :=
  ∀ (last : Bool) (bs : Bytes),
    let p := packWords last (bs.length / 64 + 1) bs
    (p.1.flatMap fun w => w.data.take (w.side % 128)) ++ p.2 = bs
    ∧ (if last then p.2 = [] else p.2.length < 64)
    ∧ (∀ w ∈ p.1, w.data.length = 64 ∧ 1 ≤ w.side % 128 ∧ w.side % 128 ≤ 64)
    ∧ (∀ w ∈ p.1.dropLast, w.side % 128 = 64 ∧ bitOf w.side 7 = false)
    ∧ (∀ w ∈ p.1.getLast?, bitOf w.side 7 = last)

/-- Completion of the rows of chapters 4 and 5. -/
def Obligations.CardingRowsTakeTheirEffect : Prop :=
  ∀ (dt : Nat) (s : State), awake s.blk = true →
    let b := begun dt s
    (∀ (die : Fin 2) (n e : Nat) (c : Block), oldestJob b die.val = some n →
      assignEngine b die.val (slotOfHandle ((b.cmd n).stream.getD 0)) = some (e, c) →
      exec (.compressionJobStart dt die) s = .next (after dt s fun _ => c.updEngine e fun x =>
        { x with state := .compressing, ctx := some (slotOfHandle ((b.cmd n).stream.getD 0)), job := some n, input := []
                 inputEnd := false, output := [], jobConsumed := 0, jobShrunk := 0 }))
    ∧ (∀ (engine : Fin 64) (bad1 bad2 : Bool) (n : Nat), let x := b.engine engine.val
      let h := (b.cmd n).stream.getD 0
      x.state = .compressing → x.job = some n → x.input ≠ [] → (x.inputEnd = true ∨ 131072 ≤ x.input.length) →
      (b.ctx (slotOfHandle h)).frameOpen = true →
      exec (.blockEmit dt engine bad1 bad2) s = .next (after dt s fun b =>
        noteReady (pumpStream (blockPass b engine.val n (slotOfHandle h) ((b.cmd n).obj.getD 0) bad1 bad2) h)))
    ∧ (∀ (die : Fin 2) (data : Word), HostReaches b (Reg.CARD_ENG_ENABLE die.val) →
      exec (.cardEngEnableWrite dt die data) s = .next (after dt s fun b => writeEngEnable b die.val data.toNat))
    ∧ (∀ (die : Fin 2) (cmd e : Nat) (plain content : Bytes) (g : RSeg) (gs : List RSeg) (c : Block),
      let x := b.cmd cmd
      let d := c.updEngine e fun x => { x with idleSince := c.time.now }
      let deliver (d : Block) : Block := match x.rst.record with
        | some i => deliverRecord d cmd i g plain content
        | none => deliverObject d cmd g content
      x.rst.frame = some plain → x.rst.segs = g :: gs → idlestEngine b die.val = some e → oldestCard b die.val = some cmd →
      writeBack b e = some c → decodeSeg x.rst g plain = some content →
      exec (.decompressionJob dt die cmd false false) s = .next (after dt s fun _ => deliver d)
      ∧ exec (.decompressionJob dt die cmd true false) s = .next (after dt s fun _ =>
          deliver (cardLog (inc (secondEngine d die.val e).2 (Fld.CARD_RESTORE_ERR_RETRIED die.val)) 0 4 e 0 x.rst.objectId g.objectOffset 1))
      ∧ exec (.decompressionJob dt die cmd true true) s = .next (after dt s fun _ =>
          readFail (cardLog (inc (secondEngine d die.val e).2 (Fld.CARD_RESTORE_ERR_FAILED die.val)) 0x2006 5 e 0 x.rst.objectId g.objectOffset 1) cmd 0x2006))

/-- The form of a block (R113, R117). -/
def Obligations.BlocksNeverOutgrowTheirContent : Prop :=
  ∀ (x : CardCtx) (level room : Nat) (content : Bytes), content ≠ [] → 1 ≤ room →
    let (k, kind, body, ns, _) := blockPlan x level room content
    1 ≤ k ∧ k ≤ content.length ∧ body.length ≤ room ∧ ns ≤ 1
    ∧ (kind = 0 ∧ body = content.take k
      ∨ kind = 1 ∧ k = content.length ∧ (∃ v, body = [v] ∧ ∀ a ∈ content, a = v)
      ∨ kind = 2 ∧ k = content.length ∧ body.length < content.length)
    ∧ (level = 0 → kind = 0)

/-- Encoding and decoding of frames agree for raw and run blocks (R109, R110, R122). -/
def Obligations.PlainFramesDecodeToTheirContent : Prop :=
  ∀ pieces : List (Bool × Bytes),
    (∀ x ∈ pieces, 1 ≤ x.2.length ∧ x.2.length ≤ 131072 ∧ (x.1 = true → ∀ a ∈ x.2, some a = x.2.head?)) →
    let blocks := pieces.flatMap fun x =>
      if x.1 then blockHeader false 1 x.2.length ++ x.2.take 1 else blockHeader false 0 x.2.length ++ x.2
    let hash := pieces.foldl (fun h x => xxUpdate h x.2) {}
    frameDec (frameHeader ++ blocks ++ frameClose hash) = some (pieces.flatMap Prod.snd)

/-- Completion of the rows of chapter 6. -/
def Obligations.SealingRowsTakeTheirEffect : Prop :=
  ∀ (dt : Nat) (s : State), awake s.blk = true →
    let b := begun dt s
    (∀ (p : Fin 8) (j : QueuedJob) (w : SealWork),
      ((∀ x ∈ b.ciph.queue, ∀ v, x.job = .seal v → (b.sealState (slotOfHandle v.stream)).active = true ∨ nonceMay b = true) →
        nextJob b p.val = some j → j.job = .seal w → mayStart b p.val j = true →
        exec (.sealJob dt p true) s = .next (after dt s fun b => sealStart (placeJob b p.val j) p.val w))
      ∧ ((b.pipe p.val).running = some j → j.job = .seal w →
        exec (.sealJob dt p false) s = .next (after dt s fun b =>
          let c := sealEnd (freePipe b p.val) w
          noteReady (pumpStream (forEach (tabKeys c.ciph.slots) c zeroizeSlot) w.stream))))
    ∧ (∀ (p : Fin 8) (blob : Bytes),
      (∀ j : QueuedJob, nextJob (queueUnwrap b blob) p.val = some j → jobKind j.job = 2 → mayStart (queueUnwrap b blob) p.val j = true →
        exec (.unwrapJob dt p true blob) s = .next (after dt s fun b => placeJob (queueUnwrap b blob) p.val j))
      ∧ (∀ n : Nat, waitingUnwrap b = some n → (queueUnwrap b blob).ciph.queue
          = b.ciph.queue ++ [{ job := .unwrap n (slice blob 0 40), since := b.time.now, die := dieOfFn b (b.cmd n).fn }])
      ∧ (∀ (n : Nat) (i : QueuedJob) (bl : Bytes), (b.pipe p.val).running = some i → i.job = .unwrap n bl →
        exec (.unwrapJob dt p false blob) s = .next (after dt s fun b => unwrapEnd (freePipe b p.val) n bl)))
    ∧ (∀ (p : Fin 8) (j : QueuedJob) (n k : Nat) (tried : Option Nat) (g : RSeg) (gs : List RSeg) (upset : Bool),
      (nextJob b p.val = some j → j.job = .openSeg n tried → (b.cmd n).rst.segs = g :: gs →
        slotWithLabel b (b.cmd n).tenant g.keyLabel = some k → (b.slot k).closing = false → mayStart b p.val j = true →
        exec (.openJob dt p true upset) s = .next (after dt s fun b => placeJob b p.val j))
      ∧ ((b.pipe p.val).running = some j → j.job = .openSeg n tried →
        exec (.openJob dt p false upset) s = .next (after dt s fun b =>
          forEach (tabKeys b.ciph.slots) (openEnd (freePipe b p.val) p.val n tried upset) zeroizeSlot)))
    ∧ exec (.nonceReservation dt) s = .next (after dt s reserveNonces)
    ∧ (∀ k : Fin 4096, (b.slot k.val).closing = true → slotHeld b k.val = false →
      exec (.keySlotZeroize dt k) s = .next (after dt s fun b =>
        forEach (b.slot k.val).drops (b.updSlot k.val fun _ => {}) fun b n => finishCmd b n 0 0))
    ∧ (∀ samples : Bytes,
      let head := samples.take (samples.length - 2048)
      let t1 := noiseTest b.ciph.noise head
      let t2 := noiseTest t1.1 (samples.drop head.length)
      (b.boot.entropy = true → b.ciph.drbg ≠ .failed → b.ciph.drbg ≠ .ready →
        samples.length = (if b.ciph.srcTested then 2048 else 3072) →
        exec (.drbgSeed ⟨dt, samples⟩) s = .next (after dt s fun b => takeSeed b samples))
      ∧ (b.ciph.drbg = .ready → (65536 ≤ b.ciph.genCalls ∨ 40000000000 ≤ since b b.ciph.seedTime) → samples.length = 2048 →
        exec (.drbgReseed ⟨dt, samples⟩) s = .next (after dt s fun b => takeSeed b samples))
      ∧ (t1.2 = false → t2.2 = false → ∃ key v, takeSeed b samples = { b with ciph := { b.ciph with
          noise := t2.1, srcTested := true, drbg := .ready, drbgKey := key, drbgV := v, genCalls := 0, seedTime := b.time.now } })
      ∧ (t1.2 = true → takeSeed b samples = startupFails { b with ciph := { b.ciph with noise := t1.1 } }))
    ∧ (∀ (startup : Bool) (samples : Bytes),
      let r := noiseTest b.ciph.noise samples
      b.boot.entropy = true → b.ciph.drbg ≠ .failed → (startup = true → b.ciph.drbg ≠ .ready) →
      (r.2 = false → exec (.healthTestFailure ⟨dt, samples⟩ startup) s = .next (after dt s fun b =>
        { b with ciph := { b.ciph with noise := r.1 } }))
      ∧ (r.2 = true → startup = true → b.ciph.retries < 3 → exec (.healthTestFailure ⟨dt, samples⟩ startup) s = .next (after dt s fun b =>
        inc { b with ciph := { b.ciph with retries := b.ciph.retries + 1, drbg := .seeding, noise := {}, srcTested := false } }
          Fld.CIPH_DRBG_STATUS_RESTARTS))
      ∧ (r.2 = true → startup = true → 3 ≤ b.ciph.retries → exec (.healthTestFailure ⟨dt, samples⟩ startup) s = .next (after dt s fun b =>
        internalError { b with ciph := { b.ciph with noise := r.1, drbg := .failed, drbgKey := [], drbgV := 0, genCalls := 0 } } 0 4 0xFFFF 4 0))
      ∧ (r.2 = true → startup = false → exec (.healthTestFailure ⟨dt, samples⟩ startup) s = .next (after dt s fun b =>
        inc { b with ciph := { b.ciph with drbg := .uninstantiated, drbgKey := [], drbgV := 0, genCalls := 0, retries := 0, noise := {}
                                           srcTested := false } } Fld.CIPH_DRBG_STATUS_HEALTH_FAIL)))
    ∧ (∀ (die : Fin 2) (duration : Nat), (b.ciph.eraseDue.filter fun x => x.1 = die.val) ≠ [] →
      exec (.keyErasure dt die duration) s = .next (after dt s fun b =>
        eraseDie b die.val ((b.ciph.eraseDue.filter fun x => x.1 = die.val).any (·.2)) duration))

/-- No counter value is used twice (R147, R149). -/
def Obligations.NonceValuesNeverRepeat : Prop :=
  ∀ (b c : Block) (vs : List Nat), NonceInv b → Draws b vs c →
    vs.Nodup ∧ NonceInv c ∧ b.ciph.nonceNext ≤ c.ciph.nonceNext
    ∧ ∀ v ∈ vs, v < c.ciph.nonceNext ∧ ∀ p, ¬ ((c.pipe p).subNext ≤ v ∧ v < (c.pipe p).subEnd)

/-- The nonce as a byte string (R147). -/
def Obligations.NoncesSpellPrefixAndCounter : Prop :=
  (∀ (b : Block) (v : Nat), v < 2 ^ 64 → (nonceOf b v).length = 12
    ∧ beN (nonceOf b v) = rd b Fld.CIPH_NONCE_PREFIX_PREFIX * 2 ^ 64 + v ∧ ∀ u, u < 2 ^ 64 → nonceOf b u = nonceOf b v → u = v)
  ∧ NonceInv State.reset.blk
  ∧ (∀ (b : Block) (p : Nat) (w : SealWork), let k := slotOfHandle w.stream
      ((b.sealState k).active = true → sealStart b p w = b)
      ∧ ((b.sealState k).active = false →
        let c := sealStart b p w
        (c.sealState k).active = true ∧ (c.sealState k).keySlot = w.key
          ∧ (w.seg < (b.dataset w.dataset).segs.length →
            ((c.dataset w.dataset).segs.getD w.seg {}).nonce = nonceOf b (drawNonce b p).1
              ∧ (c.sealState k).nonce = nonceOf b (drawNonce b p).1)))

/-- Key erasure (R160 to R162). -/
def Obligations.ErasureLeavesNoKey : Prop :=
  ∀ (b : Block) (tamper : Bool) (duration : Nat), b.ing.streams = [] → b.hq.cmds = [] →
    (∀ x ∈ b.ciph.slots, x.2.drops = []) → b.ciph.queue = [] → (∀ p, (b.pipe p).running = none ∧ (b.pipe p).suspended = none) →
    let c := eraseDie b 0 tamper duration
    (∀ k, (c.slot k).key = none ∧ (c.slot k).label = 0 ∧ (c.slot k).closing = false)
    ∧ (∀ i, i < 4 → (c.pipe i).running = none ∧ (c.pipe i).suspended = none)
    ∧ (c.ciph.drbg = if b.ciph.drbg = .failed then .failed else .uninstantiated)
    ∧ (tamper = true → c.ciph.keks = false) ∧ (∀ x ∈ c.ciph.eraseDue, x.1 ≠ 0)
    ∧ rd c (Fld.CIPH_ERASE_STATUS_ERASED 0) = 1 ∧ rd c (Fld.CIPH_ERASE_STATUS_DURATION 0) = min duration 500

/-- Completion of the rows of chapter 16. -/
def Obligations.BeamRowsTakeTheirEffect : Prop :=
  ∀ (dt : Nat) (s : State), awake s.blk = true →
    let b := begun dt s
    (∀ (line mask : Nat) (bytes : Bytes) (errs : List (Nat × Nat × Nat)) (cmd : Option Nat), beamC b ≠ 0 →
      exec (.beamRead dt line errs cmd) s = .next (after dt s fun b => beamRead b line errs cmd)
      ∧ exec (.beamPartialWrite dt line mask bytes errs) s = .next (after dt s fun b => partialWrite b line mask bytes errs))
    ∧ (∀ (ch : Fin 16) (errs : List (Nat × Nat × Nat)) (e : MergeEntry) (es : List MergeEntry),
      (b.beamCh ch.val).merge = e :: es → 1024 ≤ since b e.since →
      exec (.mergeEntryTimeout dt ch errs) s = .next (after dt s fun b => rmw b e errs))
    ∧ (∀ errs : List (Nat × Nat × Nat), exec (.scrubLine dt errs) s = .next (after dt s fun b => scrubLine b errs)
      ∧ (scrubDue b = false → scrubLine b errs = b)
      ∧ (scrubDue b = true → (scrubLine b errs).beam.scrubAt = some b.time.now
          ∧ (scrubLine b errs).beam.scrubbed = (b.beam.scrubbed % poolLines b + 1) % poolLines b))
    ∧ (∀ ch : Fin 16, let d := chReg b ch.val
      ch.val < beamC b → rd b (Fld.BEAM_CH_BUCKET_LEAK_S d.1 d.2) * 4000000000 ≤ since b (b.beamCh ch.val).leakAt →
      exec (.bucketLeak dt ch) s = .next (after dt s fun b =>
        wr (b.updBeamCh ch.val fun h => { h with leakAt := b.time.now }) (Fld.BEAM_CH_BUCKET_LEVEL d.1 d.2)
          (rd b (Fld.BEAM_CH_BUCKET_LEVEL d.1 d.2) - 1)))
    ∧ (fillWanted b = true → exec (.fillStepDone dt) s = .next (after dt s fun b =>
        showFill (fillsDone (takeSealState (wr b Fld.BEAM_POOL_RELEASED_STEPS (rd b Fld.BEAM_POOL_RELEASED_STEPS + 1))))))
    ∧ (∀ (die : Fin 2) (errs : List (Nat × Nat × Nat)),
      exec (.writeRaw dt die) s = .next (after dt s fun b => writeRaw b die.val)
      ∧ exec (.writeGen dt die) s = .next (after dt s fun b => writeGen b die.val)
      ∧ exec (.readRaw dt die errs) s = .next (after dt s fun b => readRaw b die.val errs))
    ∧ exec (.hashKeyDraw dt) s = .next (after dt s hashKeyDraw)

/-- The write-back of a merge entry (R426). -/
def Obligations.MergedLinesAreRewrittenOrPoisoned : Prop :=
  ∀ (b : Block) (e : MergeEntry) (errs : List (Nat × Nat × Nat)), listed b e.line = true →
    let data := overlay (corrected (lineAt b e.line) errs) e.data e.mask
    let now := lineAt (rmw b e errs) e.line
    (match beamClass (readCws (lineAt b e.line) errs) with
      | .clean => now = goodLine data
      | .corrected _ => now = goodLine data
      | .uncorrectable => now = poisonLine data
      | .storedPoison => now = poisonLine data)
    ∧ now.data.length = 64 ∧ ∀ i, i < 64 → e.mask.testBit i = true → now.data.getD i 0 = e.data.getD i 0

/-- Completion of the rows of the weft scheduler. -/
def Obligations.WeavingRowsTakeTheirEffect : Prop :=
  ∀ (dt : Nat) (s : State) (g : Fin 32), awake s.blk = true →
    let b := begun dt s
    let x := b.grp g.val
    (∀ (k no : Nat) (t : List (Nat × Nat)), b.heads.aborts = (k, no) :: t →
      exec (.weftAbortReceive dt) s = .next (after dt s fun b => abortArrives { b with heads := { b.heads with aborts := t } } k no))
    ∧ (schedules b g.val = true → (∀ t, x.evalAt = some t → 400000000 ≤ since b t) →
      exec (.speedMatchEval dt g) s = .next (after dt s fun b =>
        let b := b.updGrp g.val fun x => { x with
          closes := x.closes.filter fun t => since b t < 4000000000, evalAt := some b.time.now }
        speedMatch b g.val (lambdaNow b (b.grp g.val)) (groupQ (b.grp g.val))))
    ∧ (x.cross = false → schedules b g.val = true → streaming b g.val = true → reached b (x.nextL - leadTicks b g.val) = true →
      exec (.weftDecisionPoint dt g) s = .next (after dt s fun b => decideBoundary b g.val))
    ∧ (x.cross = true → exec (.weftDecisionPoint dt g) s = .next (after dt s fun b => ownerPoint b g.val))
    ∧ (∀ (port : Fin 32) (c : CartK) (e : Nat × Bytes × Nat), cartOn b port.val = some c → c.unwritten.head? = some e →
      rd b Fld.WEAVE_CAT_CTRL_CAT_AGE * 4000000000 ≤ since b e.2.2 →
      exec (.catAgeExpiry dt port) s = .next (after dt s fun b => b.updTape port.val fun x =>
        { x with aged := true, wantUpd := x.wantUpd || (runOver b port.val && x.mount.isNone) }))
    ∧ (∀ i : Fin 64, canHold b g.val i.val = true →
      exec (.memberHeldReport dt g i) s = .next (after dt s fun b =>
        let b := updMember b g.val i.val fun m => { m with held := true }
        let b := b.updGrp g.val fun q => { q with lastHeld := b.time.now, heldAt := q.heldAt.orElse fun _ => some b.time.now }
        let b := if (waitedFor b g.val).all (·.held) ∧ !(b.grp g.val).full then setSm b g.val 3 else b
        tryRestart b g.val))
    ∧ exec (.groupRestart dt g) s = .next (after dt s fun b => tryRestart b g.val)
    ∧ (∀ c h : Nat, x.condAt = some c → x.heldAt = some h → mayRestart b g.val = true → restartDue b g.val = true →
      20000000000 ≤ since b c → 20000000000 ≤ since b h →
      exec (.holdWaitTimeout dt g) s = .next (after dt s fun b => setRestart b g.val))
    ∧ (∀ w : Weft, x.cross = false → schedules b g.val = true →
      (x.wefts.find? fun w => w.state = .decided && !w.intentDurable) = some w → reached b (w.l - 80000) = true →
      exec (.intentDeadline dt g) s = .next (after dt s fun b =>
        stopGroup (internalError (withdrawFrom b g.val w.no) 0 5 g.val 5 w.no) g.val 1))
    ∧ (x.cross = true → exec (.intentDeadline dt g) s = .next (after dt s fun b => crossDeadline b g.val))
    ∧ (∀ (r : Bytes) (t : List Bytes) (k : Nat), b.heads.verdicts = r :: t →
      groupSlot { b with heads := { b.heads with verdicts := t } } (fieldAt r 16 2) = some k →
      exec (.verdictArrival dt) s = .next (after dt s fun b =>
        let b := { b with heads := { b.heads with verdicts := t } }
        if schedules b k then verdictIn b r else sendVerdict b r))
    ∧ (schedules b g.val = true → exec (.verifyDue dt g) s = .next (after dt s fun b => assessAll b g.val))
    ∧ (∀ w : Weft, schedules b g.val = true → (x.wefts.find? fun w => !w.assessed && w.state != .withdrawn) = some w →
      reached b (w.l + (3 + w.grace) * w.tw) = true →
      exec (.graceExpiry dt g) s = .next (after dt s fun b => assessLate b g.val w.no))
    ∧ (∀ (i : Fin 64) (data : Word), HostReaches b (Reg.WEAVE_MEMBER_CTRL g.val i.val) →
      exec (.declareFailed dt g i data) s = .next (after dt s fun b => writeMemberCtrl b g.val i.val (withBit data 1))
      ∧ exec (.rejoin dt g i data) s = .next (after dt s fun b => writeMemberCtrl b g.val i.val (withBit data 0)))
    ∧ exec (.datasetRelease dt g) s = .next (after dt s fun b => releaseNext b g.val)

/-- Rotation of roles (R358). -/
def Obligations.RolesRotateOnePerWeft : Prop :=
  ∀ n w : Nat, 0 < n →
    (∀ i, roleOf n i w < n ∧ (i < n → memberOf n (roleOf n i w) w = i) ∧ roleOf n i (w + 1) = (roleOf n i w + 1) % n)
    ∧ (∀ r, r < n → memberOf n r w < n ∧ roleOf n (memberOf n r w) w = r)
    ∧ (∀ i r, i < n → r < n → ∃ j, (j < n ∧ roleOf n i (w + j) = r) ∧ ∀ k, k < n → roleOf n i (w + k) = r → k = j)

/-- Completion of the rows of the format sequencers. -/
def Obligations.FormattingRowsTakeTheirEffect : Prop :=
  ∀ (dt : Nat) (s : State) (port : Fin 32), awake s.blk = true →
    let b := begun dt s
    let p := port.val
    let w := b.wport p
    (∀ (seq : Fin 8) (x : WSeg),
      (w.segs.find? fun x => x.run = w.run && x.slot < 104 && x.cut.isNone && !isMarker x && tabGet 0 x.fetched seq.val < 416) = some x →
      let n := tabGet 0 x.fetched seq.val
      let m := max n (4 * firstInTime b x)
      m < 416 → m - 4 * x.slot < 16 → reached b (x.l - 1000000) = true → sourceLive b x = true →
      exec (.rowFetch dt port seq) s = .next (after dt s fun b =>
        updWseg (updWseg b p x.idx fun y => { y with
            fetched := tabSet 0 y.fetched seq.val m, missed := y.missed ++ (List.range (m - n)).map fun i => requestOf seq.val (n + i) })
          p x.idx fun y => { y with fetched := tabSet 0 y.fetched seq.val (m + 1) }))
    ∧ (∀ (fail mask : Nat) (x : WSeg), nextSeg w = some x → linkUp b p = true → reached b (bitTime x (slotStart x.slot) - 48000) = true →
      (intentHolds b p x = true → exec (.slotWrite dt port fail mask) s = .next (after dt s fun b => writeSlot b p x fail mask))
      ∧ (intentHolds b p x = false → exec (.slotWrite dt port fail mask) s = .next (after dt s id)))
    ∧ (∀ (seg : Nat) (track : Fin 32) (slot : Fin 4) (i e l : Nat) (v : WSeg),
      let n := w.runFirst + seg
      let key := 128 * n + 4 * track.val + slot.val
      let inTime : Prop := b.time.now + regenLead b v e ≤ l + slotStart (120 + slot.val) * v.tw / segBits
      tabGet (0, 4096, false) w.alloc key = (i, e, false) → segOf w i = some v → segStart w n = some l → e < 4096 →
      (inTime → v.rows = none → exec (.regenRequest dt port seg track slot) s = .next (after dt s fun b =>
        inc (b.updWport p fun w => { w with alloc := tabSet (0, 4096, false) w.alloc key (i, e, true) }) (Fld.FMT_REGEN_COUNT p)))
      ∧ (inTime → v.rows.isSome = true → exec (.regenRequest dt port seg track slot) s = .next (after dt s fun b =>
        let b := inc (b.updWport p fun w => { w with alloc := tabSet (0, 4096, false) w.alloc key (i, e, true) }) (Fld.FMT_REGEN_COUNT p)
        msgTo b (((weftOf (b.grp v.g) v.weft).map (·.owner)).getD 0) 0x0C (regenMsg b v e)))
      ∧ (¬ inTime → exec (.regenRequest dt port seg track slot) s = .next (after dt s fun b =>
        checkVerdict (refuseCopy (inc b (Fld.FMT_LATE_REGEN_REFUSED p)) p i e n slot.val) p i)))

/-- Writing and reading a slot agree (R182). -/
def Obligations.SlotsAreReadBack : Prop :=
  (∀ (n : Nat) (mag : Bool) (bits : List Bool), bits.length = 32 * n →
    (modWords n { mag := mag } bits).length = 33 * n ∧ readSlot mag (modWords n { mag := mag } bits) = bits)
  ∧ ∀ (mag : Bool) (bits : List Bool), bits.length = 17472 →
    (modulate mag bits).length = 18018 ∧ readSlot mag (modulate mag bits) = bits

/-- The channel bits of a regenerated codeword (R210). -/
def Obligations.RewrittenSlotsAreEqualOrComplement : Prop :=
  ∀ (mag : Bool) (bits : List Bool), modulate (!mag) bits = (modulate mag bits).map (!·)

/-- Writing of a slot (R207, R208). -/
def Obligations.EveryTrackIsWrittenInEverySlot : Prop :=
  ∀ (b : Block) (p : Nat) (x : WSeg), segOf (b.wport p) x.idx = some x →
    let k := x.slot
    let pre := (if k = 0 then 1024 else 0) + (if k % 8 = 0 then 64 else 0)
    let c := writeSlot b p x 0 0
    let w := b.wport p
    (∀ t, t < 32 → 128 * w.groups + (tabGet [] w.codes t).length = (x.idx - w.runFirst) * segBits + slotStart k - pre →
      ∃ cs : List Nat, tabGet [] (c.wport p).codes t = tabGet [] w.codes t ++ cs
        ∧ cs.length = pre + 18018 + (if k = 123 then 512 else 0) ∧ ∀ v ∈ cs, v < 4)
    ∧ (segOf (c.wport p) x.idx).map (·.slot) = some (k + 1)
    ∧ (∀ p', p' ≠ p → c.wport p' = b.wport p')
    ∧ (groupReady b w = true → (sendGroups b p 1).out = b.out ++ [0, 1].flatMap fun r => (List.range 16).map fun j =>
        .hdlCell p (rd b (if r = 0 then Fld.HDL_STATUS_ROLE0 p else Fld.HDL_STATUS_ROLE1 p)) 8
          (writeCell ((tabGet [] w.codes (16 * r + j)).take 128)))

/-- Placement of bytes in rows and of codewords in slots and tracks (R183, R186). -/
def Obligations.DatasetBytesLieInTheirRows : Prop :=
  (∀ (ds : Bytes) (i : Nat), ds.length = 6815744 → i < 6815744 →
    let s := i / 425984
    let r := i % 425984 / 2048
    s < 16 ∧ r < 208 ∧ (dsRow ds s r).length = 2048 ∧ (dsRow ds s r)[i % 2048]? = ds[i]?
      ∧ (6799360 ≤ i → s = 15 ∧ 200 ≤ r ∧ r ≤ 207))
  ∧ (∀ s r, s < 16 → r < 240 → slotOf s r < 120 ∧ trackOf s r < 32 ∧ cwAt (slotOf s r) (trackOf s r) = (s, r))
  ∧ (∀ k t, k < 120 → t < 32 → (cwAt k t).1 < 16 ∧ (cwAt k t).2 < 240
      ∧ slotOf (cwAt k t).1 (cwAt k t).2 = k ∧ trackOf (cwAt k t).1 (cwAt k t).2 = t)

/-- Completion of the rows of the read channel. -/
def Obligations.ReadChannelRowsTakeTheirEffect : Prop :=
  ∀ (dt : Nat) (s : State) (port : Fin 32), awake s.blk = true →
    let b := begun dt s
    let p := port.val
    let x := b.rdch p
    (∀ (moduleB : Bool) (role : Fin 2) (place : Fin 16) (t : SlotRec),
      let reader := readerNo moduleB role place.val
      (x.slots.find? (fun u => u.reader = reader) = some t →
        let taken (b : Block) : Block := b.updRdch p fun x => { x with slots := x.slots.erase t }
        (leads b p reader = false →
          exec (.decodePassEnd dt port moduleB role place false) s = .next (after dt s fun b => slotEnds (taken b) p t x.turbo))
        ∧ (leads b p reader = true →
          exec (.decodePassEnd dt port moduleB role place false) s = .next (after dt s fun b => storeLook (taken b) p t)))
      ∧ ((x.turbo.take 4).find? (fun u => u.reader = reader) = some t →
        exec (.decodePassEnd dt port moduleB role place true) s = .next (after dt s fun b => slotEnds b p t (x.turbo.erase t))))
    ∧ (∀ (c : Block) (t : SlotRec) (rest : List SlotRec),
      let r := slotPass c p t
      r.1.pass = t.pass + 1
      ∧ (r.2.2 = true → slotEnds c p t rest = reportSlot (c.updRdch p fun x => { x with turbo := rest }) p r.1 r.2.1 true false)
      ∧ (r.2.2 = false → t.pass + 1 < 3 → passMax c p (t.pass + 2) ≠ 0 → rest.length < 36 →
          slotEnds c p t rest = c.updRdch p fun x => { x with turbo := rest ++ [r.1] }))
    ∧ (∀ (track : Fin 32) (slot : Fin 124) (segment : Fin 65536) (first tw : Nat),
      let at' (i : Nat) : Nat := first + (segment.val * segBits + i) * tw / segBits
      rd b (Fld.RDCH_STATE_MODE p) = 1 → (b.hdlP p).sample.bind (·.verify) = some (first, tw) →
      slotKnown b p segment.val slot.val track.val = false → reached b (at' (slotStart slot.val + 18018)) = true →
      exec (.noSyncReport dt port ⟨track, slot, segment⟩) s = .next (after dt s fun b =>
        deliver b p (reportOf { reader := track.val, seg := segment.val, slot := slot.val, time := at' (slotStart slot.val) } (zeros 8) 18 0 0 0) []))
    ∧ (∀ (die : Fin 2) (w r : Nat), (b.sl.lookWait.find? fun p => p / 16 = die.val) = some w →
      ((List.range 4).find? fun r => tabGet 0 b.sl.looks (4 * die.val + r) = 0) = some r →
      exec (.lookBufferGrant dt die) s = .next (after dt s fun b =>
        let b := { b with sl := { b.sl with
          looks := tabSet 0 b.sl.looks (4 * die.val + r) (w + 1), lookWait := b.sl.lookWait.filter (· ≠ w) } }
        startReading (wr (wr (wr b (Fld.RDCH_STATE_LOOK_BUF w) 1) (Fld.RDCH_STATE_REGION w) r) (Fld.RDCH_STATE_WAIT_BUF w) 0) w 3))
    ∧ (∀ (track : Fin 32) (slot : Fin 124) (segment : Fin 65536) (l : Look),
      let gap := (match cartOn b p with | some k => if wrapEdge k (wrapRead b p) then 350000 else 400000 | none => 400000)
        * ((b.hdlP p).sample.getD {}).adv * ((b.hdlP p).sample.getD {}).p / rawUnit
      let ls := lookLlrs l
      let r := ldpcPass (ls.drop 64) {} (passMax b p 1)
      let bits := r.2.2.1.map hard
      rd b (Fld.RDCH_STATE_MODE p) = 3 →
      x.looks.find? (fun l => l.rec_.seg % 65536 = segment.val && l.rec_.slot = slot.val && l.rec_.reader % 32 = track.val) = some l →
      slotKnown b p segment.val slot.val track.val = false → reached b (l.rec_.time + gap + 160000) = true →
      exec (.leadOnlyReport dt port track ⟨slot, segment⟩) s = .next (after dt s fun b =>
        deliver b p (reportOf { l.rec_ with time := l.rec_.time + gap } (headerOf ls)
          ((if r.1 then 0 else 1) + 4 * b2n (headerOk (headerOf ls)) + 32) r.2.1 1
          ((List.zipWith xor bits ((ls.drop 64).map hard)).countP id)) (packMsb 2048 bits)))
    ∧ (∀ data : Word, HostReaches b (Reg.VFY_CTRL p) →
      exec (.deadClearA dt port data) s = .next (after dt s fun b => writeVfyCtrl b p (withBit data 22))
      ∧ exec (.deadClearB dt port data) s = .next (after dt s fun b => writeVfyCtrl b p (withBit data 23)))

/-- Completion of the rows of the ledger. -/
def Obligations.LedgerRowsTakeTheirEffect : Prop :=
  ∀ (dt : Nat) (s : State) (die : Fin 16), awake s.blk = true →
    let b := begun dt s
    let d := die.val
    let n := b.ndie d
    (∀ (region : Fin 9) (data : Bytes), 4 ≤ region.val → 1 ≤ data.length → data.length ≤ 16382 → b.ledg.state ≠ .scanning →
      exec (.ledgerRecordSubmit dt region data) s = .next (after dt s fun b => ledgerSubmit b region.val data))
    ∧ (∀ region : Fin 9, let p := b.openPage region.val d
      p.recs ≠ [] → b.ledg.state ≠ .scanning → ((∃ t, p.urgentAt = some t ∧ 40000 ≤ since b t) ∨ 4000000 ≤ since b p.first) →
      exec (.pageGatherTimeout dt region die) s = .next (after dt s fun b =>
        wantDie (b.updOpenPage region.val d fun p => { p with due := true }) d))
    ∧ (n.state = .program → n.progFlag = none → b.ledg.state ≠ .failed →
      exec (.pageProgramDone dt die true) s = .next (after dt s fun b =>
        let c := b.updNdie d fun n => { n with state := .idle, prog := [], progFlag := none, idleSince := b.time.now }
        let c := showPage (addPage c n.progBlock { region := n.progRegion, recs := n.prog.map (·.data) }) d n.progBlock
        resumeErase (wantDie (forEach n.prog c fun c x => recDurable c d x) d) d))
    ∧ (∀ block : Nat, block < flagBase → exec (.blockErase dt block) s = .next (after dt s fun b => beginErase b block))
    ∧ ((n.state = .erase ∨ n.state = .eraseSuspending) → (b.nblock n.eraseBlock).erases + 1 < 50000 →
      exec (.eraseDone dt die true) s = .next (after dt s fun b =>
        let c := b.updNdie d fun n => { n with state := .idle, idleSince := b.time.now, ranLong := false }
        let c := c.updNblock n.eraseBlock fun x => { x with pages := [], erases := x.erases + 1, shut := false, failed := false }
        wantDie (c.updNdie d fun m => { m with flags := (2, n.eraseBlock) :: m.flags }) d))
    ∧ (n.state = .eraseSuspending →
      exec (.eraseSuspendDone dt die) s = .next (after dt s fun b =>
        resumeErase (startProgram (b.updNdie d fun n => { n with state := .eraseSuspended }) d) d))
    ∧ (n.state = .erase → 2000000 ≤ since b n.eraseSince →
      exec (.eraseRunExpiry dt die) s = .next (after dt s fun b => wantDie (b.updNdie d fun n => { n with ranLong := true }) d))

/-- Start of a page program (R480, R483). -/
def Obligations.ProgramsTakeAPageInOrder : Prop :=
  ∀ (b : Block) (d : Nat),
    let n := b.ndie d
    let c := startProgram b d
    let m := c.ndie d
    (n.state ≠ .idle → n.state ≠ .eraseSuspended → c = b)
    ∧ (m ≠ n → m.progFlag = none →
        (n.state = .idle ∧ m.state = .program ∨ n.state = .eraseSuspended ∧ m.state = .eraseSuspendedProgram)
        ∧ pageUsed m.prog ≤ 16384
        ∧ m.prog ++ (c.openPage m.progRegion d).recs = (b.openPage m.progRegion d).recs
        ∧ (b.openPage m.progRegion d).due = true ∧ 4 ≤ m.progRegion ∧ m.progRegion ≤ 8
        ∧ nextBlock b m.progRegion d = some m.progBlock)

/-- Begin of an erase (R486). -/
def Obligations.ErasesWaitForCopiesAndNeverExceedFour : Prop :=
  ∀ (b : Block) (k : Nat),
    let d := blockDie k
    let x := b.nblock k
    let r := match x.pages with | p :: _ => p.region | [] => regionOf k
    ((b.ledg.state = .scanning ∨ b.ledg.state = .failed ∨ x.retired = true ∨ flagBase ≤ k) → beginErase b k = b)
    ∧ (x.half = false → x.pages = [] → beginErase b k = b)
    ∧ (x.half = false → allCopied b k r = false →
        ((beginErase b k).nblock k = x ∧ ((beginErase b k).ndie d).flags = (b.ndie d).flags))
    ∧ ((1, k) ∉ (b.ndie d).flags → (b.ndie d).progFlag ≠ some (1, k) →
        ((1, k) ∈ ((beginErase b k).ndie d).flags ∨ ((beginErase b k).ndie d).progFlag = some (1, k)) →
        x.retired = false ∧ x.failed = false ∧ (x.half = true ∨ (x.pages ≠ [] ∧ allCopied b k r = true))
          ∧ (b.ndie d).state = .idle ∧ (b.ndie d).flags = [] ∧ erasing b < 4)

/-- Completion of the rows of the control-law engines. -/
def Obligations.LoopRowsTakeTheirEffect : Prop :=
  ∀ (dt : Nat) (s : State) (port : Fin 32), awake s.blk = true →
    let b := begun dt s
    let p := port.val
    let c := b.cle p
    (cleBDue b p = true → exec (.cleBTick dt port) s = .next (after dt s fun b => cleBTick b p))
    ∧ (cleBDue b p = false → exec (.cleBTick dt port) s = .next (after dt s id))
    ∧ (linkUp b p = true → (∃ r : Fin 2, (tabGet {} c.servo r.val : ServoRd).pending.isSome = true) →
      exec (.cleATick dt port) s = .next (after dt s fun b => cleATick b p))
    ∧ (linkUp b p = true → 400000 ≤ since b c.aAt →
      exec (.cleAIdleTick dt port) s = .next (after dt s fun b =>
        let z := (trackMode b p).updCle p fun c => { c with aAt := b.time.now }
        sendAct (captureTick (idleTick z p 0) p true) p 24))
    ∧ (linkUp b p = true → c.tF ≠ 0 → reached b (c.frameAt + (2 * c.missing + 3) * c.tF / 2) = true →
      exec (.servoFrameMissing dt port) s = .next (after dt s fun b =>
        let n := c.missing + 1
        let z := b.updCle p fun c =>
          { c with
            missing := n, goodFrames := 0, settled := 0, aAt := b.time.now, frames := c.frames + (if !c.servoSrc then 0 else if reverseNow c then -1 else 1),
            servo := tabUpd {} (tabUpd {} c.servo 0 fun (r : ServoRd) => { r with bits := [] }) 1 fun (r : ServoRd) => { r with bits := [] } }
        let z := sendAct (captureTick (idleTick (trackMode (wr z (Fld.CLE_TRACK_STATUS_MISSING p) (min 15 n)) p) p 0) p true) p 24
        if n = 4 then writeInhibit z p (Fld.CLE_INHIBIT_SERVO p) else z))
    ∧ (1024 ≤ c.offN →
      exec (.offloadStep dt port) s = .next (after dt s fun b =>
        let k : Int := (rd b (Fld.CLE_TRACK_CFG_OFFLOAD_STEP p) : Nat)
        let dir : Int := if (c.offSum < 0) != rdB b (Fld.CLE_TRACK_CFG_COARSE_SIGN p) then -1 else 1
        b.updCle p fun c => { c with offSum := 0, offN := 0, offload := if 8192 * 1024 < c.offSum.natAbs then c.offload + dir * k else c.offload }))
    ∧ exec (.tickOverrun dt port false) s = .next (after dt s fun b => inc b (Fld.CLE_TIMING_OVERRUN p))
    ∧ exec (.tickOverrun dt port true) s = .next (after dt s fun b =>
        (inc b (Fld.CLE_TIMING_OVERRUN p)).updCle p fun c => { c with tick := c.tick + 1 })
    ∧ (∀ j : Inject, c.inj = some j → j.active = true → (if j.duration = 0 then captureDone j = true else j.duration ≤ j.ticks) →
      exec (.injectionEnd dt port) s = .next (after dt s fun b =>
        b.updCle p fun c => { c with inj := some { j with active := false } }))
    ∧ (∀ j : Inject, c.inj = some j → captureDone j = true → j.active = false →
      exec (.captureFull dt port) s = .next (after dt s fun b =>
        let m := b.cmd j.cmd
        finishCmd ((writeBuf b m.fn m.e m.sgl 0 (captureBuffer b p j)).updCle p fun c => { c with inj := none }) j.cmd 0 0
          (leB 4 j.samples.length ++ leB 1 (b2n j.interrupted + 2 * b2n (bitsOf j.select 5 3 = 0) + 4 * b2n j.held))))
    ∧ (∀ (rc : Fin 3) (data : Word), HostReaches b (Reg.CLE_RC_CTRL p rc.val) →
      exec (.rcClear dt port rc data) s = .next (after dt s fun b => writeRcCtrl b p rc.val (withBit data 2)))
    ∧ (∀ x : WSeg, ((b.wport p).segs.find? fun s => s.run = (b.wport p).run) = some x → (b.wport p).inRun = true →
      reached b (x.l - 40000) = true → reached b x.l = false → c.settled < 64 →
      exec (.unsettledCheck dt port) s = .next (after dt s fun b =>
        writeInhibit b p (Fld.CLE_INHIBIT_OFFTRACK p) true))

/-- HOLD of a loop (R323). -/
def Obligations.HoldKeepsALoopsOutput : Prop :=
  ∀ (b : Block) (p l : Nat),
    let x := loopOf (b.cle p) l
    let c := holdLoop b p l
    (loopOf (c.cle p) l).hold = true ∧ (loopOf (c.cle p) l).out = x.out
    ∧ (∀ l', l' ≠ l → loopOf (c.cle p) l' = loopOf (b.cle p) l')
    ∧ (∀ p' l', p' ≠ p → loopOf (c.cle p') l' = loopOf (b.cle p') l')
    ∧ ∀ zero : Bool,
        let r := releaseLoop b p l zero
        (loopOf (r.cle p) l).hold = false
        ∧ (loopOf (r.cle p) l).out = (if x.hold = true ∧ zero = true then 0 else x.out)
        ∧ (x.hold = false → r = b)
        ∧ ∀ l', l' ≠ l → loopOf (r.cle p) l' = loopOf (b.cle p) l'

/-- Completion of the rows of the edge compiler. -/
def Obligations.ReelRowsTakeTheirEffect : Prop :=
  ∀ (dt : Nat) (s : State) (port : Fin 32), awake s.blk = true →
    let b := begun dt s
    let p := port.val
    (∀ (lockstep : Bool) (check : Nat), let t := (b.time.now + 8000) / carrierTicks b p * carrierTicks b p
      linkUp b p = true → (b.edgeC p).last < t →
      exec (.carrierPeriodCompile dt port lockstep check) s = .next (after dt s fun b =>
        let c := b.updEdge p fun e => { e with last := t }
        if lockstep then declare (sendEdges (allOff c p t).2 p 4 (sortEdges (allOff c p t).1)) p 1 3 0
        else if portState c p = 2 ∨ portState c p = 3 then
          let r := (List.range 4).foldl (fun (a : List Edge × Block) l =>
            let z := compileLeg a.2 p t l check
            (a.1 ++ z.1, z.2)) ([], c)
          let r2 := compileTest r.2 p t
          let r3 := compileIdle r2.2 p t
          sendEdges (r3.2.updEdge p fun e => { e with testLeft := e.testLeft - 1 }) p 8 (sortEdges (r.1 ++ r2.1 ++ r3.1))
        else sendEdges (compileOff c p t check).2 p 4 (sortEdges (compileOff c p t check).1)))
    ∧ (∀ data : Word, bridgesOff b p = true →
      let try_ (a : Nat) := writeFields b a data.toNat true
      let fits (a : Nat) : Prop := 4 * (minTicks (try_ a) p + deadTicks (try_ a) p) ≤ carrierTicks (try_ a) p
      let left (a : Nat) := after dt s fun b =>
        forEach (List.range 4) (writeFields b a data.toNat true) fun b l => wr b (Fld.EDGE_CARRY_STATE_CARRY p l) 0
      (HostReaches b (Reg.EDGE_CARRIER p) → fits (Reg.EDGE_CARRIER p) →
        exec (.edgeCarrierWrite dt port data) s = .next (left (Reg.EDGE_CARRIER p)))
      ∧ (HostReaches b (Reg.EDGE_TIMING p) → fits (Reg.EDGE_TIMING p) →
        exec (.edgeTimingWrite dt port data) s = .next (left (Reg.EDGE_TIMING p))))
    ∧ (∀ data : Word, HostReaches b (Reg.EDGE_MAP p) → configLocked b = false →
      ((List.range 4).map fun l => bitsOf data.toNat (4 * l) 3).eraseDups.length = 4 →
      exec (.edgeMapWrite dt port data) s = .next (after dt s fun b => writeFields b (Reg.EDGE_MAP p) data.toNat))
    ∧ (∀ data : Word, HostReaches b (Reg.EDGE_TEST p) → granted b p = true →
      loopMode (loopOf (b.cle p) 4) = 1 → loopMode (loopOf (b.cle p) 5) = 1 →
      (bitsOf data.toNat 4 2 = 1 ∨ bitsOf data.toNat 4 2 = 2) → bitsOf data.toNat 16 16 ≠ 0 →
      exec (.edgeTestWrite dt port data) s = .next (after dt s fun b => b.updEdge p fun e => { e with
        testBridge := bitsOf data.toNat 0 3, testState := bitsOf data.toNat 4 2, testLeft := bitsOf data.toNat 16 16 }))

/-- The timing of the carrier (R340). -/
def Obligations.CarrierPeriodsHoldTheirPulses : Prop :=
  ∀ (b : Block) (p addr data : Nat), (addr = Reg.EDGE_CARRIER p ∨ addr = Reg.EDGE_TIMING p) →
    let c := writeEdgeTiming b p addr data
    (4 * (minTicks b p + deadTicks b p) ≤ carrierTicks b p → 4 * (minTicks c p + deadTicks c p) ≤ carrierTicks c p)
    ∧ (bridgesOff b p = false → c = b)
    ∧ (c ≠ b → ∀ l, l < 4 → rd c (Fld.EDGE_CARRY_STATE_CARRY p l) = 0)

/-- Completion of the rows of the safety supervisor. -/
def Obligations.SupervisorRowsTakeTheirEffect : Prop :=
  ∀ (dt : Nat) (s : State) (port : Fin 32), awake s.blk = true →
    let b := begun dt s
    let p := port.val
    (grantOk b p = true → permitFresh b p = true → bridgesFit b p = true →
      exec (.grantRequest dt port true) s = .next (after dt s fun b =>
        let c := enterPort b p 2
        let c := releaseLoop (releaseLoop (releaseLoop c p 1 false) p 2 false) p 3 false
        let c := releaseLoop (releaseLoop c p 4 true) p 5 true
        let c := c.updSafe p fun s => { s with own := 0, overLet := 0, overTake := 0 }
        if bridgesFit c p then sendMsg c p 7 (leB 1 1) else c))
    ∧ (portState b p = 2 → writing b p = false →
      exec (.grantReturn dt port) s = .next (after dt s fun b => stopTuning (enterPort (dropLoops (sendMsg b p 7 (leB 1 0)) p) p 1) p))
    ∧ (∀ (die : Fin 2) (differ : Bool) (fault : Fin 5),
      exec (.channelCompare dt die differ fault) s = .next (after dt s fun b =>
        let c := { b with sl := { b.sl with diff := tabSet false b.sl.diff die.val differ } }
        if fault.val ≠ 0 then raiseFault c die.val fault.val
        else if differ = true ∧ tabGet false b.sl.diff die.val = true then raiseFault c die.val 1 else c))
    ∧ (∀ cleB own : Bool, linkUp b p = true →
      exec (.cleHeartbeat dt port cleB own true) s = .next (after dt s fun b =>
        let c := b.updSafe p fun s => if cleB then { s with hbB := b.time.now } else { s with hbA := b.time.now }
        let n := if own = true ∧ portState c p ≠ 2 then (c.safeP p).own + 1 else 0
        let c := c.updSafe p fun s => { s with own := n }
        if n = 2 then declare c p 8 3 0 else c))
    ∧ (linkUp b p = true → 440000 < since b (b.safeP p).hbB →
      exec (.heartbeatDeadline dt port true) s = .next (after dt s fun b => heartbeatLoss b p))
    ∧ (linkUp b p = true → 600000 < since b (b.safeP p).hbA →
      exec (.heartbeatDeadline dt port false) s = .next (after dt s fun b => heartbeatLoss b p))
    ∧ (∀ a c d x e rest, (b.cle p).sense = a :: c :: d :: x :: e :: rest →
      exec (.overspeedWindow dt port) s = .next (after dt s fun b => overspeed b p))
    ∧ (∀ data : Word, HostReaches b (Reg.SAFE_PORT_CTRL (p / 16) (p % 16)) →
      exec (.safePortClear dt port data) s = .next (after dt s fun b => writeSafeCtrl b p (withBit data 0)))
    ∧ (∀ low : Bool, exec (.faultNExternal dt low) s = .next (after dt s fun b => faultExternal b low))
    ∧ (∀ pass : Bool, portState b p = 1 → permitFresh b p = false →
      exec (.permitTestDue dt port pass) s = .next (after dt s fun b =>
        if pass then b.updSafe p fun s => { s with permitAt := some b.time.now } else raiseFault b (p / 16) 3))

/-- The conditions of a grant (R526, R538). -/
def Obligations.GrantsNeedEveryCondition : Prop :=
  ∀ (b : Block) (p : Nat) (pass : Bool), p < 32 →
    let ok : Prop := portState b p = 1 ∧ (b.safeP p).latched = []
      ∧ rdB b (Fld.SAFE_STATUS_CH_A_OK (p / 16)) = true ∧ rdB b (Fld.SAFE_STATUS_CH_B_OK (p / 16)) = true
      ∧ rdB b (Fld.HDL_STATUS_LOCKED p) = true
      ∧ (rdB b (Fld.EDGE_TEN_SRC_LET_HEALTHY p) = true ∨ rdB b (Fld.SAFE_PORT_CTRL_SENSORLESS_RUN (p / 16) (p % 16)) = true)
      ∧ rd b (Fld.HDL_XPORT_STATE p) ≤ 1 ∧ rdB b (Fld.HDL_XPORT_SAFE_STOP_SEEN p) = false
      ∧ since b (b.safeP p).hbA ≤ 600000 ∧ since b (b.safeP p).hbB ≤ 440000
    let c := grantMotion b p pass
    (¬ ok → c = b)
    ∧ (ok → (permitFresh b p = true ∨ pass = true) →
        portState c p = 2
        ∧ (∀ l, 1 ≤ l → l ≤ 5 → (loopOf (c.cle p) l).hold = false)
        ∧ ∀ l, 4 ≤ l → l ≤ 5 → (loopOf (b.cle p) l).hold = true → (loopOf (c.cle p) l).out = 0)

/-- Completion of the rows of the register fabric, the cores and the lands. -/
def Obligations.SystemRowsTakeTheirEffect : Prop :=
  ∀ (dt : Nat) (s : State), awake s.blk = true →
    let b := begun dt s
    (∀ (die : Fin 2) (temp : Int), exec (.thermtrip dt die temp) s = .next (after dt s fun b => thermtrip b die.val temp))
    ∧ (∀ (die : Fin 2) (up : Bool), let v := vidOf b die.val
      4000000 ≤ since b b.boot.since → (tabGet 0 b.lands.vidAt die.val = 0 ∨ 40000 ≤ since b (tabGet 0 b.lands.vidAt die.val)) →
      (if up then v < 30 else 0 < v) →
      exec (.vidStep dt die up) s = .next (after dt s fun b =>
        let n := if up then v + 1 else v - 1
        wr { b with lands := { b.lands with vid := tabSet 10 b.lands.vid die.val n, vidAt := tabSet 0 b.lands.vidAt die.val b.time.now } }
          (Fld.SYS_POWER_VCORE die.val) (700 + 5 * n)))
    ∧ (∀ data : Word,
      (HostReaches b Reg.SYS_EVENT → exec (.sysEventWrite dt data) s = .next (after dt s fun b => writeEvent b data.toNat))
      ∧ (HostReaches b Reg.SYS_EVENT_EN → exec (.sysEventEnWrite dt data) s = .next (after dt s fun b => writeEventEn b data.toNat)))
    ∧ (∀ (die : Fin 2) (slice : Fin 16) (n : Nat), dieUp b die.val = true →
      exec (.coreException dt die 0 slice n) s = .next (after dt s fun b =>
        let c := inc (internalError b die.val (0x10 + slice.val) 0xFFFF 9 n) (Fld.LOOM_CORE_RESTARTS (16 * die.val + slice.val))
        if writing c (16 * die.val + slice.val) then endRunNow c (16 * die.val + slice.val) else c)
      ∧ exec (.coreException dt die 1 slice n) s = .next (after dt s fun b => internalError b die.val 1 0xFFFF 9 n)
      ∧ exec (.coreException dt die 2 slice n) s = .next (after dt s fun b => internalError b die.val 0 0xFFFF 9 n))
    ∧ (∀ (who : Fin 9) (addr : Nat),
      exec (.loReadLatch dt who addr) s = .next (after dt s fun b =>
        emit (readReg b who.val (addr / 4 * 4)).2 (.regData (readReg b who.val (addr / 4 * 4)).1))
      ∧ exec (.rcRead dt who addr) s = .next (after dt s fun b =>
        emit (readReg b who.val (addr / 4 * 4)).2 (.regData (readReg b who.val (addr / 4 * 4)).1)))
    ∧ (∀ (who : Fin 9) (addr : Nat) (data : Word) (d : RegDesc) (ix : List Nat), let a := addr / 4 * 4
      a < 2 ^ 32 → awayS b who.val a = false → regFor b who.val a = some (d, ix) → (configLocked b = false ∨ hasRwl d = false) →
      exec (.registerWrite dt who addr 15 data) s = .next (after dt s fun b => routeWrite b a data.toNat d ix))
    ∧ (∀ inst : Fin 3, b.lands.extest = false → (inst.val ≠ 2 ∨ b.fuse.lifecycle ≠ 0) →
      exec (.tapInstruction dt inst) s = .next (after dt s fun b => b))
    ∧ (b.fuse.lifecycle = 0 → b.lands.extest = false →
      exec (.tapInstruction dt 2) s = .next (after dt s fun b => tapInstruction b 2))

/-- Accesses that no register answers (R567, R570). -/
def Obligations.AbsentRegistersTakeNoAccess : Prop :=
  ∀ (dt : Nat) (s : State) (who : Fin 9) (addr : Nat), awake s.blk = true →
    let b := begun dt s
    let a := addr / 4 * 4
    (who.val ≤ 4 → a / 0x10000000 = 1 → (rdB b (Fld.SYS_D2D_LOST 0) = true ∨ b.boot.dieS = false) →
      exec (.rcRead dt who addr) s = .next (after dt s fun b => emit (inc b (Fld.SYS_D2D_FORWARD_ABORT 0)) (.regData 0xFFFFFFFF))
      ∧ ∀ (en : Fin 16) (data : Word),
        exec (.registerWrite dt who addr en data) s = .next (after dt s fun b => inc b (Fld.SYS_D2D_FORWARD_ABORT 0)))
    ∧ ((4 < who.val ∨ a / 0x10000000 ≠ 1 ∨ (rdB b (Fld.SYS_D2D_LOST 0) = false ∧ b.boot.dieS = true)) → regFor b who.val a = none →
      exec (.rcRead dt who addr) s = .next (after dt s fun b => emit b (.regData 0))
      ∧ ∀ (en : Fin 16) (data : Word), a < 2 ^ 32 →
        exec (.registerWrite dt who addr en data) s = .next (after dt s fun b => inc b (Fld.SYS_ERR_BAD_ACCESS (countDie b a))))

/-- The latch of LO/HI pairs (R9). -/
def Obligations.LoReadsHoldTheHighWord : Prop :=
  ∀ (b : Block) (who addr : Nat) (d : RegDesc) (ix : List Nat),
    awayS b who addr = false → regFor b who addr = some (d, ix) → isLo d = true → isHi d = false → addr < 2 ^ 32 →
    let r := readReg b who addr
    let key := who * 2 ^ 32 + addr
    r.1 = regValue b addr
    ∧ tabGet 0 r.2.hq.hiLatch key = regValue b (addr + 4)
    ∧ (∀ (c : Block) (h : RegDesc) (iy : List Nat), c.hq.hiLatch = r.2.hq.hiLatch → awayS c who (addr + 4) = false →
        regFor c who (addr + 4) = some (h, iy) → isHi h = true → (readReg c who (addr + 4)).1 = regValue b (addr + 4))
    ∧ ∀ (c : Block) (w a : Nat), a < 2 ^ 32 → (w ≠ who ∨ a ≠ addr) → tabGet 0 (readReg c w a).2.hq.hiLatch key = tabGet 0 c.hq.hiLatch key

/-- Completion of the rows of start-up, recovery and reset. -/
def Obligations.BootRowsTakeTheirEffect : Prop :=
  ∀ (dt : Nat) (s : State),
    let b := begun dt s
    let st := rd b Fld.BOOT_STATE_STATE
    (∀ cause : Fin 5, (cause = 0 ∨ b.ward.power ≠ .dormant) →
      exec (.resetOfPart dt cause) s = .next (after dt s fun b => resetPart b cause.val (cause.val = 0)))
    ∧ (∀ micros : Nat, 10 ≤ micros →
      exec (.porN dt micros) s = .next (after dt s porReset)
      ∧ (b.ward.power ≠ .dormant → exec (.sysResetN dt micros) s = .next (after dt s fun b => resetPart b 1 false)))
    ∧ exec (.powerLoss dt) s = .next (after dt s fun b => romStart (afterReset (ledgerTorn b) 0 true))
    ∧ (awake s.blk = true →
      (∀ portB : Bool, exec (.perstN dt portB) s = .next (after dt s fun b =>
        hostLinks { b with boot := { b.boot with perst := tabSet 0 b.boot.perst (b2n portB) (b.time.now + 1) } }))
      ∧ (∀ (blank : List Nat) (corrupt : List (Nat × Nat)) (fixed : Nat) (wrong : List (Fin 16)),
        b.boot.scanned = false → ((st = 1 ∧ b.boot.image = true) ∨ st = 5 ∨ st = 7) →
        exec (.ledgerScan dt ⟨blank, corrupt, fixed, wrong⟩) s = .next (after dt s fun b => ledgerScan b blank corrupt fixed wrong))
      ∧ (∀ linked roleN roleS : Bool, st = 0 → b.boot.roles = false → rdB b Fld.BOOT_STATE_HALF_ISOLATED = false →
        exec (.roleConfirm dt linked roleN roleS) s = .next (after dt s fun b => roleConfirm b linked roleN roleS))
      ∧ (∀ selftest : Fin 4, st = 0 → b.boot.roles = true →
        exec (.slotSelect dt selftest) s = .next (after dt s fun b => slotSelect b selftest.val))
      ∧ (∀ m0 m1 : Bytes, st = 1 → b.boot.image = false →
        exec (.benakRead dt m0 m1) s = .next (after dt s fun b => benakRead b m0 m1))
      ∧ (b.boot.attKey = none → b.boot.scanned = true → drbgOk b = true → (st = 1 ∨ st = 5 ∨ st = 7) →
        exec (.attestKeyGen dt) s = .next (after dt s attestKeyGen))
      ∧ (∀ (channels dpc cap : Nat) (mr uni : Bool) (rate : Option (Fin 4)) (mis : List Nat), st = 1 → b.boot.attKey.isSome = true →
        exec (.beamTrain dt channels dpc cap mr uni rate mis) s = .next (after dt s fun b =>
          beamTrain b channels dpc cap mr uni (rate.map Fin.val) mis))
      ∧ (st = 2 → configLocked b = false → b.beam.hashKey.isSome = true →
        min (beamC b) (rd b Fld.BEAM_POOL_POOL_STEPS) ≤ rd b Fld.BEAM_POOL_RELEASED_STEPS →
        exec (.configLock dt) s = .next (after dt s fun b =>
          let c := wr (measure48 b 8 (rwlBytes b)) Fld.BOOT_STATE_CONFIG_LOCK 1
          { c with ledg := { c.ledg with inService := true }, boot := { c.boot with lockAt := c.time.now } }))
      ∧ (st = 2 → configLocked b = true → reached b (b.boot.lockAt + 40000000) = true →
        exec (.readyReached dt) s = .next (after dt s fun b =>
          let c := wr (wr b Fld.BOOT_STATE_STATE 3) Fld.BOOT_TIME_MS (satN 16 (since b b.boot.since / 4000000))
          setEvent { c with boot := { c.boot with dogs := 0 } } 0))
      ∧ (st < 3 → 80000000000 + legacyTicks b ≤ since b b.boot.since →
        exec (.bootWatchdogExpiry dt) s = .next (after dt s fun b => resetPart b 3 false))
      ∧ (∀ die : Fin 2, rdB b (Fld.SYS_D2D_LINK_UP die.val) = true →
        exec (.d2dLinkLoss dt die) s = .next (after dt s fun b => if die.val = 1 then loseD2dS b else loseD2dN b))
      ∧ (∀ (data : Word) (fail : Option (Fin 16)) (pass : Bool), st = 4 → b.boot.rom = true →
        exec (.rcvErase dt data fail) s = .next (after dt s fun b => rcvErase b data.toNat (fail.map Fin.val))
        ∧ exec (.rcvProgram dt data pass) s = .next (after dt s fun b => rcvProgram b data.toNat pass)
        ∧ exec (.rcvVerify dt data) s = .next (after dt s fun b =>
          rcvEnd b 3 (bitsOf data.toNat 13 1) (if (slotVerify b (bitsOf data.toNat 13 1)).isSome then 0 else 3))
        ∧ (b.fuse.lifecycle = 0 → data.toNat.testBit 0 = true → rd b Fld.BOOT_PROV_STATUS_STATUS = 0 →
          exec (.provGo dt data true) s = .next (after dt s fun b =>
            let d := provData b
            wr { b with fuse := { b.fuse with keyRoot := slice d 0 32, ownerKeyHash := slice d 32 48, lifecycle := 1 } }
              Fld.BOOT_PROV_STATUS_STATUS 2))
        ∧ (data.toNat.testBit 1 = true → exec (.decommission dt data) s = .next (after dt s fun b =>
          { b with fuse := { b.fuse with lifecycle := 2 } })))
      ∧ (∀ data : Word,
        (HostReaches b Reg.BOOT_CTRL →
          exec (.bootReset dt data) s = .next (after dt s fun b => writeBootCtrl b (withBit data 0))
          ∧ exec (.commitSvn dt data) s = .next (after dt s fun b => writeBootCtrl b (withBit data 2)))
        ∧ (HostReaches b Reg.BOOT_EXT_CTRL →
          exec (.pcrExtend dt data) s = .next (after dt s fun b => writeExtCtrl b (withBit data 5)))))

/-- Completion of the rows of the warden. -/
def Obligations.WardenRowsTakeTheirEffect : Prop :=
  ∀ (dt : Nat) (s : State),
    let b := begun dt s
    let n := rd b Fld.WARD_CTRL_WAKE_AFTER
    (∀ micros : Nat, 1000 ≤ micros → exec (.wardWakeN dt micros) s = .next (after dt s wake))
    ∧ (n ≠ 0 → n * 4000000000 ≤ since b b.ward.dormantAt → exec (.wakeAfterExpiry dt) s = .next (after dt s wake))
    ∧ exec (.i2cWake dt 1) s = .next (after dt s wake)
    ∧ (∀ intact : Bool, b.ward.power = .waking →
      let fit : Prop := intact = true ∧ b.ward.resume = true ∧ tampered b = false
        ∧ (slotVerify b (rd b Fld.BOOT_STATE_SLOT)).map sha384 = some b.boot.slotDigest
      (fit → exec (.powerGoodResume dt intact) s = .next (after dt s fun b =>
        flushDormLog (beamWake (b.updWard fun w => { w with power := .run, resume := false }))))
      ∧ (¬ fit → exec (.powerGoodResume dt intact) s = .next (after dt s fun b => flushDormLog (resetPart b 4 false))))
    ∧ (b.ward.power = .waking → 4000000000 ≤ since b b.ward.wakeAt →
      exec (.wakeRailTimeout dt) s = .next (after dt s fun b => emit
        (wardLog (b.updWard fun w => { w with power := .dormant, pwrEn := false, dormantAt := b.time.now }) 0 4 0 1) (.pin 13 false)))
    ∧ (∀ (value : Int) (near : Nat), exec (.conversionResult dt value near) s = .next (after dt s fun b => conversion b value near))
    ∧ (∀ pair : Fin 4, exec (.meshFault dt pair) s = .next (after dt s fun b => tamperAlarm b (1 + pair.val)))
    ∧ (∀ (k : Fin 4) (micros : Nat), 4 ≤ micros → exec (.tamperNLow dt k micros) s = .next (after dt s fun b => tamperAlarm b (5 + k.val)))
    ∧ (∀ (core : Bool) (nanos : Nat), 1000 < nanos → (core = false ∨ b.ward.power = .run) →
      exec (.voltageTamper dt core nanos) s = .next (after dt s fun b => tamperAlarm b 9))
    ∧ (∀ temp : Int, (temp < -450 ∨ 1150 < temp) → exec (.temperatureTamper dt temp) s = .next (after dt s fun b => tamperAlarm b 10))
    ∧ exec (.clockTamper dt) s = .next (after dt s fun b => tamperAlarm b 11)
    ∧ (b.ward.writing = true → exec (.tamperRecordWritten dt) s = .next (after dt s fun b =>
        b.updWard fun w => { w with writing := false, nvm := (true, rd b Fld.WARD_STATUS_CAUSE, w.count) }))
    ∧ (∀ (bytes : Bytes) (reads : Nat), 2 ≤ bytes.length → 0 < reads →
      exec (.i2cTransfer dt bytes reads) s = .next (after dt s fun b =>
        let c := i2cWrites (b.updWard fun w => { w with ptr := fieldAt bytes 0 2 }) (bytes.drop 2)
        emit (c.updWard fun w => { w with ptr := (c.ward.ptr + reads) % 65536 })
          (.i2cData ((List.range reads).map fun i => i2cByte c (c.ward.ptr + i)))))
    ∧ (∀ value : Fin 256, exec (.i2cQuoteRequest dt value) s = .next (after dt s fun b => i2cQuote b value.val))
    ∧ (awake s.blk = true → ∀ data : Word,
      (HostReaches b Reg.WARD_CTRL →
        exec (.dormantRequest dt data) s = .next (after dt s fun b => writeWardCtrl b (withBit data 0))
        ∧ exec (.alertClear dt data) s = .next (after dt s fun b => writeWardCtrl b (withBit data 1)))
      ∧ (∀ ch : Fin 16, HostReaches b (Reg.WARD_CH_CFG ch.val) →
        exec (.wardChCfgWrite dt ch data) s = .next (after dt s fun b => writeFields b (Reg.WARD_CH_CFG ch.val) data.toNat))
      ∧ (HostReaches b Reg.WARD_CLR_CTRL →
        exec (.tamperClearGo dt data) s = .next (after dt s fun b => tamperClear b (withBit data 0))))

/-- Tamper alarms (R557, R558). -/
def Obligations.TamperAlarmsAreLatchedAndAnswered : Prop :=
  ∀ (b : Block) (cause : Nat), 1 ≤ cause → cause ≤ 12 →
    (cause ≤ 11 → (rd b Fld.WARD_TAMPER_EN_EN).testBit (cause - 1) = true) →
    let c := tamperAlarm b cause
    tampered c = true ∧ rdB c (Fld.CIPH_ERASE_STATUS_TAMPER 0) = true ∧ rdB c (Fld.CIPH_ERASE_STATUS_TAMPER 1) = true
    ∧ (rd c Fld.WARD_STATUS_CAUSE).testBit (cause - 1) = true
    ∧ (∀ i, i < 12 → (rd b Fld.WARD_STATUS_CAUSE).testBit i = true → (rd c Fld.WARD_STATUS_CAUSE).testBit i = true)
    ∧ c.ward.count = (if tampered b then b.ward.count else b.ward.count + 1) ∧ c.ward.writing = true ∧ c.ward.power = b.ward.power
    ∧ (b.ward.power = .run → b.boot.attKey.isSome = true → c.ciph.eraseDue = b.ciph.eraseDue ++ [(0, true), (1, true)])
    ∧ (b.ward.power = .dormant → c.ciph.slots = [] ∧ c.ciph.keks = false ∧ c.boot.attKey = none ∧ c.ward.resume = false)
    ∧ (b.ward.power = .waking → c.ward.resume = false)

/-- Firing and re-arming of rules (R553). -/
def Obligations.RulesActOncePerExcursion : Prop :=
  ∀ (b : Block) (r ch : Nat),
    let th := rdS b (Fld.WARD_RULE_THRESHOLD r)
    let hy : Int := rd b (Fld.WARD_RULE_HYST r)
    let below := rdB b (Fld.WARD_RULE_BELOW r)
    let beyond (v : Int) : Prop := if below then v < th else th < v
    let back (v : Int) : Prop := if below then th + hy < v else v < th - hy
    let of (b : Block) : RuleSt := tabGet {} b.ward.rules r
    let put (x : RuleSt) : Block := b.updWard fun w => { w with rules := tabSet {} w.rules r x }
    (∀ v, (of (ruleResult b r ch v false false)).count = (of b).count ∧ (of (ruleResult b r ch v false false)).fired = (of b).fired)
    ∧ (of b = {} → ∀ vs : List Int, vs ≠ [] → (∀ v ∈ vs, beyond v) → vs.length < rd b (Fld.WARD_RULE_COUNT r) →
        vs.foldl (fun b v => ruleResult b r ch v true false) b = put { count := vs.length }
        ∧ ∀ v, beyond v → vs.length + 1 = rd b (Fld.WARD_RULE_COUNT r) →
          ruleResult (put { count := vs.length }) r ch v true false
            = wardAct (put { count := vs.length + 1, fired := true }) (rd b (Fld.WARD_RULE_ACTION r)) 1 r v)
    ∧ (of b = {} → rd b (Fld.WARD_RULE_COUNT r) = 1 → ∀ v, beyond v →
        ruleResult b r ch v true false = wardAct (put { count := 1, fired := true }) (rd b (Fld.WARD_RULE_ACTION r)) 1 r v)
    ∧ ((of b).fired = true → (of b).opened = false → ∀ vs : List Int, (∀ v ∈ vs, ¬ back v) →
        let c := vs.foldl (fun b v => ruleResult b r ch v true false) b
        c = { b with ward := { b.ward with rules := c.ward.rules } } ∧ (of c).fired = true)
    ∧ (∀ v, back v → ¬ beyond v → (of (ruleResult b r ch v true false)).fired = false)

/-- Completion of the rows of the heddle links. -/
def Obligations.HeddleRowsTakeTheirEffect : Prop :=
  ∀ (dt : Nat) (s : State) (port : Fin 32), awake s.blk = true →
    let b := begun dt s
    let p := port.val
    let h := b.hdlP p
    (∀ data : Word, HostReaches b (Reg.HDL_CTRL p) →
      exec (.hdlEnable dt port data) s = .next (after dt s fun b => writeHdlCtrl b p data.toNat)
      ∧ exec (.hdlRetrain dt port) s = .next (after dt s fun b => writeHdlCtrl b p (setBits (regGet b (Reg.HDL_CTRL p)) 1 1 1)))
    ∧ (training b p = true → reached b h.due = true → exec (.hdlTrainingTimeout dt port) s = .next (after dt s fun b => attemptFails b p))
    ∧ (∀ (lane : Fin 4) (inv : Bool) (control locked : Nat),
      exec (.trainingBlock dt false port lane inv control locked) s = .next (after dt s fun b => trainingBlock b p lane.val inv control locked)
      ∧ exec (.trainingBlock dt true port lane inv control locked) s = .next (after dt s fun b => shutTraining b (p % 4) lane.val inv control locked))
    ∧ (∀ (lane : Fin 4) (header : BitVec 276) (cells : BitVec 4864) (check : BitVec 300),
      let word := wireWord header cells check
      exec (.codewordReceive dt false port lane header cells check) s = .next (after dt s fun b => codeword b p lane.val word)
      ∧ exec (.codewordReceive dt true port lane header cells check) s = .next (after dt s fun b => shutCodeword b (p % 4) lane.val word))
    ∧ (linkUp b p = true → 20000000 ≤ since b h.statusAt → exec (.statusTimeout dt port) s = .next (after dt s fun b => linkDown b p 4))
    ∧ (∀ lane : Fin 4, linkUp b p = true →
      exec (.laneLockLoss dt false port true lane) s = .next (after dt s fun b => linkDown b p 1)
      ∧ ((lane.val = rd b (Fld.HDL_STATUS_ROLE0 p) ∨ lane.val = rd b (Fld.HDL_STATUS_ROLE1 p)) →
        exec (.laneLockLoss dt false port false lane) s = .next (after dt s fun b => linkDown b p 1)))
    ∧ (∀ (up : Bool) (lane : Fin 4), shutUp b (p % 4) = true →
      exec (.laneLockLoss dt true port up lane) s = .next (after dt s fun b => shutLeave b (p % 4) 3))
    ∧ (∀ seq : Nat, linkUp b p = true → seq % 256 = 0 →
      exec (.markerSend dt port seq) s = .next (after dt s fun b =>
        emit (b.updHdl p fun h => { h with
          markers := (h.markers.drop (h.markers.length - 3)) ++ [(seq % 65536, b.time.now)], dnSeq := seq % 65536 })
          (.hdlCell p (rd b (Fld.HDL_STATUS_ROLE0 p)) 2 (leB 8 b.time.now ++ leB 4 (ofS 32 h.delay) ++ leB 2 (seq % 65536) ++ zeros 18))))
    ∧ (∀ (cell : Bytes) (t4 : Nat) (m : Nat × Nat), linkUp b p = true → cell.length = 32 → (h.markers.find? fun m => m.1 = fieldAt cell 16 2) = some m →
      exec (.timeExchange dt port cell t4) s = .next (after dt s fun b => timeExchange b p cell t4))
    ∧ (linkUp b p = true →
      (∀ (lane : Fin 4) (lost : Bool) (bytes : Bytes) (st : SampleRun), bytes.length = 32 →
        let cell := if lost then none else some bytes
        linkUp (streamNow b p) p = true →
        ((streamNow b p).hdlP p).sample = some st → rd (streamNow b p) (Fld.RDCH_STATE_MODE p) ≠ 0 →
        exec (.sampleCell dt port lane lost bytes) s = .next (after dt s fun b =>
          let b := streamNow b p
          let (r, j) := cellReader st.set lane.val (tabGet 0 (b.hdlP p).cells lane.val)
          let b := b.updHdl p fun h => { h with cells := tabUpd 0 h.cells lane.val fun n => n + 1 }
          let b := if cell.isNone then inc b (Fld.HDL_CELL_ERR_LOST p) else b
          emergency (advanceReader b p r fun x => addSamples (readCfg b p r) x j cell) p (32 ≤ r)))
      ∧ (∀ (moduleB : Bool) (role half : Fin 2) (place : Fin 8),
        let r := readerNo moduleB role (8 * half.val + place.val)
        let x := readerOf b p r
        x.phase ≠ 0 → x.sched = some ((x.n : Int) - 7) →
        exec (.schedulingPoint dt port moduleB role half place) s = .next (after dt s fun b =>
          advanceReader (storeBank b p r) p r (rebank (readCfg (storeBank b p r) p r))))
      ∧ (∀ (r : Fin 2) (lost : Bool) (bytes : Bytes), bytes.length = 32 →
        exec (.servoCell dt port r lost bytes) s = .next (after dt s fun b => onServo b p r.val (if lost then none else some bytes)))
      ∧ (∀ cell : Option Bytes, (∀ c ∈ cell, c.length = 32) →
        exec (.senseCell dt port cell) s = .next (after dt s fun b => onSense b p cell)))
    ∧ (∀ st : SampleRun, linkUp b p = true → h.sample = some st → st.sSense + 8000 ≤ b.time.now →
      exec (.transducerEvaluation dt port) s = .next (after dt s fun b =>
        let i := st.sSense + (b.time.now - st.sSense - 8000) / 100000 * 100000
        let b := if (b.cle p).okLet + 400000 ≤ i then loseLet b p else b
        if (b.cle p).okTake + 400000 ≤ i then loseTake b p else b))
    ∧ (linkUp b p = true → 40000 ≤ since b h.edgeAt → exec (.edgeKeepalive dt port) s = .next (after dt s fun b => sendEdgeCell b p []))
    ∧ (∀ (seq : Nat) (m : Bytes), (linkUp b p = true ∨ (training b p = true ∧ 6 ≤ h.step)) → tabGet 0 h.upSeq 100 ≠ seq % 256 + 1 →
      let note (b : Block) := b.updHdl p fun h => { h with upSeq := tabSet 0 h.upSeq 100 (seq % 256 + 1) }
      exec (.ident dt port seq m) s = .next (after dt s fun b => onIdent (note b) p m)
      ∧ exec (.status dt port seq m) s = .next (after dt s fun b => onStatus (note b) p m)
      ∧ exec (.event dt port seq m) s = .next (after dt s fun b => onEvent (note b) p m)
      ∧ exec (.ack dt port seq m) s = .next (after dt s fun b => onAck (note b) p m))
    ∧ (∀ x : HdlMsg, (h.unacked.find? fun x => 200000 ≤ since b x.sentAt) = some x →
      (x.resends < 3 → exec (.msgResend dt port) s = .next (after dt s fun b =>
        emit (b.updHdl p fun h => { h with unacked := h.unacked.map fun y =>
          if y.seq = x.seq then { y with sentAt := b.time.now, resends := y.resends + 1 } else y })
          (.hdlMsg p x.typ (msgCell x.typ x.seq x.payload))))
      ∧ (3 ≤ x.resends → training b p = false → exec (.msgResend dt port) s = .next (after dt s fun b => linkDown b p 5 (x.typ = 2))))

/-- Completion of the rows of loom time and the shuttle fabric. -/
def Obligations.FabricRowsTakeTheirEffect : Prop :=
  ∀ (dt : Nat) (s : State), awake s.blk = true →
    let b := begun dt s
    let mine := ownPriority b
    (∀ (port : Fin 4), let p := port.val
      (∀ data : Word, HostReaches b (Reg.SHUT_PORT_CTRL (p / 2) (p % 2)) →
        exec (.shutEnable dt port data) s = .next (after dt s fun b => writeShutCtrl b p data.toNat)
        ∧ exec (.shutRetrain dt port data) s = .next (after dt s fun b => writeShutCtrl b p (setBits data.toNat 1 1 1)))
      ∧ (shutUp b p = true → 12000000 ≤ since b (b.shut p).timeAt →
        exec (.shutTimeTimeout dt port) s = .next (after dt s fun b => shutLeave b p 3))
      ∧ (shutThere b p = true → shutOn b p = true → shutState b p = 3 → 400000000 ≤ since b (b.shut p).downAt →
        exec (.shutRetryTimer dt port) s = .next (after dt s fun b => shutTrain b p))
      ∧ (∀ (lane : Fin 4) (cell : Fin 16) (head body : Bytes),
        exec (.packetReceive dt port lane cell head body) s = .next (after dt s fun b => shutCell b p lane.val cell.val head body))
      ∧ (∀ (lane : Fin 4) (cells : Nat), shutUp b p = true →
        exec (.credit dt port lane cells) s = .next (after dt s fun b =>
          pumpBulk (b.updShut p fun h => { h with credits := tabUpd 0 h.credits lane.val fun c => min 128 (c + cells) }) p 16))
      ∧ (∀ (src : Nat) (m : Bytes), shutUp b p = true →
        exec (.heartbeat dt port src m) s = .next (after dt s fun b => heartbeatIn b p src m)
        ∧ exec (.state dt port src m) s = .next (after dt s fun b => stateIn b src m)
        ∧ (src ≠ ownDev b → exec (.hold dt port src m) s = .next (after dt s fun b => holdIn b m))
        ∧ exec (.hoprep dt port src m) s = .next (after dt s fun b => hopRepIn b p src m)
        ∧ exec (.timefault dt port src m) s = .next (after dt s fun b => timeFaultIn b src m)
        ∧ exec (.attest dt port src m) s = .next (after dt s fun b => attestIn b src m))
      ∧ (b.fab.parent = some p → 12000000 ≤ since b (b.shut p).heardAt →
        exec (.heartbeatMiss dt) s = .next (after dt s fun b => chooseParent (b.updShut p fun h => { h with heard := [] })))
      ∧ (∀ t1 t2 t3 t4 : Nat, b.fab.parent = some p → shutUp b p = true → isRoot b = false →
        exec (.parentTimeExchange dt t1 t2 t3 t4) s = .next (after dt s fun b =>
          let d := Int.tdiv (((t4 : Int) - t1) - ((t3 : Int) - t2)) 2
          let theta := (t2 : Int) - t1 - d
          let c := wr b (Fld.SHUT_PORT_DELAY_D (p / 2) (p % 2)) (satN 16 d.toNat)
          let c := steer (c.updTime fun t => { t with theta := theta, delay := d }) theta
          let c := c.updTime fun t => { t with lastExchange := t.now, missed := 0, errorEst := t.parentErr + 6 + max 4 theta.natAbs }
          checkFault (wr c Fld.TIME_STATUS_STATE 2) true)))
    ∧ (isRoot b = true → b.fab.epochPending = false → reached b b.fab.hbNext = true →
      exec (.heartbeatSend dt) s = .next (after dt s heartbeatSend))
    ∧ (isRoot b = false → hasFabric b = true → b.fab.parent = none → rd b Fld.TIME_STATUS_STATE ≠ 3 →
      exec (.holdover dt) s = .next (after dt s fun b =>
        let c := (fabricLog (wr b Fld.TIME_STATUS_STATE 3) 0 4 0xFF 0).updTime fun t =>
          { t with
            holdBase := t.errorEst, missed := 3,
            adj := if t.adjs.length = 0 then t.adj else Int.tdiv (t.adjs.foldl (· + ·) 0) t.adjs.length }
        let grown := rd c Fld.TIME_CTRL_HOLDOVER_PPB * since c c.time.lastExchange / 1000000000
        checkFault (c.updTime fun t => { t with errorEst := t.holdBase + grown }) false))
    ∧ (refRoot b = true → rdB b Fld.TIME_CTRL_PPS_EN = true → exec (.ppsEdge dt) s = .next (after dt s ppsEdge))
    ∧ (refRoot b = true →
      exec (.timeRefLost dt false) s = .next (after dt s fun b => wr (fabricLog b 0 15 0xFF 0) Fld.TIME_STATUS_REF_LOCK 0)
      ∧ ∀ adj : Int, exec (.timeRefRestored dt false adj) s = .next (after dt s fun b =>
        let a := clampI (-42950) 42950 adj
        showTime (wr (b.updTime fun t => { t with adj := a, adjs := (a :: t.adjs).take 16 }) Fld.TIME_STATUS_REF_LOCK 1)))
    ∧ (∀ err : Int, 8 < err.natAbs → exec (.dieAlignCheck dt err) s = .next (after dt s fun b =>
        forEach (List.range 16) (wrS b Fld.TIME_DIE_ERROR err) fun b i => timeError b (16 + i)))
    ∧ (fabRole b = 1 → mine ≠ 0 → b.fab.hold = none →
      (b.fab.mgr = none → (20 + 10 * (mine - 1)) * 4000000 ≤ since b (waitFrom b) →
        exec (.managerElection dt) s = .next (after dt s becomeManager))
      ∧ ∀ m : Nat × Nat × Nat, b.fab.mgr = some m → (5 + 2 * (mine - 1)) * 4000000 ≤ since b m.2.2 →
        exec (.standbyTakeover dt) s = .next (after dt s becomeManager))
    ∧ (∀ data : Word, HostReaches b Reg.SHUT_CTRL →
      exec (.claim dt data) s = .next (after dt s fun b => writeShutCtl b (setBits data.toNat 0 1 1)))
    ∧ (let ms := rd b Fld.SHUT_CTRL_AUTO_CLAIM_MS
      fabRole b = 3 → ms ≠ 0 → ms * 4000000 ≤ since b b.fab.holdAt → exec (.autoClaimExpiry dt) s = .next (after dt s becomeManager))
    ∧ (isManager b = false → managerId b ≠ 0 → 400000000 ≤ since b b.fab.hopAt →
      exec (.hoprepReport dt) s = .next (after dt s hopRepReport))

/-- Completion of the rows of cross-device wefts. -/
def Obligations.CrossRowsTakeTheirEffect : Prop :=
  ∀ (dt : Nat) (s : State), awake s.blk = true →
    let b := begun dt s
    (∀ g : Fin 32, let q := b.grp g.val
      let tw := weftPeriod b (rdB b (Fld.WEAVE_SM_STATUS_EDGE g.val)) (rd b (Fld.WEAVE_SM_STATUS_STEP g.val))
      (q.valid = true → q.cross = true → isManager b = true → streaming b g.val = true →
        reached b (q.nextL - tw - leadTicks b g.val - 880000) = true →
        exec (.crossPlanEval dt g) s = .next (after dt s fun b => planEval b g.val))
      ∧ (∀ (x : Plan) (m : Nat × Member), (b.fab.plans.find? fun p => p.g = g.val && p.launch && !p.launched) = some x →
        reached b (x.l - 80000) = true → m ∈ localMembers b q → memberAbsent b m.2 = false →
        exec (.launchMissing dt g) s = .next (after dt s fun b =>
          stopGroup (dropWeft (b.updFab fun f => { f with plans := f.plans.filter fun y => !(y.g = g.val && y.weft = x.weft) })
            g.val x.weft) g.val 1)))
    ∧ (∀ (port : Fin 4) (src : Nat) (m : Bytes), shutUp b port.val = true →
      exec (.plan dt port src m) s = .next (after dt s fun b => planIn b src m)
      ∧ (b.fab.hold = none → fieldAt m 26 2 = src → exec (.launch dt port src m) s = .next (after dt s fun b => memberLaunch b m))
      ∧ (src ≠ ownDev b →
        exec (.verdict dt port src m) s = .next (after dt s fun b => verdictMsg b m)
        ∧ exec (.row dt port src m) s = .next (after dt s fun b => rowIn b m))
      ∧ (fromManager b src = true →
        exec (.outcome dt port src m) s = .next (after dt s fun b => outcomeIn b m)
        ∧ exec (.declare dt port src m) s = .next (after dt s fun b => declareIn b m))
      ∧ exec (.regen dt port src m) s = .next (after dt s fun b => regenIn b src m)
      ∧ exec (.queue dt port src m) s = .next (after dt s fun b => queueIn b src m))
    ∧ (isManager b = false → managerId b ≠ 0 → exec (.queueReport dt) s = .next (after dt s queueReport))
end

