-- ==== Sys2Proof/Laws/Tab.lean ====
section
/-!
SUPPORT. Sys2Proof/Laws/Tab.lean: tables by instance: a value set is the value read, every other instance keeps its value, and the
canonical form (keys rising, no entry equal to what an unlisted instance reads as) is kept.
-/

namespace Sys2Proof.Machine

variable {α : Type}

theorem tabGet_tabDrop_same (d : α) (t : Tab α) (k : Nat) : tabGet d (tabDrop t k) k = d := by
  induction t with
  | nil => rfl
  | cons x t ih =>
    obtain ⟨j, w⟩ := x
    by_cases h : j = k
    · subst h; simpa [tabDrop] using ih
    · have h' : ¬ k = j := fun e => h e.symm
      simpa [tabDrop, h, tabGet, h'] using ih

theorem tabGet_tabDrop_other (d : α) (t : Tab α) {k l : Nat} (h : l ≠ k) : tabGet d (tabDrop t k) l = tabGet d t l := by
  induction t with
  | nil => rfl
  | cons x t ih =>
    obtain ⟨j, w⟩ := x
    by_cases hj : j = k
    · subst hj; simpa [tabDrop, tabGet, h] using ih
    · simp only [tabDrop, ne_eq, List.filter_cons, hj, not_false_eq_true, decide_true, ↓reduceIte, tabGet]
      split
      · rfl
      · exact ih

theorem tabGet_tabPut_same (d : α) (k : Nat) (v : α) (t : Tab α) (h : ∀ x ∈ t, x.1 ≠ k) : tabGet d (tabPut k v t) k = v := by
  induction t with
  | nil => simp [tabPut, tabGet]
  | cons x t ih =>
    obtain ⟨j, w⟩ := x
    have hj : ¬ k = j := fun e => h (j, w) (by simp) e.symm
    by_cases hk : k < j
    · simp [tabPut, hk, tabGet]
    · simp only [tabPut, hk, ↓reduceIte, tabGet, hj]
      exact ih fun x hx => h x (List.mem_cons_of_mem _ hx)

theorem tabGet_tabPut_other (d : α) {k l : Nat} (v : α) (t : Tab α) (h : l ≠ k) : tabGet d (tabPut k v t) l = tabGet d t l := by
  induction t with
  | nil => simp [tabPut, tabGet, h]
  | cons x t ih =>
    obtain ⟨j, w⟩ := x
    by_cases hk : k < j
    · simp [tabPut, hk, tabGet, h]
    · simp only [tabPut, hk, ↓reduceIte, tabGet]
      split
      · rfl
      · exact ih

theorem mem_tabDrop_ne {t : Tab α} {k : Nat} : ∀ x ∈ tabDrop t k, x.1 ≠ k := by
  intro x hx
  simpa using (List.mem_filter.mp hx).2

theorem mem_tabPut {k : Nat} {v : α} {t : Tab α} {x : Nat × α} (h : x ∈ tabPut k v t) : x = (k, v) ∨ x ∈ t := by
  induction t with
  | nil => simpa [tabPut] using h
  | cons y t ih =>
    obtain ⟨j, w⟩ := y
    by_cases hk : k < j
    · simpa [tabPut, hk] using h
    · simp only [tabPut, hk, ↓reduceIte, List.mem_cons] at h ⊢
      rcases h with h | h
      · exact .inr (.inl h)
      · rcases ih h with h | h
        · exact .inl h
        · exact .inr (.inr h)

theorem tabPut_rising {k : Nat} {v : α} {t : Tab α} (h : t.Pairwise fun x y => x.1 < y.1) (hk : ∀ x ∈ t, x.1 ≠ k) :
    (tabPut k v t).Pairwise fun x y => x.1 < y.1 := by
  induction t with
  | nil => simp [tabPut]
  | cons y t ih =>
    obtain ⟨j, w⟩ := y
    obtain ⟨hj, ht⟩ := List.pairwise_cons.mp h
    by_cases hlt : k < j
    · simp only [tabPut, hlt, ↓reduceIte, List.pairwise_cons]
      refine ⟨?_, hj, ht⟩
      intro x hx
      rcases List.mem_cons.mp hx with rfl | hx
      · exact hlt
      · exact Nat.lt_trans hlt (hj x hx)
    · simp only [tabPut, hlt, ↓reduceIte, List.pairwise_cons]
      refine ⟨?_, ih ht fun x hx => hk x (List.mem_cons_of_mem _ hx)⟩
      intro x hx
      rcases mem_tabPut hx with rfl | hx
      · have := hk (j, w) (by simp); simp at this ⊢; omega
      · exact hj x hx

variable [DecidableEq α]

/-- A value set is the value read. -/
@[simp] theorem tabGet_tabSet_same (d : α) (t : Tab α) (k : Nat) (v : α) : tabGet d (tabSet d t k v) k = v := by
  unfold tabSet
  split
  · next h => rw [h]; exact tabGet_tabDrop_same d t k
  · exact tabGet_tabPut_same d k v _ mem_tabDrop_ne

/-- Every other instance keeps its value. -/
theorem tabGet_tabSet_other (d : α) (t : Tab α) {k l : Nat} (v : α) (h : l ≠ k) : tabGet d (tabSet d t k v) l = tabGet d t l := by
  unfold tabSet
  split
  · exact tabGet_tabDrop_other d t h
  · rw [tabGet_tabPut_other d v _ h, tabGet_tabDrop_other d t h]

@[simp] theorem tabGet_tabUpd_same (d : α) (t : Tab α) (k : Nat) (f : α → α) : tabGet d (tabUpd d t k f) k = f (tabGet d t k) := by
  simp [tabUpd]

theorem tabGet_tabUpd_other (d : α) (t : Tab α) {k l : Nat} (f : α → α) (h : l ≠ k) : tabGet d (tabUpd d t k f) l = tabGet d t l := by
  simp [tabUpd, tabGet_tabSet_other d t _ h]

/-- The canonical form of a table: keys strictly rising, and no entry equal to what an unlisted instance reads as. -/
def Tab.Canon (d : α) (t : Tab α) : Prop := t.Pairwise (fun x y => x.1 < y.1) ∧ ∀ x ∈ t, x.2 ≠ d

/-- Setting an instance keeps the canonical form. -/
theorem tabSet_canon (d : α) {t : Tab α} (k : Nat) (v : α) (h : Tab.Canon d t) : Tab.Canon d (tabSet d t k v) := by
  have hp : (tabDrop t k).Pairwise fun x y => x.1 < y.1 := h.1.filter _
  have hm : ∀ x ∈ tabDrop t k, x.2 ≠ d := fun x hx => h.2 x (List.mem_of_mem_filter hx)
  unfold tabSet
  split
  · exact ⟨hp, hm⟩
  · next hv =>
    refine ⟨tabPut_rising hp mem_tabDrop_ne, ?_⟩
    intro x hx
    rcases mem_tabPut hx with rfl | hx
    · exact hv
    · exact hm x hx

end Sys2Proof.Machine
end

