-- ==== Sys2Proof/Laws/Fields.lean ====
section
/-!
SUPPORT. Sys2Proof/Laws/Fields.lean: registers and their fields: what is written is read, and every other register, and every
other field of the same register, keeps its value (R9, R10).
-/

namespace Sys2Proof.Machine

/-- Bits of a word above or below a field stand when the field is set. -/
theorem testBit_setBits (w lo width v i : Nat) :
    (setBits w lo width v).testBit i = if lo ≤ i ∧ i < lo + width then v.testBit (i - lo) else w.testBit i := by
  unfold setBits bitsOf
  have hp : 0 < 2 ^ lo := Nat.two_pow_pos lo
  have h1 : w = 2 ^ lo * (w / 2 ^ lo) + w % 2 ^ lo := (Nat.div_add_mod w _).symm
  have h2 : w / 2 ^ lo = 2 ^ width * (w / 2 ^ lo / 2 ^ width) + w / 2 ^ lo % 2 ^ width := (Nat.div_add_mod _ _).symm
  have hr : w % 2 ^ lo < 2 ^ lo := Nat.mod_lt _ hp
  set r := w % 2 ^ lo with hrdef
  set c := w / 2 ^ lo % 2 ^ width with hcdef
  set a := w / 2 ^ lo / 2 ^ width with hadef
  have hw : w = 2 ^ lo * (2 ^ width * a + c) + r := by rw [← h2]; exact h1
  have hc : c < 2 ^ width := Nat.mod_lt _ (Nat.two_pow_pos _)
  have hv : v % 2 ^ width < 2 ^ width := Nat.mod_lt _ (Nat.two_pow_pos _)
  have hs : w - c * 2 ^ lo + v % 2 ^ width * 2 ^ lo = 2 ^ lo * (2 ^ width * a + v % 2 ^ width) + r := by
    have : w - c * 2 ^ lo = 2 ^ lo * (2 ^ width * a) + r := by
      conv_lhs => rw [hw]
      rw [Nat.mul_add, Nat.mul_comm c]; omega
    rw [this, Nat.mul_add, Nat.mul_comm (v % 2 ^ width)]; omega
  rw [hs]
  rw [Nat.testBit_two_pow_mul_add _ hr]
  by_cases hi : i < lo
  · have : w.testBit i = r.testBit i := by rw [hw, Nat.testBit_two_pow_mul_add _ hr]; simp [hi]
    simp [hi, this, Nat.not_le.mpr hi]
  · simp only [hi, ↓reduceIte]
    rw [Nat.testBit_two_pow_mul_add _ hv]
    by_cases hj : i - lo < width
    · have : lo ≤ i ∧ i < lo + width := by omega
      simp [hj, this, Nat.testBit_mod_two_pow]
    · have hn : ¬ (lo ≤ i ∧ i < lo + width) := by omega
      have : w.testBit i = a.testBit (i - lo - width) := by
        rw [hw, Nat.testBit_two_pow_mul_add _ hr]
        simp only [hi, ↓reduceIte]
        rw [Nat.testBit_two_pow_mul_add _ hc]; simp [hj]
      simp [hj, hn, this]

/-- A field set in a word reads as the value, cut to its width. -/
theorem bitsOf_setBits_same (w lo width v : Nat) : bitsOf (setBits w lo width v) lo width = v % 2 ^ width := by
  apply Nat.eq_of_testBit_eq
  intro i
  simp only [bitsOf, Nat.testBit_mod_two_pow, Nat.testBit_div_two_pow, testBit_setBits]
  by_cases hi : i < width
  · have : lo ≤ i + lo ∧ i + lo < lo + width := by omega
    simp [hi, this]
  · simp [hi]

/-- Another field of the word keeps its value. -/
theorem bitsOf_setBits_other (w lo width v lo' width' : Nat) (h : lo + width ≤ lo' ∨ lo' + width' ≤ lo) :
    bitsOf (setBits w lo width v) lo' width' = bitsOf w lo' width' := by
  apply Nat.eq_of_testBit_eq
  intro i
  simp only [bitsOf, Nat.testBit_mod_two_pow, Nat.testBit_div_two_pow, testBit_setBits]
  by_cases hi : i < width'
  · have : ¬ (lo ≤ i + lo' ∧ i + lo' < lo + width) := by omega
    simp [hi, this]
  · simp [hi]

@[simp] theorem regGet_regPut_same (b : Block) (a v : Nat) : regGet (regPut b a v) a = v := by
  simp [regGet, regPut]

theorem regGet_regPut_other (b : Block) {a c : Nat} (v : Nat) (h : c ≠ a) : regGet (regPut b a v) c = regGet b c := by
  unfold regGet regPut
  generalize resetVal c = d
  show tabGet d (tabSet (resetVal a) b.regs a v) c = tabGet d b.regs c
  unfold tabSet
  split
  · exact tabGet_tabDrop_other d _ h
  · rw [tabGet_tabPut_other d _ _ h, tabGet_tabDrop_other d _ h]

/-- A field written reads as the value, cut to its width. -/
@[simp] theorem rd_wr_same (b : Block) (f : Fld) (v : Nat) : rd (wr b f v) f = v % 2 ^ f.width := by
  simp [rd, wr, bitsOf_setBits_same]

/-- A write to another register leaves a field. -/
theorem rd_wr_addr (b : Block) (f g : Fld) (v : Nat) (h : g.addr ≠ f.addr) : rd (wr b f v) g = rd b g := by
  simp [rd, wr, regGet_regPut_other b _ h]

/-- A write to another field of the register leaves a field. -/
theorem rd_wr_field (b : Block) (f g : Fld) (v : Nat) (h : f.lo + f.width ≤ g.lo ∨ g.lo + g.width ≤ f.lo) :
    rd (wr b f v) g = rd b g := by
  by_cases ha : g.addr = f.addr
  · simp [rd, wr, ha, bitsOf_setBits_other _ _ _ _ _ _ h]
  · exact rd_wr_addr b f g v ha

end Sys2Proof.Machine
end

