-- ==== Sys2Proof/Laws/Form.lean ====
section
/-!
SUPPORT. Sys2Proof/Laws/Form.lean: every command runs in the one frame: `dt` ticks pass, and its effect is settled (`runCmd`, `runWard`).
-/

namespace Sys2Proof.Machine

theorem execOpenStream_form (dt : Nat) (fn : Fin 256) (q : Fin 1024) (e : Sqe) (sgl : List Sgl) (s : State) : ∃ f, execOpenStream dt fn q e sgl s = runCmd dt s f := by
  unfold execOpenStream; exact ⟨_, rfl⟩
theorem execCloseStream_form (dt : Nat) (fn : Fin 256) (q : Fin 1024) (e : Sqe) (sgl : List Sgl) (s : State) : ∃ f, execCloseStream dt fn q e sgl s = runCmd dt s f := by
  unfold execCloseStream; exact ⟨_, rfl⟩
theorem execOpenObject_form (dt : Nat) (fn : Fin 256) (q : Fin 1024) (e : Sqe) (sgl : List Sgl) (s : State) : ∃ f, execOpenObject dt fn q e sgl s = runCmd dt s f := by
  unfold execOpenObject; exact ⟨_, rfl⟩
theorem execPutRecord_form (dt : Nat) (fn : Fin 256) (q : Fin 1024) (e : Sqe) (sgl : List Sgl) (s : State) : ∃ f, execPutRecord dt fn q e sgl s = runCmd dt s f := by
  unfold execPutRecord; exact ⟨_, rfl⟩
theorem execCloseObject_form (dt : Nat) (fn : Fin 256) (q : Fin 1024) (e : Sqe) (sgl : List Sgl) (s : State) : ∃ f, execCloseObject dt fn q e sgl s = runCmd dt s f := by
  unfold execCloseObject; exact ⟨_, rfl⟩
theorem execFlush_form (dt : Nat) (fn : Fin 256) (q : Fin 1024) (e : Sqe) (sgl : List Sgl) (s : State) : ∃ f, execFlush dt fn q e sgl s = runCmd dt s f := by
  unfold execFlush; exact ⟨_, rfl⟩
theorem execAbortObject_form (dt : Nat) (fn : Fin 256) (q : Fin 1024) (e : Sqe) (sgl : List Sgl) (s : State) : ∃ f, execAbortObject dt fn q e sgl s = runCmd dt s f := by
  unfold execAbortObject; exact ⟨_, rfl⟩
theorem execMount_form (dt : Nat) (fn : Fin 256) (q : Fin 1024) (e : Sqe) (sgl : List Sgl) (s : State) : ∃ f, execMount dt fn q e sgl s = runCmd dt s f := by
  unfold execMount; exact ⟨_, rfl⟩
theorem execUnmount_form (dt : Nat) (fn : Fin 256) (q : Fin 1024) (e : Sqe) (sgl : List Sgl) (s : State) : ∃ f, execUnmount dt fn q e sgl s = runCmd dt s f := by
  unfold execUnmount; exact ⟨_, rfl⟩
theorem execLocate_form (dt : Nat) (fn : Fin 256) (q : Fin 1024) (e : Sqe) (sgl : List Sgl) (s : State) : ∃ f, execLocate dt fn q e sgl s = runCmd dt s f := by
  unfold execLocate; exact ⟨_, rfl⟩
theorem execReadObject_form (dt : Nat) (fn : Fin 256) (q : Fin 1024) (e : Sqe) (sgl : List Sgl) (s : State) : ∃ f, execReadObject dt fn q e sgl s = runCmd dt s f := by
  unfold execReadObject; exact ⟨_, rfl⟩
theorem execReadRecord_form (dt : Nat) (fn : Fin 256) (q : Fin 1024) (e : Sqe) (sgl : List Sgl) (s : State) : ∃ f, execReadRecord dt fn q e sgl s = runCmd dt s f := by
  unfold execReadRecord; exact ⟨_, rfl⟩
theorem execPatrol_form (dt : Nat) (fn : Fin 256) (q : Fin 1024) (e : Sqe) (sgl : List Sgl) (s : State) : ∃ f, execPatrol dt fn q e sgl s = runCmd dt s f := by
  unfold execPatrol; exact ⟨_, rfl⟩
theorem execRebuild_form (dt : Nat) (fn : Fin 256) (q : Fin 1024) (e : Sqe) (sgl : List Sgl) (s : State) : ∃ f, execRebuild dt fn q e sgl s = runCmd dt s f := by
  unfold execRebuild; exact ⟨_, rfl⟩
theorem execReshape_form (dt : Nat) (fn : Fin 256) (q : Fin 1024) (e : Sqe) (sgl : List Sgl) (s : State) : ∃ f, execReshape dt fn q e sgl s = runCmd dt s f := by
  unfold execReshape; exact ⟨_, rfl⟩
theorem execKeyLoad_form (dt : Nat) (fn : Fin 256) (q : Fin 1024) (e : Sqe) (sgl : List Sgl) (s : State) : ∃ f, execKeyLoad dt fn q e sgl s = runCmd dt s f := by
  unfold execKeyLoad; exact ⟨_, rfl⟩
theorem execKeyDrop_form (dt : Nat) (fn : Fin 256) (q : Fin 1024) (e : Sqe) (sgl : List Sgl) (s : State) : ∃ f, execKeyDrop dt fn q e sgl s = runCmd dt s f := by
  unfold execKeyDrop; exact ⟨_, rfl⟩
theorem execAttestQuote_form (dt : Nat) (fn : Fin 256) (q : Fin 1024) (e : Sqe) (sgl : List Sgl) (s : State) : ∃ f, execAttestQuote dt fn q e sgl s = runCmd dt s f := by
  unfold execAttestQuote; exact ⟨_, rfl⟩
theorem execGetEntropy_form (dt : Nat) (fn : Fin 256) (q : Fin 1024) (e : Sqe) (sgl : List Sgl) (s : State) : ∃ f, execGetEntropy dt fn q e sgl s = runCmd dt s f := by
  unfold execGetEntropy; exact ⟨_, rfl⟩
theorem execGetLog_form (dt : Nat) (fn : Fin 256) (q : Fin 1024) (e : Sqe) (sgl : List Sgl) (s : State) : ∃ f, execGetLog dt fn q e sgl s = runCmd dt s f := by
  unfold execGetLog; exact ⟨_, rfl⟩
theorem execTuneLoop_form (dt : Nat) (fn : Fin 256) (q : Fin 1024) (e : Sqe) (sgl : List Sgl) (s : State) : ∃ f, execTuneLoop dt fn q e sgl s = runCmd dt s f := by
  unfold execTuneLoop; exact ⟨_, rfl⟩
theorem execInjectCapture_form (dt : Nat) (fn : Fin 256) (q : Fin 1024) (e : Sqe) (sgl : List Sgl) (s : State) : ∃ f, execInjectCapture dt fn q e sgl s = runCmd dt s f := by
  unfold execInjectCapture; exact ⟨_, rfl⟩
theorem execBeamFill_form (dt : Nat) (fn : Fin 256) (q : Fin 1024) (e : Sqe) (sgl : List Sgl) (s : State) : ∃ f, execBeamFill dt fn q e sgl s = runCmd dt s f := by
  unfold execBeamFill; exact ⟨_, rfl⟩
theorem execBeamRetire_form (dt : Nat) (fn : Fin 256) (q : Fin 1024) (e : Sqe) (sgl : List Sgl) (s : State) : ∃ f, execBeamRetire dt fn q e sgl s = runCmd dt s f := by
  unfold execBeamRetire; exact ⟨_, rfl⟩
theorem execQpEnable_form (dt : Nat) (fn : Fin 256) (q : Fin 1024) (data : Word) (s : State) : ∃ f, execQpEnable dt fn q data s = runCmd dt s f := by
  unfold execQpEnable; exact ⟨_, rfl⟩
theorem execQpDisable_form (dt : Nat) (fn : Fin 256) (q : Fin 1024) (data : Word) (s : State) : ∃ f, execQpDisable dt fn q data s = runCmd dt s f := by
  unfold execQpDisable; exact ⟨_, rfl⟩
theorem execQpSqTailDb_form (dt : Nat) (fn : Fin 256) (q : Fin 1024) (index : Nat) (s : State) : ∃ f, execQpSqTailDb dt fn q index s = runCmd dt s f := by
  unfold execQpSqTailDb; exact ⟨_, rfl⟩
theorem execQpCqHeadDb_form (dt : Nat) (fn : Fin 256) (q : Fin 1024) (index : Nat) (s : State) : ∃ f, execQpCqHeadDb dt fn q index s = runCmd dt s f := by
  unfold execQpCqHeadDb; exact ⟨_, rfl⟩
theorem execDmaErrClear_form (dt : Nat) (fn : Fin 256) (q : Fin 1024) (s : State) : ∃ f, execDmaErrClear dt fn q s = runCmd dt s f := by
  unfold execDmaErrClear; exact ⟨_, rfl⟩
theorem execFunctionLevelReset_form (dt : Nat) (fn : Fin 256) (s : State) : ∃ f, execFunctionLevelReset dt fn s = runCmd dt s f := by
  unfold execFunctionLevelReset; exact ⟨_, rfl⟩
theorem execSqEntryFetch_form (dt : Nat) (fn : Fin 256) (q : Fin 1024) (raw : Bytes) (sgl : List Sgl) (s : State) : ∃ f, execSqEntryFetch dt fn q raw sgl s = runCmd dt s f := by
  unfold execSqEntryFetch; exact ⟨_, rfl⟩
theorem execSqReadFailed_form (dt : Nat) (fn : Fin 256) (q : Fin 1024) (s : State) : ∃ f, execSqReadFailed dt fn q s = runCmd dt s f := by
  unfold execSqReadFailed; exact ⟨_, rfl⟩
theorem execCqWriteFailed_form (dt : Nat) (fn : Fin 256) (q : Fin 1024) (s : State) : ∃ f, execCqWriteFailed dt fn q s = runCmd dt s f := by
  unfold execCqWriteFailed; exact ⟨_, rfl⟩
theorem execDispatchSlot_form (dt : Nat) (s : State) : ∃ f, execDispatchSlot dt s = runCmd dt s f := by
  unfold execDispatchSlot; exact ⟨_, rfl⟩
theorem execObjHoldExpiry_form (dt : Nat) (fn : Fin 256) (q : Fin 1024) (s : State) : ∃ f, execObjHoldExpiry dt fn q s = runCmd dt s f := by
  unfold execObjHoldExpiry; exact ⟨_, rfl⟩
theorem execBeamHoldExpiry_form (dt : Nat) (fn : Fin 256) (q : Fin 1024) (s : State) : ∃ f, execBeamHoldExpiry dt fn q s = runCmd dt s f := by
  unfold execBeamHoldExpiry; exact ⟨_, rfl⟩
theorem execHeldCommandAccept_form (dt : Nat) (fn : Fin 256) (q : Fin 1024) (s : State) : ∃ f, execHeldCommandAccept dt fn q s = runCmd dt s f := by
  unfold execHeldCommandAccept; exact ⟨_, rfl⟩
theorem execCompletionPost_form (dt : Nat) (fn : Fin 256) (q : Fin 1024) (s : State) : ∃ f, execCompletionPost dt fn q s = runCmd dt s f := by
  unfold execCompletionPost; exact ⟨_, rfl⟩
theorem execAggTimeExpiry_form (dt : Nat) (fn : Fin 256) (q : Fin 1024) (s : State) : ∃ f, execAggTimeExpiry dt fn q s = runCmd dt s f := by
  unfold execAggTimeExpiry; exact ⟨_, rfl⟩
theorem execForceTokenGrid_form (dt : Nat) (tenant : Fin 256) (s : State) : ∃ f, execForceTokenGrid dt tenant s = runCmd dt s f := by
  unfold execForceTokenGrid; exact ⟨_, rfl⟩
theorem execHqiTenantForceWrite_form (dt : Nat) (tenant : Fin 256) (data : Word) (s : State) : ∃ f, execHqiTenantForceWrite dt tenant data s = runCmd dt s f := by
  unfold execHqiTenantForceWrite; exact ⟨_, rfl⟩
theorem execHqiFnMapWrite_form (dt : Nat) (fn : Fin 256) (data : Word) (s : State) : ∃ f, execHqiFnMapWrite dt fn data s = runCmd dt s f := by
  unfold execHqiFnMapWrite; exact ⟨_, rfl⟩
theorem execDmaReadRequest_form (dt cmd len : Nat) (s : State) : ∃ f, execDmaReadRequest dt cmd len s = runCmd dt s f := by
  unfold execDmaReadRequest; exact ⟨_, rfl⟩
theorem execDmaReadCompletion_form (dt cmd : Nat) (data : Bytes) (s : State) : ∃ f, execDmaReadCompletion dt cmd data s = runCmd dt s f := by
  unfold execDmaReadCompletion; exact ⟨_, rfl⟩
theorem execDmaReadFailed_form (dt cmd : Nat) (s : State) : ∃ f, execDmaReadFailed dt cmd s = runCmd dt s f := by
  unfold execDmaReadFailed; exact ⟨_, rfl⟩
theorem execBobbinGrant_form (dt : Nat) (die : Fin 2) (s : State) : ∃ f, execBobbinGrant dt die s = runCmd dt s f := by
  unfold execBobbinGrant; exact ⟨_, rfl⟩
theorem execBobbinWideRead_form (dt : Nat) (die : Fin 2) (bobbin : Fin 512) (flipData : Bytes) (flipSide : Nat) (s : State) : ∃ f, execBobbinWideRead dt die bobbin flipData flipSide s = runCmd dt s f := by
  unfold execBobbinWideRead; exact ⟨_, rfl⟩
theorem execDropRest_form (dt : Nat) (die : Fin 2) (bobbin : Fin 512) (s : State) : ∃ f, execDropRest dt die bobbin s = runCmd dt s f := by
  unfold execDropRest; exact ⟨_, rfl⟩
theorem execCreditedWrite_form (dt : Nat) (die : Fin 2) (bobbin : Fin 10) (data : Bytes) (s : State) : ∃ f, execCreditedWrite dt die bobbin data s = runCmd dt s f := by
  unfold execCreditedWrite; exact ⟨_, rfl⟩
theorem execCompressionJobStart_form (dt : Nat) (die : Fin 2) (s : State) : ∃ f, execCompressionJobStart dt die s = runCmd dt s f := by
  unfold execCompressionJobStart; exact ⟨_, rfl⟩
theorem execBlockEmit_form (dt : Nat) (engine : Fin 64) (bad1 bad2 : Bool) (s : State) : ∃ f, execBlockEmit dt engine bad1 bad2 s = runCmd dt s f := by
  unfold execBlockEmit; exact ⟨_, rfl⟩
theorem execDecompressionJob_form (dt : Nat) (die : Fin 2) (cmd : Nat) (bad1 bad2 : Bool) (s : State) : ∃ f, execDecompressionJob dt die cmd bad1 bad2 s = runCmd dt s f := by
  unfold execDecompressionJob; exact ⟨_, rfl⟩
theorem execCardEngEnableWrite_form (dt : Nat) (die : Fin 2) (data : Word) (s : State) : ∃ f, execCardEngEnableWrite dt die data s = runCmd dt s f := by
  unfold execCardEngEnableWrite; exact ⟨_, rfl⟩
theorem execSealJob_form (dt : Nat) (pipe : Fin 8) (start : Bool) (s : State) : ∃ f, execSealJob dt pipe start s = runCmd dt s f := by
  unfold execSealJob; exact ⟨_, rfl⟩
theorem execOpenJob_form (dt : Nat) (pipe : Fin 8) (start upset : Bool) (s : State) : ∃ f, execOpenJob dt pipe start upset s = runCmd dt s f := by
  unfold execOpenJob; exact ⟨_, rfl⟩
theorem execUnwrapJob_form (dt : Nat) (pipe : Fin 8) (start : Bool) (blob : Bytes) (s : State) : ∃ f, execUnwrapJob dt pipe start blob s = runCmd dt s f := by
  unfold execUnwrapJob; exact ⟨_, rfl⟩
theorem execNonceReservation_form (dt : Nat) (s : State) : ∃ f, execNonceReservation dt s = runCmd dt s f := by
  unfold execNonceReservation; exact ⟨_, rfl⟩
theorem execKeySlotZeroize_form (dt : Nat) (slot : Fin 4096) (s : State) : ∃ f, execKeySlotZeroize dt slot s = runCmd dt s f := by
  unfold execKeySlotZeroize; exact ⟨_, rfl⟩
theorem execKeyErasure_form (dt : Nat) (die : Fin 2) (duration : Nat) (s : State) : ∃ f, execKeyErasure dt die duration s = runCmd dt s f := by
  unfold execKeyErasure; exact ⟨_, rfl⟩
theorem execDrbgSeed_form (noise : NoiseIn) (s : State) : ∃ f, execDrbgSeed noise s = runCmd noise.dt s f := by
  unfold execDrbgSeed; exact ⟨_, rfl⟩
theorem execDrbgReseed_form (noise : NoiseIn) (s : State) : ∃ f, execDrbgReseed noise s = runCmd noise.dt s f := by
  unfold execDrbgReseed; exact ⟨_, rfl⟩
theorem execHealthTestFailure_form (noise : NoiseIn) (startup : Bool) (s : State) : ∃ f, execHealthTestFailure noise startup s = runCmd noise.dt s f := by
  unfold execHealthTestFailure; exact ⟨_, rfl⟩
theorem execRowFetch_form (dt : Nat) (port : Fin 32) (seq : Fin 8) (s : State) : ∃ f, execRowFetch dt port seq s = runCmd dt s f := by
  unfold execRowFetch; exact ⟨_, rfl⟩
theorem execSlotWrite_form (dt : Nat) (port : Fin 32) (fail mask : Nat) (s : State) : ∃ f, execSlotWrite dt port fail mask s = runCmd dt s f := by
  unfold execSlotWrite; exact ⟨_, rfl⟩
theorem execWeftAbortReceive_form (dt : Nat) (s : State) : ∃ f, execWeftAbortReceive dt s = runCmd dt s f := by
  unfold execWeftAbortReceive; exact ⟨_, rfl⟩
theorem execRegenRequest_form (dt : Nat) (port : Fin 32) (seg : Nat) (track : Fin 32) (slot : Fin 4) (s : State) : ∃ f, execRegenRequest dt port seg track slot s = runCmd dt s f := by
  unfold execRegenRequest; exact ⟨_, rfl⟩
theorem execSpeedMatchEval_form (dt : Nat) (g : Fin 32) (s : State) : ∃ f, execSpeedMatchEval dt g s = runCmd dt s f := by
  unfold execSpeedMatchEval; exact ⟨_, rfl⟩
theorem execWeftDecisionPoint_form (dt : Nat) (g : Fin 32) (s : State) : ∃ f, execWeftDecisionPoint dt g s = runCmd dt s f := by
  unfold execWeftDecisionPoint; exact ⟨_, rfl⟩
theorem execCatAgeExpiry_form (dt : Nat) (port : Fin 32) (s : State) : ∃ f, execCatAgeExpiry dt port s = runCmd dt s f := by
  unfold execCatAgeExpiry; exact ⟨_, rfl⟩
theorem execMemberHeldReport_form (dt : Nat) (g : Fin 32) (mi : Fin 64) (s : State) : ∃ f, execMemberHeldReport dt g mi s = runCmd dt s f := by
  unfold execMemberHeldReport; exact ⟨_, rfl⟩
theorem execGroupRestart_form (dt : Nat) (g : Fin 32) (s : State) : ∃ f, execGroupRestart dt g s = runCmd dt s f := by
  unfold execGroupRestart; exact ⟨_, rfl⟩
theorem execHoldWaitTimeout_form (dt : Nat) (g : Fin 32) (s : State) : ∃ f, execHoldWaitTimeout dt g s = runCmd dt s f := by
  unfold execHoldWaitTimeout; exact ⟨_, rfl⟩
theorem execIntentDeadline_form (dt : Nat) (g : Fin 32) (s : State) : ∃ f, execIntentDeadline dt g s = runCmd dt s f := by
  unfold execIntentDeadline; exact ⟨_, rfl⟩
theorem execVerdictArrival_form (dt : Nat) (s : State) : ∃ f, execVerdictArrival dt s = runCmd dt s f := by
  unfold execVerdictArrival; exact ⟨_, rfl⟩
theorem execVerifyDue_form (dt : Nat) (g : Fin 32) (s : State) : ∃ f, execVerifyDue dt g s = runCmd dt s f := by
  unfold execVerifyDue; exact ⟨_, rfl⟩
theorem execGraceExpiry_form (dt : Nat) (g : Fin 32) (s : State) : ∃ f, execGraceExpiry dt g s = runCmd dt s f := by
  unfold execGraceExpiry; exact ⟨_, rfl⟩
theorem execDeclareFailed_form (dt : Nat) (g : Fin 32) (mi : Fin 64) (data : Word) (s : State) : ∃ f, execDeclareFailed dt g mi data s = runCmd dt s f := by
  unfold execDeclareFailed; exact ⟨_, rfl⟩
theorem execRejoin_form (dt : Nat) (g : Fin 32) (mi : Fin 64) (data : Word) (s : State) : ∃ f, execRejoin dt g mi data s = runCmd dt s f := by
  unfold execRejoin; exact ⟨_, rfl⟩
theorem execDatasetRelease_form (dt : Nat) (g : Fin 32) (s : State) : ∃ f, execDatasetRelease dt g s = runCmd dt s f := by
  unfold execDatasetRelease; exact ⟨_, rfl⟩
theorem execHdlEnable_form (dt : Nat) (port : Fin 32) (data : Word) (s : State) : ∃ f, execHdlEnable dt port data s = runCmd dt s f := by
  unfold execHdlEnable; exact ⟨_, rfl⟩
theorem execHdlTrainingTimeout_form (dt : Nat) (port : Fin 32) (s : State) : ∃ f, execHdlTrainingTimeout dt port s = runCmd dt s f := by
  unfold execHdlTrainingTimeout; exact ⟨_, rfl⟩
theorem execHdlRetrain_form (dt : Nat) (port : Fin 32) (s : State) : ∃ f, execHdlRetrain dt port s = runCmd dt s f := by
  unfold execHdlRetrain; exact ⟨_, rfl⟩
theorem execCodewordReceive_form (dt : Nat) (shuttle : Bool) (port : Fin 32) (lane : Fin 4) (header : BitVec 276) (cells : BitVec 4864) (check : BitVec 300) (s : State) : ∃ f, execCodewordReceive dt shuttle port lane header cells check s = runCmd dt s f := by
  unfold execCodewordReceive; exact ⟨_, rfl⟩
theorem execLaneLockLoss_form (dt : Nat) (shuttle : Bool) (port : Fin 32) (upstream : Bool) (lane : Fin 4) (s : State) : ∃ f, execLaneLockLoss dt shuttle port upstream lane s = runCmd dt s f := by
  unfold execLaneLockLoss; exact ⟨_, rfl⟩
theorem execStatusTimeout_form (dt : Nat) (port : Fin 32) (s : State) : ∃ f, execStatusTimeout dt port s = runCmd dt s f := by
  unfold execStatusTimeout; exact ⟨_, rfl⟩
theorem execMarkerSend_form (dt : Nat) (port : Fin 32) (seq : Nat) (s : State) : ∃ f, execMarkerSend dt port seq s = runCmd dt s f := by
  unfold execMarkerSend; exact ⟨_, rfl⟩
theorem execTimeExchange_form (dt : Nat) (port : Fin 32) (cell : Bytes) (t4 : Nat) (s : State) : ∃ f, execTimeExchange dt port cell t4 s = runCmd dt s f := by
  unfold execTimeExchange; exact ⟨_, rfl⟩
theorem execSampleCell_form (dt : Nat) (port : Fin 32) (lane : Fin 4) (lost : Bool) (cell : Bytes) (s : State) : ∃ f, execSampleCell dt port lane lost cell s = runCmd dt s f := by
  unfold execSampleCell; exact ⟨_, rfl⟩
theorem execSchedulingPoint_form (dt : Nat) (port : Fin 32) (moduleB : Bool) (role : Fin 2) (half : Fin 2) (place : Fin 8) (s : State) : ∃ f, execSchedulingPoint dt port moduleB role half place s = runCmd dt s f := by
  unfold execSchedulingPoint; exact ⟨_, rfl⟩
theorem execServoCell_form (dt : Nat) (port : Fin 32) (reader : Fin 2) (lost : Bool) (cell : Bytes) (s : State) : ∃ f, execServoCell dt port reader lost cell s = runCmd dt s f := by
  unfold execServoCell; exact ⟨_, rfl⟩
theorem execSenseCell_form (dt : Nat) (port : Fin 32) (cell : Option Bytes) (s : State) : ∃ f, execSenseCell dt port cell s = runCmd dt s f := by
  unfold execSenseCell; exact ⟨_, rfl⟩
theorem execTransducerEvaluation_form (dt : Nat) (port : Fin 32) (s : State) : ∃ f, execTransducerEvaluation dt port s = runCmd dt s f := by
  unfold execTransducerEvaluation; exact ⟨_, rfl⟩
theorem execEdgeKeepalive_form (dt : Nat) (port : Fin 32) (s : State) : ∃ f, execEdgeKeepalive dt port s = runCmd dt s f := by
  unfold execEdgeKeepalive; exact ⟨_, rfl⟩
theorem execIdent_form (dt : Nat) (port : Fin 32) (seq : Nat) (payload : Bytes) (s : State) : ∃ f, execIdent dt port seq payload s = runCmd dt s f := by
  unfold execIdent; exact ⟨_, rfl⟩
theorem execStatus_form (dt : Nat) (port : Fin 32) (seq : Nat) (payload : Bytes) (s : State) : ∃ f, execStatus dt port seq payload s = runCmd dt s f := by
  unfold execStatus; exact ⟨_, rfl⟩
theorem execEvent_form (dt : Nat) (port : Fin 32) (seq : Nat) (payload : Bytes) (s : State) : ∃ f, execEvent dt port seq payload s = runCmd dt s f := by
  unfold execEvent; exact ⟨_, rfl⟩
theorem execAck_form (dt : Nat) (port : Fin 32) (seq : Nat) (payload : Bytes) (s : State) : ∃ f, execAck dt port seq payload s = runCmd dt s f := by
  unfold execAck; exact ⟨_, rfl⟩
theorem execMsgResend_form (dt : Nat) (port : Fin 32) (s : State) : ∃ f, execMsgResend dt port s = runCmd dt s f := by
  unfold execMsgResend; exact ⟨_, rfl⟩
theorem execDecodePassEnd_form (dt : Nat) (port : Fin 32) (moduleB : Bool) (role : Fin 2) (place : Fin 16) (again : Bool) (s : State) : ∃ f, execDecodePassEnd dt port moduleB role place again s = runCmd dt s f := by
  unfold execDecodePassEnd; exact ⟨_, rfl⟩
theorem execNoSyncReport_form (dt : Nat) (port : Fin 32) (missed : TrackSlot) (s : State) : ∃ f, execNoSyncReport dt port missed s = runCmd dt s f := by
  unfold execNoSyncReport; exact ⟨_, rfl⟩
theorem execLookBufferGrant_form (dt : Nat) (die : Fin 2) (s : State) : ∃ f, execLookBufferGrant dt die s = runCmd dt s f := by
  unfold execLookBufferGrant; exact ⟨_, rfl⟩
theorem execLeadOnlyReport_form (dt : Nat) (port : Fin 32) (track : Fin 32) (missed : SlotAt) (s : State) : ∃ f, execLeadOnlyReport dt port track missed s = runCmd dt s f := by
  unfold execLeadOnlyReport; exact ⟨_, rfl⟩
theorem execDeadClearA_form (dt : Nat) (port : Fin 32) (data : Word) (s : State) : ∃ f, execDeadClearA dt port data s = runCmd dt s f := by
  unfold execDeadClearA; exact ⟨_, rfl⟩
theorem execDeadClearB_form (dt : Nat) (port : Fin 32) (data : Word) (s : State) : ∃ f, execDeadClearB dt port data s = runCmd dt s f := by
  unfold execDeadClearB; exact ⟨_, rfl⟩
theorem execCleBTick_form (dt : Nat) (port : Fin 32) (s : State) : ∃ f, execCleBTick dt port s = runCmd dt s f := by
  unfold execCleBTick; exact ⟨_, rfl⟩
theorem execCleATick_form (dt : Nat) (port : Fin 32) (s : State) : ∃ f, execCleATick dt port s = runCmd dt s f := by
  unfold execCleATick; exact ⟨_, rfl⟩
theorem execCleAIdleTick_form (dt : Nat) (port : Fin 32) (s : State) : ∃ f, execCleAIdleTick dt port s = runCmd dt s f := by
  unfold execCleAIdleTick; exact ⟨_, rfl⟩
theorem execServoFrameMissing_form (dt : Nat) (port : Fin 32) (s : State) : ∃ f, execServoFrameMissing dt port s = runCmd dt s f := by
  unfold execServoFrameMissing; exact ⟨_, rfl⟩
theorem execOffloadStep_form (dt : Nat) (port : Fin 32) (s : State) : ∃ f, execOffloadStep dt port s = runCmd dt s f := by
  unfold execOffloadStep; exact ⟨_, rfl⟩
theorem execTickOverrun_form (dt : Nat) (port : Fin 32) (cleB : Bool) (s : State) : ∃ f, execTickOverrun dt port cleB s = runCmd dt s f := by
  unfold execTickOverrun; exact ⟨_, rfl⟩
theorem execInjectionEnd_form (dt : Nat) (port : Fin 32) (s : State) : ∃ f, execInjectionEnd dt port s = runCmd dt s f := by
  unfold execInjectionEnd; exact ⟨_, rfl⟩
theorem execCaptureFull_form (dt : Nat) (port : Fin 32) (s : State) : ∃ f, execCaptureFull dt port s = runCmd dt s f := by
  unfold execCaptureFull; exact ⟨_, rfl⟩
theorem execRcClear_form (dt : Nat) (port : Fin 32) (rc : Fin 3) (data : Word) (s : State) : ∃ f, execRcClear dt port rc data s = runCmd dt s f := by
  unfold execRcClear; exact ⟨_, rfl⟩
theorem execCarrierPeriodCompile_form (dt : Nat) (port : Fin 32) (lockstep : Bool) (check : Nat) (s : State) : ∃ f, execCarrierPeriodCompile dt port lockstep check s = runCmd dt s f := by
  unfold execCarrierPeriodCompile; exact ⟨_, rfl⟩
theorem execEdgeCarrierWrite_form (dt : Nat) (port : Fin 32) (data : Word) (s : State) : ∃ f, execEdgeCarrierWrite dt port data s = runCmd dt s f := by
  unfold execEdgeCarrierWrite; exact ⟨_, rfl⟩
theorem execEdgeTimingWrite_form (dt : Nat) (port : Fin 32) (data : Word) (s : State) : ∃ f, execEdgeTimingWrite dt port data s = runCmd dt s f := by
  unfold execEdgeTimingWrite; exact ⟨_, rfl⟩
theorem execEdgeMapWrite_form (dt : Nat) (port : Fin 32) (data : Word) (s : State) : ∃ f, execEdgeMapWrite dt port data s = runCmd dt s f := by
  unfold execEdgeMapWrite; exact ⟨_, rfl⟩
theorem execEdgeTestWrite_form (dt : Nat) (port : Fin 32) (data : Word) (s : State) : ∃ f, execEdgeTestWrite dt port data s = runCmd dt s f := by
  unfold execEdgeTestWrite; exact ⟨_, rfl⟩
theorem execGrantRequest_form (dt : Nat) (port : Fin 32) (pass : Bool) (s : State) : ∃ f, execGrantRequest dt port pass s = runCmd dt s f := by
  unfold execGrantRequest; exact ⟨_, rfl⟩
theorem execGrantReturn_form (dt : Nat) (port : Fin 32) (s : State) : ∃ f, execGrantReturn dt port s = runCmd dt s f := by
  unfold execGrantReturn; exact ⟨_, rfl⟩
theorem execChannelCompare_form (dt : Nat) (die : Fin 2) (differ : Bool) (fault : Fin 5) (s : State) : ∃ f, execChannelCompare dt die differ fault s = runCmd dt s f := by
  unfold execChannelCompare; exact ⟨_, rfl⟩
theorem execCleHeartbeat_form (dt : Nat) (port : Fin 32) (cleB own crcOk : Bool) (s : State) : ∃ f, execCleHeartbeat dt port cleB own crcOk s = runCmd dt s f := by
  unfold execCleHeartbeat; exact ⟨_, rfl⟩
theorem execHeartbeatDeadline_form (dt : Nat) (port : Fin 32) (cleB : Bool) (s : State) : ∃ f, execHeartbeatDeadline dt port cleB s = runCmd dt s f := by
  unfold execHeartbeatDeadline; exact ⟨_, rfl⟩
theorem execOverspeedWindow_form (dt : Nat) (port : Fin 32) (s : State) : ∃ f, execOverspeedWindow dt port s = runCmd dt s f := by
  unfold execOverspeedWindow; exact ⟨_, rfl⟩
theorem execSafePortClear_form (dt : Nat) (port : Fin 32) (data : Word) (s : State) : ∃ f, execSafePortClear dt port data s = runCmd dt s f := by
  unfold execSafePortClear; exact ⟨_, rfl⟩
theorem execFaultNExternal_form (dt : Nat) (low : Bool) (s : State) : ∃ f, execFaultNExternal dt low s = runCmd dt s f := by
  unfold execFaultNExternal; exact ⟨_, rfl⟩
theorem execBeamRead_form (dt line : Nat) (errs : List (Nat × Nat × Nat)) (cmd : Option Nat) (s : State) : ∃ f, execBeamRead dt line errs cmd s = runCmd dt s f := by
  unfold execBeamRead; exact ⟨_, rfl⟩
theorem execBeamPartialWrite_form (dt line mask : Nat) (bytes : Bytes) (errs : List (Nat × Nat × Nat)) (s : State) : ∃ f, execBeamPartialWrite dt line mask bytes errs s = runCmd dt s f := by
  unfold execBeamPartialWrite; exact ⟨_, rfl⟩
theorem execMergeEntryTimeout_form (dt : Nat) (ch : Fin 16) (errs : List (Nat × Nat × Nat)) (s : State) : ∃ f, execMergeEntryTimeout dt ch errs s = runCmd dt s f := by
  unfold execMergeEntryTimeout; exact ⟨_, rfl⟩
theorem execScrubLine_form (dt : Nat) (errs : List (Nat × Nat × Nat)) (s : State) : ∃ f, execScrubLine dt errs s = runCmd dt s f := by
  unfold execScrubLine; exact ⟨_, rfl⟩
theorem execBucketLeak_form (dt : Nat) (ch : Fin 16) (s : State) : ∃ f, execBucketLeak dt ch s = runCmd dt s f := by
  unfold execBucketLeak; exact ⟨_, rfl⟩
theorem execFillStepDone_form (dt : Nat) (s : State) : ∃ f, execFillStepDone dt s = runCmd dt s f := by
  unfold execFillStepDone; exact ⟨_, rfl⟩
theorem execWriteRaw_form (dt : Nat) (die : Fin 2) (s : State) : ∃ f, execWriteRaw dt die s = runCmd dt s f := by
  unfold execWriteRaw; exact ⟨_, rfl⟩
theorem execWriteGen_form (dt : Nat) (die : Fin 2) (s : State) : ∃ f, execWriteGen dt die s = runCmd dt s f := by
  unfold execWriteGen; exact ⟨_, rfl⟩
theorem execReadRaw_form (dt : Nat) (die : Fin 2) (errs : List (Nat × Nat × Nat)) (s : State) : ∃ f, execReadRaw dt die errs s = runCmd dt s f := by
  unfold execReadRaw; exact ⟨_, rfl⟩
theorem execHashKeyDraw_form (dt : Nat) (s : State) : ∃ f, execHashKeyDraw dt s = runCmd dt s f := by
  unfold execHashKeyDraw; exact ⟨_, rfl⟩
theorem execShutEnable_form (dt : Nat) (port : Fin 4) (data : Word) (s : State) : ∃ f, execShutEnable dt port data s = runCmd dt s f := by
  unfold execShutEnable; exact ⟨_, rfl⟩
theorem execShutRetrain_form (dt : Nat) (port : Fin 4) (data : Word) (s : State) : ∃ f, execShutRetrain dt port data s = runCmd dt s f := by
  unfold execShutRetrain; exact ⟨_, rfl⟩
theorem execShutTimeTimeout_form (dt : Nat) (port : Fin 4) (s : State) : ∃ f, execShutTimeTimeout dt port s = runCmd dt s f := by
  unfold execShutTimeTimeout; exact ⟨_, rfl⟩
theorem execShutRetryTimer_form (dt : Nat) (port : Fin 4) (s : State) : ∃ f, execShutRetryTimer dt port s = runCmd dt s f := by
  unfold execShutRetryTimer; exact ⟨_, rfl⟩
theorem execPacketReceive_form (dt : Nat) (port : Fin 4) (lane : Fin 4) (cell : Fin 16) (head body : Bytes) (s : State) : ∃ f, execPacketReceive dt port lane cell head body s = runCmd dt s f := by
  unfold execPacketReceive; exact ⟨_, rfl⟩
theorem execCredit_form (dt : Nat) (port : Fin 4) (lane : Fin 4) (cells : Nat) (s : State) : ∃ f, execCredit dt port lane cells s = runCmd dt s f := by
  unfold execCredit; exact ⟨_, rfl⟩
theorem execHeartbeatSend_form (dt : Nat) (s : State) : ∃ f, execHeartbeatSend dt s = runCmd dt s f := by
  unfold execHeartbeatSend; exact ⟨_, rfl⟩
theorem execHeartbeat_form (dt : Nat) (port : Fin 4) (src : Nat) (m : Bytes) (s : State) : ∃ f, execHeartbeat dt port src m s = runCmd dt s f := by
  unfold execHeartbeat; exact ⟨_, rfl⟩
theorem execHeartbeatMiss_form (dt : Nat) (s : State) : ∃ f, execHeartbeatMiss dt s = runCmd dt s f := by
  unfold execHeartbeatMiss; exact ⟨_, rfl⟩
theorem execParentTimeExchange_form (dt : Nat) (t1 t2 t3 t4 : Nat) (s : State) : ∃ f, execParentTimeExchange dt t1 t2 t3 t4 s = runCmd dt s f := by
  unfold execParentTimeExchange; exact ⟨_, rfl⟩
theorem execHoldover_form (dt : Nat) (s : State) : ∃ f, execHoldover dt s = runCmd dt s f := by
  unfold execHoldover; exact ⟨_, rfl⟩
theorem execPpsEdge_form (dt : Nat) (s : State) : ∃ f, execPpsEdge dt s = runCmd dt s f := by
  unfold execPpsEdge; exact ⟨_, rfl⟩
theorem execTimeRefLost_form (dt : Nat) (pps : Bool) (s : State) : ∃ f, execTimeRefLost dt pps s = runCmd dt s f := by
  unfold execTimeRefLost; exact ⟨_, rfl⟩
theorem execDieAlignCheck_form (dt : Nat) (err : Int) (s : State) : ∃ f, execDieAlignCheck dt err s = runCmd dt s f := by
  unfold execDieAlignCheck; exact ⟨_, rfl⟩
theorem execManagerElection_form (dt : Nat) (s : State) : ∃ f, execManagerElection dt s = runCmd dt s f := by
  unfold execManagerElection; exact ⟨_, rfl⟩
theorem execState_form (dt : Nat) (port : Fin 4) (src : Nat) (m : Bytes) (s : State) : ∃ f, execState dt port src m s = runCmd dt s f := by
  unfold execState; exact ⟨_, rfl⟩
theorem execStandbyTakeover_form (dt : Nat) (s : State) : ∃ f, execStandbyTakeover dt s = runCmd dt s f := by
  unfold execStandbyTakeover; exact ⟨_, rfl⟩
theorem execHold_form (dt : Nat) (port : Fin 4) (src : Nat) (m : Bytes) (s : State) : ∃ f, execHold dt port src m s = runCmd dt s f := by
  unfold execHold; exact ⟨_, rfl⟩
theorem execClaim_form (dt : Nat) (data : Word) (s : State) : ∃ f, execClaim dt data s = runCmd dt s f := by
  unfold execClaim; exact ⟨_, rfl⟩
theorem execAutoClaimExpiry_form (dt : Nat) (s : State) : ∃ f, execAutoClaimExpiry dt s = runCmd dt s f := by
  unfold execAutoClaimExpiry; exact ⟨_, rfl⟩
theorem execCrossPlanEval_form (dt : Nat) (g : Fin 32) (s : State) : ∃ f, execCrossPlanEval dt g s = runCmd dt s f := by
  unfold execCrossPlanEval; exact ⟨_, rfl⟩
theorem execPlan_form (dt : Nat) (port : Fin 4) (src : Nat) (m : Bytes) (s : State) : ∃ f, execPlan dt port src m s = runCmd dt s f := by
  unfold execPlan; exact ⟨_, rfl⟩
theorem execLaunch_form (dt : Nat) (port : Fin 4) (src : Nat) (m : Bytes) (s : State) : ∃ f, execLaunch dt port src m s = runCmd dt s f := by
  unfold execLaunch; exact ⟨_, rfl⟩
theorem execLaunchMissing_form (dt : Nat) (g : Fin 32) (s : State) : ∃ f, execLaunchMissing dt g s = runCmd dt s f := by
  unfold execLaunchMissing; exact ⟨_, rfl⟩
theorem execVerdict_form (dt : Nat) (port : Fin 4) (src : Nat) (m : Bytes) (s : State) : ∃ f, execVerdict dt port src m s = runCmd dt s f := by
  unfold execVerdict; exact ⟨_, rfl⟩
theorem execOutcome_form (dt : Nat) (port : Fin 4) (src : Nat) (m : Bytes) (s : State) : ∃ f, execOutcome dt port src m s = runCmd dt s f := by
  unfold execOutcome; exact ⟨_, rfl⟩
theorem execDeclare_form (dt : Nat) (port : Fin 4) (src : Nat) (m : Bytes) (s : State) : ∃ f, execDeclare dt port src m s = runCmd dt s f := by
  unfold execDeclare; exact ⟨_, rfl⟩
theorem execRegen_form (dt : Nat) (port : Fin 4) (src : Nat) (m : Bytes) (s : State) : ∃ f, execRegen dt port src m s = runCmd dt s f := by
  unfold execRegen; exact ⟨_, rfl⟩
theorem execHoprep_form (dt : Nat) (port : Fin 4) (src : Nat) (m : Bytes) (s : State) : ∃ f, execHoprep dt port src m s = runCmd dt s f := by
  unfold execHoprep; exact ⟨_, rfl⟩
theorem execTimefault_form (dt : Nat) (port : Fin 4) (src : Nat) (m : Bytes) (s : State) : ∃ f, execTimefault dt port src m s = runCmd dt s f := by
  unfold execTimefault; exact ⟨_, rfl⟩
theorem execQueue_form (dt : Nat) (port : Fin 4) (src : Nat) (m : Bytes) (s : State) : ∃ f, execQueue dt port src m s = runCmd dt s f := by
  unfold execQueue; exact ⟨_, rfl⟩
theorem execQueueReport_form (dt : Nat) (s : State) : ∃ f, execQueueReport dt s = runCmd dt s f := by
  unfold execQueueReport; exact ⟨_, rfl⟩
theorem execRow_form (dt : Nat) (port : Fin 4) (src : Nat) (m : Bytes) (s : State) : ∃ f, execRow dt port src m s = runCmd dt s f := by
  unfold execRow; exact ⟨_, rfl⟩
theorem execAttest_form (dt : Nat) (port : Fin 4) (src : Nat) (m : Bytes) (s : State) : ∃ f, execAttest dt port src m s = runCmd dt s f := by
  unfold execAttest; exact ⟨_, rfl⟩
theorem execLedgerRecordSubmit_form (dt : Nat) (region : Fin 9) (data : Bytes) (s : State) : ∃ f, execLedgerRecordSubmit dt region data s = runCmd dt s f := by
  unfold execLedgerRecordSubmit; exact ⟨_, rfl⟩
theorem execPageGatherTimeout_form (dt : Nat) (region : Fin 9) (die : Fin 16) (s : State) : ∃ f, execPageGatherTimeout dt region die s = runCmd dt s f := by
  unfold execPageGatherTimeout; exact ⟨_, rfl⟩
theorem execPageProgramDone_form (dt : Nat) (die : Fin 16) (pass : Bool) (s : State) : ∃ f, execPageProgramDone dt die pass s = runCmd dt s f := by
  unfold execPageProgramDone; exact ⟨_, rfl⟩
theorem execBlockErase_form (dt : Nat) (block : Nat) (s : State) : ∃ f, execBlockErase dt block s = runCmd dt s f := by
  unfold execBlockErase; exact ⟨_, rfl⟩
theorem execEraseDone_form (dt : Nat) (die : Fin 16) (pass : Bool) (s : State) : ∃ f, execEraseDone dt die pass s = runCmd dt s f := by
  unfold execEraseDone; exact ⟨_, rfl⟩
theorem execLedgerScan_form (dt : Nat) (found : FlashScan) (s : State) : ∃ f, execLedgerScan dt found s = runCmd dt s f := by
  unfold execLedgerScan; exact ⟨_, rfl⟩
theorem execResetOfPart_form (dt : Nat) (cause : Fin 5) (s : State) : ∃ f, execResetOfPart dt cause s = runWard dt s f := by
  unfold execResetOfPart; exact ⟨_, rfl⟩
theorem execPorN_form (dt : Nat) (micros : Nat) (s : State) : ∃ f, execPorN dt micros s = runWard dt s f := by
  unfold execPorN; exact ⟨_, rfl⟩
theorem execSysResetN_form (dt : Nat) (micros : Nat) (s : State) : ∃ f, execSysResetN dt micros s = runWard dt s f := by
  unfold execSysResetN; exact ⟨_, rfl⟩
theorem execBootReset_form (dt : Nat) (data : Word) (s : State) : ∃ f, execBootReset dt data s = runCmd dt s f := by
  unfold execBootReset; exact ⟨_, rfl⟩
theorem execPerstN_form (dt : Nat) (portB : Bool) (s : State) : ∃ f, execPerstN dt portB s = runCmd dt s f := by
  unfold execPerstN; exact ⟨_, rfl⟩
theorem execRoleConfirm_form (dt : Nat) (linked roleN roleS : Bool) (s : State) : ∃ f, execRoleConfirm dt linked roleN roleS s = runCmd dt s f := by
  unfold execRoleConfirm; exact ⟨_, rfl⟩
theorem execSlotSelect_form (dt : Nat) (selftest : Fin 4) (s : State) : ∃ f, execSlotSelect dt selftest s = runCmd dt s f := by
  unfold execSlotSelect; exact ⟨_, rfl⟩
theorem execBenakRead_form (dt : Nat) (copy0 copy1 : Bytes) (s : State) : ∃ f, execBenakRead dt copy0 copy1 s = runCmd dt s f := by
  unfold execBenakRead; exact ⟨_, rfl⟩
theorem execAttestKeyGen_form (dt : Nat) (s : State) : ∃ f, execAttestKeyGen dt s = runCmd dt s f := by
  unfold execAttestKeyGen; exact ⟨_, rfl⟩
theorem execBeamTrain_form (dt : Nat) (channels dpc cap : Nat) (mrdimm uniform : Bool) (rate : Option (Fin 4)) (mismatch : List Nat) (s : State) : ∃ f, execBeamTrain dt channels dpc cap mrdimm uniform rate mismatch s = runCmd dt s f := by
  unfold execBeamTrain; exact ⟨_, rfl⟩
theorem execConfigLock_form (dt : Nat) (s : State) : ∃ f, execConfigLock dt s = runCmd dt s f := by
  unfold execConfigLock; exact ⟨_, rfl⟩
theorem execReadyReached_form (dt : Nat) (s : State) : ∃ f, execReadyReached dt s = runCmd dt s f := by
  unfold execReadyReached; exact ⟨_, rfl⟩
theorem execBootWatchdogExpiry_form (dt : Nat) (s : State) : ∃ f, execBootWatchdogExpiry dt s = runCmd dt s f := by
  unfold execBootWatchdogExpiry; exact ⟨_, rfl⟩
theorem execD2dLinkLoss_form (dt : Nat) (die : Fin 2) (s : State) : ∃ f, execD2dLinkLoss dt die s = runCmd dt s f := by
  unfold execD2dLinkLoss; exact ⟨_, rfl⟩
theorem execRcvErase_form (dt : Nat) (data : Word) (fail : Option (Fin 16)) (s : State) : ∃ f, execRcvErase dt data fail s = runCmd dt s f := by
  unfold execRcvErase; exact ⟨_, rfl⟩
theorem execRcvProgram_form (dt : Nat) (data : Word) (pass : Bool) (s : State) : ∃ f, execRcvProgram dt data pass s = runCmd dt s f := by
  unfold execRcvProgram; exact ⟨_, rfl⟩
theorem execRcvVerify_form (dt : Nat) (data : Word) (s : State) : ∃ f, execRcvVerify dt data s = runCmd dt s f := by
  unfold execRcvVerify; exact ⟨_, rfl⟩
theorem execProvGo_form (dt : Nat) (data : Word) (pass : Bool) (s : State) : ∃ f, execProvGo dt data pass s = runCmd dt s f := by
  unfold execProvGo; exact ⟨_, rfl⟩
theorem execDecommission_form (dt : Nat) (data : Word) (s : State) : ∃ f, execDecommission dt data s = runCmd dt s f := by
  unfold execDecommission; exact ⟨_, rfl⟩
theorem execCommitSvn_form (dt : Nat) (data : Word) (s : State) : ∃ f, execCommitSvn dt data s = runCmd dt s f := by
  unfold execCommitSvn; exact ⟨_, rfl⟩
theorem execPcrExtend_form (dt : Nat) (data : Word) (s : State) : ∃ f, execPcrExtend dt data s = runCmd dt s f := by
  unfold execPcrExtend; exact ⟨_, rfl⟩
theorem execDormantRequest_form (dt : Nat) (data : Word) (s : State) : ∃ f, execDormantRequest dt data s = runCmd dt s f := by
  unfold execDormantRequest; exact ⟨_, rfl⟩
theorem execWardWakeN_form (dt : Nat) (micros : Nat) (s : State) : ∃ f, execWardWakeN dt micros s = runWard dt s f := by
  unfold execWardWakeN; exact ⟨_, rfl⟩
theorem execWakeAfterExpiry_form (dt : Nat) (s : State) : ∃ f, execWakeAfterExpiry dt s = runWard dt s f := by
  unfold execWakeAfterExpiry; exact ⟨_, rfl⟩
theorem execPowerGoodResume_form (dt : Nat) (intact : Bool) (s : State) : ∃ f, execPowerGoodResume dt intact s = runWard dt s f := by
  unfold execPowerGoodResume; exact ⟨_, rfl⟩
theorem execWakeRailTimeout_form (dt : Nat) (s : State) : ∃ f, execWakeRailTimeout dt s = runWard dt s f := by
  unfold execWakeRailTimeout; exact ⟨_, rfl⟩
theorem execConversionResult_form (dt : Nat) (value : Int) (near : Nat) (s : State) : ∃ f, execConversionResult dt value near s = runWard dt s f := by
  unfold execConversionResult; exact ⟨_, rfl⟩
theorem execWardChCfgWrite_form (dt : Nat) (ch : Fin 16) (data : Word) (s : State) : ∃ f, execWardChCfgWrite dt ch data s = runCmd dt s f := by
  unfold execWardChCfgWrite; exact ⟨_, rfl⟩
theorem execMeshFault_form (dt : Nat) (pair : Fin 4) (s : State) : ∃ f, execMeshFault dt pair s = runWard dt s f := by
  unfold execMeshFault; exact ⟨_, rfl⟩
theorem execTamperNLow_form (dt : Nat) (n : Fin 4) (micros : Nat) (s : State) : ∃ f, execTamperNLow dt n micros s = runWard dt s f := by
  unfold execTamperNLow; exact ⟨_, rfl⟩
theorem execVoltageTamper_form (dt : Nat) (core : Bool) (nanos : Nat) (s : State) : ∃ f, execVoltageTamper dt core nanos s = runWard dt s f := by
  unfold execVoltageTamper; exact ⟨_, rfl⟩
theorem execTemperatureTamper_form (dt : Nat) (temp : Int) (s : State) : ∃ f, execTemperatureTamper dt temp s = runWard dt s f := by
  unfold execTemperatureTamper; exact ⟨_, rfl⟩
theorem execClockTamper_form (dt : Nat) (s : State) : ∃ f, execClockTamper dt s = runWard dt s f := by
  unfold execClockTamper; exact ⟨_, rfl⟩
theorem execTamperClearGo_form (dt : Nat) (data : Word) (s : State) : ∃ f, execTamperClearGo dt data s = runCmd dt s f := by
  unfold execTamperClearGo; exact ⟨_, rfl⟩
theorem execAlertClear_form (dt : Nat) (data : Word) (s : State) : ∃ f, execAlertClear dt data s = runCmd dt s f := by
  unfold execAlertClear; exact ⟨_, rfl⟩
theorem execI2cTransfer_form (dt : Nat) (bytes : Bytes) (reads : Nat) (s : State) : ∃ f, execI2cTransfer dt bytes reads s = runWard dt s f := by
  unfold execI2cTransfer; exact ⟨_, rfl⟩
theorem execI2cWake_form (dt : Nat) (value : Fin 256) (s : State) : ∃ f, execI2cWake dt value s = runWard dt s f := by
  unfold execI2cWake; exact ⟨_, rfl⟩
theorem execI2cQuoteRequest_form (dt : Nat) (value : Fin 256) (s : State) : ∃ f, execI2cQuoteRequest dt value s = runWard dt s f := by
  unfold execI2cQuoteRequest; exact ⟨_, rfl⟩
theorem execThermtrip_form (dt : Nat) (die : Fin 2) (temp : Int) (s : State) : ∃ f, execThermtrip dt die temp s = runCmd dt s f := by
  unfold execThermtrip; exact ⟨_, rfl⟩
theorem execVidStep_form (dt : Nat) (die : Fin 2) (up : Bool) (s : State) : ∃ f, execVidStep dt die up s = runCmd dt s f := by
  unfold execVidStep; exact ⟨_, rfl⟩
theorem execSysEventWrite_form (dt : Nat) (data : Word) (s : State) : ∃ f, execSysEventWrite dt data s = runCmd dt s f := by
  unfold execSysEventWrite; exact ⟨_, rfl⟩
theorem execSysEventEnWrite_form (dt : Nat) (data : Word) (s : State) : ∃ f, execSysEventEnWrite dt data s = runCmd dt s f := by
  unfold execSysEventEnWrite; exact ⟨_, rfl⟩
theorem execCoreException_form (dt : Nat) (die : Fin 2) (core : Fin 3) (slice : Fin 16) (counter : Nat) (s : State) : ∃ f, execCoreException dt die core slice counter s = runCmd dt s f := by
  unfold execCoreException; exact ⟨_, rfl⟩
theorem execLoReadLatch_form (dt : Nat) (who : Fin 9) (addr : Nat) (s : State) : ∃ f, execLoReadLatch dt who addr s = runCmd dt s f := by
  unfold execLoReadLatch; exact ⟨_, rfl⟩
theorem execRcRead_form (dt : Nat) (who : Fin 9) (addr : Nat) (s : State) : ∃ f, execRcRead dt who addr s = runCmd dt s f := by
  unfold execRcRead; exact ⟨_, rfl⟩
theorem execRegisterWrite_form (dt : Nat) (who : Fin 9) (addr : Nat) (enables : Fin 16) (data : Word) (s : State) : ∃ f, execRegisterWrite dt who addr enables data s = runCmd dt s f := by
  unfold execRegisterWrite; exact ⟨_, rfl⟩
theorem execTrainingBlock_form (dt : Nat) (shuttle : Bool) (port : Fin 32) (lane : Fin 4) (inverted : Bool) (control : Nat) (locked : Nat) (s : State) : ∃ f, execTrainingBlock dt shuttle port lane inverted control locked s = runCmd dt s f := by
  unfold execTrainingBlock; exact ⟨_, rfl⟩
theorem execPowerLoss_form (dt : Nat) (s : State) : ∃ f, execPowerLoss dt s = runWard dt s f := by
  unfold execPowerLoss; exact ⟨_, rfl⟩
theorem execEraseSuspendDone_form (dt : Nat) (die : Fin 16) (s : State) : ∃ f, execEraseSuspendDone dt die s = runCmd dt s f := by
  unfold execEraseSuspendDone; exact ⟨_, rfl⟩
theorem execEraseRunExpiry_form (dt : Nat) (die : Fin 16) (s : State) : ∃ f, execEraseRunExpiry dt die s = runCmd dt s f := by
  unfold execEraseRunExpiry; exact ⟨_, rfl⟩
theorem execTamperRecordWritten_form (dt : Nat) (s : State) : ∃ f, execTamperRecordWritten dt s = runWard dt s f := by
  unfold execTamperRecordWritten; exact ⟨_, rfl⟩
theorem execPermitTestDue_form (dt : Nat) (port : Fin 32) (pass : Bool) (s : State) : ∃ f, execPermitTestDue dt port pass s = runCmd dt s f := by
  unfold execPermitTestDue; exact ⟨_, rfl⟩
theorem execUnsettledCheck_form (dt : Nat) (port : Fin 32) (s : State) : ∃ f, execUnsettledCheck dt port s = runCmd dt s f := by
  unfold execUnsettledCheck; exact ⟨_, rfl⟩
theorem execHoprepReport_form (dt : Nat) (s : State) : ∃ f, execHoprepReport dt s = runCmd dt s f := by
  unfold execHoprepReport; exact ⟨_, rfl⟩
theorem execTapInstruction_form (dt : Nat) (inst : Fin 3) (s : State) : ∃ f, execTapInstruction dt inst s = runCmd dt s f := by
  unfold execTapInstruction; exact ⟨_, rfl⟩
theorem execTimeRefRestored_form (dt : Nat) (pps : Bool) (adj : Int) (s : State) : ∃ f, execTimeRefRestored dt pps adj s = runCmd dt s f := by
  unfold execTimeRefRestored; exact ⟨_, rfl⟩

/-- A command is run by `runCmd`, or, for those that DORMANT does not stop, by `runWard`. -/
theorem exec_form (c : Instr) (s : State) :
    (wardRow c = false ∧ ∃ dt f, exec c s = runCmd dt s f) ∨ (wardRow c = true ∧ ∃ dt f, exec c s = runWard dt s f) := by
  cases c with
  | openStream dt fn q e sgl => exact .inl ⟨rfl, dt, execOpenStream_form dt fn q e sgl s⟩
  | closeStream dt fn q e sgl => exact .inl ⟨rfl, dt, execCloseStream_form dt fn q e sgl s⟩
  | openObject dt fn q e sgl => exact .inl ⟨rfl, dt, execOpenObject_form dt fn q e sgl s⟩
  | putRecord dt fn q e sgl => exact .inl ⟨rfl, dt, execPutRecord_form dt fn q e sgl s⟩
  | closeObject dt fn q e sgl => exact .inl ⟨rfl, dt, execCloseObject_form dt fn q e sgl s⟩
  | flush dt fn q e sgl => exact .inl ⟨rfl, dt, execFlush_form dt fn q e sgl s⟩
  | abortObject dt fn q e sgl => exact .inl ⟨rfl, dt, execAbortObject_form dt fn q e sgl s⟩
  | mount dt fn q e sgl => exact .inl ⟨rfl, dt, execMount_form dt fn q e sgl s⟩
  | unmount dt fn q e sgl => exact .inl ⟨rfl, dt, execUnmount_form dt fn q e sgl s⟩
  | locate dt fn q e sgl => exact .inl ⟨rfl, dt, execLocate_form dt fn q e sgl s⟩
  | readObject dt fn q e sgl => exact .inl ⟨rfl, dt, execReadObject_form dt fn q e sgl s⟩
  | readRecord dt fn q e sgl => exact .inl ⟨rfl, dt, execReadRecord_form dt fn q e sgl s⟩
  | patrol dt fn q e sgl => exact .inl ⟨rfl, dt, execPatrol_form dt fn q e sgl s⟩
  | rebuild dt fn q e sgl => exact .inl ⟨rfl, dt, execRebuild_form dt fn q e sgl s⟩
  | reshape dt fn q e sgl => exact .inl ⟨rfl, dt, execReshape_form dt fn q e sgl s⟩
  | keyLoad dt fn q e sgl => exact .inl ⟨rfl, dt, execKeyLoad_form dt fn q e sgl s⟩
  | keyDrop dt fn q e sgl => exact .inl ⟨rfl, dt, execKeyDrop_form dt fn q e sgl s⟩
  | attestQuote dt fn q e sgl => exact .inl ⟨rfl, dt, execAttestQuote_form dt fn q e sgl s⟩
  | getEntropy dt fn q e sgl => exact .inl ⟨rfl, dt, execGetEntropy_form dt fn q e sgl s⟩
  | getLog dt fn q e sgl => exact .inl ⟨rfl, dt, execGetLog_form dt fn q e sgl s⟩
  | tuneLoop dt fn q e sgl => exact .inl ⟨rfl, dt, execTuneLoop_form dt fn q e sgl s⟩
  | injectCapture dt fn q e sgl => exact .inl ⟨rfl, dt, execInjectCapture_form dt fn q e sgl s⟩
  | beamFill dt fn q e sgl => exact .inl ⟨rfl, dt, execBeamFill_form dt fn q e sgl s⟩
  | beamRetire dt fn q e sgl => exact .inl ⟨rfl, dt, execBeamRetire_form dt fn q e sgl s⟩
  | qpEnable dt fn q data => exact .inl ⟨rfl, dt, execQpEnable_form dt fn q data s⟩
  | qpDisable dt fn q data => exact .inl ⟨rfl, dt, execQpDisable_form dt fn q data s⟩
  | qpSqTailDb dt fn q index => exact .inl ⟨rfl, dt, execQpSqTailDb_form dt fn q index s⟩
  | qpCqHeadDb dt fn q index => exact .inl ⟨rfl, dt, execQpCqHeadDb_form dt fn q index s⟩
  | dmaErrClear dt fn q => exact .inl ⟨rfl, dt, execDmaErrClear_form dt fn q s⟩
  | functionLevelReset dt fn => exact .inl ⟨rfl, dt, execFunctionLevelReset_form dt fn s⟩
  | sqEntryFetch dt fn q raw sgl => exact .inl ⟨rfl, dt, execSqEntryFetch_form dt fn q raw sgl s⟩
  | sqReadFailed dt fn q => exact .inl ⟨rfl, dt, execSqReadFailed_form dt fn q s⟩
  | cqWriteFailed dt fn q => exact .inl ⟨rfl, dt, execCqWriteFailed_form dt fn q s⟩
  | dispatchSlot dt => exact .inl ⟨rfl, dt, execDispatchSlot_form dt s⟩
  | objHoldExpiry dt fn q => exact .inl ⟨rfl, dt, execObjHoldExpiry_form dt fn q s⟩
  | beamHoldExpiry dt fn q => exact .inl ⟨rfl, dt, execBeamHoldExpiry_form dt fn q s⟩
  | heldCommandAccept dt fn q => exact .inl ⟨rfl, dt, execHeldCommandAccept_form dt fn q s⟩
  | completionPost dt fn q => exact .inl ⟨rfl, dt, execCompletionPost_form dt fn q s⟩
  | aggTimeExpiry dt fn q => exact .inl ⟨rfl, dt, execAggTimeExpiry_form dt fn q s⟩
  | forceTokenGrid dt tenant => exact .inl ⟨rfl, dt, execForceTokenGrid_form dt tenant s⟩
  | hqiTenantForceWrite dt tenant data => exact .inl ⟨rfl, dt, execHqiTenantForceWrite_form dt tenant data s⟩
  | hqiFnMapWrite dt fn data => exact .inl ⟨rfl, dt, execHqiFnMapWrite_form dt fn data s⟩
  | dmaReadRequest dt cmd len => exact .inl ⟨rfl, dt, execDmaReadRequest_form dt cmd len s⟩
  | dmaReadCompletion dt cmd data => exact .inl ⟨rfl, dt, execDmaReadCompletion_form dt cmd data s⟩
  | dmaReadFailed dt cmd => exact .inl ⟨rfl, dt, execDmaReadFailed_form dt cmd s⟩
  | bobbinGrant dt die => exact .inl ⟨rfl, dt, execBobbinGrant_form dt die s⟩
  | bobbinWideRead dt die bobbin flipData flipSide => exact .inl ⟨rfl, dt, execBobbinWideRead_form dt die bobbin flipData flipSide s⟩
  | dropRest dt die bobbin => exact .inl ⟨rfl, dt, execDropRest_form dt die bobbin s⟩
  | creditedWrite dt die bobbin data => exact .inl ⟨rfl, dt, execCreditedWrite_form dt die bobbin data s⟩
  | compressionJobStart dt die => exact .inl ⟨rfl, dt, execCompressionJobStart_form dt die s⟩
  | blockEmit dt engine bad1 bad2 => exact .inl ⟨rfl, dt, execBlockEmit_form dt engine bad1 bad2 s⟩
  | decompressionJob dt die cmd bad1 bad2 => exact .inl ⟨rfl, dt, execDecompressionJob_form dt die cmd bad1 bad2 s⟩
  | cardEngEnableWrite dt die data => exact .inl ⟨rfl, dt, execCardEngEnableWrite_form dt die data s⟩
  | sealJob dt pipe start => exact .inl ⟨rfl, dt, execSealJob_form dt pipe start s⟩
  | openJob dt pipe start upset => exact .inl ⟨rfl, dt, execOpenJob_form dt pipe start upset s⟩
  | unwrapJob dt pipe start blob => exact .inl ⟨rfl, dt, execUnwrapJob_form dt pipe start blob s⟩
  | nonceReservation dt => exact .inl ⟨rfl, dt, execNonceReservation_form dt s⟩
  | keySlotZeroize dt slot => exact .inl ⟨rfl, dt, execKeySlotZeroize_form dt slot s⟩
  | keyErasure dt die duration => exact .inl ⟨rfl, dt, execKeyErasure_form dt die duration s⟩
  | drbgSeed noise => exact .inl ⟨rfl, noise.dt, execDrbgSeed_form noise s⟩
  | drbgReseed noise => exact .inl ⟨rfl, noise.dt, execDrbgReseed_form noise s⟩
  | healthTestFailure noise startup => exact .inl ⟨rfl, noise.dt, execHealthTestFailure_form noise startup s⟩
  | rowFetch dt port seq => exact .inl ⟨rfl, dt, execRowFetch_form dt port seq s⟩
  | slotWrite dt port fail mask => exact .inl ⟨rfl, dt, execSlotWrite_form dt port fail mask s⟩
  | weftAbortReceive dt => exact .inl ⟨rfl, dt, execWeftAbortReceive_form dt s⟩
  | regenRequest dt port seg track slot => exact .inl ⟨rfl, dt, execRegenRequest_form dt port seg track slot s⟩
  | speedMatchEval dt g => exact .inl ⟨rfl, dt, execSpeedMatchEval_form dt g s⟩
  | weftDecisionPoint dt g => exact .inl ⟨rfl, dt, execWeftDecisionPoint_form dt g s⟩
  | catAgeExpiry dt port => exact .inl ⟨rfl, dt, execCatAgeExpiry_form dt port s⟩
  | memberHeldReport dt g mi => exact .inl ⟨rfl, dt, execMemberHeldReport_form dt g mi s⟩
  | groupRestart dt g => exact .inl ⟨rfl, dt, execGroupRestart_form dt g s⟩
  | holdWaitTimeout dt g => exact .inl ⟨rfl, dt, execHoldWaitTimeout_form dt g s⟩
  | intentDeadline dt g => exact .inl ⟨rfl, dt, execIntentDeadline_form dt g s⟩
  | verdictArrival dt => exact .inl ⟨rfl, dt, execVerdictArrival_form dt s⟩
  | verifyDue dt g => exact .inl ⟨rfl, dt, execVerifyDue_form dt g s⟩
  | graceExpiry dt g => exact .inl ⟨rfl, dt, execGraceExpiry_form dt g s⟩
  | declareFailed dt g mi data => exact .inl ⟨rfl, dt, execDeclareFailed_form dt g mi data s⟩
  | rejoin dt g mi data => exact .inl ⟨rfl, dt, execRejoin_form dt g mi data s⟩
  | datasetRelease dt g => exact .inl ⟨rfl, dt, execDatasetRelease_form dt g s⟩
  | hdlEnable dt port data => exact .inl ⟨rfl, dt, execHdlEnable_form dt port data s⟩
  | hdlTrainingTimeout dt port => exact .inl ⟨rfl, dt, execHdlTrainingTimeout_form dt port s⟩
  | hdlRetrain dt port => exact .inl ⟨rfl, dt, execHdlRetrain_form dt port s⟩
  | codewordReceive dt shuttle port lane header cells check => exact .inl ⟨rfl, dt, execCodewordReceive_form dt shuttle port lane header cells check s⟩
  | laneLockLoss dt shuttle port upstream lane => exact .inl ⟨rfl, dt, execLaneLockLoss_form dt shuttle port upstream lane s⟩
  | statusTimeout dt port => exact .inl ⟨rfl, dt, execStatusTimeout_form dt port s⟩
  | markerSend dt port seq => exact .inl ⟨rfl, dt, execMarkerSend_form dt port seq s⟩
  | timeExchange dt port cell t4 => exact .inl ⟨rfl, dt, execTimeExchange_form dt port cell t4 s⟩
  | sampleCell dt port lane lost cell => exact .inl ⟨rfl, dt, execSampleCell_form dt port lane lost cell s⟩
  | schedulingPoint dt port moduleB role half place => exact .inl ⟨rfl, dt, execSchedulingPoint_form dt port moduleB role half place s⟩
  | servoCell dt port reader lost cell => exact .inl ⟨rfl, dt, execServoCell_form dt port reader lost cell s⟩
  | senseCell dt port cell => exact .inl ⟨rfl, dt, execSenseCell_form dt port cell s⟩
  | transducerEvaluation dt port => exact .inl ⟨rfl, dt, execTransducerEvaluation_form dt port s⟩
  | edgeKeepalive dt port => exact .inl ⟨rfl, dt, execEdgeKeepalive_form dt port s⟩
  | ident dt port seq payload => exact .inl ⟨rfl, dt, execIdent_form dt port seq payload s⟩
  | status dt port seq payload => exact .inl ⟨rfl, dt, execStatus_form dt port seq payload s⟩
  | event dt port seq payload => exact .inl ⟨rfl, dt, execEvent_form dt port seq payload s⟩
  | ack dt port seq payload => exact .inl ⟨rfl, dt, execAck_form dt port seq payload s⟩
  | msgResend dt port => exact .inl ⟨rfl, dt, execMsgResend_form dt port s⟩
  | decodePassEnd dt port moduleB role place again => exact .inl ⟨rfl, dt, execDecodePassEnd_form dt port moduleB role place again s⟩
  | noSyncReport dt port missed => exact .inl ⟨rfl, dt, execNoSyncReport_form dt port missed s⟩
  | lookBufferGrant dt die => exact .inl ⟨rfl, dt, execLookBufferGrant_form dt die s⟩
  | leadOnlyReport dt port track missed => exact .inl ⟨rfl, dt, execLeadOnlyReport_form dt port track missed s⟩
  | deadClearA dt port data => exact .inl ⟨rfl, dt, execDeadClearA_form dt port data s⟩
  | deadClearB dt port data => exact .inl ⟨rfl, dt, execDeadClearB_form dt port data s⟩
  | cleBTick dt port => exact .inl ⟨rfl, dt, execCleBTick_form dt port s⟩
  | cleATick dt port => exact .inl ⟨rfl, dt, execCleATick_form dt port s⟩
  | cleAIdleTick dt port => exact .inl ⟨rfl, dt, execCleAIdleTick_form dt port s⟩
  | servoFrameMissing dt port => exact .inl ⟨rfl, dt, execServoFrameMissing_form dt port s⟩
  | offloadStep dt port => exact .inl ⟨rfl, dt, execOffloadStep_form dt port s⟩
  | tickOverrun dt port cleB => exact .inl ⟨rfl, dt, execTickOverrun_form dt port cleB s⟩
  | injectionEnd dt port => exact .inl ⟨rfl, dt, execInjectionEnd_form dt port s⟩
  | captureFull dt port => exact .inl ⟨rfl, dt, execCaptureFull_form dt port s⟩
  | rcClear dt port rc data => exact .inl ⟨rfl, dt, execRcClear_form dt port rc data s⟩
  | carrierPeriodCompile dt port lockstep check => exact .inl ⟨rfl, dt, execCarrierPeriodCompile_form dt port lockstep check s⟩
  | edgeCarrierWrite dt port data => exact .inl ⟨rfl, dt, execEdgeCarrierWrite_form dt port data s⟩
  | edgeTimingWrite dt port data => exact .inl ⟨rfl, dt, execEdgeTimingWrite_form dt port data s⟩
  | edgeMapWrite dt port data => exact .inl ⟨rfl, dt, execEdgeMapWrite_form dt port data s⟩
  | edgeTestWrite dt port data => exact .inl ⟨rfl, dt, execEdgeTestWrite_form dt port data s⟩
  | grantRequest dt port pass => exact .inl ⟨rfl, dt, execGrantRequest_form dt port pass s⟩
  | grantReturn dt port => exact .inl ⟨rfl, dt, execGrantReturn_form dt port s⟩
  | channelCompare dt die differ fault => exact .inl ⟨rfl, dt, execChannelCompare_form dt die differ fault s⟩
  | cleHeartbeat dt port cleB own crcOk => exact .inl ⟨rfl, dt, execCleHeartbeat_form dt port cleB own crcOk s⟩
  | heartbeatDeadline dt port cleB => exact .inl ⟨rfl, dt, execHeartbeatDeadline_form dt port cleB s⟩
  | overspeedWindow dt port => exact .inl ⟨rfl, dt, execOverspeedWindow_form dt port s⟩
  | safePortClear dt port data => exact .inl ⟨rfl, dt, execSafePortClear_form dt port data s⟩
  | faultNExternal dt low => exact .inl ⟨rfl, dt, execFaultNExternal_form dt low s⟩
  | beamRead dt line errs cmd => exact .inl ⟨rfl, dt, execBeamRead_form dt line errs cmd s⟩
  | beamPartialWrite dt line mask bytes errs => exact .inl ⟨rfl, dt, execBeamPartialWrite_form dt line mask bytes errs s⟩
  | mergeEntryTimeout dt ch errs => exact .inl ⟨rfl, dt, execMergeEntryTimeout_form dt ch errs s⟩
  | scrubLine dt errs => exact .inl ⟨rfl, dt, execScrubLine_form dt errs s⟩
  | bucketLeak dt ch => exact .inl ⟨rfl, dt, execBucketLeak_form dt ch s⟩
  | fillStepDone dt => exact .inl ⟨rfl, dt, execFillStepDone_form dt s⟩
  | writeRaw dt die => exact .inl ⟨rfl, dt, execWriteRaw_form dt die s⟩
  | writeGen dt die => exact .inl ⟨rfl, dt, execWriteGen_form dt die s⟩
  | readRaw dt die errs => exact .inl ⟨rfl, dt, execReadRaw_form dt die errs s⟩
  | hashKeyDraw dt => exact .inl ⟨rfl, dt, execHashKeyDraw_form dt s⟩
  | shutEnable dt port data => exact .inl ⟨rfl, dt, execShutEnable_form dt port data s⟩
  | shutRetrain dt port data => exact .inl ⟨rfl, dt, execShutRetrain_form dt port data s⟩
  | shutTimeTimeout dt port => exact .inl ⟨rfl, dt, execShutTimeTimeout_form dt port s⟩
  | shutRetryTimer dt port => exact .inl ⟨rfl, dt, execShutRetryTimer_form dt port s⟩
  | packetReceive dt port lane cell head body => exact .inl ⟨rfl, dt, execPacketReceive_form dt port lane cell head body s⟩
  | credit dt port lane cells => exact .inl ⟨rfl, dt, execCredit_form dt port lane cells s⟩
  | heartbeatSend dt => exact .inl ⟨rfl, dt, execHeartbeatSend_form dt s⟩
  | heartbeat dt port src m => exact .inl ⟨rfl, dt, execHeartbeat_form dt port src m s⟩
  | heartbeatMiss dt => exact .inl ⟨rfl, dt, execHeartbeatMiss_form dt s⟩
  | parentTimeExchange dt t1 t2 t3 t4 => exact .inl ⟨rfl, dt, execParentTimeExchange_form dt t1 t2 t3 t4 s⟩
  | holdover dt => exact .inl ⟨rfl, dt, execHoldover_form dt s⟩
  | ppsEdge dt => exact .inl ⟨rfl, dt, execPpsEdge_form dt s⟩
  | timeRefLost dt pps => exact .inl ⟨rfl, dt, execTimeRefLost_form dt pps s⟩
  | dieAlignCheck dt err => exact .inl ⟨rfl, dt, execDieAlignCheck_form dt err s⟩
  | managerElection dt => exact .inl ⟨rfl, dt, execManagerElection_form dt s⟩
  | state dt port src m => exact .inl ⟨rfl, dt, execState_form dt port src m s⟩
  | standbyTakeover dt => exact .inl ⟨rfl, dt, execStandbyTakeover_form dt s⟩
  | hold dt port src m => exact .inl ⟨rfl, dt, execHold_form dt port src m s⟩
  | claim dt data => exact .inl ⟨rfl, dt, execClaim_form dt data s⟩
  | autoClaimExpiry dt => exact .inl ⟨rfl, dt, execAutoClaimExpiry_form dt s⟩
  | crossPlanEval dt g => exact .inl ⟨rfl, dt, execCrossPlanEval_form dt g s⟩
  | plan dt port src m => exact .inl ⟨rfl, dt, execPlan_form dt port src m s⟩
  | launch dt port src m => exact .inl ⟨rfl, dt, execLaunch_form dt port src m s⟩
  | launchMissing dt g => exact .inl ⟨rfl, dt, execLaunchMissing_form dt g s⟩
  | verdict dt port src m => exact .inl ⟨rfl, dt, execVerdict_form dt port src m s⟩
  | outcome dt port src m => exact .inl ⟨rfl, dt, execOutcome_form dt port src m s⟩
  | declare dt port src m => exact .inl ⟨rfl, dt, execDeclare_form dt port src m s⟩
  | regen dt port src m => exact .inl ⟨rfl, dt, execRegen_form dt port src m s⟩
  | hoprep dt port src m => exact .inl ⟨rfl, dt, execHoprep_form dt port src m s⟩
  | timefault dt port src m => exact .inl ⟨rfl, dt, execTimefault_form dt port src m s⟩
  | queue dt port src m => exact .inl ⟨rfl, dt, execQueue_form dt port src m s⟩
  | queueReport dt => exact .inl ⟨rfl, dt, execQueueReport_form dt s⟩
  | row dt port src m => exact .inl ⟨rfl, dt, execRow_form dt port src m s⟩
  | attest dt port src m => exact .inl ⟨rfl, dt, execAttest_form dt port src m s⟩
  | ledgerRecordSubmit dt region data => exact .inl ⟨rfl, dt, execLedgerRecordSubmit_form dt region data s⟩
  | pageGatherTimeout dt region die => exact .inl ⟨rfl, dt, execPageGatherTimeout_form dt region die s⟩
  | pageProgramDone dt die pass => exact .inl ⟨rfl, dt, execPageProgramDone_form dt die pass s⟩
  | blockErase dt block => exact .inl ⟨rfl, dt, execBlockErase_form dt block s⟩
  | eraseDone dt die pass => exact .inl ⟨rfl, dt, execEraseDone_form dt die pass s⟩
  | ledgerScan dt found => exact .inl ⟨rfl, dt, execLedgerScan_form dt found s⟩
  | resetOfPart dt cause => exact .inr ⟨rfl, dt, execResetOfPart_form dt cause s⟩
  | porN dt micros => exact .inr ⟨rfl, dt, execPorN_form dt micros s⟩
  | sysResetN dt micros => exact .inr ⟨rfl, dt, execSysResetN_form dt micros s⟩
  | bootReset dt data => exact .inl ⟨rfl, dt, execBootReset_form dt data s⟩
  | perstN dt portB => exact .inl ⟨rfl, dt, execPerstN_form dt portB s⟩
  | roleConfirm dt linked roleN roleS => exact .inl ⟨rfl, dt, execRoleConfirm_form dt linked roleN roleS s⟩
  | slotSelect dt selftest => exact .inl ⟨rfl, dt, execSlotSelect_form dt selftest s⟩
  | benakRead dt copy0 copy1 => exact .inl ⟨rfl, dt, execBenakRead_form dt copy0 copy1 s⟩
  | attestKeyGen dt => exact .inl ⟨rfl, dt, execAttestKeyGen_form dt s⟩
  | beamTrain dt channels dpc cap mrdimm uniform rate mismatch => exact .inl ⟨rfl, dt, execBeamTrain_form dt channels dpc cap mrdimm uniform rate mismatch s⟩
  | configLock dt => exact .inl ⟨rfl, dt, execConfigLock_form dt s⟩
  | readyReached dt => exact .inl ⟨rfl, dt, execReadyReached_form dt s⟩
  | bootWatchdogExpiry dt => exact .inl ⟨rfl, dt, execBootWatchdogExpiry_form dt s⟩
  | d2dLinkLoss dt die => exact .inl ⟨rfl, dt, execD2dLinkLoss_form dt die s⟩
  | rcvErase dt data fail => exact .inl ⟨rfl, dt, execRcvErase_form dt data fail s⟩
  | rcvProgram dt data pass => exact .inl ⟨rfl, dt, execRcvProgram_form dt data pass s⟩
  | rcvVerify dt data => exact .inl ⟨rfl, dt, execRcvVerify_form dt data s⟩
  | provGo dt data pass => exact .inl ⟨rfl, dt, execProvGo_form dt data pass s⟩
  | decommission dt data => exact .inl ⟨rfl, dt, execDecommission_form dt data s⟩
  | commitSvn dt data => exact .inl ⟨rfl, dt, execCommitSvn_form dt data s⟩
  | pcrExtend dt data => exact .inl ⟨rfl, dt, execPcrExtend_form dt data s⟩
  | dormantRequest dt data => exact .inl ⟨rfl, dt, execDormantRequest_form dt data s⟩
  | wardWakeN dt micros => exact .inr ⟨rfl, dt, execWardWakeN_form dt micros s⟩
  | wakeAfterExpiry dt => exact .inr ⟨rfl, dt, execWakeAfterExpiry_form dt s⟩
  | powerGoodResume dt intact => exact .inr ⟨rfl, dt, execPowerGoodResume_form dt intact s⟩
  | wakeRailTimeout dt => exact .inr ⟨rfl, dt, execWakeRailTimeout_form dt s⟩
  | conversionResult dt value near => exact .inr ⟨rfl, dt, execConversionResult_form dt value near s⟩
  | wardChCfgWrite dt ch data => exact .inl ⟨rfl, dt, execWardChCfgWrite_form dt ch data s⟩
  | meshFault dt pair => exact .inr ⟨rfl, dt, execMeshFault_form dt pair s⟩
  | tamperNLow dt n micros => exact .inr ⟨rfl, dt, execTamperNLow_form dt n micros s⟩
  | voltageTamper dt core nanos => exact .inr ⟨rfl, dt, execVoltageTamper_form dt core nanos s⟩
  | temperatureTamper dt temp => exact .inr ⟨rfl, dt, execTemperatureTamper_form dt temp s⟩
  | clockTamper dt => exact .inr ⟨rfl, dt, execClockTamper_form dt s⟩
  | tamperClearGo dt data => exact .inl ⟨rfl, dt, execTamperClearGo_form dt data s⟩
  | alertClear dt data => exact .inl ⟨rfl, dt, execAlertClear_form dt data s⟩
  | i2cTransfer dt bytes reads => exact .inr ⟨rfl, dt, execI2cTransfer_form dt bytes reads s⟩
  | i2cWake dt value => exact .inr ⟨rfl, dt, execI2cWake_form dt value s⟩
  | i2cQuoteRequest dt value => exact .inr ⟨rfl, dt, execI2cQuoteRequest_form dt value s⟩
  | thermtrip dt die temp => exact .inl ⟨rfl, dt, execThermtrip_form dt die temp s⟩
  | vidStep dt die up => exact .inl ⟨rfl, dt, execVidStep_form dt die up s⟩
  | sysEventWrite dt data => exact .inl ⟨rfl, dt, execSysEventWrite_form dt data s⟩
  | sysEventEnWrite dt data => exact .inl ⟨rfl, dt, execSysEventEnWrite_form dt data s⟩
  | coreException dt die core slice counter => exact .inl ⟨rfl, dt, execCoreException_form dt die core slice counter s⟩
  | loReadLatch dt who addr => exact .inl ⟨rfl, dt, execLoReadLatch_form dt who addr s⟩
  | rcRead dt who addr => exact .inl ⟨rfl, dt, execRcRead_form dt who addr s⟩
  | registerWrite dt who addr enables data => exact .inl ⟨rfl, dt, execRegisterWrite_form dt who addr enables data s⟩
  | trainingBlock dt shuttle port lane inverted control locked => exact .inl ⟨rfl, dt, execTrainingBlock_form dt shuttle port lane inverted control locked s⟩
  | powerLoss dt => exact .inr ⟨rfl, dt, execPowerLoss_form dt s⟩
  | eraseSuspendDone dt die => exact .inl ⟨rfl, dt, execEraseSuspendDone_form dt die s⟩
  | eraseRunExpiry dt die => exact .inl ⟨rfl, dt, execEraseRunExpiry_form dt die s⟩
  | tamperRecordWritten dt => exact .inr ⟨rfl, dt, execTamperRecordWritten_form dt s⟩
  | permitTestDue dt port pass => exact .inl ⟨rfl, dt, execPermitTestDue_form dt port pass s⟩
  | unsettledCheck dt port => exact .inl ⟨rfl, dt, execUnsettledCheck_form dt port s⟩
  | hoprepReport dt => exact .inl ⟨rfl, dt, execHoprepReport_form dt s⟩
  | tapInstruction dt inst => exact .inl ⟨rfl, dt, execTapInstruction_form dt inst s⟩
  | timeRefRestored dt pps adj => exact .inl ⟨rfl, dt, execTimeRefRestored_form dt pps adj s⟩

end Sys2Proof.Machine
end

