-- ==== Sys2Proof/Laws/State.lean ====
section
/-!
SUPPORT. Sys2Proof/Laws/State.lean: each update of the state changes one part of it: one lemma for every other part. An instance that
is changed reads as changed, and every other instance reads as before.
-/

namespace Sys2Proof.Machine

/-! ### updQp -/

@[simp] theorem Block.updQp_regs (b : Block) (k : Nat) (f : Qp → Qp) : (b.updQp k f).regs = b.regs := rfl
@[simp] theorem Block.updQp_logs (b : Block) (k : Nat) (f : Qp → Qp) : (b.updQp k f).logs = b.logs := rfl
@[simp] theorem Block.updQp_out (b : Block) (k : Nat) (f : Qp → Qp) : (b.updQp k f).out = b.out := rfl
@[simp] theorem Block.updQp_time (b : Block) (k : Nat) (f : Qp → Qp) : (b.updQp k f).time = b.time := rfl
@[simp] theorem Block.updQp_ing (b : Block) (k : Nat) (f : Qp → Qp) : (b.updQp k f).ing = b.ing := rfl
@[simp] theorem Block.updQp_card (b : Block) (k : Nat) (f : Qp → Qp) : (b.updQp k f).card = b.card := rfl
@[simp] theorem Block.updQp_ciph (b : Block) (k : Nat) (f : Qp → Qp) : (b.updQp k f).ciph = b.ciph := rfl
@[simp] theorem Block.updQp_ds (b : Block) (k : Nat) (f : Qp → Qp) : (b.updQp k f).ds = b.ds := rfl
@[simp] theorem Block.updQp_beam (b : Block) (k : Nat) (f : Qp → Qp) : (b.updQp k f).beam = b.beam := rfl
@[simp] theorem Block.updQp_weave (b : Block) (k : Nat) (f : Qp → Qp) : (b.updQp k f).weave = b.weave := rfl
@[simp] theorem Block.updQp_ledg (b : Block) (k : Nat) (f : Qp → Qp) : (b.updQp k f).ledg = b.ledg := rfl
@[simp] theorem Block.updQp_fuse (b : Block) (k : Nat) (f : Qp → Qp) : (b.updQp k f).fuse = b.fuse := rfl
@[simp] theorem Block.updQp_cons (b : Block) (k : Nat) (f : Qp → Qp) : (b.updQp k f).cons = b.cons := rfl
@[simp] theorem Block.updQp_heads (b : Block) (k : Nat) (f : Qp → Qp) : (b.updQp k f).heads = b.heads := rfl
@[simp] theorem Block.updQp_hdl (b : Block) (k : Nat) (f : Qp → Qp) : (b.updQp k f).hdl = b.hdl := rfl
@[simp] theorem Block.updQp_sl (b : Block) (k : Nat) (f : Qp → Qp) : (b.updQp k f).sl = b.sl := rfl
@[simp] theorem Block.updQp_fab (b : Block) (k : Nat) (f : Qp → Qp) : (b.updQp k f).fab = b.fab := rfl
@[simp] theorem Block.updQp_boot (b : Block) (k : Nat) (f : Qp → Qp) : (b.updQp k f).boot = b.boot := rfl
@[simp] theorem Block.updQp_ward (b : Block) (k : Nat) (f : Qp → Qp) : (b.updQp k f).ward = b.ward := rfl
@[simp] theorem Block.updQp_lands (b : Block) (k : Nat) (f : Qp → Qp) : (b.updQp k f).lands = b.lands := rfl
@[simp] theorem Block.updQp_same (b : Block) (k : Nat) (f : Qp → Qp) : (b.updQp k f).qp k = f (b.qp k) := tabGet_tabUpd_same _ _ _ _
theorem Block.updQp_other (b : Block) {k l : Nat} (f : Qp → Qp) (h : l ≠ k) : (b.updQp k f).qp l = b.qp l := tabGet_tabUpd_other _ _ _ h

/-! ### updCmd -/

@[simp] theorem Block.updCmd_regs (b : Block) (k : Nat) (f : Cmd → Cmd) : (b.updCmd k f).regs = b.regs := rfl
@[simp] theorem Block.updCmd_logs (b : Block) (k : Nat) (f : Cmd → Cmd) : (b.updCmd k f).logs = b.logs := rfl
@[simp] theorem Block.updCmd_out (b : Block) (k : Nat) (f : Cmd → Cmd) : (b.updCmd k f).out = b.out := rfl
@[simp] theorem Block.updCmd_time (b : Block) (k : Nat) (f : Cmd → Cmd) : (b.updCmd k f).time = b.time := rfl
@[simp] theorem Block.updCmd_ing (b : Block) (k : Nat) (f : Cmd → Cmd) : (b.updCmd k f).ing = b.ing := rfl
@[simp] theorem Block.updCmd_card (b : Block) (k : Nat) (f : Cmd → Cmd) : (b.updCmd k f).card = b.card := rfl
@[simp] theorem Block.updCmd_ciph (b : Block) (k : Nat) (f : Cmd → Cmd) : (b.updCmd k f).ciph = b.ciph := rfl
@[simp] theorem Block.updCmd_ds (b : Block) (k : Nat) (f : Cmd → Cmd) : (b.updCmd k f).ds = b.ds := rfl
@[simp] theorem Block.updCmd_beam (b : Block) (k : Nat) (f : Cmd → Cmd) : (b.updCmd k f).beam = b.beam := rfl
@[simp] theorem Block.updCmd_weave (b : Block) (k : Nat) (f : Cmd → Cmd) : (b.updCmd k f).weave = b.weave := rfl
@[simp] theorem Block.updCmd_ledg (b : Block) (k : Nat) (f : Cmd → Cmd) : (b.updCmd k f).ledg = b.ledg := rfl
@[simp] theorem Block.updCmd_fuse (b : Block) (k : Nat) (f : Cmd → Cmd) : (b.updCmd k f).fuse = b.fuse := rfl
@[simp] theorem Block.updCmd_cons (b : Block) (k : Nat) (f : Cmd → Cmd) : (b.updCmd k f).cons = b.cons := rfl
@[simp] theorem Block.updCmd_heads (b : Block) (k : Nat) (f : Cmd → Cmd) : (b.updCmd k f).heads = b.heads := rfl
@[simp] theorem Block.updCmd_hdl (b : Block) (k : Nat) (f : Cmd → Cmd) : (b.updCmd k f).hdl = b.hdl := rfl
@[simp] theorem Block.updCmd_sl (b : Block) (k : Nat) (f : Cmd → Cmd) : (b.updCmd k f).sl = b.sl := rfl
@[simp] theorem Block.updCmd_fab (b : Block) (k : Nat) (f : Cmd → Cmd) : (b.updCmd k f).fab = b.fab := rfl
@[simp] theorem Block.updCmd_boot (b : Block) (k : Nat) (f : Cmd → Cmd) : (b.updCmd k f).boot = b.boot := rfl
@[simp] theorem Block.updCmd_ward (b : Block) (k : Nat) (f : Cmd → Cmd) : (b.updCmd k f).ward = b.ward := rfl
@[simp] theorem Block.updCmd_lands (b : Block) (k : Nat) (f : Cmd → Cmd) : (b.updCmd k f).lands = b.lands := rfl
@[simp] theorem Block.updCmd_same (b : Block) (k : Nat) (f : Cmd → Cmd) : (b.updCmd k f).cmd k = f (b.cmd k) := tabGet_tabUpd_same _ _ _ _
theorem Block.updCmd_other (b : Block) {k l : Nat} (f : Cmd → Cmd) (h : l ≠ k) : (b.updCmd k f).cmd l = b.cmd l := tabGet_tabUpd_other _ _ _ h

/-! ### updTenant -/

@[simp] theorem Block.updTenant_regs (b : Block) (k : Nat) (f : Tenant → Tenant) : (b.updTenant k f).regs = b.regs := rfl
@[simp] theorem Block.updTenant_logs (b : Block) (k : Nat) (f : Tenant → Tenant) : (b.updTenant k f).logs = b.logs := rfl
@[simp] theorem Block.updTenant_out (b : Block) (k : Nat) (f : Tenant → Tenant) : (b.updTenant k f).out = b.out := rfl
@[simp] theorem Block.updTenant_time (b : Block) (k : Nat) (f : Tenant → Tenant) : (b.updTenant k f).time = b.time := rfl
@[simp] theorem Block.updTenant_ing (b : Block) (k : Nat) (f : Tenant → Tenant) : (b.updTenant k f).ing = b.ing := rfl
@[simp] theorem Block.updTenant_card (b : Block) (k : Nat) (f : Tenant → Tenant) : (b.updTenant k f).card = b.card := rfl
@[simp] theorem Block.updTenant_ciph (b : Block) (k : Nat) (f : Tenant → Tenant) : (b.updTenant k f).ciph = b.ciph := rfl
@[simp] theorem Block.updTenant_ds (b : Block) (k : Nat) (f : Tenant → Tenant) : (b.updTenant k f).ds = b.ds := rfl
@[simp] theorem Block.updTenant_beam (b : Block) (k : Nat) (f : Tenant → Tenant) : (b.updTenant k f).beam = b.beam := rfl
@[simp] theorem Block.updTenant_weave (b : Block) (k : Nat) (f : Tenant → Tenant) : (b.updTenant k f).weave = b.weave := rfl
@[simp] theorem Block.updTenant_ledg (b : Block) (k : Nat) (f : Tenant → Tenant) : (b.updTenant k f).ledg = b.ledg := rfl
@[simp] theorem Block.updTenant_fuse (b : Block) (k : Nat) (f : Tenant → Tenant) : (b.updTenant k f).fuse = b.fuse := rfl
@[simp] theorem Block.updTenant_cons (b : Block) (k : Nat) (f : Tenant → Tenant) : (b.updTenant k f).cons = b.cons := rfl
@[simp] theorem Block.updTenant_heads (b : Block) (k : Nat) (f : Tenant → Tenant) : (b.updTenant k f).heads = b.heads := rfl
@[simp] theorem Block.updTenant_hdl (b : Block) (k : Nat) (f : Tenant → Tenant) : (b.updTenant k f).hdl = b.hdl := rfl
@[simp] theorem Block.updTenant_sl (b : Block) (k : Nat) (f : Tenant → Tenant) : (b.updTenant k f).sl = b.sl := rfl
@[simp] theorem Block.updTenant_fab (b : Block) (k : Nat) (f : Tenant → Tenant) : (b.updTenant k f).fab = b.fab := rfl
@[simp] theorem Block.updTenant_boot (b : Block) (k : Nat) (f : Tenant → Tenant) : (b.updTenant k f).boot = b.boot := rfl
@[simp] theorem Block.updTenant_ward (b : Block) (k : Nat) (f : Tenant → Tenant) : (b.updTenant k f).ward = b.ward := rfl
@[simp] theorem Block.updTenant_lands (b : Block) (k : Nat) (f : Tenant → Tenant) : (b.updTenant k f).lands = b.lands := rfl
@[simp] theorem Block.updTenant_same (b : Block) (k : Nat) (f : Tenant → Tenant) : (b.updTenant k f).tenant k = f (b.tenant k) := tabGet_tabUpd_same _ _ _ _
theorem Block.updTenant_other (b : Block) {k l : Nat} (f : Tenant → Tenant) (h : l ≠ k) : (b.updTenant k f).tenant l = b.tenant l := tabGet_tabUpd_other _ _ _ h

/-! ### updStream -/

@[simp] theorem Block.updStream_regs (b : Block) (k : Nat) (f : Stream → Stream) : (b.updStream k f).regs = b.regs := rfl
@[simp] theorem Block.updStream_logs (b : Block) (k : Nat) (f : Stream → Stream) : (b.updStream k f).logs = b.logs := rfl
@[simp] theorem Block.updStream_out (b : Block) (k : Nat) (f : Stream → Stream) : (b.updStream k f).out = b.out := rfl
@[simp] theorem Block.updStream_time (b : Block) (k : Nat) (f : Stream → Stream) : (b.updStream k f).time = b.time := rfl
@[simp] theorem Block.updStream_hq (b : Block) (k : Nat) (f : Stream → Stream) : (b.updStream k f).hq = b.hq := rfl
@[simp] theorem Block.updStream_card (b : Block) (k : Nat) (f : Stream → Stream) : (b.updStream k f).card = b.card := rfl
@[simp] theorem Block.updStream_ciph (b : Block) (k : Nat) (f : Stream → Stream) : (b.updStream k f).ciph = b.ciph := rfl
@[simp] theorem Block.updStream_ds (b : Block) (k : Nat) (f : Stream → Stream) : (b.updStream k f).ds = b.ds := rfl
@[simp] theorem Block.updStream_beam (b : Block) (k : Nat) (f : Stream → Stream) : (b.updStream k f).beam = b.beam := rfl
@[simp] theorem Block.updStream_weave (b : Block) (k : Nat) (f : Stream → Stream) : (b.updStream k f).weave = b.weave := rfl
@[simp] theorem Block.updStream_ledg (b : Block) (k : Nat) (f : Stream → Stream) : (b.updStream k f).ledg = b.ledg := rfl
@[simp] theorem Block.updStream_fuse (b : Block) (k : Nat) (f : Stream → Stream) : (b.updStream k f).fuse = b.fuse := rfl
@[simp] theorem Block.updStream_cons (b : Block) (k : Nat) (f : Stream → Stream) : (b.updStream k f).cons = b.cons := rfl
@[simp] theorem Block.updStream_heads (b : Block) (k : Nat) (f : Stream → Stream) : (b.updStream k f).heads = b.heads := rfl
@[simp] theorem Block.updStream_hdl (b : Block) (k : Nat) (f : Stream → Stream) : (b.updStream k f).hdl = b.hdl := rfl
@[simp] theorem Block.updStream_sl (b : Block) (k : Nat) (f : Stream → Stream) : (b.updStream k f).sl = b.sl := rfl
@[simp] theorem Block.updStream_fab (b : Block) (k : Nat) (f : Stream → Stream) : (b.updStream k f).fab = b.fab := rfl
@[simp] theorem Block.updStream_boot (b : Block) (k : Nat) (f : Stream → Stream) : (b.updStream k f).boot = b.boot := rfl
@[simp] theorem Block.updStream_ward (b : Block) (k : Nat) (f : Stream → Stream) : (b.updStream k f).ward = b.ward := rfl
@[simp] theorem Block.updStream_lands (b : Block) (k : Nat) (f : Stream → Stream) : (b.updStream k f).lands = b.lands := rfl
@[simp] theorem Block.updStream_same (b : Block) (k : Nat) (f : Stream → Stream) : (b.updStream k f).stream k = f (b.stream k) := tabGet_tabUpd_same _ _ _ _
theorem Block.updStream_other (b : Block) {k l : Nat} (f : Stream → Stream) (h : l ≠ k) : (b.updStream k f).stream l = b.stream l := tabGet_tabUpd_other _ _ _ h

/-! ### updObj -/

@[simp] theorem Block.updObj_regs (b : Block) (k : Nat) (f : Obj → Obj) : (b.updObj k f).regs = b.regs := rfl
@[simp] theorem Block.updObj_logs (b : Block) (k : Nat) (f : Obj → Obj) : (b.updObj k f).logs = b.logs := rfl
@[simp] theorem Block.updObj_out (b : Block) (k : Nat) (f : Obj → Obj) : (b.updObj k f).out = b.out := rfl
@[simp] theorem Block.updObj_time (b : Block) (k : Nat) (f : Obj → Obj) : (b.updObj k f).time = b.time := rfl
@[simp] theorem Block.updObj_hq (b : Block) (k : Nat) (f : Obj → Obj) : (b.updObj k f).hq = b.hq := rfl
@[simp] theorem Block.updObj_card (b : Block) (k : Nat) (f : Obj → Obj) : (b.updObj k f).card = b.card := rfl
@[simp] theorem Block.updObj_ciph (b : Block) (k : Nat) (f : Obj → Obj) : (b.updObj k f).ciph = b.ciph := rfl
@[simp] theorem Block.updObj_ds (b : Block) (k : Nat) (f : Obj → Obj) : (b.updObj k f).ds = b.ds := rfl
@[simp] theorem Block.updObj_beam (b : Block) (k : Nat) (f : Obj → Obj) : (b.updObj k f).beam = b.beam := rfl
@[simp] theorem Block.updObj_weave (b : Block) (k : Nat) (f : Obj → Obj) : (b.updObj k f).weave = b.weave := rfl
@[simp] theorem Block.updObj_ledg (b : Block) (k : Nat) (f : Obj → Obj) : (b.updObj k f).ledg = b.ledg := rfl
@[simp] theorem Block.updObj_fuse (b : Block) (k : Nat) (f : Obj → Obj) : (b.updObj k f).fuse = b.fuse := rfl
@[simp] theorem Block.updObj_cons (b : Block) (k : Nat) (f : Obj → Obj) : (b.updObj k f).cons = b.cons := rfl
@[simp] theorem Block.updObj_heads (b : Block) (k : Nat) (f : Obj → Obj) : (b.updObj k f).heads = b.heads := rfl
@[simp] theorem Block.updObj_hdl (b : Block) (k : Nat) (f : Obj → Obj) : (b.updObj k f).hdl = b.hdl := rfl
@[simp] theorem Block.updObj_sl (b : Block) (k : Nat) (f : Obj → Obj) : (b.updObj k f).sl = b.sl := rfl
@[simp] theorem Block.updObj_fab (b : Block) (k : Nat) (f : Obj → Obj) : (b.updObj k f).fab = b.fab := rfl
@[simp] theorem Block.updObj_boot (b : Block) (k : Nat) (f : Obj → Obj) : (b.updObj k f).boot = b.boot := rfl
@[simp] theorem Block.updObj_ward (b : Block) (k : Nat) (f : Obj → Obj) : (b.updObj k f).ward = b.ward := rfl
@[simp] theorem Block.updObj_lands (b : Block) (k : Nat) (f : Obj → Obj) : (b.updObj k f).lands = b.lands := rfl
@[simp] theorem Block.updObj_same (b : Block) (k : Nat) (f : Obj → Obj) : (b.updObj k f).obj k = f (b.obj k) := tabGet_tabUpd_same _ _ _ _
theorem Block.updObj_other (b : Block) {k l : Nat} (f : Obj → Obj) (h : l ≠ k) : (b.updObj k f).obj l = b.obj l := tabGet_tabUpd_other _ _ _ h

/-! ### updBobbin -/

@[simp] theorem Block.updBobbin_regs (b : Block) (k : Nat) (f : Bobbin → Bobbin) : (b.updBobbin k f).regs = b.regs := rfl
@[simp] theorem Block.updBobbin_logs (b : Block) (k : Nat) (f : Bobbin → Bobbin) : (b.updBobbin k f).logs = b.logs := rfl
@[simp] theorem Block.updBobbin_out (b : Block) (k : Nat) (f : Bobbin → Bobbin) : (b.updBobbin k f).out = b.out := rfl
@[simp] theorem Block.updBobbin_time (b : Block) (k : Nat) (f : Bobbin → Bobbin) : (b.updBobbin k f).time = b.time := rfl
@[simp] theorem Block.updBobbin_hq (b : Block) (k : Nat) (f : Bobbin → Bobbin) : (b.updBobbin k f).hq = b.hq := rfl
@[simp] theorem Block.updBobbin_card (b : Block) (k : Nat) (f : Bobbin → Bobbin) : (b.updBobbin k f).card = b.card := rfl
@[simp] theorem Block.updBobbin_ciph (b : Block) (k : Nat) (f : Bobbin → Bobbin) : (b.updBobbin k f).ciph = b.ciph := rfl
@[simp] theorem Block.updBobbin_ds (b : Block) (k : Nat) (f : Bobbin → Bobbin) : (b.updBobbin k f).ds = b.ds := rfl
@[simp] theorem Block.updBobbin_beam (b : Block) (k : Nat) (f : Bobbin → Bobbin) : (b.updBobbin k f).beam = b.beam := rfl
@[simp] theorem Block.updBobbin_weave (b : Block) (k : Nat) (f : Bobbin → Bobbin) : (b.updBobbin k f).weave = b.weave := rfl
@[simp] theorem Block.updBobbin_ledg (b : Block) (k : Nat) (f : Bobbin → Bobbin) : (b.updBobbin k f).ledg = b.ledg := rfl
@[simp] theorem Block.updBobbin_fuse (b : Block) (k : Nat) (f : Bobbin → Bobbin) : (b.updBobbin k f).fuse = b.fuse := rfl
@[simp] theorem Block.updBobbin_cons (b : Block) (k : Nat) (f : Bobbin → Bobbin) : (b.updBobbin k f).cons = b.cons := rfl
@[simp] theorem Block.updBobbin_heads (b : Block) (k : Nat) (f : Bobbin → Bobbin) : (b.updBobbin k f).heads = b.heads := rfl
@[simp] theorem Block.updBobbin_hdl (b : Block) (k : Nat) (f : Bobbin → Bobbin) : (b.updBobbin k f).hdl = b.hdl := rfl
@[simp] theorem Block.updBobbin_sl (b : Block) (k : Nat) (f : Bobbin → Bobbin) : (b.updBobbin k f).sl = b.sl := rfl
@[simp] theorem Block.updBobbin_fab (b : Block) (k : Nat) (f : Bobbin → Bobbin) : (b.updBobbin k f).fab = b.fab := rfl
@[simp] theorem Block.updBobbin_boot (b : Block) (k : Nat) (f : Bobbin → Bobbin) : (b.updBobbin k f).boot = b.boot := rfl
@[simp] theorem Block.updBobbin_ward (b : Block) (k : Nat) (f : Bobbin → Bobbin) : (b.updBobbin k f).ward = b.ward := rfl
@[simp] theorem Block.updBobbin_lands (b : Block) (k : Nat) (f : Bobbin → Bobbin) : (b.updBobbin k f).lands = b.lands := rfl
@[simp] theorem Block.updBobbin_same (b : Block) (k : Nat) (f : Bobbin → Bobbin) : (b.updBobbin k f).bobbin k = f (b.bobbin k) := tabGet_tabUpd_same _ _ _ _
theorem Block.updBobbin_other (b : Block) {k l : Nat} (f : Bobbin → Bobbin) (h : l ≠ k) : (b.updBobbin k f).bobbin l = b.bobbin l := tabGet_tabUpd_other _ _ _ h

/-! ### updEngine -/

@[simp] theorem Block.updEngine_regs (b : Block) (k : Nat) (f : Engine → Engine) : (b.updEngine k f).regs = b.regs := rfl
@[simp] theorem Block.updEngine_logs (b : Block) (k : Nat) (f : Engine → Engine) : (b.updEngine k f).logs = b.logs := rfl
@[simp] theorem Block.updEngine_out (b : Block) (k : Nat) (f : Engine → Engine) : (b.updEngine k f).out = b.out := rfl
@[simp] theorem Block.updEngine_time (b : Block) (k : Nat) (f : Engine → Engine) : (b.updEngine k f).time = b.time := rfl
@[simp] theorem Block.updEngine_hq (b : Block) (k : Nat) (f : Engine → Engine) : (b.updEngine k f).hq = b.hq := rfl
@[simp] theorem Block.updEngine_ing (b : Block) (k : Nat) (f : Engine → Engine) : (b.updEngine k f).ing = b.ing := rfl
@[simp] theorem Block.updEngine_ciph (b : Block) (k : Nat) (f : Engine → Engine) : (b.updEngine k f).ciph = b.ciph := rfl
@[simp] theorem Block.updEngine_ds (b : Block) (k : Nat) (f : Engine → Engine) : (b.updEngine k f).ds = b.ds := rfl
@[simp] theorem Block.updEngine_beam (b : Block) (k : Nat) (f : Engine → Engine) : (b.updEngine k f).beam = b.beam := rfl
@[simp] theorem Block.updEngine_weave (b : Block) (k : Nat) (f : Engine → Engine) : (b.updEngine k f).weave = b.weave := rfl
@[simp] theorem Block.updEngine_ledg (b : Block) (k : Nat) (f : Engine → Engine) : (b.updEngine k f).ledg = b.ledg := rfl
@[simp] theorem Block.updEngine_fuse (b : Block) (k : Nat) (f : Engine → Engine) : (b.updEngine k f).fuse = b.fuse := rfl
@[simp] theorem Block.updEngine_cons (b : Block) (k : Nat) (f : Engine → Engine) : (b.updEngine k f).cons = b.cons := rfl
@[simp] theorem Block.updEngine_heads (b : Block) (k : Nat) (f : Engine → Engine) : (b.updEngine k f).heads = b.heads := rfl
@[simp] theorem Block.updEngine_hdl (b : Block) (k : Nat) (f : Engine → Engine) : (b.updEngine k f).hdl = b.hdl := rfl
@[simp] theorem Block.updEngine_sl (b : Block) (k : Nat) (f : Engine → Engine) : (b.updEngine k f).sl = b.sl := rfl
@[simp] theorem Block.updEngine_fab (b : Block) (k : Nat) (f : Engine → Engine) : (b.updEngine k f).fab = b.fab := rfl
@[simp] theorem Block.updEngine_boot (b : Block) (k : Nat) (f : Engine → Engine) : (b.updEngine k f).boot = b.boot := rfl
@[simp] theorem Block.updEngine_ward (b : Block) (k : Nat) (f : Engine → Engine) : (b.updEngine k f).ward = b.ward := rfl
@[simp] theorem Block.updEngine_lands (b : Block) (k : Nat) (f : Engine → Engine) : (b.updEngine k f).lands = b.lands := rfl
@[simp] theorem Block.updEngine_same (b : Block) (k : Nat) (f : Engine → Engine) : (b.updEngine k f).engine k = f (b.engine k) := tabGet_tabUpd_same _ _ _ _
theorem Block.updEngine_other (b : Block) {k l : Nat} (f : Engine → Engine) (h : l ≠ k) : (b.updEngine k f).engine l = b.engine l := tabGet_tabUpd_other _ _ _ h

/-! ### updCtx -/

@[simp] theorem Block.updCtx_regs (b : Block) (k : Nat) (f : CardCtx → CardCtx) : (b.updCtx k f).regs = b.regs := rfl
@[simp] theorem Block.updCtx_logs (b : Block) (k : Nat) (f : CardCtx → CardCtx) : (b.updCtx k f).logs = b.logs := rfl
@[simp] theorem Block.updCtx_out (b : Block) (k : Nat) (f : CardCtx → CardCtx) : (b.updCtx k f).out = b.out := rfl
@[simp] theorem Block.updCtx_time (b : Block) (k : Nat) (f : CardCtx → CardCtx) : (b.updCtx k f).time = b.time := rfl
@[simp] theorem Block.updCtx_hq (b : Block) (k : Nat) (f : CardCtx → CardCtx) : (b.updCtx k f).hq = b.hq := rfl
@[simp] theorem Block.updCtx_ing (b : Block) (k : Nat) (f : CardCtx → CardCtx) : (b.updCtx k f).ing = b.ing := rfl
@[simp] theorem Block.updCtx_ciph (b : Block) (k : Nat) (f : CardCtx → CardCtx) : (b.updCtx k f).ciph = b.ciph := rfl
@[simp] theorem Block.updCtx_ds (b : Block) (k : Nat) (f : CardCtx → CardCtx) : (b.updCtx k f).ds = b.ds := rfl
@[simp] theorem Block.updCtx_beam (b : Block) (k : Nat) (f : CardCtx → CardCtx) : (b.updCtx k f).beam = b.beam := rfl
@[simp] theorem Block.updCtx_weave (b : Block) (k : Nat) (f : CardCtx → CardCtx) : (b.updCtx k f).weave = b.weave := rfl
@[simp] theorem Block.updCtx_ledg (b : Block) (k : Nat) (f : CardCtx → CardCtx) : (b.updCtx k f).ledg = b.ledg := rfl
@[simp] theorem Block.updCtx_fuse (b : Block) (k : Nat) (f : CardCtx → CardCtx) : (b.updCtx k f).fuse = b.fuse := rfl
@[simp] theorem Block.updCtx_cons (b : Block) (k : Nat) (f : CardCtx → CardCtx) : (b.updCtx k f).cons = b.cons := rfl
@[simp] theorem Block.updCtx_heads (b : Block) (k : Nat) (f : CardCtx → CardCtx) : (b.updCtx k f).heads = b.heads := rfl
@[simp] theorem Block.updCtx_hdl (b : Block) (k : Nat) (f : CardCtx → CardCtx) : (b.updCtx k f).hdl = b.hdl := rfl
@[simp] theorem Block.updCtx_sl (b : Block) (k : Nat) (f : CardCtx → CardCtx) : (b.updCtx k f).sl = b.sl := rfl
@[simp] theorem Block.updCtx_fab (b : Block) (k : Nat) (f : CardCtx → CardCtx) : (b.updCtx k f).fab = b.fab := rfl
@[simp] theorem Block.updCtx_boot (b : Block) (k : Nat) (f : CardCtx → CardCtx) : (b.updCtx k f).boot = b.boot := rfl
@[simp] theorem Block.updCtx_ward (b : Block) (k : Nat) (f : CardCtx → CardCtx) : (b.updCtx k f).ward = b.ward := rfl
@[simp] theorem Block.updCtx_lands (b : Block) (k : Nat) (f : CardCtx → CardCtx) : (b.updCtx k f).lands = b.lands := rfl
@[simp] theorem Block.updCtx_same (b : Block) (k : Nat) (f : CardCtx → CardCtx) : (b.updCtx k f).ctx k = f (b.ctx k) := tabGet_tabUpd_same _ _ _ _
theorem Block.updCtx_other (b : Block) {k l : Nat} (f : CardCtx → CardCtx) (h : l ≠ k) : (b.updCtx k f).ctx l = b.ctx l := tabGet_tabUpd_other _ _ _ h

/-! ### updPipe -/

@[simp] theorem Block.updPipe_regs (b : Block) (k : Nat) (f : Pipeline → Pipeline) : (b.updPipe k f).regs = b.regs := rfl
@[simp] theorem Block.updPipe_logs (b : Block) (k : Nat) (f : Pipeline → Pipeline) : (b.updPipe k f).logs = b.logs := rfl
@[simp] theorem Block.updPipe_out (b : Block) (k : Nat) (f : Pipeline → Pipeline) : (b.updPipe k f).out = b.out := rfl
@[simp] theorem Block.updPipe_time (b : Block) (k : Nat) (f : Pipeline → Pipeline) : (b.updPipe k f).time = b.time := rfl
@[simp] theorem Block.updPipe_hq (b : Block) (k : Nat) (f : Pipeline → Pipeline) : (b.updPipe k f).hq = b.hq := rfl
@[simp] theorem Block.updPipe_ing (b : Block) (k : Nat) (f : Pipeline → Pipeline) : (b.updPipe k f).ing = b.ing := rfl
@[simp] theorem Block.updPipe_card (b : Block) (k : Nat) (f : Pipeline → Pipeline) : (b.updPipe k f).card = b.card := rfl
@[simp] theorem Block.updPipe_ds (b : Block) (k : Nat) (f : Pipeline → Pipeline) : (b.updPipe k f).ds = b.ds := rfl
@[simp] theorem Block.updPipe_beam (b : Block) (k : Nat) (f : Pipeline → Pipeline) : (b.updPipe k f).beam = b.beam := rfl
@[simp] theorem Block.updPipe_weave (b : Block) (k : Nat) (f : Pipeline → Pipeline) : (b.updPipe k f).weave = b.weave := rfl
@[simp] theorem Block.updPipe_ledg (b : Block) (k : Nat) (f : Pipeline → Pipeline) : (b.updPipe k f).ledg = b.ledg := rfl
@[simp] theorem Block.updPipe_fuse (b : Block) (k : Nat) (f : Pipeline → Pipeline) : (b.updPipe k f).fuse = b.fuse := rfl
@[simp] theorem Block.updPipe_cons (b : Block) (k : Nat) (f : Pipeline → Pipeline) : (b.updPipe k f).cons = b.cons := rfl
@[simp] theorem Block.updPipe_heads (b : Block) (k : Nat) (f : Pipeline → Pipeline) : (b.updPipe k f).heads = b.heads := rfl
@[simp] theorem Block.updPipe_hdl (b : Block) (k : Nat) (f : Pipeline → Pipeline) : (b.updPipe k f).hdl = b.hdl := rfl
@[simp] theorem Block.updPipe_sl (b : Block) (k : Nat) (f : Pipeline → Pipeline) : (b.updPipe k f).sl = b.sl := rfl
@[simp] theorem Block.updPipe_fab (b : Block) (k : Nat) (f : Pipeline → Pipeline) : (b.updPipe k f).fab = b.fab := rfl
@[simp] theorem Block.updPipe_boot (b : Block) (k : Nat) (f : Pipeline → Pipeline) : (b.updPipe k f).boot = b.boot := rfl
@[simp] theorem Block.updPipe_ward (b : Block) (k : Nat) (f : Pipeline → Pipeline) : (b.updPipe k f).ward = b.ward := rfl
@[simp] theorem Block.updPipe_lands (b : Block) (k : Nat) (f : Pipeline → Pipeline) : (b.updPipe k f).lands = b.lands := rfl
@[simp] theorem Block.updPipe_same (b : Block) (k : Nat) (f : Pipeline → Pipeline) : (b.updPipe k f).pipe k = f (b.pipe k) := tabGet_tabUpd_same _ _ _ _
theorem Block.updPipe_other (b : Block) {k l : Nat} (f : Pipeline → Pipeline) (h : l ≠ k) : (b.updPipe k f).pipe l = b.pipe l := tabGet_tabUpd_other _ _ _ h

/-! ### updSlot -/

@[simp] theorem Block.updSlot_regs (b : Block) (k : Nat) (f : KeySlot → KeySlot) : (b.updSlot k f).regs = b.regs := rfl
@[simp] theorem Block.updSlot_logs (b : Block) (k : Nat) (f : KeySlot → KeySlot) : (b.updSlot k f).logs = b.logs := rfl
@[simp] theorem Block.updSlot_out (b : Block) (k : Nat) (f : KeySlot → KeySlot) : (b.updSlot k f).out = b.out := rfl
@[simp] theorem Block.updSlot_time (b : Block) (k : Nat) (f : KeySlot → KeySlot) : (b.updSlot k f).time = b.time := rfl
@[simp] theorem Block.updSlot_hq (b : Block) (k : Nat) (f : KeySlot → KeySlot) : (b.updSlot k f).hq = b.hq := rfl
@[simp] theorem Block.updSlot_ing (b : Block) (k : Nat) (f : KeySlot → KeySlot) : (b.updSlot k f).ing = b.ing := rfl
@[simp] theorem Block.updSlot_card (b : Block) (k : Nat) (f : KeySlot → KeySlot) : (b.updSlot k f).card = b.card := rfl
@[simp] theorem Block.updSlot_ds (b : Block) (k : Nat) (f : KeySlot → KeySlot) : (b.updSlot k f).ds = b.ds := rfl
@[simp] theorem Block.updSlot_beam (b : Block) (k : Nat) (f : KeySlot → KeySlot) : (b.updSlot k f).beam = b.beam := rfl
@[simp] theorem Block.updSlot_weave (b : Block) (k : Nat) (f : KeySlot → KeySlot) : (b.updSlot k f).weave = b.weave := rfl
@[simp] theorem Block.updSlot_ledg (b : Block) (k : Nat) (f : KeySlot → KeySlot) : (b.updSlot k f).ledg = b.ledg := rfl
@[simp] theorem Block.updSlot_fuse (b : Block) (k : Nat) (f : KeySlot → KeySlot) : (b.updSlot k f).fuse = b.fuse := rfl
@[simp] theorem Block.updSlot_cons (b : Block) (k : Nat) (f : KeySlot → KeySlot) : (b.updSlot k f).cons = b.cons := rfl
@[simp] theorem Block.updSlot_heads (b : Block) (k : Nat) (f : KeySlot → KeySlot) : (b.updSlot k f).heads = b.heads := rfl
@[simp] theorem Block.updSlot_hdl (b : Block) (k : Nat) (f : KeySlot → KeySlot) : (b.updSlot k f).hdl = b.hdl := rfl
@[simp] theorem Block.updSlot_sl (b : Block) (k : Nat) (f : KeySlot → KeySlot) : (b.updSlot k f).sl = b.sl := rfl
@[simp] theorem Block.updSlot_fab (b : Block) (k : Nat) (f : KeySlot → KeySlot) : (b.updSlot k f).fab = b.fab := rfl
@[simp] theorem Block.updSlot_boot (b : Block) (k : Nat) (f : KeySlot → KeySlot) : (b.updSlot k f).boot = b.boot := rfl
@[simp] theorem Block.updSlot_ward (b : Block) (k : Nat) (f : KeySlot → KeySlot) : (b.updSlot k f).ward = b.ward := rfl
@[simp] theorem Block.updSlot_lands (b : Block) (k : Nat) (f : KeySlot → KeySlot) : (b.updSlot k f).lands = b.lands := rfl
@[simp] theorem Block.updSlot_same (b : Block) (k : Nat) (f : KeySlot → KeySlot) : (b.updSlot k f).slot k = f (b.slot k) := tabGet_tabUpd_same _ _ _ _
theorem Block.updSlot_other (b : Block) {k l : Nat} (f : KeySlot → KeySlot) (h : l ≠ k) : (b.updSlot k f).slot l = b.slot l := tabGet_tabUpd_other _ _ _ h

/-! ### updDataset -/

@[simp] theorem Block.updDataset_regs (b : Block) (k : Nat) (f : Dataset → Dataset) : (b.updDataset k f).regs = b.regs := rfl
@[simp] theorem Block.updDataset_logs (b : Block) (k : Nat) (f : Dataset → Dataset) : (b.updDataset k f).logs = b.logs := rfl
@[simp] theorem Block.updDataset_out (b : Block) (k : Nat) (f : Dataset → Dataset) : (b.updDataset k f).out = b.out := rfl
@[simp] theorem Block.updDataset_time (b : Block) (k : Nat) (f : Dataset → Dataset) : (b.updDataset k f).time = b.time := rfl
@[simp] theorem Block.updDataset_hq (b : Block) (k : Nat) (f : Dataset → Dataset) : (b.updDataset k f).hq = b.hq := rfl
@[simp] theorem Block.updDataset_ing (b : Block) (k : Nat) (f : Dataset → Dataset) : (b.updDataset k f).ing = b.ing := rfl
@[simp] theorem Block.updDataset_card (b : Block) (k : Nat) (f : Dataset → Dataset) : (b.updDataset k f).card = b.card := rfl
@[simp] theorem Block.updDataset_ciph (b : Block) (k : Nat) (f : Dataset → Dataset) : (b.updDataset k f).ciph = b.ciph := rfl
@[simp] theorem Block.updDataset_beam (b : Block) (k : Nat) (f : Dataset → Dataset) : (b.updDataset k f).beam = b.beam := rfl
@[simp] theorem Block.updDataset_weave (b : Block) (k : Nat) (f : Dataset → Dataset) : (b.updDataset k f).weave = b.weave := rfl
@[simp] theorem Block.updDataset_ledg (b : Block) (k : Nat) (f : Dataset → Dataset) : (b.updDataset k f).ledg = b.ledg := rfl
@[simp] theorem Block.updDataset_fuse (b : Block) (k : Nat) (f : Dataset → Dataset) : (b.updDataset k f).fuse = b.fuse := rfl
@[simp] theorem Block.updDataset_cons (b : Block) (k : Nat) (f : Dataset → Dataset) : (b.updDataset k f).cons = b.cons := rfl
@[simp] theorem Block.updDataset_heads (b : Block) (k : Nat) (f : Dataset → Dataset) : (b.updDataset k f).heads = b.heads := rfl
@[simp] theorem Block.updDataset_hdl (b : Block) (k : Nat) (f : Dataset → Dataset) : (b.updDataset k f).hdl = b.hdl := rfl
@[simp] theorem Block.updDataset_sl (b : Block) (k : Nat) (f : Dataset → Dataset) : (b.updDataset k f).sl = b.sl := rfl
@[simp] theorem Block.updDataset_fab (b : Block) (k : Nat) (f : Dataset → Dataset) : (b.updDataset k f).fab = b.fab := rfl
@[simp] theorem Block.updDataset_boot (b : Block) (k : Nat) (f : Dataset → Dataset) : (b.updDataset k f).boot = b.boot := rfl
@[simp] theorem Block.updDataset_ward (b : Block) (k : Nat) (f : Dataset → Dataset) : (b.updDataset k f).ward = b.ward := rfl
@[simp] theorem Block.updDataset_lands (b : Block) (k : Nat) (f : Dataset → Dataset) : (b.updDataset k f).lands = b.lands := rfl
@[simp] theorem Block.updDataset_same (b : Block) (k : Nat) (f : Dataset → Dataset) : (b.updDataset k f).dataset k = f (b.dataset k) := tabGet_tabUpd_same _ _ _ _
theorem Block.updDataset_other (b : Block) {k l : Nat} (f : Dataset → Dataset) (h : l ≠ k) : (b.updDataset k f).dataset l = b.dataset l := tabGet_tabUpd_other _ _ _ h

/-! ### updGrp -/

@[simp] theorem Block.updGrp_regs (b : Block) (k : Nat) (f : Grp → Grp) : (b.updGrp k f).regs = b.regs := rfl
@[simp] theorem Block.updGrp_logs (b : Block) (k : Nat) (f : Grp → Grp) : (b.updGrp k f).logs = b.logs := rfl
@[simp] theorem Block.updGrp_out (b : Block) (k : Nat) (f : Grp → Grp) : (b.updGrp k f).out = b.out := rfl
@[simp] theorem Block.updGrp_time (b : Block) (k : Nat) (f : Grp → Grp) : (b.updGrp k f).time = b.time := rfl
@[simp] theorem Block.updGrp_hq (b : Block) (k : Nat) (f : Grp → Grp) : (b.updGrp k f).hq = b.hq := rfl
@[simp] theorem Block.updGrp_ing (b : Block) (k : Nat) (f : Grp → Grp) : (b.updGrp k f).ing = b.ing := rfl
@[simp] theorem Block.updGrp_card (b : Block) (k : Nat) (f : Grp → Grp) : (b.updGrp k f).card = b.card := rfl
@[simp] theorem Block.updGrp_ciph (b : Block) (k : Nat) (f : Grp → Grp) : (b.updGrp k f).ciph = b.ciph := rfl
@[simp] theorem Block.updGrp_ds (b : Block) (k : Nat) (f : Grp → Grp) : (b.updGrp k f).ds = b.ds := rfl
@[simp] theorem Block.updGrp_beam (b : Block) (k : Nat) (f : Grp → Grp) : (b.updGrp k f).beam = b.beam := rfl
@[simp] theorem Block.updGrp_ledg (b : Block) (k : Nat) (f : Grp → Grp) : (b.updGrp k f).ledg = b.ledg := rfl
@[simp] theorem Block.updGrp_fuse (b : Block) (k : Nat) (f : Grp → Grp) : (b.updGrp k f).fuse = b.fuse := rfl
@[simp] theorem Block.updGrp_cons (b : Block) (k : Nat) (f : Grp → Grp) : (b.updGrp k f).cons = b.cons := rfl
@[simp] theorem Block.updGrp_heads (b : Block) (k : Nat) (f : Grp → Grp) : (b.updGrp k f).heads = b.heads := rfl
@[simp] theorem Block.updGrp_hdl (b : Block) (k : Nat) (f : Grp → Grp) : (b.updGrp k f).hdl = b.hdl := rfl
@[simp] theorem Block.updGrp_sl (b : Block) (k : Nat) (f : Grp → Grp) : (b.updGrp k f).sl = b.sl := rfl
@[simp] theorem Block.updGrp_fab (b : Block) (k : Nat) (f : Grp → Grp) : (b.updGrp k f).fab = b.fab := rfl
@[simp] theorem Block.updGrp_boot (b : Block) (k : Nat) (f : Grp → Grp) : (b.updGrp k f).boot = b.boot := rfl
@[simp] theorem Block.updGrp_ward (b : Block) (k : Nat) (f : Grp → Grp) : (b.updGrp k f).ward = b.ward := rfl
@[simp] theorem Block.updGrp_lands (b : Block) (k : Nat) (f : Grp → Grp) : (b.updGrp k f).lands = b.lands := rfl
@[simp] theorem Block.updGrp_same (b : Block) (k : Nat) (f : Grp → Grp) : (b.updGrp k f).grp k = f (b.grp k) := tabGet_tabUpd_same _ _ _ _
theorem Block.updGrp_other (b : Block) {k l : Nat} (f : Grp → Grp) (h : l ≠ k) : (b.updGrp k f).grp l = b.grp l := tabGet_tabUpd_other _ _ _ h

/-! ### updBeam -/

@[simp] theorem Block.updBeam_regs (b : Block) (f : Beam → Beam) : (b.updBeam f).regs = b.regs := rfl
@[simp] theorem Block.updBeam_logs (b : Block) (f : Beam → Beam) : (b.updBeam f).logs = b.logs := rfl
@[simp] theorem Block.updBeam_out (b : Block) (f : Beam → Beam) : (b.updBeam f).out = b.out := rfl
@[simp] theorem Block.updBeam_time (b : Block) (f : Beam → Beam) : (b.updBeam f).time = b.time := rfl
@[simp] theorem Block.updBeam_hq (b : Block) (f : Beam → Beam) : (b.updBeam f).hq = b.hq := rfl
@[simp] theorem Block.updBeam_ing (b : Block) (f : Beam → Beam) : (b.updBeam f).ing = b.ing := rfl
@[simp] theorem Block.updBeam_card (b : Block) (f : Beam → Beam) : (b.updBeam f).card = b.card := rfl
@[simp] theorem Block.updBeam_ciph (b : Block) (f : Beam → Beam) : (b.updBeam f).ciph = b.ciph := rfl
@[simp] theorem Block.updBeam_ds (b : Block) (f : Beam → Beam) : (b.updBeam f).ds = b.ds := rfl
@[simp] theorem Block.updBeam_weave (b : Block) (f : Beam → Beam) : (b.updBeam f).weave = b.weave := rfl
@[simp] theorem Block.updBeam_ledg (b : Block) (f : Beam → Beam) : (b.updBeam f).ledg = b.ledg := rfl
@[simp] theorem Block.updBeam_fuse (b : Block) (f : Beam → Beam) : (b.updBeam f).fuse = b.fuse := rfl
@[simp] theorem Block.updBeam_cons (b : Block) (f : Beam → Beam) : (b.updBeam f).cons = b.cons := rfl
@[simp] theorem Block.updBeam_heads (b : Block) (f : Beam → Beam) : (b.updBeam f).heads = b.heads := rfl
@[simp] theorem Block.updBeam_hdl (b : Block) (f : Beam → Beam) : (b.updBeam f).hdl = b.hdl := rfl
@[simp] theorem Block.updBeam_sl (b : Block) (f : Beam → Beam) : (b.updBeam f).sl = b.sl := rfl
@[simp] theorem Block.updBeam_fab (b : Block) (f : Beam → Beam) : (b.updBeam f).fab = b.fab := rfl
@[simp] theorem Block.updBeam_boot (b : Block) (f : Beam → Beam) : (b.updBeam f).boot = b.boot := rfl
@[simp] theorem Block.updBeam_ward (b : Block) (f : Beam → Beam) : (b.updBeam f).ward = b.ward := rfl
@[simp] theorem Block.updBeam_lands (b : Block) (f : Beam → Beam) : (b.updBeam f).lands = b.lands := rfl

/-! ### updBeamCh -/

@[simp] theorem Block.updBeamCh_regs (b : Block) (k : Nat) (f : BeamCh → BeamCh) : (b.updBeamCh k f).regs = b.regs := rfl
@[simp] theorem Block.updBeamCh_logs (b : Block) (k : Nat) (f : BeamCh → BeamCh) : (b.updBeamCh k f).logs = b.logs := rfl
@[simp] theorem Block.updBeamCh_out (b : Block) (k : Nat) (f : BeamCh → BeamCh) : (b.updBeamCh k f).out = b.out := rfl
@[simp] theorem Block.updBeamCh_time (b : Block) (k : Nat) (f : BeamCh → BeamCh) : (b.updBeamCh k f).time = b.time := rfl
@[simp] theorem Block.updBeamCh_hq (b : Block) (k : Nat) (f : BeamCh → BeamCh) : (b.updBeamCh k f).hq = b.hq := rfl
@[simp] theorem Block.updBeamCh_ing (b : Block) (k : Nat) (f : BeamCh → BeamCh) : (b.updBeamCh k f).ing = b.ing := rfl
@[simp] theorem Block.updBeamCh_card (b : Block) (k : Nat) (f : BeamCh → BeamCh) : (b.updBeamCh k f).card = b.card := rfl
@[simp] theorem Block.updBeamCh_ciph (b : Block) (k : Nat) (f : BeamCh → BeamCh) : (b.updBeamCh k f).ciph = b.ciph := rfl
@[simp] theorem Block.updBeamCh_ds (b : Block) (k : Nat) (f : BeamCh → BeamCh) : (b.updBeamCh k f).ds = b.ds := rfl
@[simp] theorem Block.updBeamCh_weave (b : Block) (k : Nat) (f : BeamCh → BeamCh) : (b.updBeamCh k f).weave = b.weave := rfl
@[simp] theorem Block.updBeamCh_ledg (b : Block) (k : Nat) (f : BeamCh → BeamCh) : (b.updBeamCh k f).ledg = b.ledg := rfl
@[simp] theorem Block.updBeamCh_fuse (b : Block) (k : Nat) (f : BeamCh → BeamCh) : (b.updBeamCh k f).fuse = b.fuse := rfl
@[simp] theorem Block.updBeamCh_cons (b : Block) (k : Nat) (f : BeamCh → BeamCh) : (b.updBeamCh k f).cons = b.cons := rfl
@[simp] theorem Block.updBeamCh_heads (b : Block) (k : Nat) (f : BeamCh → BeamCh) : (b.updBeamCh k f).heads = b.heads := rfl
@[simp] theorem Block.updBeamCh_hdl (b : Block) (k : Nat) (f : BeamCh → BeamCh) : (b.updBeamCh k f).hdl = b.hdl := rfl
@[simp] theorem Block.updBeamCh_sl (b : Block) (k : Nat) (f : BeamCh → BeamCh) : (b.updBeamCh k f).sl = b.sl := rfl
@[simp] theorem Block.updBeamCh_fab (b : Block) (k : Nat) (f : BeamCh → BeamCh) : (b.updBeamCh k f).fab = b.fab := rfl
@[simp] theorem Block.updBeamCh_boot (b : Block) (k : Nat) (f : BeamCh → BeamCh) : (b.updBeamCh k f).boot = b.boot := rfl
@[simp] theorem Block.updBeamCh_ward (b : Block) (k : Nat) (f : BeamCh → BeamCh) : (b.updBeamCh k f).ward = b.ward := rfl
@[simp] theorem Block.updBeamCh_lands (b : Block) (k : Nat) (f : BeamCh → BeamCh) : (b.updBeamCh k f).lands = b.lands := rfl
@[simp] theorem Block.updBeamCh_same (b : Block) (k : Nat) (f : BeamCh → BeamCh) : (b.updBeamCh k f).beamCh k = f (b.beamCh k) := tabGet_tabUpd_same _ _ _ _
theorem Block.updBeamCh_other (b : Block) {k l : Nat} (f : BeamCh → BeamCh) (h : l ≠ k) : (b.updBeamCh k f).beamCh l = b.beamCh l := tabGet_tabUpd_other _ _ _ h

/-! ### updTape -/

@[simp] theorem Block.updTape_regs (b : Block) (k : Nat) (f : Tape → Tape) : (b.updTape k f).regs = b.regs := rfl
@[simp] theorem Block.updTape_logs (b : Block) (k : Nat) (f : Tape → Tape) : (b.updTape k f).logs = b.logs := rfl
@[simp] theorem Block.updTape_out (b : Block) (k : Nat) (f : Tape → Tape) : (b.updTape k f).out = b.out := rfl
@[simp] theorem Block.updTape_time (b : Block) (k : Nat) (f : Tape → Tape) : (b.updTape k f).time = b.time := rfl
@[simp] theorem Block.updTape_hq (b : Block) (k : Nat) (f : Tape → Tape) : (b.updTape k f).hq = b.hq := rfl
@[simp] theorem Block.updTape_ing (b : Block) (k : Nat) (f : Tape → Tape) : (b.updTape k f).ing = b.ing := rfl
@[simp] theorem Block.updTape_card (b : Block) (k : Nat) (f : Tape → Tape) : (b.updTape k f).card = b.card := rfl
@[simp] theorem Block.updTape_ciph (b : Block) (k : Nat) (f : Tape → Tape) : (b.updTape k f).ciph = b.ciph := rfl
@[simp] theorem Block.updTape_ds (b : Block) (k : Nat) (f : Tape → Tape) : (b.updTape k f).ds = b.ds := rfl
@[simp] theorem Block.updTape_beam (b : Block) (k : Nat) (f : Tape → Tape) : (b.updTape k f).beam = b.beam := rfl
@[simp] theorem Block.updTape_weave (b : Block) (k : Nat) (f : Tape → Tape) : (b.updTape k f).weave = b.weave := rfl
@[simp] theorem Block.updTape_ledg (b : Block) (k : Nat) (f : Tape → Tape) : (b.updTape k f).ledg = b.ledg := rfl
@[simp] theorem Block.updTape_fuse (b : Block) (k : Nat) (f : Tape → Tape) : (b.updTape k f).fuse = b.fuse := rfl
@[simp] theorem Block.updTape_heads (b : Block) (k : Nat) (f : Tape → Tape) : (b.updTape k f).heads = b.heads := rfl
@[simp] theorem Block.updTape_hdl (b : Block) (k : Nat) (f : Tape → Tape) : (b.updTape k f).hdl = b.hdl := rfl
@[simp] theorem Block.updTape_sl (b : Block) (k : Nat) (f : Tape → Tape) : (b.updTape k f).sl = b.sl := rfl
@[simp] theorem Block.updTape_fab (b : Block) (k : Nat) (f : Tape → Tape) : (b.updTape k f).fab = b.fab := rfl
@[simp] theorem Block.updTape_boot (b : Block) (k : Nat) (f : Tape → Tape) : (b.updTape k f).boot = b.boot := rfl
@[simp] theorem Block.updTape_ward (b : Block) (k : Nat) (f : Tape → Tape) : (b.updTape k f).ward = b.ward := rfl
@[simp] theorem Block.updTape_lands (b : Block) (k : Nat) (f : Tape → Tape) : (b.updTape k f).lands = b.lands := rfl
@[simp] theorem Block.updTape_same (b : Block) (k : Nat) (f : Tape → Tape) : (b.updTape k f).tape k = f (b.tape k) := tabGet_tabUpd_same _ _ _ _
theorem Block.updTape_other (b : Block) {k l : Nat} (f : Tape → Tape) (h : l ≠ k) : (b.updTape k f).tape l = b.tape l := tabGet_tabUpd_other _ _ _ h

/-! ### updWport -/

@[simp] theorem Block.updWport_regs (b : Block) (k : Nat) (f : Wport → Wport) : (b.updWport k f).regs = b.regs := rfl
@[simp] theorem Block.updWport_logs (b : Block) (k : Nat) (f : Wport → Wport) : (b.updWport k f).logs = b.logs := rfl
@[simp] theorem Block.updWport_out (b : Block) (k : Nat) (f : Wport → Wport) : (b.updWport k f).out = b.out := rfl
@[simp] theorem Block.updWport_time (b : Block) (k : Nat) (f : Wport → Wport) : (b.updWport k f).time = b.time := rfl
@[simp] theorem Block.updWport_hq (b : Block) (k : Nat) (f : Wport → Wport) : (b.updWport k f).hq = b.hq := rfl
@[simp] theorem Block.updWport_ing (b : Block) (k : Nat) (f : Wport → Wport) : (b.updWport k f).ing = b.ing := rfl
@[simp] theorem Block.updWport_card (b : Block) (k : Nat) (f : Wport → Wport) : (b.updWport k f).card = b.card := rfl
@[simp] theorem Block.updWport_ciph (b : Block) (k : Nat) (f : Wport → Wport) : (b.updWport k f).ciph = b.ciph := rfl
@[simp] theorem Block.updWport_ds (b : Block) (k : Nat) (f : Wport → Wport) : (b.updWport k f).ds = b.ds := rfl
@[simp] theorem Block.updWport_beam (b : Block) (k : Nat) (f : Wport → Wport) : (b.updWport k f).beam = b.beam := rfl
@[simp] theorem Block.updWport_weave (b : Block) (k : Nat) (f : Wport → Wport) : (b.updWport k f).weave = b.weave := rfl
@[simp] theorem Block.updWport_ledg (b : Block) (k : Nat) (f : Wport → Wport) : (b.updWport k f).ledg = b.ledg := rfl
@[simp] theorem Block.updWport_fuse (b : Block) (k : Nat) (f : Wport → Wport) : (b.updWport k f).fuse = b.fuse := rfl
@[simp] theorem Block.updWport_cons (b : Block) (k : Nat) (f : Wport → Wport) : (b.updWport k f).cons = b.cons := rfl
@[simp] theorem Block.updWport_hdl (b : Block) (k : Nat) (f : Wport → Wport) : (b.updWport k f).hdl = b.hdl := rfl
@[simp] theorem Block.updWport_sl (b : Block) (k : Nat) (f : Wport → Wport) : (b.updWport k f).sl = b.sl := rfl
@[simp] theorem Block.updWport_fab (b : Block) (k : Nat) (f : Wport → Wport) : (b.updWport k f).fab = b.fab := rfl
@[simp] theorem Block.updWport_boot (b : Block) (k : Nat) (f : Wport → Wport) : (b.updWport k f).boot = b.boot := rfl
@[simp] theorem Block.updWport_ward (b : Block) (k : Nat) (f : Wport → Wport) : (b.updWport k f).ward = b.ward := rfl
@[simp] theorem Block.updWport_lands (b : Block) (k : Nat) (f : Wport → Wport) : (b.updWport k f).lands = b.lands := rfl
@[simp] theorem Block.updWport_same (b : Block) (k : Nat) (f : Wport → Wport) : (b.updWport k f).wport k = f (b.wport k) := tabGet_tabUpd_same _ _ _ _
theorem Block.updWport_other (b : Block) {k l : Nat} (f : Wport → Wport) (h : l ≠ k) : (b.updWport k f).wport l = b.wport l := tabGet_tabUpd_other _ _ _ h

/-! ### updHdl -/

@[simp] theorem Block.updHdl_regs (b : Block) (k : Nat) (f : Hdl → Hdl) : (b.updHdl k f).regs = b.regs := rfl
@[simp] theorem Block.updHdl_logs (b : Block) (k : Nat) (f : Hdl → Hdl) : (b.updHdl k f).logs = b.logs := rfl
@[simp] theorem Block.updHdl_out (b : Block) (k : Nat) (f : Hdl → Hdl) : (b.updHdl k f).out = b.out := rfl
@[simp] theorem Block.updHdl_time (b : Block) (k : Nat) (f : Hdl → Hdl) : (b.updHdl k f).time = b.time := rfl
@[simp] theorem Block.updHdl_hq (b : Block) (k : Nat) (f : Hdl → Hdl) : (b.updHdl k f).hq = b.hq := rfl
@[simp] theorem Block.updHdl_ing (b : Block) (k : Nat) (f : Hdl → Hdl) : (b.updHdl k f).ing = b.ing := rfl
@[simp] theorem Block.updHdl_card (b : Block) (k : Nat) (f : Hdl → Hdl) : (b.updHdl k f).card = b.card := rfl
@[simp] theorem Block.updHdl_ciph (b : Block) (k : Nat) (f : Hdl → Hdl) : (b.updHdl k f).ciph = b.ciph := rfl
@[simp] theorem Block.updHdl_ds (b : Block) (k : Nat) (f : Hdl → Hdl) : (b.updHdl k f).ds = b.ds := rfl
@[simp] theorem Block.updHdl_beam (b : Block) (k : Nat) (f : Hdl → Hdl) : (b.updHdl k f).beam = b.beam := rfl
@[simp] theorem Block.updHdl_weave (b : Block) (k : Nat) (f : Hdl → Hdl) : (b.updHdl k f).weave = b.weave := rfl
@[simp] theorem Block.updHdl_ledg (b : Block) (k : Nat) (f : Hdl → Hdl) : (b.updHdl k f).ledg = b.ledg := rfl
@[simp] theorem Block.updHdl_fuse (b : Block) (k : Nat) (f : Hdl → Hdl) : (b.updHdl k f).fuse = b.fuse := rfl
@[simp] theorem Block.updHdl_cons (b : Block) (k : Nat) (f : Hdl → Hdl) : (b.updHdl k f).cons = b.cons := rfl
@[simp] theorem Block.updHdl_heads (b : Block) (k : Nat) (f : Hdl → Hdl) : (b.updHdl k f).heads = b.heads := rfl
@[simp] theorem Block.updHdl_sl (b : Block) (k : Nat) (f : Hdl → Hdl) : (b.updHdl k f).sl = b.sl := rfl
@[simp] theorem Block.updHdl_fab (b : Block) (k : Nat) (f : Hdl → Hdl) : (b.updHdl k f).fab = b.fab := rfl
@[simp] theorem Block.updHdl_boot (b : Block) (k : Nat) (f : Hdl → Hdl) : (b.updHdl k f).boot = b.boot := rfl
@[simp] theorem Block.updHdl_ward (b : Block) (k : Nat) (f : Hdl → Hdl) : (b.updHdl k f).ward = b.ward := rfl
@[simp] theorem Block.updHdl_lands (b : Block) (k : Nat) (f : Hdl → Hdl) : (b.updHdl k f).lands = b.lands := rfl
@[simp] theorem Block.updHdl_same (b : Block) (k : Nat) (f : Hdl → Hdl) : (b.updHdl k f).hdlP k = f (b.hdlP k) := tabGet_tabUpd_same _ _ _ _
theorem Block.updHdl_other (b : Block) {k l : Nat} (f : Hdl → Hdl) (h : l ≠ k) : (b.updHdl k f).hdlP l = b.hdlP l := tabGet_tabUpd_other _ _ _ h

/-! ### updCle -/

@[simp] theorem Block.updCle_regs (b : Block) (k : Nat) (f : Cle → Cle) : (b.updCle k f).regs = b.regs := rfl
@[simp] theorem Block.updCle_logs (b : Block) (k : Nat) (f : Cle → Cle) : (b.updCle k f).logs = b.logs := rfl
@[simp] theorem Block.updCle_out (b : Block) (k : Nat) (f : Cle → Cle) : (b.updCle k f).out = b.out := rfl
@[simp] theorem Block.updCle_time (b : Block) (k : Nat) (f : Cle → Cle) : (b.updCle k f).time = b.time := rfl
@[simp] theorem Block.updCle_hq (b : Block) (k : Nat) (f : Cle → Cle) : (b.updCle k f).hq = b.hq := rfl
@[simp] theorem Block.updCle_ing (b : Block) (k : Nat) (f : Cle → Cle) : (b.updCle k f).ing = b.ing := rfl
@[simp] theorem Block.updCle_card (b : Block) (k : Nat) (f : Cle → Cle) : (b.updCle k f).card = b.card := rfl
@[simp] theorem Block.updCle_ciph (b : Block) (k : Nat) (f : Cle → Cle) : (b.updCle k f).ciph = b.ciph := rfl
@[simp] theorem Block.updCle_ds (b : Block) (k : Nat) (f : Cle → Cle) : (b.updCle k f).ds = b.ds := rfl
@[simp] theorem Block.updCle_beam (b : Block) (k : Nat) (f : Cle → Cle) : (b.updCle k f).beam = b.beam := rfl
@[simp] theorem Block.updCle_weave (b : Block) (k : Nat) (f : Cle → Cle) : (b.updCle k f).weave = b.weave := rfl
@[simp] theorem Block.updCle_ledg (b : Block) (k : Nat) (f : Cle → Cle) : (b.updCle k f).ledg = b.ledg := rfl
@[simp] theorem Block.updCle_fuse (b : Block) (k : Nat) (f : Cle → Cle) : (b.updCle k f).fuse = b.fuse := rfl
@[simp] theorem Block.updCle_cons (b : Block) (k : Nat) (f : Cle → Cle) : (b.updCle k f).cons = b.cons := rfl
@[simp] theorem Block.updCle_heads (b : Block) (k : Nat) (f : Cle → Cle) : (b.updCle k f).heads = b.heads := rfl
@[simp] theorem Block.updCle_hdl (b : Block) (k : Nat) (f : Cle → Cle) : (b.updCle k f).hdl = b.hdl := rfl
@[simp] theorem Block.updCle_fab (b : Block) (k : Nat) (f : Cle → Cle) : (b.updCle k f).fab = b.fab := rfl
@[simp] theorem Block.updCle_boot (b : Block) (k : Nat) (f : Cle → Cle) : (b.updCle k f).boot = b.boot := rfl
@[simp] theorem Block.updCle_ward (b : Block) (k : Nat) (f : Cle → Cle) : (b.updCle k f).ward = b.ward := rfl
@[simp] theorem Block.updCle_lands (b : Block) (k : Nat) (f : Cle → Cle) : (b.updCle k f).lands = b.lands := rfl
@[simp] theorem Block.updCle_same (b : Block) (k : Nat) (f : Cle → Cle) : (b.updCle k f).cle k = f (b.cle k) := tabGet_tabUpd_same _ _ _ _
theorem Block.updCle_other (b : Block) {k l : Nat} (f : Cle → Cle) (h : l ≠ k) : (b.updCle k f).cle l = b.cle l := tabGet_tabUpd_other _ _ _ h

/-! ### updSafe -/

@[simp] theorem Block.updSafe_regs (b : Block) (k : Nat) (f : SafeP → SafeP) : (b.updSafe k f).regs = b.regs := rfl
@[simp] theorem Block.updSafe_logs (b : Block) (k : Nat) (f : SafeP → SafeP) : (b.updSafe k f).logs = b.logs := rfl
@[simp] theorem Block.updSafe_out (b : Block) (k : Nat) (f : SafeP → SafeP) : (b.updSafe k f).out = b.out := rfl
@[simp] theorem Block.updSafe_time (b : Block) (k : Nat) (f : SafeP → SafeP) : (b.updSafe k f).time = b.time := rfl
@[simp] theorem Block.updSafe_hq (b : Block) (k : Nat) (f : SafeP → SafeP) : (b.updSafe k f).hq = b.hq := rfl
@[simp] theorem Block.updSafe_ing (b : Block) (k : Nat) (f : SafeP → SafeP) : (b.updSafe k f).ing = b.ing := rfl
@[simp] theorem Block.updSafe_card (b : Block) (k : Nat) (f : SafeP → SafeP) : (b.updSafe k f).card = b.card := rfl
@[simp] theorem Block.updSafe_ciph (b : Block) (k : Nat) (f : SafeP → SafeP) : (b.updSafe k f).ciph = b.ciph := rfl
@[simp] theorem Block.updSafe_ds (b : Block) (k : Nat) (f : SafeP → SafeP) : (b.updSafe k f).ds = b.ds := rfl
@[simp] theorem Block.updSafe_beam (b : Block) (k : Nat) (f : SafeP → SafeP) : (b.updSafe k f).beam = b.beam := rfl
@[simp] theorem Block.updSafe_weave (b : Block) (k : Nat) (f : SafeP → SafeP) : (b.updSafe k f).weave = b.weave := rfl
@[simp] theorem Block.updSafe_ledg (b : Block) (k : Nat) (f : SafeP → SafeP) : (b.updSafe k f).ledg = b.ledg := rfl
@[simp] theorem Block.updSafe_fuse (b : Block) (k : Nat) (f : SafeP → SafeP) : (b.updSafe k f).fuse = b.fuse := rfl
@[simp] theorem Block.updSafe_cons (b : Block) (k : Nat) (f : SafeP → SafeP) : (b.updSafe k f).cons = b.cons := rfl
@[simp] theorem Block.updSafe_heads (b : Block) (k : Nat) (f : SafeP → SafeP) : (b.updSafe k f).heads = b.heads := rfl
@[simp] theorem Block.updSafe_hdl (b : Block) (k : Nat) (f : SafeP → SafeP) : (b.updSafe k f).hdl = b.hdl := rfl
@[simp] theorem Block.updSafe_fab (b : Block) (k : Nat) (f : SafeP → SafeP) : (b.updSafe k f).fab = b.fab := rfl
@[simp] theorem Block.updSafe_boot (b : Block) (k : Nat) (f : SafeP → SafeP) : (b.updSafe k f).boot = b.boot := rfl
@[simp] theorem Block.updSafe_ward (b : Block) (k : Nat) (f : SafeP → SafeP) : (b.updSafe k f).ward = b.ward := rfl
@[simp] theorem Block.updSafe_lands (b : Block) (k : Nat) (f : SafeP → SafeP) : (b.updSafe k f).lands = b.lands := rfl
@[simp] theorem Block.updSafe_same (b : Block) (k : Nat) (f : SafeP → SafeP) : (b.updSafe k f).safeP k = f (b.safeP k) := tabGet_tabUpd_same _ _ _ _
theorem Block.updSafe_other (b : Block) {k l : Nat} (f : SafeP → SafeP) (h : l ≠ k) : (b.updSafe k f).safeP l = b.safeP l := tabGet_tabUpd_other _ _ _ h

/-! ### updEdge -/

@[simp] theorem Block.updEdge_regs (b : Block) (k : Nat) (f : EdgeC → EdgeC) : (b.updEdge k f).regs = b.regs := rfl
@[simp] theorem Block.updEdge_logs (b : Block) (k : Nat) (f : EdgeC → EdgeC) : (b.updEdge k f).logs = b.logs := rfl
@[simp] theorem Block.updEdge_out (b : Block) (k : Nat) (f : EdgeC → EdgeC) : (b.updEdge k f).out = b.out := rfl
@[simp] theorem Block.updEdge_time (b : Block) (k : Nat) (f : EdgeC → EdgeC) : (b.updEdge k f).time = b.time := rfl
@[simp] theorem Block.updEdge_hq (b : Block) (k : Nat) (f : EdgeC → EdgeC) : (b.updEdge k f).hq = b.hq := rfl
@[simp] theorem Block.updEdge_ing (b : Block) (k : Nat) (f : EdgeC → EdgeC) : (b.updEdge k f).ing = b.ing := rfl
@[simp] theorem Block.updEdge_card (b : Block) (k : Nat) (f : EdgeC → EdgeC) : (b.updEdge k f).card = b.card := rfl
@[simp] theorem Block.updEdge_ciph (b : Block) (k : Nat) (f : EdgeC → EdgeC) : (b.updEdge k f).ciph = b.ciph := rfl
@[simp] theorem Block.updEdge_ds (b : Block) (k : Nat) (f : EdgeC → EdgeC) : (b.updEdge k f).ds = b.ds := rfl
@[simp] theorem Block.updEdge_beam (b : Block) (k : Nat) (f : EdgeC → EdgeC) : (b.updEdge k f).beam = b.beam := rfl
@[simp] theorem Block.updEdge_weave (b : Block) (k : Nat) (f : EdgeC → EdgeC) : (b.updEdge k f).weave = b.weave := rfl
@[simp] theorem Block.updEdge_ledg (b : Block) (k : Nat) (f : EdgeC → EdgeC) : (b.updEdge k f).ledg = b.ledg := rfl
@[simp] theorem Block.updEdge_fuse (b : Block) (k : Nat) (f : EdgeC → EdgeC) : (b.updEdge k f).fuse = b.fuse := rfl
@[simp] theorem Block.updEdge_cons (b : Block) (k : Nat) (f : EdgeC → EdgeC) : (b.updEdge k f).cons = b.cons := rfl
@[simp] theorem Block.updEdge_heads (b : Block) (k : Nat) (f : EdgeC → EdgeC) : (b.updEdge k f).heads = b.heads := rfl
@[simp] theorem Block.updEdge_hdl (b : Block) (k : Nat) (f : EdgeC → EdgeC) : (b.updEdge k f).hdl = b.hdl := rfl
@[simp] theorem Block.updEdge_fab (b : Block) (k : Nat) (f : EdgeC → EdgeC) : (b.updEdge k f).fab = b.fab := rfl
@[simp] theorem Block.updEdge_boot (b : Block) (k : Nat) (f : EdgeC → EdgeC) : (b.updEdge k f).boot = b.boot := rfl
@[simp] theorem Block.updEdge_ward (b : Block) (k : Nat) (f : EdgeC → EdgeC) : (b.updEdge k f).ward = b.ward := rfl
@[simp] theorem Block.updEdge_lands (b : Block) (k : Nat) (f : EdgeC → EdgeC) : (b.updEdge k f).lands = b.lands := rfl
@[simp] theorem Block.updEdge_same (b : Block) (k : Nat) (f : EdgeC → EdgeC) : (b.updEdge k f).edgeC k = f (b.edgeC k) := tabGet_tabUpd_same _ _ _ _
theorem Block.updEdge_other (b : Block) {k l : Nat} (f : EdgeC → EdgeC) (h : l ≠ k) : (b.updEdge k f).edgeC l = b.edgeC l := tabGet_tabUpd_other _ _ _ h

/-! ### updRdch -/

@[simp] theorem Block.updRdch_regs (b : Block) (k : Nat) (f : Rdch → Rdch) : (b.updRdch k f).regs = b.regs := rfl
@[simp] theorem Block.updRdch_logs (b : Block) (k : Nat) (f : Rdch → Rdch) : (b.updRdch k f).logs = b.logs := rfl
@[simp] theorem Block.updRdch_out (b : Block) (k : Nat) (f : Rdch → Rdch) : (b.updRdch k f).out = b.out := rfl
@[simp] theorem Block.updRdch_time (b : Block) (k : Nat) (f : Rdch → Rdch) : (b.updRdch k f).time = b.time := rfl
@[simp] theorem Block.updRdch_hq (b : Block) (k : Nat) (f : Rdch → Rdch) : (b.updRdch k f).hq = b.hq := rfl
@[simp] theorem Block.updRdch_ing (b : Block) (k : Nat) (f : Rdch → Rdch) : (b.updRdch k f).ing = b.ing := rfl
@[simp] theorem Block.updRdch_card (b : Block) (k : Nat) (f : Rdch → Rdch) : (b.updRdch k f).card = b.card := rfl
@[simp] theorem Block.updRdch_ciph (b : Block) (k : Nat) (f : Rdch → Rdch) : (b.updRdch k f).ciph = b.ciph := rfl
@[simp] theorem Block.updRdch_ds (b : Block) (k : Nat) (f : Rdch → Rdch) : (b.updRdch k f).ds = b.ds := rfl
@[simp] theorem Block.updRdch_beam (b : Block) (k : Nat) (f : Rdch → Rdch) : (b.updRdch k f).beam = b.beam := rfl
@[simp] theorem Block.updRdch_weave (b : Block) (k : Nat) (f : Rdch → Rdch) : (b.updRdch k f).weave = b.weave := rfl
@[simp] theorem Block.updRdch_ledg (b : Block) (k : Nat) (f : Rdch → Rdch) : (b.updRdch k f).ledg = b.ledg := rfl
@[simp] theorem Block.updRdch_fuse (b : Block) (k : Nat) (f : Rdch → Rdch) : (b.updRdch k f).fuse = b.fuse := rfl
@[simp] theorem Block.updRdch_cons (b : Block) (k : Nat) (f : Rdch → Rdch) : (b.updRdch k f).cons = b.cons := rfl
@[simp] theorem Block.updRdch_heads (b : Block) (k : Nat) (f : Rdch → Rdch) : (b.updRdch k f).heads = b.heads := rfl
@[simp] theorem Block.updRdch_hdl (b : Block) (k : Nat) (f : Rdch → Rdch) : (b.updRdch k f).hdl = b.hdl := rfl
@[simp] theorem Block.updRdch_fab (b : Block) (k : Nat) (f : Rdch → Rdch) : (b.updRdch k f).fab = b.fab := rfl
@[simp] theorem Block.updRdch_boot (b : Block) (k : Nat) (f : Rdch → Rdch) : (b.updRdch k f).boot = b.boot := rfl
@[simp] theorem Block.updRdch_ward (b : Block) (k : Nat) (f : Rdch → Rdch) : (b.updRdch k f).ward = b.ward := rfl
@[simp] theorem Block.updRdch_lands (b : Block) (k : Nat) (f : Rdch → Rdch) : (b.updRdch k f).lands = b.lands := rfl
@[simp] theorem Block.updRdch_same (b : Block) (k : Nat) (f : Rdch → Rdch) : (b.updRdch k f).rdch k = f (b.rdch k) := tabGet_tabUpd_same _ _ _ _
theorem Block.updRdch_other (b : Block) {k l : Nat} (f : Rdch → Rdch) (h : l ≠ k) : (b.updRdch k f).rdch l = b.rdch l := tabGet_tabUpd_other _ _ _ h

/-! ### updNdie -/

@[simp] theorem Block.updNdie_regs (b : Block) (k : Nat) (f : NDie → NDie) : (b.updNdie k f).regs = b.regs := rfl
@[simp] theorem Block.updNdie_logs (b : Block) (k : Nat) (f : NDie → NDie) : (b.updNdie k f).logs = b.logs := rfl
@[simp] theorem Block.updNdie_out (b : Block) (k : Nat) (f : NDie → NDie) : (b.updNdie k f).out = b.out := rfl
@[simp] theorem Block.updNdie_time (b : Block) (k : Nat) (f : NDie → NDie) : (b.updNdie k f).time = b.time := rfl
@[simp] theorem Block.updNdie_hq (b : Block) (k : Nat) (f : NDie → NDie) : (b.updNdie k f).hq = b.hq := rfl
@[simp] theorem Block.updNdie_ing (b : Block) (k : Nat) (f : NDie → NDie) : (b.updNdie k f).ing = b.ing := rfl
@[simp] theorem Block.updNdie_card (b : Block) (k : Nat) (f : NDie → NDie) : (b.updNdie k f).card = b.card := rfl
@[simp] theorem Block.updNdie_ciph (b : Block) (k : Nat) (f : NDie → NDie) : (b.updNdie k f).ciph = b.ciph := rfl
@[simp] theorem Block.updNdie_ds (b : Block) (k : Nat) (f : NDie → NDie) : (b.updNdie k f).ds = b.ds := rfl
@[simp] theorem Block.updNdie_beam (b : Block) (k : Nat) (f : NDie → NDie) : (b.updNdie k f).beam = b.beam := rfl
@[simp] theorem Block.updNdie_weave (b : Block) (k : Nat) (f : NDie → NDie) : (b.updNdie k f).weave = b.weave := rfl
@[simp] theorem Block.updNdie_fuse (b : Block) (k : Nat) (f : NDie → NDie) : (b.updNdie k f).fuse = b.fuse := rfl
@[simp] theorem Block.updNdie_cons (b : Block) (k : Nat) (f : NDie → NDie) : (b.updNdie k f).cons = b.cons := rfl
@[simp] theorem Block.updNdie_heads (b : Block) (k : Nat) (f : NDie → NDie) : (b.updNdie k f).heads = b.heads := rfl
@[simp] theorem Block.updNdie_hdl (b : Block) (k : Nat) (f : NDie → NDie) : (b.updNdie k f).hdl = b.hdl := rfl
@[simp] theorem Block.updNdie_sl (b : Block) (k : Nat) (f : NDie → NDie) : (b.updNdie k f).sl = b.sl := rfl
@[simp] theorem Block.updNdie_fab (b : Block) (k : Nat) (f : NDie → NDie) : (b.updNdie k f).fab = b.fab := rfl
@[simp] theorem Block.updNdie_boot (b : Block) (k : Nat) (f : NDie → NDie) : (b.updNdie k f).boot = b.boot := rfl
@[simp] theorem Block.updNdie_ward (b : Block) (k : Nat) (f : NDie → NDie) : (b.updNdie k f).ward = b.ward := rfl
@[simp] theorem Block.updNdie_lands (b : Block) (k : Nat) (f : NDie → NDie) : (b.updNdie k f).lands = b.lands := rfl
@[simp] theorem Block.updNdie_same (b : Block) (k : Nat) (f : NDie → NDie) : (b.updNdie k f).ndie k = f (b.ndie k) := tabGet_tabUpd_same _ _ _ _
theorem Block.updNdie_other (b : Block) {k l : Nat} (f : NDie → NDie) (h : l ≠ k) : (b.updNdie k f).ndie l = b.ndie l := tabGet_tabUpd_other _ _ _ h

/-! ### updNblock -/

@[simp] theorem Block.updNblock_regs (b : Block) (k : Nat) (f : NBlock → NBlock) : (b.updNblock k f).regs = b.regs := rfl
@[simp] theorem Block.updNblock_logs (b : Block) (k : Nat) (f : NBlock → NBlock) : (b.updNblock k f).logs = b.logs := rfl
@[simp] theorem Block.updNblock_out (b : Block) (k : Nat) (f : NBlock → NBlock) : (b.updNblock k f).out = b.out := rfl
@[simp] theorem Block.updNblock_time (b : Block) (k : Nat) (f : NBlock → NBlock) : (b.updNblock k f).time = b.time := rfl
@[simp] theorem Block.updNblock_hq (b : Block) (k : Nat) (f : NBlock → NBlock) : (b.updNblock k f).hq = b.hq := rfl
@[simp] theorem Block.updNblock_ing (b : Block) (k : Nat) (f : NBlock → NBlock) : (b.updNblock k f).ing = b.ing := rfl
@[simp] theorem Block.updNblock_card (b : Block) (k : Nat) (f : NBlock → NBlock) : (b.updNblock k f).card = b.card := rfl
@[simp] theorem Block.updNblock_ciph (b : Block) (k : Nat) (f : NBlock → NBlock) : (b.updNblock k f).ciph = b.ciph := rfl
@[simp] theorem Block.updNblock_ds (b : Block) (k : Nat) (f : NBlock → NBlock) : (b.updNblock k f).ds = b.ds := rfl
@[simp] theorem Block.updNblock_beam (b : Block) (k : Nat) (f : NBlock → NBlock) : (b.updNblock k f).beam = b.beam := rfl
@[simp] theorem Block.updNblock_weave (b : Block) (k : Nat) (f : NBlock → NBlock) : (b.updNblock k f).weave = b.weave := rfl
@[simp] theorem Block.updNblock_fuse (b : Block) (k : Nat) (f : NBlock → NBlock) : (b.updNblock k f).fuse = b.fuse := rfl
@[simp] theorem Block.updNblock_cons (b : Block) (k : Nat) (f : NBlock → NBlock) : (b.updNblock k f).cons = b.cons := rfl
@[simp] theorem Block.updNblock_heads (b : Block) (k : Nat) (f : NBlock → NBlock) : (b.updNblock k f).heads = b.heads := rfl
@[simp] theorem Block.updNblock_hdl (b : Block) (k : Nat) (f : NBlock → NBlock) : (b.updNblock k f).hdl = b.hdl := rfl
@[simp] theorem Block.updNblock_sl (b : Block) (k : Nat) (f : NBlock → NBlock) : (b.updNblock k f).sl = b.sl := rfl
@[simp] theorem Block.updNblock_fab (b : Block) (k : Nat) (f : NBlock → NBlock) : (b.updNblock k f).fab = b.fab := rfl
@[simp] theorem Block.updNblock_boot (b : Block) (k : Nat) (f : NBlock → NBlock) : (b.updNblock k f).boot = b.boot := rfl
@[simp] theorem Block.updNblock_ward (b : Block) (k : Nat) (f : NBlock → NBlock) : (b.updNblock k f).ward = b.ward := rfl
@[simp] theorem Block.updNblock_lands (b : Block) (k : Nat) (f : NBlock → NBlock) : (b.updNblock k f).lands = b.lands := rfl
@[simp] theorem Block.updNblock_same (b : Block) (k : Nat) (f : NBlock → NBlock) : (b.updNblock k f).nblock k = f (b.nblock k) := tabGet_tabUpd_same _ _ _ _
theorem Block.updNblock_other (b : Block) {k l : Nat} (f : NBlock → NBlock) (h : l ≠ k) : (b.updNblock k f).nblock l = b.nblock l := tabGet_tabUpd_other _ _ _ h

/-! ### updFab -/

@[simp] theorem Block.updFab_regs (b : Block) (f : Fabric → Fabric) : (b.updFab f).regs = b.regs := rfl
@[simp] theorem Block.updFab_logs (b : Block) (f : Fabric → Fabric) : (b.updFab f).logs = b.logs := rfl
@[simp] theorem Block.updFab_out (b : Block) (f : Fabric → Fabric) : (b.updFab f).out = b.out := rfl
@[simp] theorem Block.updFab_time (b : Block) (f : Fabric → Fabric) : (b.updFab f).time = b.time := rfl
@[simp] theorem Block.updFab_hq (b : Block) (f : Fabric → Fabric) : (b.updFab f).hq = b.hq := rfl
@[simp] theorem Block.updFab_ing (b : Block) (f : Fabric → Fabric) : (b.updFab f).ing = b.ing := rfl
@[simp] theorem Block.updFab_card (b : Block) (f : Fabric → Fabric) : (b.updFab f).card = b.card := rfl
@[simp] theorem Block.updFab_ciph (b : Block) (f : Fabric → Fabric) : (b.updFab f).ciph = b.ciph := rfl
@[simp] theorem Block.updFab_ds (b : Block) (f : Fabric → Fabric) : (b.updFab f).ds = b.ds := rfl
@[simp] theorem Block.updFab_beam (b : Block) (f : Fabric → Fabric) : (b.updFab f).beam = b.beam := rfl
@[simp] theorem Block.updFab_weave (b : Block) (f : Fabric → Fabric) : (b.updFab f).weave = b.weave := rfl
@[simp] theorem Block.updFab_ledg (b : Block) (f : Fabric → Fabric) : (b.updFab f).ledg = b.ledg := rfl
@[simp] theorem Block.updFab_fuse (b : Block) (f : Fabric → Fabric) : (b.updFab f).fuse = b.fuse := rfl
@[simp] theorem Block.updFab_cons (b : Block) (f : Fabric → Fabric) : (b.updFab f).cons = b.cons := rfl
@[simp] theorem Block.updFab_heads (b : Block) (f : Fabric → Fabric) : (b.updFab f).heads = b.heads := rfl
@[simp] theorem Block.updFab_hdl (b : Block) (f : Fabric → Fabric) : (b.updFab f).hdl = b.hdl := rfl
@[simp] theorem Block.updFab_sl (b : Block) (f : Fabric → Fabric) : (b.updFab f).sl = b.sl := rfl
@[simp] theorem Block.updFab_boot (b : Block) (f : Fabric → Fabric) : (b.updFab f).boot = b.boot := rfl
@[simp] theorem Block.updFab_ward (b : Block) (f : Fabric → Fabric) : (b.updFab f).ward = b.ward := rfl
@[simp] theorem Block.updFab_lands (b : Block) (f : Fabric → Fabric) : (b.updFab f).lands = b.lands := rfl

/-! ### updShut -/

@[simp] theorem Block.updShut_regs (b : Block) (k : Nat) (f : Shut → Shut) : (b.updShut k f).regs = b.regs := rfl
@[simp] theorem Block.updShut_logs (b : Block) (k : Nat) (f : Shut → Shut) : (b.updShut k f).logs = b.logs := rfl
@[simp] theorem Block.updShut_out (b : Block) (k : Nat) (f : Shut → Shut) : (b.updShut k f).out = b.out := rfl
@[simp] theorem Block.updShut_time (b : Block) (k : Nat) (f : Shut → Shut) : (b.updShut k f).time = b.time := rfl
@[simp] theorem Block.updShut_hq (b : Block) (k : Nat) (f : Shut → Shut) : (b.updShut k f).hq = b.hq := rfl
@[simp] theorem Block.updShut_ing (b : Block) (k : Nat) (f : Shut → Shut) : (b.updShut k f).ing = b.ing := rfl
@[simp] theorem Block.updShut_card (b : Block) (k : Nat) (f : Shut → Shut) : (b.updShut k f).card = b.card := rfl
@[simp] theorem Block.updShut_ciph (b : Block) (k : Nat) (f : Shut → Shut) : (b.updShut k f).ciph = b.ciph := rfl
@[simp] theorem Block.updShut_ds (b : Block) (k : Nat) (f : Shut → Shut) : (b.updShut k f).ds = b.ds := rfl
@[simp] theorem Block.updShut_beam (b : Block) (k : Nat) (f : Shut → Shut) : (b.updShut k f).beam = b.beam := rfl
@[simp] theorem Block.updShut_weave (b : Block) (k : Nat) (f : Shut → Shut) : (b.updShut k f).weave = b.weave := rfl
@[simp] theorem Block.updShut_ledg (b : Block) (k : Nat) (f : Shut → Shut) : (b.updShut k f).ledg = b.ledg := rfl
@[simp] theorem Block.updShut_fuse (b : Block) (k : Nat) (f : Shut → Shut) : (b.updShut k f).fuse = b.fuse := rfl
@[simp] theorem Block.updShut_cons (b : Block) (k : Nat) (f : Shut → Shut) : (b.updShut k f).cons = b.cons := rfl
@[simp] theorem Block.updShut_heads (b : Block) (k : Nat) (f : Shut → Shut) : (b.updShut k f).heads = b.heads := rfl
@[simp] theorem Block.updShut_hdl (b : Block) (k : Nat) (f : Shut → Shut) : (b.updShut k f).hdl = b.hdl := rfl
@[simp] theorem Block.updShut_sl (b : Block) (k : Nat) (f : Shut → Shut) : (b.updShut k f).sl = b.sl := rfl
@[simp] theorem Block.updShut_boot (b : Block) (k : Nat) (f : Shut → Shut) : (b.updShut k f).boot = b.boot := rfl
@[simp] theorem Block.updShut_ward (b : Block) (k : Nat) (f : Shut → Shut) : (b.updShut k f).ward = b.ward := rfl
@[simp] theorem Block.updShut_lands (b : Block) (k : Nat) (f : Shut → Shut) : (b.updShut k f).lands = b.lands := rfl
@[simp] theorem Block.updShut_same (b : Block) (k : Nat) (f : Shut → Shut) : (b.updShut k f).shut k = f (b.shut k) := tabGet_tabUpd_same _ _ _ _
theorem Block.updShut_other (b : Block) {k l : Nat} (f : Shut → Shut) (h : l ≠ k) : (b.updShut k f).shut l = b.shut l := tabGet_tabUpd_other _ _ _ h

/-! ### updTime -/

@[simp] theorem Block.updTime_regs (b : Block) (f : TimeSt → TimeSt) : (b.updTime f).regs = b.regs := rfl
@[simp] theorem Block.updTime_logs (b : Block) (f : TimeSt → TimeSt) : (b.updTime f).logs = b.logs := rfl
@[simp] theorem Block.updTime_out (b : Block) (f : TimeSt → TimeSt) : (b.updTime f).out = b.out := rfl
@[simp] theorem Block.updTime_hq (b : Block) (f : TimeSt → TimeSt) : (b.updTime f).hq = b.hq := rfl
@[simp] theorem Block.updTime_ing (b : Block) (f : TimeSt → TimeSt) : (b.updTime f).ing = b.ing := rfl
@[simp] theorem Block.updTime_card (b : Block) (f : TimeSt → TimeSt) : (b.updTime f).card = b.card := rfl
@[simp] theorem Block.updTime_ciph (b : Block) (f : TimeSt → TimeSt) : (b.updTime f).ciph = b.ciph := rfl
@[simp] theorem Block.updTime_ds (b : Block) (f : TimeSt → TimeSt) : (b.updTime f).ds = b.ds := rfl
@[simp] theorem Block.updTime_beam (b : Block) (f : TimeSt → TimeSt) : (b.updTime f).beam = b.beam := rfl
@[simp] theorem Block.updTime_weave (b : Block) (f : TimeSt → TimeSt) : (b.updTime f).weave = b.weave := rfl
@[simp] theorem Block.updTime_ledg (b : Block) (f : TimeSt → TimeSt) : (b.updTime f).ledg = b.ledg := rfl
@[simp] theorem Block.updTime_fuse (b : Block) (f : TimeSt → TimeSt) : (b.updTime f).fuse = b.fuse := rfl
@[simp] theorem Block.updTime_cons (b : Block) (f : TimeSt → TimeSt) : (b.updTime f).cons = b.cons := rfl
@[simp] theorem Block.updTime_heads (b : Block) (f : TimeSt → TimeSt) : (b.updTime f).heads = b.heads := rfl
@[simp] theorem Block.updTime_hdl (b : Block) (f : TimeSt → TimeSt) : (b.updTime f).hdl = b.hdl := rfl
@[simp] theorem Block.updTime_sl (b : Block) (f : TimeSt → TimeSt) : (b.updTime f).sl = b.sl := rfl
@[simp] theorem Block.updTime_fab (b : Block) (f : TimeSt → TimeSt) : (b.updTime f).fab = b.fab := rfl
@[simp] theorem Block.updTime_boot (b : Block) (f : TimeSt → TimeSt) : (b.updTime f).boot = b.boot := rfl
@[simp] theorem Block.updTime_ward (b : Block) (f : TimeSt → TimeSt) : (b.updTime f).ward = b.ward := rfl
@[simp] theorem Block.updTime_lands (b : Block) (f : TimeSt → TimeSt) : (b.updTime f).lands = b.lands := rfl

/-! ### updWard -/

@[simp] theorem Block.updWard_regs (b : Block) (f : Warden → Warden) : (b.updWard f).regs = b.regs := rfl
@[simp] theorem Block.updWard_logs (b : Block) (f : Warden → Warden) : (b.updWard f).logs = b.logs := rfl
@[simp] theorem Block.updWard_out (b : Block) (f : Warden → Warden) : (b.updWard f).out = b.out := rfl
@[simp] theorem Block.updWard_time (b : Block) (f : Warden → Warden) : (b.updWard f).time = b.time := rfl
@[simp] theorem Block.updWard_hq (b : Block) (f : Warden → Warden) : (b.updWard f).hq = b.hq := rfl
@[simp] theorem Block.updWard_ing (b : Block) (f : Warden → Warden) : (b.updWard f).ing = b.ing := rfl
@[simp] theorem Block.updWard_card (b : Block) (f : Warden → Warden) : (b.updWard f).card = b.card := rfl
@[simp] theorem Block.updWard_ciph (b : Block) (f : Warden → Warden) : (b.updWard f).ciph = b.ciph := rfl
@[simp] theorem Block.updWard_ds (b : Block) (f : Warden → Warden) : (b.updWard f).ds = b.ds := rfl
@[simp] theorem Block.updWard_beam (b : Block) (f : Warden → Warden) : (b.updWard f).beam = b.beam := rfl
@[simp] theorem Block.updWard_weave (b : Block) (f : Warden → Warden) : (b.updWard f).weave = b.weave := rfl
@[simp] theorem Block.updWard_ledg (b : Block) (f : Warden → Warden) : (b.updWard f).ledg = b.ledg := rfl
@[simp] theorem Block.updWard_fuse (b : Block) (f : Warden → Warden) : (b.updWard f).fuse = b.fuse := rfl
@[simp] theorem Block.updWard_cons (b : Block) (f : Warden → Warden) : (b.updWard f).cons = b.cons := rfl
@[simp] theorem Block.updWard_heads (b : Block) (f : Warden → Warden) : (b.updWard f).heads = b.heads := rfl
@[simp] theorem Block.updWard_hdl (b : Block) (f : Warden → Warden) : (b.updWard f).hdl = b.hdl := rfl
@[simp] theorem Block.updWard_sl (b : Block) (f : Warden → Warden) : (b.updWard f).sl = b.sl := rfl
@[simp] theorem Block.updWard_fab (b : Block) (f : Warden → Warden) : (b.updWard f).fab = b.fab := rfl
@[simp] theorem Block.updWard_boot (b : Block) (f : Warden → Warden) : (b.updWard f).boot = b.boot := rfl
@[simp] theorem Block.updWard_lands (b : Block) (f : Warden → Warden) : (b.updWard f).lands = b.lands := rfl

/-! ### updWardCh -/

@[simp] theorem Block.updWardCh_regs (b : Block) (k : Nat) (f : WardCh → WardCh) : (b.updWardCh k f).regs = b.regs := rfl
@[simp] theorem Block.updWardCh_logs (b : Block) (k : Nat) (f : WardCh → WardCh) : (b.updWardCh k f).logs = b.logs := rfl
@[simp] theorem Block.updWardCh_out (b : Block) (k : Nat) (f : WardCh → WardCh) : (b.updWardCh k f).out = b.out := rfl
@[simp] theorem Block.updWardCh_time (b : Block) (k : Nat) (f : WardCh → WardCh) : (b.updWardCh k f).time = b.time := rfl
@[simp] theorem Block.updWardCh_hq (b : Block) (k : Nat) (f : WardCh → WardCh) : (b.updWardCh k f).hq = b.hq := rfl
@[simp] theorem Block.updWardCh_ing (b : Block) (k : Nat) (f : WardCh → WardCh) : (b.updWardCh k f).ing = b.ing := rfl
@[simp] theorem Block.updWardCh_card (b : Block) (k : Nat) (f : WardCh → WardCh) : (b.updWardCh k f).card = b.card := rfl
@[simp] theorem Block.updWardCh_ciph (b : Block) (k : Nat) (f : WardCh → WardCh) : (b.updWardCh k f).ciph = b.ciph := rfl
@[simp] theorem Block.updWardCh_ds (b : Block) (k : Nat) (f : WardCh → WardCh) : (b.updWardCh k f).ds = b.ds := rfl
@[simp] theorem Block.updWardCh_beam (b : Block) (k : Nat) (f : WardCh → WardCh) : (b.updWardCh k f).beam = b.beam := rfl
@[simp] theorem Block.updWardCh_weave (b : Block) (k : Nat) (f : WardCh → WardCh) : (b.updWardCh k f).weave = b.weave := rfl
@[simp] theorem Block.updWardCh_ledg (b : Block) (k : Nat) (f : WardCh → WardCh) : (b.updWardCh k f).ledg = b.ledg := rfl
@[simp] theorem Block.updWardCh_fuse (b : Block) (k : Nat) (f : WardCh → WardCh) : (b.updWardCh k f).fuse = b.fuse := rfl
@[simp] theorem Block.updWardCh_cons (b : Block) (k : Nat) (f : WardCh → WardCh) : (b.updWardCh k f).cons = b.cons := rfl
@[simp] theorem Block.updWardCh_heads (b : Block) (k : Nat) (f : WardCh → WardCh) : (b.updWardCh k f).heads = b.heads := rfl
@[simp] theorem Block.updWardCh_hdl (b : Block) (k : Nat) (f : WardCh → WardCh) : (b.updWardCh k f).hdl = b.hdl := rfl
@[simp] theorem Block.updWardCh_sl (b : Block) (k : Nat) (f : WardCh → WardCh) : (b.updWardCh k f).sl = b.sl := rfl
@[simp] theorem Block.updWardCh_fab (b : Block) (k : Nat) (f : WardCh → WardCh) : (b.updWardCh k f).fab = b.fab := rfl
@[simp] theorem Block.updWardCh_boot (b : Block) (k : Nat) (f : WardCh → WardCh) : (b.updWardCh k f).boot = b.boot := rfl
@[simp] theorem Block.updWardCh_lands (b : Block) (k : Nat) (f : WardCh → WardCh) : (b.updWardCh k f).lands = b.lands := rfl
@[simp] theorem Block.updWardCh_same (b : Block) (k : Nat) (f : WardCh → WardCh) : (b.updWardCh k f).wardCh k = f (b.wardCh k) := tabGet_tabUpd_same _ _ _ _
theorem Block.updWardCh_other (b : Block) {k l : Nat} (f : WardCh → WardCh) (h : l ≠ k) : (b.updWardCh k f).wardCh l = b.wardCh l := tabGet_tabUpd_other _ _ _ h

/-! ### Registers -/

@[simp] theorem regPut_logs (b : Block) (a v : Nat) : (regPut b a v).logs = b.logs := rfl
@[simp] theorem regPut_out (b : Block) (a v : Nat) : (regPut b a v).out = b.out := rfl
@[simp] theorem regPut_time (b : Block) (a v : Nat) : (regPut b a v).time = b.time := rfl
@[simp] theorem regPut_hq (b : Block) (a v : Nat) : (regPut b a v).hq = b.hq := rfl
@[simp] theorem regPut_ing (b : Block) (a v : Nat) : (regPut b a v).ing = b.ing := rfl
@[simp] theorem regPut_card (b : Block) (a v : Nat) : (regPut b a v).card = b.card := rfl
@[simp] theorem regPut_ciph (b : Block) (a v : Nat) : (regPut b a v).ciph = b.ciph := rfl
@[simp] theorem regPut_ds (b : Block) (a v : Nat) : (regPut b a v).ds = b.ds := rfl
@[simp] theorem regPut_beam (b : Block) (a v : Nat) : (regPut b a v).beam = b.beam := rfl
@[simp] theorem regPut_weave (b : Block) (a v : Nat) : (regPut b a v).weave = b.weave := rfl
@[simp] theorem regPut_ledg (b : Block) (a v : Nat) : (regPut b a v).ledg = b.ledg := rfl
@[simp] theorem regPut_fuse (b : Block) (a v : Nat) : (regPut b a v).fuse = b.fuse := rfl
@[simp] theorem regPut_cons (b : Block) (a v : Nat) : (regPut b a v).cons = b.cons := rfl
@[simp] theorem regPut_heads (b : Block) (a v : Nat) : (regPut b a v).heads = b.heads := rfl
@[simp] theorem regPut_hdl (b : Block) (a v : Nat) : (regPut b a v).hdl = b.hdl := rfl
@[simp] theorem regPut_sl (b : Block) (a v : Nat) : (regPut b a v).sl = b.sl := rfl
@[simp] theorem regPut_fab (b : Block) (a v : Nat) : (regPut b a v).fab = b.fab := rfl
@[simp] theorem regPut_boot (b : Block) (a v : Nat) : (regPut b a v).boot = b.boot := rfl
@[simp] theorem regPut_ward (b : Block) (a v : Nat) : (regPut b a v).ward = b.ward := rfl
@[simp] theorem regPut_lands (b : Block) (a v : Nat) : (regPut b a v).lands = b.lands := rfl

/-! ### Fields -/

@[simp] theorem wr_logs (b : Block) (f : Fld) (v : Nat) : (wr b f v).logs = b.logs := rfl
@[simp] theorem wr_out (b : Block) (f : Fld) (v : Nat) : (wr b f v).out = b.out := rfl
@[simp] theorem wr_time (b : Block) (f : Fld) (v : Nat) : (wr b f v).time = b.time := rfl
@[simp] theorem wr_hq (b : Block) (f : Fld) (v : Nat) : (wr b f v).hq = b.hq := rfl
@[simp] theorem wr_ing (b : Block) (f : Fld) (v : Nat) : (wr b f v).ing = b.ing := rfl
@[simp] theorem wr_card (b : Block) (f : Fld) (v : Nat) : (wr b f v).card = b.card := rfl
@[simp] theorem wr_ciph (b : Block) (f : Fld) (v : Nat) : (wr b f v).ciph = b.ciph := rfl
@[simp] theorem wr_ds (b : Block) (f : Fld) (v : Nat) : (wr b f v).ds = b.ds := rfl
@[simp] theorem wr_beam (b : Block) (f : Fld) (v : Nat) : (wr b f v).beam = b.beam := rfl
@[simp] theorem wr_weave (b : Block) (f : Fld) (v : Nat) : (wr b f v).weave = b.weave := rfl
@[simp] theorem wr_ledg (b : Block) (f : Fld) (v : Nat) : (wr b f v).ledg = b.ledg := rfl
@[simp] theorem wr_fuse (b : Block) (f : Fld) (v : Nat) : (wr b f v).fuse = b.fuse := rfl
@[simp] theorem wr_cons (b : Block) (f : Fld) (v : Nat) : (wr b f v).cons = b.cons := rfl
@[simp] theorem wr_heads (b : Block) (f : Fld) (v : Nat) : (wr b f v).heads = b.heads := rfl
@[simp] theorem wr_hdl (b : Block) (f : Fld) (v : Nat) : (wr b f v).hdl = b.hdl := rfl
@[simp] theorem wr_sl (b : Block) (f : Fld) (v : Nat) : (wr b f v).sl = b.sl := rfl
@[simp] theorem wr_fab (b : Block) (f : Fld) (v : Nat) : (wr b f v).fab = b.fab := rfl
@[simp] theorem wr_boot (b : Block) (f : Fld) (v : Nat) : (wr b f v).boot = b.boot := rfl
@[simp] theorem wr_ward (b : Block) (f : Fld) (v : Nat) : (wr b f v).ward = b.ward := rfl
@[simp] theorem wr_lands (b : Block) (f : Fld) (v : Nat) : (wr b f v).lands = b.lands := rfl

/-! ### Fields, truth values -/

@[simp] theorem wrB_logs (b : Block) (f : Fld) (v : Bool) : (wrB b f v).logs = b.logs := rfl
@[simp] theorem wrB_out (b : Block) (f : Fld) (v : Bool) : (wrB b f v).out = b.out := rfl
@[simp] theorem wrB_time (b : Block) (f : Fld) (v : Bool) : (wrB b f v).time = b.time := rfl
@[simp] theorem wrB_hq (b : Block) (f : Fld) (v : Bool) : (wrB b f v).hq = b.hq := rfl
@[simp] theorem wrB_ing (b : Block) (f : Fld) (v : Bool) : (wrB b f v).ing = b.ing := rfl
@[simp] theorem wrB_card (b : Block) (f : Fld) (v : Bool) : (wrB b f v).card = b.card := rfl
@[simp] theorem wrB_ciph (b : Block) (f : Fld) (v : Bool) : (wrB b f v).ciph = b.ciph := rfl
@[simp] theorem wrB_ds (b : Block) (f : Fld) (v : Bool) : (wrB b f v).ds = b.ds := rfl
@[simp] theorem wrB_beam (b : Block) (f : Fld) (v : Bool) : (wrB b f v).beam = b.beam := rfl
@[simp] theorem wrB_weave (b : Block) (f : Fld) (v : Bool) : (wrB b f v).weave = b.weave := rfl
@[simp] theorem wrB_ledg (b : Block) (f : Fld) (v : Bool) : (wrB b f v).ledg = b.ledg := rfl
@[simp] theorem wrB_fuse (b : Block) (f : Fld) (v : Bool) : (wrB b f v).fuse = b.fuse := rfl
@[simp] theorem wrB_cons (b : Block) (f : Fld) (v : Bool) : (wrB b f v).cons = b.cons := rfl
@[simp] theorem wrB_heads (b : Block) (f : Fld) (v : Bool) : (wrB b f v).heads = b.heads := rfl
@[simp] theorem wrB_hdl (b : Block) (f : Fld) (v : Bool) : (wrB b f v).hdl = b.hdl := rfl
@[simp] theorem wrB_sl (b : Block) (f : Fld) (v : Bool) : (wrB b f v).sl = b.sl := rfl
@[simp] theorem wrB_fab (b : Block) (f : Fld) (v : Bool) : (wrB b f v).fab = b.fab := rfl
@[simp] theorem wrB_boot (b : Block) (f : Fld) (v : Bool) : (wrB b f v).boot = b.boot := rfl
@[simp] theorem wrB_ward (b : Block) (f : Fld) (v : Bool) : (wrB b f v).ward = b.ward := rfl
@[simp] theorem wrB_lands (b : Block) (f : Fld) (v : Bool) : (wrB b f v).lands = b.lands := rfl

/-! ### Fields, signed -/

@[simp] theorem wrS_logs (b : Block) (f : Fld) (v : Int) : (wrS b f v).logs = b.logs := rfl
@[simp] theorem wrS_out (b : Block) (f : Fld) (v : Int) : (wrS b f v).out = b.out := rfl
@[simp] theorem wrS_time (b : Block) (f : Fld) (v : Int) : (wrS b f v).time = b.time := rfl
@[simp] theorem wrS_hq (b : Block) (f : Fld) (v : Int) : (wrS b f v).hq = b.hq := rfl
@[simp] theorem wrS_ing (b : Block) (f : Fld) (v : Int) : (wrS b f v).ing = b.ing := rfl
@[simp] theorem wrS_card (b : Block) (f : Fld) (v : Int) : (wrS b f v).card = b.card := rfl
@[simp] theorem wrS_ciph (b : Block) (f : Fld) (v : Int) : (wrS b f v).ciph = b.ciph := rfl
@[simp] theorem wrS_ds (b : Block) (f : Fld) (v : Int) : (wrS b f v).ds = b.ds := rfl
@[simp] theorem wrS_beam (b : Block) (f : Fld) (v : Int) : (wrS b f v).beam = b.beam := rfl
@[simp] theorem wrS_weave (b : Block) (f : Fld) (v : Int) : (wrS b f v).weave = b.weave := rfl
@[simp] theorem wrS_ledg (b : Block) (f : Fld) (v : Int) : (wrS b f v).ledg = b.ledg := rfl
@[simp] theorem wrS_fuse (b : Block) (f : Fld) (v : Int) : (wrS b f v).fuse = b.fuse := rfl
@[simp] theorem wrS_cons (b : Block) (f : Fld) (v : Int) : (wrS b f v).cons = b.cons := rfl
@[simp] theorem wrS_heads (b : Block) (f : Fld) (v : Int) : (wrS b f v).heads = b.heads := rfl
@[simp] theorem wrS_hdl (b : Block) (f : Fld) (v : Int) : (wrS b f v).hdl = b.hdl := rfl
@[simp] theorem wrS_sl (b : Block) (f : Fld) (v : Int) : (wrS b f v).sl = b.sl := rfl
@[simp] theorem wrS_fab (b : Block) (f : Fld) (v : Int) : (wrS b f v).fab = b.fab := rfl
@[simp] theorem wrS_boot (b : Block) (f : Fld) (v : Int) : (wrS b f v).boot = b.boot := rfl
@[simp] theorem wrS_ward (b : Block) (f : Fld) (v : Int) : (wrS b f v).ward = b.ward := rfl
@[simp] theorem wrS_lands (b : Block) (f : Fld) (v : Int) : (wrS b f v).lands = b.lands := rfl

/-! ### Counts -/

@[simp] theorem inc_logs (b : Block) (f : Fld) (n : Nat) : (inc b f n).logs = b.logs := rfl
@[simp] theorem inc_out (b : Block) (f : Fld) (n : Nat) : (inc b f n).out = b.out := rfl
@[simp] theorem inc_time (b : Block) (f : Fld) (n : Nat) : (inc b f n).time = b.time := rfl
@[simp] theorem inc_hq (b : Block) (f : Fld) (n : Nat) : (inc b f n).hq = b.hq := rfl
@[simp] theorem inc_ing (b : Block) (f : Fld) (n : Nat) : (inc b f n).ing = b.ing := rfl
@[simp] theorem inc_card (b : Block) (f : Fld) (n : Nat) : (inc b f n).card = b.card := rfl
@[simp] theorem inc_ciph (b : Block) (f : Fld) (n : Nat) : (inc b f n).ciph = b.ciph := rfl
@[simp] theorem inc_ds (b : Block) (f : Fld) (n : Nat) : (inc b f n).ds = b.ds := rfl
@[simp] theorem inc_beam (b : Block) (f : Fld) (n : Nat) : (inc b f n).beam = b.beam := rfl
@[simp] theorem inc_weave (b : Block) (f : Fld) (n : Nat) : (inc b f n).weave = b.weave := rfl
@[simp] theorem inc_ledg (b : Block) (f : Fld) (n : Nat) : (inc b f n).ledg = b.ledg := rfl
@[simp] theorem inc_fuse (b : Block) (f : Fld) (n : Nat) : (inc b f n).fuse = b.fuse := rfl
@[simp] theorem inc_cons (b : Block) (f : Fld) (n : Nat) : (inc b f n).cons = b.cons := rfl
@[simp] theorem inc_heads (b : Block) (f : Fld) (n : Nat) : (inc b f n).heads = b.heads := rfl
@[simp] theorem inc_hdl (b : Block) (f : Fld) (n : Nat) : (inc b f n).hdl = b.hdl := rfl
@[simp] theorem inc_sl (b : Block) (f : Fld) (n : Nat) : (inc b f n).sl = b.sl := rfl
@[simp] theorem inc_fab (b : Block) (f : Fld) (n : Nat) : (inc b f n).fab = b.fab := rfl
@[simp] theorem inc_boot (b : Block) (f : Fld) (n : Nat) : (inc b f n).boot = b.boot := rfl
@[simp] theorem inc_ward (b : Block) (f : Fld) (n : Nat) : (inc b f n).ward = b.ward := rfl
@[simp] theorem inc_lands (b : Block) (f : Fld) (n : Nat) : (inc b f n).lands = b.lands := rfl

/-! ### Outputs -/

@[simp] theorem emit_regs (b : Block) (x : Output) : (emit b x).regs = b.regs := rfl
@[simp] theorem emit_logs (b : Block) (x : Output) : (emit b x).logs = b.logs := rfl
@[simp] theorem emit_time (b : Block) (x : Output) : (emit b x).time = b.time := rfl
@[simp] theorem emit_hq (b : Block) (x : Output) : (emit b x).hq = b.hq := rfl
@[simp] theorem emit_ing (b : Block) (x : Output) : (emit b x).ing = b.ing := rfl
@[simp] theorem emit_card (b : Block) (x : Output) : (emit b x).card = b.card := rfl
@[simp] theorem emit_ciph (b : Block) (x : Output) : (emit b x).ciph = b.ciph := rfl
@[simp] theorem emit_ds (b : Block) (x : Output) : (emit b x).ds = b.ds := rfl
@[simp] theorem emit_beam (b : Block) (x : Output) : (emit b x).beam = b.beam := rfl
@[simp] theorem emit_weave (b : Block) (x : Output) : (emit b x).weave = b.weave := rfl
@[simp] theorem emit_ledg (b : Block) (x : Output) : (emit b x).ledg = b.ledg := rfl
@[simp] theorem emit_fuse (b : Block) (x : Output) : (emit b x).fuse = b.fuse := rfl
@[simp] theorem emit_cons (b : Block) (x : Output) : (emit b x).cons = b.cons := rfl
@[simp] theorem emit_heads (b : Block) (x : Output) : (emit b x).heads = b.heads := rfl
@[simp] theorem emit_hdl (b : Block) (x : Output) : (emit b x).hdl = b.hdl := rfl
@[simp] theorem emit_sl (b : Block) (x : Output) : (emit b x).sl = b.sl := rfl
@[simp] theorem emit_fab (b : Block) (x : Output) : (emit b x).fab = b.fab := rfl
@[simp] theorem emit_boot (b : Block) (x : Output) : (emit b x).boot = b.boot := rfl
@[simp] theorem emit_ward (b : Block) (x : Output) : (emit b x).ward = b.ward := rfl
@[simp] theorem emit_lands (b : Block) (x : Output) : (emit b x).lands = b.lands := rfl

@[simp] theorem emit_out (b : Block) (x : Output) : (emit b x).out = b.out ++ [x] := rfl

/-! ### Log pages -/

@[simp] theorem logAppend_regs (b : Block) (p : Nat) (e : Bytes) : (logAppend b p e).regs = b.regs := rfl
@[simp] theorem logAppend_out (b : Block) (p : Nat) (e : Bytes) : (logAppend b p e).out = b.out := rfl
@[simp] theorem logAppend_time (b : Block) (p : Nat) (e : Bytes) : (logAppend b p e).time = b.time := rfl
@[simp] theorem logAppend_hq (b : Block) (p : Nat) (e : Bytes) : (logAppend b p e).hq = b.hq := rfl
@[simp] theorem logAppend_ing (b : Block) (p : Nat) (e : Bytes) : (logAppend b p e).ing = b.ing := rfl
@[simp] theorem logAppend_card (b : Block) (p : Nat) (e : Bytes) : (logAppend b p e).card = b.card := rfl
@[simp] theorem logAppend_ciph (b : Block) (p : Nat) (e : Bytes) : (logAppend b p e).ciph = b.ciph := rfl
@[simp] theorem logAppend_ds (b : Block) (p : Nat) (e : Bytes) : (logAppend b p e).ds = b.ds := rfl
@[simp] theorem logAppend_beam (b : Block) (p : Nat) (e : Bytes) : (logAppend b p e).beam = b.beam := rfl
@[simp] theorem logAppend_weave (b : Block) (p : Nat) (e : Bytes) : (logAppend b p e).weave = b.weave := rfl
@[simp] theorem logAppend_ledg (b : Block) (p : Nat) (e : Bytes) : (logAppend b p e).ledg = b.ledg := rfl
@[simp] theorem logAppend_fuse (b : Block) (p : Nat) (e : Bytes) : (logAppend b p e).fuse = b.fuse := rfl
@[simp] theorem logAppend_cons (b : Block) (p : Nat) (e : Bytes) : (logAppend b p e).cons = b.cons := rfl
@[simp] theorem logAppend_heads (b : Block) (p : Nat) (e : Bytes) : (logAppend b p e).heads = b.heads := rfl
@[simp] theorem logAppend_hdl (b : Block) (p : Nat) (e : Bytes) : (logAppend b p e).hdl = b.hdl := rfl
@[simp] theorem logAppend_sl (b : Block) (p : Nat) (e : Bytes) : (logAppend b p e).sl = b.sl := rfl
@[simp] theorem logAppend_fab (b : Block) (p : Nat) (e : Bytes) : (logAppend b p e).fab = b.fab := rfl
@[simp] theorem logAppend_boot (b : Block) (p : Nat) (e : Bytes) : (logAppend b p e).boot = b.boot := rfl
@[simp] theorem logAppend_ward (b : Block) (p : Nat) (e : Bytes) : (logAppend b p e).ward = b.ward := rfl
@[simp] theorem logAppend_lands (b : Block) (p : Nat) (e : Bytes) : (logAppend b p e).lands = b.lands := rfl

/-! ### Loom time -/

@[simp] theorem elapse_regs (dt : Nat) (b : Block) : (elapse dt b).regs = b.regs := rfl
@[simp] theorem elapse_logs (dt : Nat) (b : Block) : (elapse dt b).logs = b.logs := rfl
@[simp] theorem elapse_out (dt : Nat) (b : Block) : (elapse dt b).out = b.out := rfl
@[simp] theorem elapse_hq (dt : Nat) (b : Block) : (elapse dt b).hq = b.hq := rfl
@[simp] theorem elapse_ing (dt : Nat) (b : Block) : (elapse dt b).ing = b.ing := rfl
@[simp] theorem elapse_card (dt : Nat) (b : Block) : (elapse dt b).card = b.card := rfl
@[simp] theorem elapse_ciph (dt : Nat) (b : Block) : (elapse dt b).ciph = b.ciph := rfl
@[simp] theorem elapse_ds (dt : Nat) (b : Block) : (elapse dt b).ds = b.ds := rfl
@[simp] theorem elapse_beam (dt : Nat) (b : Block) : (elapse dt b).beam = b.beam := rfl
@[simp] theorem elapse_weave (dt : Nat) (b : Block) : (elapse dt b).weave = b.weave := rfl
@[simp] theorem elapse_ledg (dt : Nat) (b : Block) : (elapse dt b).ledg = b.ledg := rfl
@[simp] theorem elapse_fuse (dt : Nat) (b : Block) : (elapse dt b).fuse = b.fuse := rfl
@[simp] theorem elapse_cons (dt : Nat) (b : Block) : (elapse dt b).cons = b.cons := rfl
@[simp] theorem elapse_heads (dt : Nat) (b : Block) : (elapse dt b).heads = b.heads := rfl
@[simp] theorem elapse_hdl (dt : Nat) (b : Block) : (elapse dt b).hdl = b.hdl := rfl
@[simp] theorem elapse_sl (dt : Nat) (b : Block) : (elapse dt b).sl = b.sl := rfl
@[simp] theorem elapse_fab (dt : Nat) (b : Block) : (elapse dt b).fab = b.fab := rfl
@[simp] theorem elapse_boot (dt : Nat) (b : Block) : (elapse dt b).boot = b.boot := rfl
@[simp] theorem elapse_ward (dt : Nat) (b : Block) : (elapse dt b).ward = b.ward := rfl
@[simp] theorem elapse_lands (dt : Nat) (b : Block) : (elapse dt b).lands = b.lands := rfl

/-! ### Events -/

@[simp] theorem setEvent_logs (b : Block) (i : Nat) : (setEvent b i).logs = b.logs := rfl
@[simp] theorem setEvent_out (b : Block) (i : Nat) : (setEvent b i).out = b.out := rfl
@[simp] theorem setEvent_time (b : Block) (i : Nat) : (setEvent b i).time = b.time := rfl
@[simp] theorem setEvent_hq (b : Block) (i : Nat) : (setEvent b i).hq = b.hq := rfl
@[simp] theorem setEvent_ing (b : Block) (i : Nat) : (setEvent b i).ing = b.ing := rfl
@[simp] theorem setEvent_card (b : Block) (i : Nat) : (setEvent b i).card = b.card := rfl
@[simp] theorem setEvent_ciph (b : Block) (i : Nat) : (setEvent b i).ciph = b.ciph := rfl
@[simp] theorem setEvent_ds (b : Block) (i : Nat) : (setEvent b i).ds = b.ds := rfl
@[simp] theorem setEvent_beam (b : Block) (i : Nat) : (setEvent b i).beam = b.beam := rfl
@[simp] theorem setEvent_weave (b : Block) (i : Nat) : (setEvent b i).weave = b.weave := rfl
@[simp] theorem setEvent_ledg (b : Block) (i : Nat) : (setEvent b i).ledg = b.ledg := rfl
@[simp] theorem setEvent_fuse (b : Block) (i : Nat) : (setEvent b i).fuse = b.fuse := rfl
@[simp] theorem setEvent_cons (b : Block) (i : Nat) : (setEvent b i).cons = b.cons := rfl
@[simp] theorem setEvent_heads (b : Block) (i : Nat) : (setEvent b i).heads = b.heads := rfl
@[simp] theorem setEvent_hdl (b : Block) (i : Nat) : (setEvent b i).hdl = b.hdl := rfl
@[simp] theorem setEvent_sl (b : Block) (i : Nat) : (setEvent b i).sl = b.sl := rfl
@[simp] theorem setEvent_fab (b : Block) (i : Nat) : (setEvent b i).fab = b.fab := rfl
@[simp] theorem setEvent_boot (b : Block) (i : Nat) : (setEvent b i).boot = b.boot := rfl
@[simp] theorem setEvent_ward (b : Block) (i : Nat) : (setEvent b i).ward = b.ward := rfl
@[simp] theorem setEvent_lands (b : Block) (i : Nat) : (setEvent b i).lands = b.lands := rfl

end Sys2Proof.Machine
end

