-- ==== Sys2Proof/Laws/Run.lean ====
section
/-!
SUPPORT. Sys2Proof/Laws/Run.lean: the frame of a step: what the passing of time leaves alone, when settling leaves a block as it is, and
how a write from the host reaches its register.
-/

namespace Sys2Proof.Machine

/-! ### The passing of time -/

@[simp] theorem begun_regs (dt : Nat) (s : State) : (begun dt s).regs = s.blk.regs := rfl
@[simp] theorem begun_logs (dt : Nat) (s : State) : (begun dt s).logs = s.blk.logs := rfl
@[simp] theorem begun_out (dt : Nat) (s : State) : (begun dt s).out = [] := rfl
@[simp] theorem begun_hq (dt : Nat) (s : State) : (begun dt s).hq = s.blk.hq := rfl
@[simp] theorem begun_ing (dt : Nat) (s : State) : (begun dt s).ing = s.blk.ing := rfl
@[simp] theorem begun_ciph (dt : Nat) (s : State) : (begun dt s).ciph = s.blk.ciph := rfl
@[simp] theorem begun_beam (dt : Nat) (s : State) : (begun dt s).beam = s.blk.beam := rfl
@[simp] theorem begun_weave (dt : Nat) (s : State) : (begun dt s).weave = s.blk.weave := rfl
@[simp] theorem begun_ward (dt : Nat) (s : State) : (begun dt s).ward = s.blk.ward := rfl
@[simp] theorem begun_boot (dt : Nat) (s : State) : (begun dt s).boot = s.blk.boot := rfl
@[simp] theorem awake_begun (dt : Nat) (s : State) : awake (begun dt s) = awake s.blk := rfl
@[simp] theorem eventsOn_begun (dt : Nat) (s : State) : eventsOn (begun dt s) = eventsOn s.blk := rfl

/-- A register is not changed by the passing of time. -/
@[simp] theorem rd_begun (dt : Nat) (s : State) (f : Fld) : rd (begun dt s) f = rd s.blk f := rfl
@[simp] theorem rdB_begun (dt : Nat) (s : State) (f : Fld) : rdB (begun dt s) f = rdB s.blk f := rfl

/-! ### Settling -/

/-- Settling leaves a block from which nothing follows. -/
theorem settle_of_still {b a : Block} (h : Still b a) : settle b a = a := by
  obtain ⟨hp, hr, he, hl⟩ := h
  have hw : when (awake a) a (fun b => sendWrites (pumpAll b)) = a := by unfold when; split <;> simp [hp]
  simp only [settle, hw, hr]
  cases h1 : eventsOn a with
  | false => simp [hl]
  | true => simp [he h1, hl]

/-- A command that runs, and from whose effect nothing follows, leaves its effect. -/
theorem runCmd_of_still {dt : Nat} {s : State} {f : Block → Block} (ha : awake s.blk = true)
    (h : Still (begun dt s) (f (begun dt s))) : runCmd dt s f = .next { s with blk := f (begun dt s) } := by
  simp [runCmd, ha, settle_of_still h]

/-- A command that runs leaves `after` of its effect. -/
theorem runCmd_awake {dt : Nat} {s : State} {f : Block → Block} (ha : awake s.blk = true) :
    runCmd dt s f = .next (after dt s f) := by
  simp [runCmd, ha, after]

/-- A command's effect counts only as far as it goes from the block it finds. -/
theorem after_congr {dt : Nat} {s : State} {f g : Block → Block} (h : f (begun dt s) = g (begun dt s)) : after dt s f = after dt s g := by
  simp [after, h]

/-! ### Ready tenants (R65) -/

/-- What `refreshReady` can do: it lists the ready tenants, and changes nothing else but tenants' records. -/
theorem refreshReady_shape (b : Block) :
    ∃ tn, refreshReady b = { b with hq := { b.hq with tenants := tn, ready := readyTenants b } } := by
  unfold refreshReady
  have key (l : List Nat) (v : Block → Nat) (hv : ∀ b tn, v { b with hq := { b.hq with tenants := tn } } = v b) :
      ∀ b : Block, ∃ tn, forEach l b (fun b t => b.updTenant t fun x => { x with tag := max x.tag (v b) })
        = { b with hq := { b.hq with tenants := tn } } := by
    unfold forEach
    induction l with
    | nil => intro b; exact ⟨_, rfl⟩
    | cons t l ih =>
      intro b
      obtain ⟨tn, h⟩ := ih (b.updTenant t fun x => { x with tag := max x.tag (v b) })
      exact ⟨tn, by rw [List.foldl_cons, h]; rfl⟩
  obtain ⟨tn, h⟩ := key ((readyTenants b).filter fun t => !b.hq.ready.contains t) (fun b => b.hq.vtime) (fun _ _ => rfl) b
  refine ⟨tn, ?_⟩
  simp only [h]

/-- Who is ready does not hang on the tenants' records, nor on the list of the ready. -/
theorem readyTenants_tenants (b : Block) (tn : Tab Tenant) (l : List Nat) :
    readyTenants { b with hq := { b.hq with tenants := tn, ready := l } } = readyTenants b := rfl

theorem readyTenants_refreshReady (b : Block) : readyTenants (refreshReady b) = readyTenants b := by
  obtain ⟨tn, h⟩ := refreshReady_shape b
  rw [h]; rfl

/-- `c` is `b` with more sent out, and the counts of codewords moved: no other part differs. -/
def Sends (b c : Block) : Prop := ∃ o hd fb, c = { b with out := b.out ++ o, hdl := hd, fab := fb }

theorem Sends.refl (b : Block) : Sends b b := ⟨[], b.hdl, b.fab, by simp⟩

theorem Sends.trans {a b c : Block} (h1 : Sends a b) (h2 : Sends b c) : Sends a c := by
  obtain ⟨o1, x1, y1, rfl⟩ := h1
  obtain ⟨o2, x2, y2, rfl⟩ := h2
  exact ⟨o1 ++ o2, x2, y2, by simp⟩

theorem Sends.emit (b : Block) (o : Output) : Sends b (emit b o) := ⟨[o], b.hdl, b.fab, rfl⟩

theorem Sends.forEach {α : Type} {f : Block → α → Block} (hf : ∀ b x, Sends b (f b x)) (l : List α) : ∀ b, Sends b (forEach l b f) := by
  unfold Machine.forEach
  induction l with
  | nil => exact Sends.refl
  | cons x l ih => exact fun b => (hf b x).trans (ih _)

theorem Sends.out {b c : Block} (h : Sends b c) {x : Output} (hx : x ∈ b.out) : x ∈ c.out := by
  obtain ⟨o, hd, fb, rfl⟩ := h
  exact List.mem_append_left _ hx

/-- The codewords of a heddle port change what is sent and the count of codewords alone. -/
theorem heddleWords_sends (b : Block) (p : Nat) : Sends b (heddleWords b p) := by
  unfold heddleWords
  simp only
  split
  · exact Sends.refl b
  · exact (Sends.forEach (fun b j => (Sends.emit b _).trans (Sends.emit _ _)) _ b).trans ⟨[], _, _, by rw [List.append_nil]; rfl⟩

/-- The codewords of a shuttle port change what is sent and the count of codewords alone. -/
theorem shuttleWords_sends (b : Block) (p : Nat) : Sends b (shuttleWords b p) := by
  unfold shuttleWords
  simp only
  split
  · exact Sends.refl b
  · exact (Sends.forEach (fun b j => Sends.forEach (fun b l => Sends.emit b _) _ b) _ b).trans ⟨[], _, _, by rw [List.append_nil]⟩

/-- The codewords that carry a step's cells add to what is sent, and change nothing else but the counts of codewords. -/
theorem lines_sends (b : Block) : Sends b (lines b) :=
  (Sends.forEach heddleWords_sends _ b).trans (Sends.forEach shuttleWords_sends _ _)

/-- A vector signalled changes no list of tenants. -/
theorem readyTenants_sendMsix (b : Block) (fn v : Nat) : readyTenants (sendMsix b fn v) = readyTenants b ∧ (sendMsix b fn v).hq.ready = b.hq.ready := by
  unfold sendMsix; split <;> exact ⟨rfl, rfl⟩

/-- After settling, the list of ready tenants is exact. -/
theorem settle_ready (b a : Block) : (settle b a).hq.ready = readyTenants (settle b a) := by
  have key (c : Block) (hc : c.hq.ready = readyTenants c) : (lines c).hq.ready = readyTenants (lines c) := by
    obtain ⟨o, hd, fb, e⟩ := lines_sends c
    rw [e]; exact hc
  have ev (c : Block) (hc : c.hq.ready = readyTenants c) : (eventMsg c).hq.ready = readyTenants (eventMsg c) := by
    have h := readyTenants_sendMsix c 0 (rd c Fld.SYS_EVENT_VEC_VECTOR)
    unfold eventMsg
    rw [h.1, h.2, hc]
  have ready (c : Block) : (refreshReady c).hq.ready = readyTenants (refreshReady c) := by
    obtain ⟨tn, h⟩ := refreshReady_shape c
    rw [h]; rfl
  unfold settle
  apply key
  split
  · exact ev _ (ready _)
  · exact ready _

/-! ### A write from the host -/

/-- A write reaches its register where the die answers, the block decodes it and the register is there. -/
theorem hostWrites_reaches {b : Block} {addr : Nat} {f : Block → Block} {there : Bool} (h1 : awayS b 0 addr = false)
    (h2 : decodes b 0 addr = true) (h3 : there = true) : hostWrites b addr f there = f b := by
  simp [hostWrites, h1, h2, h3]

/-- A write to a die that does not answer is discarded and counted (R570). -/
theorem hostWrites_away {b : Block} {addr : Nat} {f : Block → Block} {there : Bool} (h1 : awayS b 0 addr = true) :
    hostWrites b addr f there = inc b (Fld.SYS_D2D_FORWARD_ABORT 0) := by
  simp [hostWrites, h1]

/-! ### Completions -/

/-- A completion pushed waits behind those of its pair. -/
@[simp] theorem pushCompletion_waiting (b : Block) (fn q : Nat) (c : Completion) :
    ((pushCompletion b fn q c).qp (qpKey fn q)).waiting = (b.qp (qpKey fn q)).waiting ++ [c] := by
  simp [pushCompletion]

/-- Nothing is posted to a full CQ, or while a failed write holds the entries back (R45, R48). -/
theorem postOne_stays {b : Block} {fn q : Nat} (h : cqFull (b.qp (qpKey fn q)) = true ∨ (b.qp (qpKey fn q)).cqHeld = true) :
    postOne b fn q = b := by
  simp only [postOne]
  split
  · rfl
  · simp only [h, ↓reduceIte]

/-- Splitting a span of time. -/
theorem elapse_only_time (d : Nat) (b : Block) : elapse d b = { b with time := (elapse d b).time } := rfl

end Sys2Proof.Machine
end

