-- ==== Sys2Proof/Laws/Submit.lean ====
section
/-!
SUPPORT. Sys2Proof/Laws/Submit.lean: an entry placed in a queue of an otherwise idle scheduler goes to its dispatch (R44, R55, R65).
-/

namespace Sys2Proof.Machine

theorem tabGet_mem {α : Type} (d : α) (t : Tab α) (k : Nat) : tabGet d t k = d ∨ (k, tabGet d t k) ∈ t := by
  induction t with
  | nil => exact .inl rfl
  | cons x t ih =>
    obtain ⟨j, v⟩ := x
    simp only [tabGet]
    split
    · next h => subst h; exact .inr (by simp)
    · rcases ih with h | h
      · exact .inl h
      · exact .inr (List.mem_cons_of_mem _ h)

theorem idle_fetched {b : Block} (h : Idle b) (k : Nat) : (b.qp k).fetched = [] := by
  rcases tabGet_mem ({} : Qp) b.hq.qps k with h1 | h1
  · simp [Block.qp, h1]
  · exact (h _ h1).1

theorem idle_held {b : Block} (h : Idle b) (k : Nat) : (b.qp k).held = none := by
  rcases tabGet_mem ({} : Qp) b.hq.qps k with h1 | h1
  · simp [Block.qp, h1]
  · exact (h _ h1).2

/-- One pair alone holds a fetched entry. -/
def Lone (b : Block) (k : Nat) (f : Fetched) : Prop :=
  ∃ p : Qp, p.fetched = [f] ∧ p.held = none ∧ ∃ l r : Tab Qp, b.hq.qps = l ++ (k, p) :: r
    ∧ (∀ x ∈ l, x.1 ≠ k ∧ x.2.fetched = [] ∧ x.2.held = none) ∧ (∀ x ∈ r, x.1 ≠ k ∧ x.2.fetched = [] ∧ x.2.held = none)

theorem tabPut_split {α : Type} (k : Nat) (v : α) (t : Tab α) : ∃ l r, t = l ++ r ∧ tabPut k v t = l ++ (k, v) :: r := by
  induction t with
  | nil => exact ⟨[], [], rfl, rfl⟩
  | cons x t ih =>
    obtain ⟨j, w⟩ := x
    simp only [tabPut]
    split
    · exact ⟨[], (j, w) :: t, rfl, rfl⟩
    · obtain ⟨l, r, h1, h2⟩ := ih
      exact ⟨(j, w) :: l, r, by simp [h1], by simp [h2]⟩

theorem lone_updQp {b : Block} {k : Nat} {f : Fetched} {g : Qp → Qp}
    (h : ∀ x ∈ b.hq.qps, x.1 ≠ k → x.2.fetched = [] ∧ x.2.held = none)
    (h1 : (g (b.qp k)).fetched = [f]) (h2 : (g (b.qp k)).held = none) : Lone (b.updQp k g) k f := by
  refine ⟨g (b.qp k), h1, h2, ?_⟩
  have hne : g (b.qp k) ≠ {} := fun e => by rw [e] at h1; simp at h1
  obtain ⟨l, r, e1, e2⟩ := tabPut_split k (g (b.qp k)) (tabDrop b.hq.qps k)
  refine ⟨l, r, ?_, ?_, ?_⟩
  · show tabSet {} b.hq.qps k (g (b.qp k)) = _
    simp [tabSet, hne, e2]
  · intro x hx
    have hm : x ∈ tabDrop b.hq.qps k := by rw [e1]; simp [hx]
    have hk := mem_tabDrop_ne x hm
    exact ⟨hk, h x (List.mem_of_mem_filter hm) hk⟩
  · intro x hx
    have hm : x ∈ tabDrop b.hq.qps k := by rw [e1]; simp [hx]
    have hk := mem_tabDrop_ne x hm
    exact ⟨hk, h x (List.mem_of_mem_filter hm) hk⟩

theorem Lone.fetchedCount {b : Block} {k : Nat} {f : Fetched} (h : Lone b k f) : fetchedCount b = 1 := by
  obtain ⟨p, hf, _, l, r, e, hl, hr⟩ := h
  have z : ∀ t : Tab Qp, (∀ x ∈ t, x.1 ≠ k ∧ x.2.fetched = [] ∧ x.2.held = none) → (t.map fun (x : Nat × Qp) => x.2.fetched.length).sum = 0 := by
    intro t ht
    induction t with
    | nil => rfl
    | cons x t ih => simp [(ht x (by simp)).2.1, ih fun y hy => ht y (by simp [hy])]
  unfold Machine.fetchedCount
  rw [e, List.map_append, List.sum_append, z l hl, List.map_cons, List.sum_cons, z r hr, hf]; rfl

theorem Lone.qp {b : Block} {k : Nat} {f : Fetched} (h : Lone b k f) : (b.qp k).fetched = [f] ∧ (b.qp k).held = none := by
  obtain ⟨p, hf, hh, l, r, e, hl, hr⟩ := h
  have : b.qp k = p := by
    unfold Block.qp; rw [e]
    clear e hf hh hr
    induction l with
    | nil => simp [tabGet]
    | cons x l ih =>
      obtain ⟨j, v⟩ := x
      have hj : k ≠ j := fun e => (hl (j, v) (by simp)).1 e.symm
      simp only [List.cons_append, tabGet, hj, ↓reduceIte]
      exact ih fun y hy => hl y (by simp [hy])
  rw [this]; exact ⟨hf, hh⟩

theorem Lone.ready {b : Block} {k : Nat} {f : Fetched} (h : Lone b k f) (hw : weightOf b (tenantOf b (k / 1024)) ≠ 0)
    (hr : windowRoom b (k / 1024) f.e = true) (hs : early f.e.opcode = true ∨ starting b = false) :
    readyTenants b = [tenantOf b (k / 1024)] ∧ readyQueues b (tenantOf b (k / 1024)) = [k] := by
  have hq := h.qp
  have hheld : streamHeld b (tenantOf b (k / 1024)) f.e = false := by
    obtain ⟨p, hf, hh, l, r, e, hl, hr⟩ := h
    simp only [streamHeld, e, List.any_append, List.any_cons, hh]
    simp only [Option.isSome_none, Bool.false_and, Bool.false_or, Bool.and_eq_false_imp, Bool.or_eq_false_iff, List.any_eq_false]
    exact fun _ => ⟨fun x hx => by simp [(hl x hx).2.2], fun x hx => by simp [(hr x hx).2.2]⟩
  have hready : queueReady b k = true := by
    unfold queueReady
    simp only [hq.1, hq.2, hr, hheld]
    rcases hs with h | h <;> simp [h]
  have hnot : ∀ x ∈ b.hq.qps, x.1 ≠ k → queueReady b x.1 = false := by
    intro x hx hk
    have : (b.qp x.1).fetched = [] := by
      rcases tabGet_mem ({} : Qp) b.hq.qps x.1 with h1 | h1
      · simp [Block.qp, h1]
      · obtain ⟨p, hf, hh, l, r, e, hl, hr⟩ := h
        rw [e] at h1
        simp only [List.mem_append, List.mem_cons] at h1
        rcases h1 with h1 | h1 | h1
        · rw [← e] at h1; exact (hl _ h1).2.1
        · simp at h1; exact absurd h1.1 hk
        · rw [← e] at h1; exact (hr _ h1).2.1
    simp [queueReady, this]
  have hqs : readyQueues b (tenantOf b (k / 1024)) = [k] := by
    obtain ⟨p, hf, hh, l, r, e, hl, hr⟩ := h
    have z : ∀ t : Tab Qp, (∀ x ∈ t, x ∈ b.hq.qps ∧ x.1 ≠ k) → (tabKeys t).filter (fun j => tenantOf b (j / 1024) = tenantOf b (k / 1024) && queueReady b j) = [] := by
      intro t ht
      rw [List.filter_eq_nil_iff]
      intro j hj
      obtain ⟨x, hx, rfl⟩ := List.mem_map.mp hj
      simp [hnot x (ht x hx).1 (ht x hx).2]
    unfold readyQueues
    have e' : tabKeys b.hq.qps = tabKeys l ++ k :: tabKeys r := by rw [e]; simp [tabKeys]
    rw [e', List.filter_append, z l fun x hx => ⟨by rw [e]; simp [hx], (hl x hx).1⟩, List.filter_cons,
      z r fun x hx => ⟨by rw [e]; simp [hx], (hr x hx).1⟩]
    simp [hready]
  refine ⟨?_, hqs⟩
  have hact : activeTenants b = [tenantOf b (k / 1024)] := by
    obtain ⟨p, hf, hh, l, r, e, hl, hr⟩ := h
    have z : ∀ t : Tab Qp, (∀ x ∈ t, x.1 ≠ k ∧ x.2.fetched = [] ∧ x.2.held = none) → (t.filter fun (x : Nat × Qp) => !x.2.fetched.isEmpty) = [] := by
      intro t ht; rw [List.filter_eq_nil_iff]; intro x hx; simp [(ht x hx).2.1]
    unfold activeTenants
    rw [e, List.filter_append, z l hl, List.filter_cons, z r hr]
    simp [hf, insertNat]
  simp [readyTenants, hact, tenantReady, hw, hqs]

/-- The reads that fetch an entry are sent out, and change nothing else. -/
theorem fetchReads_shape (b : Block) (fn q : Nat) (e : Sqe) (sgl : List Sgl) : ∃ o, fetchReads b fn q e sgl = { b with out := o } := by
  unfold fetchReads
  simp only
  split <;> exact ⟨_, rfl⟩

theorem submit_takes {b : Block} {fn q : Nat} {e : Sqe} {sgl : List Sgl} (hq : q < 1024) (h : Takes b fn q e sgl) :
    submit b fn q e sgl = dispatch (chosen b fn q e sgl) (tenantOf b fn) (qpKey fn q)
      ∧ ((chosen b fn q e sgl).qp (qpKey fn q)).fetched = [⟨e, sgl⟩] := by
  obtain ⟨hi, ha, hht, hts, h1, hc, hf, hh, hw, hr, hs⟩ := h
  have hk : qpKey fn q / 1024 = fn := by unfold qpKey; omega
  have hkm : qpKey fn q % 1024 = q := by unfold qpKey; omega
  have hon : qpOn b fn q = true := by unfold qpActive at ha; simp at ha; exact ha.1
  have hcount : sqCount (b.qp (qpKey fn q)) = 0 := by
    unfold sqCount; rw [hht]; simp
  have hn : ¬ qpSize (b.qp (qpKey fn q)) ≤ ((b.qp (qpKey fn q)).sqTail + 1) % qpSize (b.qp (qpKey fn q)) := by
    have := Nat.mod_lt ((b.qp (qpKey fn q)).sqTail + 1) (show 0 < qpSize (b.qp (qpKey fn q)) by omega)
    omega
  have htail : sqTailDb b fn q (((b.qp (qpKey fn q)).sqTail + 1) % qpSize (b.qp (qpKey fn q)))
      = b.updQp (qpKey fn q) fun p => { p with sqTail := ((b.qp (qpKey fn q)).sqTail + 1) % qpSize (b.qp (qpKey fn q)) } := by
    simp [sqTailDb, hon, hn]
  set k := qpKey fn q with hkdef
  set b1 := b.updQp k fun p => { p with sqTail := ((b.qp k).sqTail + 1) % qpSize (b.qp k) } with hb1
  have hqp1 : b1.qp k = { b.qp k with sqTail := ((b.qp k).sqTail + 1) % qpSize (b.qp k) } := by simp [hb1]
  have hcan : canFetch b1 fn q = true := by
    have hcnt : sqCount (b1.qp k) ≠ 0 := by
      rw [hqp1]
      simp only [sqCount, qpSize] at *
      generalize 2 ^ (b.qp k).sizeLog2 = n at *
      rw [hht]
      generalize (b.qp k).sqTail = t at *
      rcases Nat.lt_or_ge (t + 1) n with h2 | h2
      · rw [Nat.mod_eq_of_lt h2, show t + 1 + n - t = 1 + n by omega, Nat.add_mod_right, Nat.mod_eq_of_lt h1]; omega
      · have : t + 1 = n := by omega
        rw [this, Nat.mod_self, show 0 + n - t = 1 by omega, Nat.mod_eq_of_lt h1]; omega
    have hact : qpActive b1 fn q = true := by
      unfold qpActive at *
      rw [← hkdef] at *
      rw [hqp1]; exact ha
    have hfull : cqFull (b1.qp k) = false := by rw [hqp1]; exact hc
    unfold canFetch
    simp only [← hkdef, hact, hfull]
    simp [hcnt]
  obtain ⟨o, hreads⟩ := fetchReads_shape b1 fn q e sgl
  have hfe : fetchEntry b1 fn q e sgl
      = (Block.updQp { b1 with out := o } k fun p => { p with sqHead := (p.sqHead + 1) % qpSize p }).updQp k
          fun p => { p with fetched := p.fetched ++ [⟨e, sgl⟩] } := by
    unfold fetchEntry
    rw [hreads]
    have : rdB (Block.updQp { b1 with out := o } k fun p => { p with sqHead := (p.sqHead + 1) % qpSize p }) Fld.BOOT_STATE_HALF_ISOLATED
        = false := hh
    simp only [← hkdef, hf, this]; rfl
  have hlone : Lone (fetchEntry b1 fn q e sgl) k ⟨e, sgl⟩ := by
    rw [hfe]
    apply lone_updQp
    · have hidle1 : ∀ x ∈ (Block.updQp { b1 with out := o } k fun p => { p with sqHead := (p.sqHead + 1) % qpSize p }).hq.qps,
          x.1 ≠ k → x.2.fetched = [] ∧ x.2.held = none := by
        have mem : ∀ (b : Block) (g : Qp → Qp) x, x ∈ (b.updQp k g).hq.qps → x.1 ≠ k → x ∈ b.hq.qps := by
          intro b g x hx hk
          have hx : x ∈ tabSet {} b.hq.qps k (g (b.qp k)) := hx
          unfold tabSet at hx
          split at hx
          · exact List.mem_of_mem_filter hx
          · rcases mem_tabPut hx with rfl | hx
            · exact absurd rfl hk
            · exact List.mem_of_mem_filter hx
        intro x hx hk
        exact hi x (mem _ _ _ (mem _ _ _ hx hk) hk)
      exact hidle1
    · have : (Block.qp { b1 with out := o } k) = b1.qp k := rfl
      simp [this, hqp1, idle_fetched hi k]
    · have : (Block.qp { b1 with out := o } k) = b1.qp k := rfl
      simp [this, hqp1, idle_held hi k]
  have ht1 : ∀ j, tenantOf (fetchEntry b1 fn q e sgl) j = tenantOf b j := by intro j; rw [hfe]; rfl
  have hw1 : weightOf (fetchEntry b1 fn q e sgl) (tenantOf (fetchEntry b1 fn q e sgl) (k / 1024)) ≠ 0 := by
    rw [ht1, hk, hfe]; exact hw
  have hr1 : windowRoom (fetchEntry b1 fn q e sgl) (k / 1024) e = true := by rw [hk, hfe]; exact hr
  have hs1 : early e.opcode = true ∨ starting (fetchEntry b1 fn q e sgl) = false := by rw [hfe]; exact hs
  obtain ⟨hrt, hrq⟩ := hlone.ready hw1 hr1 hs1
  rw [ht1, hk] at hrt hrq
  have hpick : schedPick (refreshReady (fetchEntry b1 fn q e sgl)) = some (tenantOf b fn, k) := by
    obtain ⟨tn, hsh⟩ := refreshReady_shape (fetchEntry b1 fn q e sgl)
    have h1 : readyTenants (refreshReady (fetchEntry b1 fn q e sgl)) = [tenantOf b fn] := by rw [readyTenants_refreshReady, hrt]
    have h2 : readyQueues (refreshReady (fetchEntry b1 fn q e sgl)) (tenantOf b fn) = [k] := by rw [hsh, ← hrq]; rfl
    unfold schedPick
    rw [h1]
    simp only [List.foldl_cons, List.foldl_nil, Nat.lt_irrefl, ↓reduceIte, nextQueue, h2]
    simp only [List.find?_cons, List.find?_nil]
    split <;> simp [*]
  have hch : chosen b fn q e sgl = schedTake (refreshReady (fetchEntry b1 fn q e sgl)) (tenantOf b fn) k := by
    simp only [chosen, htail, ← hkdef, ht1]
  constructor
  rotate_left
  · obtain ⟨tn, hsh⟩ := refreshReady_shape (fetchEntry b1 fn q e sgl)
    rw [hch, hsh]
    exact hlone.qp.1
  rw [hch]
  unfold submit
  simp only [← hkdef, ha, hcount, htail]
  have hlt : ¬ (0 + 1 = qpSize (b.qp k)) := by omega
  simp only [hlt, hcan, hlone.fetchedCount, decide_true, Bool.and_self, Bool.not_true, decide_false, Bool.false_eq_true, ↓reduceIte, runSlots, hlone.qp.1, hlone.qp.2,
    hpick, List.isEmpty_cons, Option.isSome_none, Option.isNone_some, slotOnce, Bool.or_self]

/-- An entry that passes its checks at dispatch and enters no hold is taken. -/
theorem dispatch_taken {b : Block} {t k : Nat} {f : Fetched} {r : List Fetched} (h : (b.qp k).fetched = f :: r)
    (h1 : dispatchFault b t f.e = none) (h2 : holdOf b t f.e = none) : dispatch b t k = takeEntry b t (weightOf b t) k f := by
  simp [dispatch, h, h1, h2]

/-- An entry that `Accepted` describes is taken from its queue and accepted. -/
theorem submit_accepted {b : Block} {fn q : Nat} {e : Sqe} {sgl : List Sgl} (hq : q < 1024) (h : Accepted b fn q e sgl) :
    submit b fn q e sgl = takeEntry (chosen b fn q e sgl) (tenantOf b fn) (weightOf (chosen b fn q e sgl) (tenantOf b fn))
      (qpKey fn q) ⟨e, sgl⟩ := by
  rw [(submit_takes hq h.1).1]
  exact dispatch_taken (submit_takes hq h.1).2 h.2.1 h.2.2

end Sys2Proof.Machine
end

