-- ==== Sys2Proof/WellFormed.lean ====
section
/-!
DEFINITION. Sys2Proof/WellFormed.lean: the commands whose operands have the sizes that their rules give them. The instances a
command names are `Fin`s already; what is left are the widths of fields (R49, R50), the lengths of entries, cells, messages and
packets (R49, R228, R236, R237, R245, R449), and the 64 bits of loom time (R443). A meaning is defined for every command, well
formed or not (log entry 3).
-/

namespace Sys2Proof

/-- The fields of a submission entry have their widths (R49). -/
def Sqe.wf (e : Sqe) : Bool :=
  decide (e.opcode < 2 ^ 8 ∧ e.rsv < 2 ^ 8 ∧ e.cid < 2 ^ 16 ∧ e.handle < 2 ^ 32 ∧ e.objectId.length = 16 ∧ e.dataAddr < 2 ^ 64
    ∧ e.length < 2 ^ 32 ∧ e.flags < 2 ^ 32 ∧ e.param0 < 2 ^ 64 ∧ e.param1 < 2 ^ 64 ∧ e.param2 < 2 ^ 64)

/-- The fields of a scatter list descriptor have their widths (R50). -/
def Sgl.wf (d : Sgl) : Bool := decide (d.addr < 2 ^ 64 ∧ d.len < 2 ^ 32 ∧ d.rsv < 2 ^ 32)

/-- `v` has at most `w` bits. -/
def fits (w v : Nat) : Bool := decide (v < 2 ^ w)

/-- Bytes of exactly `n`, and of at most `n`. -/
def exact (n : Nat) (bs : Bytes) : Bool := bs.length == n
def upTo (n : Nat) (bs : Bytes) : Bool := decide (bs.length ≤ n)

/-- A cell of 32 bytes (R228). -/
def cellWf (c : Bytes) : Bool := exact 32 c

/-- A command is well formed. -/
def Instr.wf : Instr → Bool
  | .openStream dt _ _ e sgl => fits 64 dt && e.wf && sgl.all Sgl.wf
  | .closeStream dt _ _ e sgl => fits 64 dt && e.wf && sgl.all Sgl.wf
  | .openObject dt _ _ e sgl => fits 64 dt && e.wf && sgl.all Sgl.wf
  | .putRecord dt _ _ e sgl => fits 64 dt && e.wf && sgl.all Sgl.wf
  | .closeObject dt _ _ e sgl => fits 64 dt && e.wf && sgl.all Sgl.wf
  | .flush dt _ _ e sgl => fits 64 dt && e.wf && sgl.all Sgl.wf
  | .abortObject dt _ _ e sgl => fits 64 dt && e.wf && sgl.all Sgl.wf
  | .mount dt _ _ e sgl => fits 64 dt && e.wf && sgl.all Sgl.wf
  | .unmount dt _ _ e sgl => fits 64 dt && e.wf && sgl.all Sgl.wf
  | .locate dt _ _ e sgl => fits 64 dt && e.wf && sgl.all Sgl.wf
  | .readObject dt _ _ e sgl => fits 64 dt && e.wf && sgl.all Sgl.wf
  | .readRecord dt _ _ e sgl => fits 64 dt && e.wf && sgl.all Sgl.wf
  | .patrol dt _ _ e sgl => fits 64 dt && e.wf && sgl.all Sgl.wf
  | .rebuild dt _ _ e sgl => fits 64 dt && e.wf && sgl.all Sgl.wf
  | .reshape dt _ _ e sgl => fits 64 dt && e.wf && sgl.all Sgl.wf
  | .keyLoad dt _ _ e sgl => fits 64 dt && e.wf && sgl.all Sgl.wf
  | .keyDrop dt _ _ e sgl => fits 64 dt && e.wf && sgl.all Sgl.wf
  | .attestQuote dt _ _ e sgl => fits 64 dt && e.wf && sgl.all Sgl.wf
  | .getEntropy dt _ _ e sgl => fits 64 dt && e.wf && sgl.all Sgl.wf
  | .getLog dt _ _ e sgl => fits 64 dt && e.wf && sgl.all Sgl.wf
  | .tuneLoop dt _ _ e sgl => fits 64 dt && e.wf && sgl.all Sgl.wf
  | .injectCapture dt _ _ e sgl => fits 64 dt && e.wf && sgl.all Sgl.wf
  | .beamFill dt _ _ e sgl => fits 64 dt && e.wf && sgl.all Sgl.wf
  | .beamRetire dt _ _ e sgl => fits 64 dt && e.wf && sgl.all Sgl.wf
  | .qpEnable dt _ _ _ => fits 64 dt
  | .qpDisable dt _ _ _ => fits 64 dt
  | .qpSqTailDb dt _ _ index => fits 64 dt && fits 12 index
  | .qpCqHeadDb dt _ _ index => fits 64 dt && fits 12 index
  | .dmaErrClear dt _ _ => fits 64 dt
  | .functionLevelReset dt _ => fits 64 dt
  | .sqEntryFetch dt _ _ raw sgl => fits 64 dt && exact 64 raw && sgl.all Sgl.wf
  | .sqReadFailed dt _ _ => fits 64 dt
  | .cqWriteFailed dt _ _ => fits 64 dt
  | .dispatchSlot dt => fits 64 dt
  | .objHoldExpiry dt _ _ => fits 64 dt
  | .beamHoldExpiry dt _ _ => fits 64 dt
  | .heldCommandAccept dt _ _ => fits 64 dt
  | .completionPost dt _ _ => fits 64 dt
  | .aggTimeExpiry dt _ _ => fits 64 dt
  | .forceTokenGrid dt _ => fits 64 dt
  | .hqiTenantForceWrite dt _ _ => fits 64 dt
  | .hqiFnMapWrite dt _ _ => fits 64 dt
  | .dmaReadRequest dt _ _ => fits 64 dt
  | .dmaReadCompletion dt _ _ => fits 64 dt
  | .dmaReadFailed dt _ => fits 64 dt
  | .bobbinGrant dt _ => fits 64 dt
  | .bobbinWideRead dt _ _ flipData flipSide => fits 64 dt && upTo 64 flipData && fits 25 flipSide
  | .dropRest dt _ _ => fits 64 dt
  | .creditedWrite dt _ _ _ => fits 64 dt
  | .compressionJobStart dt _ => fits 64 dt
  | .blockEmit dt _ _ _ => fits 64 dt
  | .decompressionJob dt _ _ _ _ => fits 64 dt
  | .cardEngEnableWrite dt _ _ => fits 64 dt
  | .sealJob dt _ _ => fits 64 dt
  | .openJob dt _ _ _ => fits 64 dt
  | .unwrapJob dt _ _ blob => fits 64 dt && exact 40 blob
  | .nonceReservation dt => fits 64 dt
  | .keySlotZeroize dt _ => fits 64 dt
  | .keyErasure dt _ _ => fits 64 dt
  | .drbgSeed noise => fits 64 noise.dt
  | .drbgReseed noise => fits 64 noise.dt
  | .healthTestFailure noise _ => fits 64 noise.dt
  | .rowFetch dt _ _ => fits 64 dt
  | .slotWrite dt _ _ _ => fits 64 dt
  | .weftAbortReceive dt => fits 64 dt
  | .regenRequest dt _ _ _ _ => fits 64 dt
  | .speedMatchEval dt _ => fits 64 dt
  | .weftDecisionPoint dt _ => fits 64 dt
  | .catAgeExpiry dt _ => fits 64 dt
  | .memberHeldReport dt _ _ => fits 64 dt
  | .groupRestart dt _ => fits 64 dt
  | .holdWaitTimeout dt _ => fits 64 dt
  | .intentDeadline dt _ => fits 64 dt
  | .verdictArrival dt => fits 64 dt
  | .verifyDue dt _ => fits 64 dt
  | .graceExpiry dt _ => fits 64 dt
  | .declareFailed dt _ _ _ => fits 64 dt
  | .rejoin dt _ _ _ => fits 64 dt
  | .datasetRelease dt _ => fits 64 dt
  | .hdlEnable dt _ _ => fits 64 dt
  | .hdlTrainingTimeout dt _ => fits 64 dt
  | .hdlRetrain dt _ => fits 64 dt
  | .codewordReceive dt _ _ _ _ _ _ => fits 64 dt
  | .laneLockLoss dt _ _ _ _ => fits 64 dt
  | .statusTimeout dt _ => fits 64 dt
  | .markerSend dt _ _ => fits 64 dt
  | .timeExchange dt _ cell _ => fits 64 dt && cellWf cell
  | .sampleCell dt _ _ _ cell => fits 64 dt && cellWf cell
  | .schedulingPoint dt _ _ _ _ _ => fits 64 dt
  | .servoCell dt _ _ _ cell => fits 64 dt && cellWf cell
  | .senseCell dt _ cell => fits 64 dt && cell.all cellWf
  | .transducerEvaluation dt _ => fits 64 dt
  | .edgeKeepalive dt _ => fits 64 dt
  | .ident dt _ seq payload => fits 64 dt && fits 8 seq && upTo 28 payload
  | .status dt _ seq payload => fits 64 dt && fits 8 seq && upTo 28 payload
  | .event dt _ seq payload => fits 64 dt && fits 8 seq && upTo 28 payload
  | .ack dt _ seq payload => fits 64 dt && fits 8 seq && upTo 28 payload
  | .msgResend dt _ => fits 64 dt
  | .decodePassEnd dt _ _ _ _ _ => fits 64 dt
  | .noSyncReport dt _ _ => fits 64 dt
  | .lookBufferGrant dt _ => fits 64 dt
  | .leadOnlyReport dt _ _ _ => fits 64 dt
  | .deadClearA dt _ _ => fits 64 dt
  | .deadClearB dt _ _ => fits 64 dt
  | .cleBTick dt _ => fits 64 dt
  | .cleATick dt _ => fits 64 dt
  | .cleAIdleTick dt _ => fits 64 dt
  | .servoFrameMissing dt _ => fits 64 dt
  | .offloadStep dt _ => fits 64 dt
  | .tickOverrun dt _ _ => fits 64 dt
  | .injectionEnd dt _ => fits 64 dt
  | .captureFull dt _ => fits 64 dt
  | .rcClear dt _ _ _ => fits 64 dt
  | .carrierPeriodCompile dt _ _ _ => fits 64 dt
  | .edgeCarrierWrite dt _ _ => fits 64 dt
  | .edgeTimingWrite dt _ _ => fits 64 dt
  | .edgeMapWrite dt _ _ => fits 64 dt
  | .edgeTestWrite dt _ _ => fits 64 dt
  | .grantRequest dt _ _ => fits 64 dt
  | .grantReturn dt _ => fits 64 dt
  | .channelCompare dt _ _ _ => fits 64 dt
  | .cleHeartbeat dt _ _ _ _ => fits 64 dt
  | .heartbeatDeadline dt _ _ => fits 64 dt
  | .overspeedWindow dt _ => fits 64 dt
  | .safePortClear dt _ _ => fits 64 dt
  | .faultNExternal dt _ => fits 64 dt
  | .beamRead dt _ _ _ => fits 64 dt
  | .beamPartialWrite dt _ _ _ _ => fits 64 dt
  | .mergeEntryTimeout dt _ _ => fits 64 dt
  | .scrubLine dt _ => fits 64 dt
  | .bucketLeak dt _ => fits 64 dt
  | .fillStepDone dt => fits 64 dt
  | .writeRaw dt _ => fits 64 dt
  | .writeGen dt _ => fits 64 dt
  | .readRaw dt _ _ => fits 64 dt
  | .hashKeyDraw dt => fits 64 dt
  | .shutEnable dt _ _ => fits 64 dt
  | .shutRetrain dt _ _ => fits 64 dt
  | .shutTimeTimeout dt _ => fits 64 dt
  | .shutRetryTimer dt _ => fits 64 dt
  | .packetReceive dt _ _ _ head body => fits 64 dt && cellWf head && (body.length % 32 == 0) && upTo 2048 body
  | .credit dt _ _ _ => fits 64 dt
  | .heartbeatSend dt => fits 64 dt
  | .heartbeat dt _ src _ => fits 64 dt && fits 16 src
  | .heartbeatMiss dt => fits 64 dt
  | .parentTimeExchange dt _ _ _ _ => fits 64 dt
  | .holdover dt => fits 64 dt
  | .ppsEdge dt => fits 64 dt
  | .timeRefLost dt _ => fits 64 dt
  | .dieAlignCheck dt _ => fits 64 dt
  | .managerElection dt => fits 64 dt
  | .state dt _ src _ => fits 64 dt && fits 16 src
  | .standbyTakeover dt => fits 64 dt
  | .hold dt _ src _ => fits 64 dt && fits 16 src
  | .claim dt _ => fits 64 dt
  | .autoClaimExpiry dt => fits 64 dt
  | .crossPlanEval dt _ => fits 64 dt
  | .plan dt _ src _ => fits 64 dt && fits 16 src
  | .launch dt _ src _ => fits 64 dt && fits 16 src
  | .launchMissing dt _ => fits 64 dt
  | .verdict dt _ src _ => fits 64 dt && fits 16 src
  | .outcome dt _ src _ => fits 64 dt && fits 16 src
  | .declare dt _ src _ => fits 64 dt && fits 16 src
  | .regen dt _ src _ => fits 64 dt && fits 16 src
  | .hoprep dt _ src _ => fits 64 dt && fits 16 src
  | .timefault dt _ src _ => fits 64 dt && fits 16 src
  | .queue dt _ src _ => fits 64 dt && fits 16 src
  | .queueReport dt => fits 64 dt
  | .row dt _ src _ => fits 64 dt && fits 16 src
  | .attest dt _ src _ => fits 64 dt && fits 16 src
  | .ledgerRecordSubmit dt _ _ => fits 64 dt
  | .pageGatherTimeout dt _ _ => fits 64 dt
  | .pageProgramDone dt _ _ => fits 64 dt
  | .blockErase dt _ => fits 64 dt
  | .eraseDone dt _ _ => fits 64 dt
  | .ledgerScan dt _ => fits 64 dt
  | .resetOfPart dt _ => fits 64 dt
  | .porN dt _ => fits 64 dt
  | .sysResetN dt _ => fits 64 dt
  | .bootReset dt _ => fits 64 dt
  | .perstN dt _ => fits 64 dt
  | .roleConfirm dt _ _ _ => fits 64 dt
  | .slotSelect dt _ => fits 64 dt
  | .benakRead dt _ _ => fits 64 dt
  | .attestKeyGen dt => fits 64 dt
  | .beamTrain dt _ _ _ _ _ _ _ => fits 64 dt
  | .configLock dt => fits 64 dt
  | .readyReached dt => fits 64 dt
  | .bootWatchdogExpiry dt => fits 64 dt
  | .d2dLinkLoss dt _ => fits 64 dt
  | .rcvErase dt _ _ => fits 64 dt
  | .rcvProgram dt _ _ => fits 64 dt
  | .rcvVerify dt _ => fits 64 dt
  | .provGo dt _ _ => fits 64 dt
  | .decommission dt _ => fits 64 dt
  | .commitSvn dt _ => fits 64 dt
  | .pcrExtend dt _ => fits 64 dt
  | .dormantRequest dt _ => fits 64 dt
  | .wardWakeN dt _ => fits 64 dt
  | .wakeAfterExpiry dt => fits 64 dt
  | .powerGoodResume dt _ => fits 64 dt
  | .wakeRailTimeout dt => fits 64 dt
  | .conversionResult dt _ _ => fits 64 dt
  | .wardChCfgWrite dt _ _ => fits 64 dt
  | .meshFault dt _ => fits 64 dt
  | .tamperNLow dt _ _ => fits 64 dt
  | .voltageTamper dt _ _ => fits 64 dt
  | .temperatureTamper dt _ => fits 64 dt
  | .clockTamper dt => fits 64 dt
  | .tamperClearGo dt _ => fits 64 dt
  | .alertClear dt _ => fits 64 dt
  | .i2cTransfer dt _ _ => fits 64 dt
  | .i2cWake dt _ => fits 64 dt
  | .i2cQuoteRequest dt _ => fits 64 dt
  | .thermtrip dt _ _ => fits 64 dt
  | .vidStep dt _ _ => fits 64 dt
  | .sysEventWrite dt _ => fits 64 dt
  | .sysEventEnWrite dt _ => fits 64 dt
  | .coreException dt _ _ _ _ => fits 64 dt
  | .loReadLatch dt _ addr => fits 64 dt && fits 31 addr
  | .rcRead dt _ addr => fits 64 dt && fits 31 addr
  | .registerWrite dt _ addr _ _ => fits 64 dt && fits 33 addr
  | .trainingBlock dt _ _ _ _ _ _ => fits 64 dt
  | .powerLoss dt => fits 64 dt
  | .eraseSuspendDone dt _ => fits 64 dt
  | .eraseRunExpiry dt _ => fits 64 dt
  | .tamperRecordWritten dt => fits 64 dt
  | .permitTestDue dt _ _ => fits 64 dt
  | .unsettledCheck dt _ => fits 64 dt
  | .hoprepReport dt => fits 64 dt
  | .tapInstruction dt _ => fits 64 dt
  | .timeRefRestored dt _ _ => fits 64 dt

end Sys2Proof
end

