-- ==== Sys2Proof/Tests/Slice0.lean ====
section
/-!
SUPPORT. Sys2Proof/Tests/Slice0.lean: the worked examples of the spec on the model's functions, ill-formed terms that the checks of
WellFormed refuse, and for each statement's hypotheses a concrete state and operands that meet them.
-/

namespace Sys2Proof.Tests

set_option maxRecDepth 100000
set_option Elab.async false

open Sys2Proof.Machine

/-- A block in service: started up, a beam store of two channels, nonces at hand, a key in slot 3 of tenant 0, group slot 5 valid. -/
def live : Block :=
  let b := wr (wr (wr (wr {} Fld.BOOT_STATE_STATE 3) Fld.BEAM_STATUS_CHANNELS 2) Fld.BEAM_POOL_RELEASED_STEPS 1) Fld.CIPH_NONCE_STATUS_ENABLED 1
  let b := { b with ciph := { b.ciph with nonceEnd := 1048576, keks := true, slots := [(3, { key := some (zeros 32), label := 77 })] } }
  let b := writeSlots { b with beam := { b.beam with hashKey := some [] } } 0 (Reg.CIPH_TENANT_SLOTS 0) 16
  (wr b (Fld.CARD_ENG_ENABLE_ENABLE 0) 0xFFFFFFFF).updGrp 5 fun _ =>
    { valid := true, number := 9, k := 2, m := 1, members := [{ port := 0 }, { port := 1 }, { port := 2 }] }

/-- The block after a long time. -/
def late (b : Block) : Block := { b with time := { b.time with now := 400000000000000 } }

/-- Queue pair 0 of FN 0 enabled, with 16 entries. -/
def paired : Block := writeQpCtrl live 0 0 9

def st (b : Block) : State := { blk := b }
def bg (b : Block) : Block := begun 0 (st b)

/-- What a command leaves (the state itself where it answers none). -/
def run (c : Instr) (b : Block) : Block :=
  match exec c (st b) with
  | .next t => t.blk
  | _ => b

/-- A write from the host reaches the register at `addr`. -/
def there (b : Block) (addr : Nat) : Bool := !awayS b 0 addr && decodes b 0 addr

/-! ### Worked examples of the spec -/

/-- spec/05_match_finding.md, example of R137. -/
theorem test_fse_norm : fseNorm 9 [40, 7, 2, 1] = (5, [26, 4, 1, 1]) := by decide +kernel

/-- spec/07_dataset_format.md, "finding a payload byte on tape" (R183, R186, R172, R179). -/
theorem test_payload_byte : trackOf 14 17 = 22 ∧ slotOf 14 17 = 8 ∧ cwAt 8 22 = (14, 17) ∧ slotStart 8 = 145296 ∧ descIndex 14 17 = 30 := by
  decide +kernel

/-- spec/22_registers.md, "three addresses on Die S" (R565, R566). -/
theorem test_addresses : Reg.RDCH_COEF 21 40 2 7 = 0x1152389C ∧ Reg.SAFE_PORT_STATE 1 5 = 0x10901050 ∧ Reg.BEAM_CH_STATUS 1 3 = 0x10601300 := by
  decide +kernel

/-- spec/03_ingest.md, "packing and a parity error": 1,000 bytes are 16 wide words, the last with VALID_COUNT 40 and LAST. -/
theorem test_packing : (packWords true 16 (zeros 1000)).1.length = 16
    ∧ (packWords true 16 (zeros 1000)).1.getLast?.map (·.side % 256) = some (128 + 40) := by decide +kernel

/-- spec/00_scope.md, "reading a latched counter": HDL_FEC_CORR of port 0 stands for the counter (R9). -/
def counter (v : Nat) : Block := regPut (regPut live (Reg.HDL_FEC_CORR_LO 0) (v % 2 ^ 32)) (Reg.HDL_FEC_CORR_HI 0) (v / 2 ^ 32)
theorem test_latched_counter :
    let r := readReg (counter 0x1FFFFFFFF) 0 (Reg.HDL_FEC_CORR_LO 0)
    r.1 = 0xFFFFFFFF ∧ (readReg { counter 0x200000000 with hq := r.2.hq } 0 (Reg.HDL_FEC_CORR_HI 0)).1 = 1 := by decide +kernel

/-- spec/09_heddle_link.md, "one exchange during training": d = 1,680 ticks and e = -780 (R233). -/
theorem test_exchange :
    let b := (wr live (Fld.HDL_STATUS_STATE 0) 2).updHdl 0 fun h => { h with markers := [(0, 1000000000)] }
    let c := timeExchange b 0 (leB 8 1000000900 ++ leB 8 1000004900 ++ zeros 16) 1000007360
    (c.hdlP 0).delay = 1680 ∧ (c.hdlP 0).offset = -780 := by decide +kernel

/-- spec/13_reel_drive.md, "sub-minimum pulses": the carries and pulses of legs A and B (R338). -/
theorem test_carries :
    (emitted 80000 600 800 80000 400 0).1 = 0 ∧ (emitted 80000 600 800 80000 400 0).2.1 = 400
    ∧ (emitted 80000 600 800 80000 400 1200).1 = 1600 ∧ (emitted 80000 600 800 80000 400 1200).2.1 = 0
    ∧ (emitted 80000 600 800 80000 79600 0).1 = 80000 ∧ (emitted 80000 600 800 80000 79600 0).2.1 = -400
    ∧ (emitted 80000 600 800 80000 79600 (-1200)).1 = 78400 ∧ hReq 80000 (-32440) true = 400 ∧ hReq 80000 (-32440) false = 79600 := by
  decide +kernel

/-- A reader recovers what was modulated, and the opposite magnetization gives the complement (R182, R210). -/
theorem test_modulation :
    let w := (List.range 64).map fun i => bitOf 0x3C96F00FA5550FF1 i
    readSlot true (modWords 2 { mag := true } w) = w ∧ modWords 2 { mag := false } w = (modWords 2 { mag := true } w).map (!·) := by decide +kernel

/-- CRC-32C of "123456789", the check value of the code R14 names. -/
theorem test_crc : crc32c [0x31, 0x32, 0x33, 0x34, 0x35, 0x36, 0x37, 0x38, 0x39] = 0xE3069283 := by decide +kernel

/-! ### Ill-formed terms, one for each check -/

def okSqe : Sqe := { objectId := zeros 16 }

theorem test_wf_entry : Instr.wf (.openStream 0 0 0 okSqe [{}]) = true ∧ Instr.wf (.getLog (2 ^ 64) 0 0 okSqe []) = false
    ∧ Instr.wf (.locate 0 0 0 { okSqe with objectId := zeros 15 } []) = false ∧ Instr.wf (.mount 0 0 0 { okSqe with opcode := 256 } []) = false
    ∧ Instr.wf (.mount 0 0 0 { okSqe with rsv := 256 } []) = false ∧ Instr.wf (.flush 0 0 0 { okSqe with cid := 65536 } []) = false
    ∧ Instr.wf (.flush 0 0 0 { okSqe with handle := 2 ^ 32 } []) = false ∧ Instr.wf (.putRecord 0 0 0 { okSqe with dataAddr := 2 ^ 64 } []) = false
    ∧ Instr.wf (.putRecord 0 0 0 { okSqe with length := 2 ^ 32 } []) = false ∧ Instr.wf (.flush 0 0 0 { okSqe with flags := 2 ^ 32 } []) = false
    ∧ Instr.wf (.patrol 0 0 0 { okSqe with param0 := 2 ^ 64 } []) = false ∧ Instr.wf (.patrol 0 0 0 { okSqe with param1 := 2 ^ 64 } []) = false
    ∧ Instr.wf (.patrol 0 0 0 { okSqe with param2 := 2 ^ 64 } []) = false := by decide +kernel

theorem test_wf_list : Instr.wf (.putRecord 0 0 0 okSqe [{ addr := 2 ^ 64 }]) = false ∧ Instr.wf (.putRecord 0 0 0 okSqe [{ len := 2 ^ 32 }]) = false
    ∧ Instr.wf (.putRecord 0 0 0 okSqe [{ rsv := 2 ^ 32 }]) = false := by decide +kernel

theorem test_wf_sizes : Instr.wf (.qpSqTailDb 0 0 0 4096) = false ∧ Instr.wf (.qpCqHeadDb 0 0 0 4096) = false
    ∧ Instr.wf (.sqEntryFetch 0 0 0 (zeros 63) []) = false ∧ Instr.wf (.bobbinWideRead 0 0 0 (zeros 65) 0) = false
    ∧ Instr.wf (.bobbinWideRead 0 0 0 [] (2 ^ 25)) = false ∧ Instr.wf (.unwrapJob 0 0 true (zeros 39)) = false := by decide +kernel

theorem test_wf_cells : Instr.wf (.drbgSeed ⟨2 ^ 64, []⟩) = false ∧ Instr.wf (.sampleCell 0 0 0 true (zeros 32)) = true
    ∧ Instr.wf (.timeExchange 0 0 (zeros 31) 0) = false ∧ Instr.wf (.sampleCell 0 0 0 false (zeros 31)) = false
    ∧ Instr.wf (.servoCell 0 0 0 false (zeros 31)) = false
    ∧ Instr.wf (.senseCell 0 0 (some (zeros 31))) = false := by decide +kernel

theorem test_wf_messages : Instr.wf (.ident 0 0 256 []) = false ∧ Instr.wf (.status 0 0 0 (zeros 29)) = false
    ∧ Instr.wf (.event 0 0 256 []) = false ∧ Instr.wf (.ack 0 0 0 (zeros 29)) = false
    ∧ Instr.wf (.packetReceive 0 0 0 6 (zeros 31) []) = false ∧ Instr.wf (.packetReceive 0 0 0 6 (zeros 32) (zeros 31)) = false
    ∧ Instr.wf (.packetReceive 0 0 0 6 (zeros 32) (zeros 2080)) = false ∧ Instr.wf (.heartbeat 0 0 65536 []) = false
    ∧ Instr.wf (.loReadLatch 0 0 (2 ^ 31)) = false ∧ Instr.wf (.rcRead 0 0 (2 ^ 31)) = false
    ∧ Instr.wf (.registerWrite 0 0 (2 ^ 33) 15 0) = false := by decide +kernel

/-- Two words that spell nothing: the table gives bits to no row. -/
theorem test_no_word : decodeTableWord 8 0 = none ∧ decodeTableWord 32 0xFFFFFFFF = none := by decide +kernel

/-! ### Hypotheses of the statements about steps, queue pairs and the scheduler -/

/-- DormantLeavesOnlyTheWarden: a part in DORMANT. -/
theorem test_dormant : awake (live.updWard fun w => { w with power := .dormant }) = false ∧ wardRow (.dispatchSlot 0) = false := by decide +kernel

/-- StepsKeepReadyTenants: the state after reset, and one with a ready tenant. -/
theorem test_ready :
    State.reset.blk.hq.ready = readyTenants State.reset.blk
    ∧ let b := run (.sqEntryFetch 0 0 0 ([0x12] ++ zeros 63) []) (paired.updQp 0 fun p => { p with sqTail := 1 })
      b.hq.ready = readyTenants b := by decide +kernel

/-- EventsSendTheirMessage: an event enabled while it stands. -/
theorem test_event :
    let b := wr (wr live Fld.SYS_EVENT_WARDEN_ALARM 1) Fld.SYS_EVENT_EN_EN 0
    let c := run (.sysEventEnWrite 0 0x20) b
    eventsOn b = false ∧ awake c = true ∧ eventsOn c = true := by decide +kernel

/-- QueuePairsStartAndStop, the doorbells: the registers are reached, enabled and not. -/
theorem test_pair :
    there (bg live) (Reg.QP_CTRL 0 0) = true ∧ pairThere (bg live) 0 0 = true ∧ qpOn live 0 0 = false ∧ qpOn (writeQpCtrl live 0 0 9) 0 0 = true
    ∧ qpOn paired 0 0 = true ∧ qpOn (writeQpCtrl paired 0 0 8) 0 0 = false
    ∧ there (bg paired) (Reg.QP_SQ_TAIL_DB 0 0) = true ∧ there (bg paired) (Reg.QP_CQ_HEAD_DB 0 0) = true ∧ pairThere (bg paired) 0 0 = true := by
  decide +kernel

/-- TailDoorbellsMoveOneIndex: the last index in range and the first beyond, and a state where nothing follows. -/
theorem test_tail : 15 < 2 ^ (paired.qp 0).sizeLog2 ∧ ¬ 16 < 2 ^ (paired.qp 0).sizeLog2
    ∧ pumpAll (sqTailDb (bg paired) 0 0 15) = sqTailDb (bg paired) 0 0 15 ∧ refreshReady (sqTailDb (bg paired) 0 0 15) = sqTailDb (bg paired) 0 0 15
    ∧ eventsOn (sqTailDb (bg paired) 0 0 15) = false := by decide +kernel

/-- HeadDoorbellsFreeOnlyWrittenSlots: an entry posted, freed at index 1 and not at 2. -/
theorem test_head :
    let b := bg (paired.updQp 0 fun p => { p with cqTail := 1 })
    qpIdle b 0 0 = false ∧ (b.qp 0).cqHead < 16 ∧ (b.qp 0).cqTail < 16 ∧ (1 + 16 - 0) % 16 ≤ ((b.qp 0).cqTail + 16 - 0) % 16
    ∧ ¬ (2 + 16 - 0) % 16 ≤ ((b.qp 0).cqTail + 16 - 0) % 16 := by decide +kernel

/-- FetchedEntriesAreCheckedInOrder and FunctionZeroCommandsAreNotPermittedElsewhere: an entry of each kind. -/
theorem test_fetch :
    let b := bg (paired.updQp 0 fun p => { p with sqTail := 1 })
    let e (o : Byte) : Sqe := sqeOf ([o] ++ zeros 63)
    canFetch b 0 0 = true ∧ opcodes.contains (e 0).opcode = false ∧ opcodes.contains (e 0x10).opcode = true
    ∧ fn0Ops.contains (e 0x10).opcode = true ∧ opcodes.contains (e 0x12).opcode = true ∧ fieldFault (e 0x12) [] = none
    ∧ (fieldFault { e 0x12 with rsv := 1 } []).isSome = true
    ∧ rdB b Fld.BOOT_STATE_HALF_ISOLATED = false
    ∧ (let h := (wr b Fld.BOOT_STATE_HALF_ISOLATED 1); rdB h Fld.BOOT_STATE_HALF_ISOLATED = true ∧ canFetch h 0 0 = true) := by decide +kernel

/-- CompletionsArePostedIntoFreedSlots: a completion that waits, with a slot free, and with none. -/
theorem test_post :
    let x : Completion := { cid := 1, status := 0, seq := 0 }
    let b := bg (paired.updQp 0 fun p => { p with waiting := [x] })
    let f := bg (paired.updQp 0 fun p => { p with waiting := [x], cqTail := 15 })
    (b.qp 0).waiting = [x] ∧ cqCount (b.qp 0) + 1 ≠ qpSize (b.qp 0) ∧ dmaErr b 0 0 = false ∧ cqCount (f.qp 0) + 1 = qpSize (f.qp 0) := by decide +kernel

/-- SchedulerServesLeastStartTag: a tenant is picked. -/
theorem test_pick :
    let b := bg ((wr paired (Fld.HQI_TENANT_WEIGHT_WEIGHT 0) 1).updQp 0 fun p => { p with fetched := [⟨{ opcode := 0x12, objectId := zeros 16 }, []⟩] })
    (schedPick (refreshReady b)).isSome = true := by decide +kernel

/-- HeldCommandsEndOneWay: an OPEN_OBJECT held and ready, one whose hold has run out, and a PUT_RECORD whose hold has. -/
theorem test_held :
    let f (o : Nat) : Fetched := ⟨{ opcode := o, handle := 65536, objectId := leB 16 1 }, []⟩
    let b (o : Nat) := bg (late (paired.updQp 0 fun p => { p with fetched := [f o], held := some { since := 0, weight := 1 } }))
    ((b 3).qp 0).held.isSome = true ∧ rd (b 4) Fld.HQI_HOLD_BEAM_HOLD * 4000000 ≤ since (b 4) 0 ∧ rd (b 3) Fld.HQI_HOLD_OBJ_HOLD * 4000000 ≤ since (b 3) 0 := by
  decide +kernel

/-- DmaErrorsStopFetchingAndKeepEntries: the registers, an entry to read, an entry to write, a function there. -/
theorem test_dma :
    let b := bg (paired.updQp 0 fun p => { p with sqTail := 1, waiting := [{ cid := 1, status := 0, seq := 0 }] })
    canFetch b 0 0 = true ∧ (b.qp 0).waiting ≠ [] ∧ cqFull (b.qp 0) = false ∧ dmaErr b 0 0 = false
    ∧ there b (Reg.QP_STATUS 0 0) = true ∧ pairThere b 0 0 = true ∧ fnThere b 0 = true ∧ b.ing.streams = []
    ∧ (bg paired).hq.qps.map (·.1) = [0] := by decide +kernel

/-! ### Acceptance of host commands -/

/-- The pair with its tenant's weight, a stream open on it, and an object open on that. -/
def fed : Block := wr paired (Fld.HQI_TENANT_WEIGHT_WEIGHT 0) 1
def opening : Sqe := { opcode := 1, cid := 1, param0 := 9 + 3 * 65536 + 3 * 1048576, objectId := zeros 16 }
def opened : Block := run (.completionPost 0 0 0) (run (.openStream 10 0 0 opening []) fed)
def holding : Block := run (.completionPost 0 0 0) (run (.openObject 10 0 0 { cid := 2, handle := 65536, objectId := leB 16 12345 } []) opened)

/-- An entry of an opcode. -/
def ask (o len param0 : Nat) : Sqe := { opcode := o, objectId := zeros 16, length := len, param0 := param0 }
/-- An entry on the open stream. -/
def onStream (o len id : Nat) : Sqe := { opcode := o, objectId := leB 16 id, handle := 65536, length := len }

/-- StreamCommandsAreAccepted: every command of a stream, the record one that fits. -/
theorem test_open_stream : Accepted (bg fed) 0 0 opening [] ∧ awake fed = true := by unfold Accepted Takes Idle; decide +kernel
theorem test_endings : Accepted (bg opened) 0 0 (onStream 2 0 0) [] ∧ Accepted (bg opened) 0 0 (onStream 6 0 0) []
    ∧ Accepted (bg holding) 0 0 (onStream 5 0 0) [] ∧ Accepted (bg holding) 0 0 (onStream 7 0 12345) [] := by
  unfold Accepted Takes Idle; decide +kernel
theorem test_object : Accepted (bg opened) 0 0 (onStream 3 0 7) [] := by unfold Accepted Takes Idle; decide +kernel
theorem test_record : Accepted (bg holding) 0 0 (onStream 4 3000 0) [] ∧ recordFits (chosen (bg holding) 0 0 (onStream 4 3000 0) []) (onStream 4 3000 0) = true := by
  unfold Accepted Takes Idle; decide +kernel

/-- OtherHostCommandsAreAccepted: every other command. -/
theorem test_commands : ∀ e ∈ [ask 0x10 0 0, ask 0x11 0 0, ask 0x12 0 0, ask 0x13 4096 0, ask 0x14 4096 0, ask 0x20 0 0, ask 0x21 0 0, ask 0x22 0 0,
    ask 0x30 40 0, ask 0x31 0 0, ask 0x32 4096 0, ask 0x33 32 0, ask 0x40 256 0, ask 0x41 0 0, { ask 0x42 131136 0 with param2 := 2 ^ 32 }, ask 0x50 0 0, ask 0x51 0 0],
    Accepted (bg fed) 0 0 e [] := by unfold Accepted Takes Idle; decide +kernel

/-! ### Ingest, carding, sealing and the beam store -/

/-- A record accepted, its bobbin granted, its read sent out, and its bytes in. -/
def waitingRec : Block := run (.putRecord 10 0 0 { onStream 4 3000 0 with dataAddr := 4096 } []) holding
def granted1 : Block := run (.bobbinGrant 1 0) waitingRec
def asked1 : Block := run (.dmaReadRequest 1 2 3000) granted1
def arrived1 : Block := run (.dmaReadCompletion 1 2 (List.replicate 3000 7)) asked1
def begun1 : Block := run (.compressionJobStart 1 0) arrived1

/-- BobbinRowsTakeTheirEffect: grant, request up to the record's length, completion of its last byte, failure. -/
theorem test_grant : waitingRecord (bg waitingRec) 0 = some 2 ∧ freeBobbin (bg waitingRec) 0 = some 10 := by decide +kernel
theorem test_request :
    let b := bg granted1
    let c := b.cmd 2
    c.bobbin = some 10 ∧ c.fin = none ∧ c.ended = false ∧ c.requested + 3000 ≤ c.e.length
    ∧ (b.bobbin 10).words.length + (b.bobbin 10).reserved + wordsFor c.requested 3000 ≤ 1024 := by decide +kernel
theorem test_arrival :
    let c := (bg asked1).cmd 2
    c.bobbin = some 10 ∧ c.fin = none ∧ c.ended = false ∧ c.arrived + 3000 ≤ c.requested ∧ c.arrived < c.requested := by decide +kernel

/-- A read by the engine that runs the record; a drop of an open packet all in, of one not all in, and of none; credits. -/
theorem test_wide :
    let b := bg begun1
    (b.bobbin 10).words ≠ [] ∧ (b.bobbin 10).dropping = false ∧ (b.bobbin 10).owner = some 2 ∧ jobEngine b 2 = some 0
    ∧ (b.engine 0).input.length + 64 ≤ 131072 := by decide +kernel
theorem test_drop :
    let b := bg live
    let x (all : Bool) : Block := bg (live.updBobbin 10 fun x => { x with inPacket := true, allIn := all })
    (b.bobbin 10).inPacket = false ∧ ((x true).bobbin 10).inPacket = true ∧ ((x true).bobbin 10).allIn = true ∧ ((x false).bobbin 10).allIn = false
    ∧ (b.bobbin 0).missed = 0 ∧ 0 < (b.bobbin 0).credits ∧ (b.bobbin 10).words = [] := by decide +kernel

/-- CardingRowsTakeTheirEffect: a job to assign, a block to emit, and the registers. -/
theorem test_job : oldestJob (bg arrived1) 0 = some 2 ∧ (assignEngine (bg arrived1) 0 0).isSome = true := by decide +kernel
theorem test_block :
    let b := bg ((begun1.updEngine 0 fun x => { x with input := [1], inputEnd := true }).updCtx 0 fun x => { x with frameOpen := true })
    (b.engine 0).state = .compressing ∧ (b.engine 0).job = some 2 ∧ (b.cmd 2).stream = some 65536 ∧ (b.ctx 0).frameOpen = true
    ∧ there b (Reg.CARD_ENG_ENABLE 0) = true ∧ there b (Reg.CARD_ENG_ENABLE 1) = false := by decide +kernel

/-- A restore whose first segment is a frame without blocks, opened. -/
def restoring : Block := live.updCmd 4 fun c => { c with
  e := { opcode := 0x13 }, rst := { segs := [{ keyLabel := 77 }], frame := some (frameHeader ++ frameClose {}) } }
theorem test_decode :
    let b := bg restoring
    let x := b.cmd 4
    x.rst.frame.isSome = true ∧ idlestEngine b 0 = some 0 ∧ x.fin = none ∧ dieOfFn b x.fn = 0 ∧ (writeBack b 0).isSome = true
    ∧ decodeSeg x.rst { keyLabel := 77 } (frameHeader ++ frameClose {}) = some [] := by decide +kernel

/-- BlocksNeverOutgrowTheirContent and PlainFramesDecodeToTheirContent: the smallest pieces. -/
theorem test_pieces : ([9] : Bytes) ≠ [] ∧ (1 ≤ 1) ∧ ∀ x ∈ [(true, ([9, 9] : Bytes)), (false, [1])], 1 ≤ x.2.length ∧ x.2.length ≤ 131072
    ∧ (x.1 = true → ∀ a ∈ x.2, some a = x.2.head?) := by decide +kernel

/-- SealingRowsTakeTheirEffect: a job of each kind waiting and running. -/
def job (k : PipeJob) : QueuedJob := { job := k }
def queued (k : PipeJob) : Block := { live with ciph := { live.ciph with queue := [job k] } }
def running (k : PipeJob) : Block := live.updPipe 0 fun x => { x with running := some (job k) }
theorem test_seal :
    let w : SealWork := { stream := 65536, key := 3, data := [1] }
    let b := bg (queued (.seal w))
    nonceMay b = true ∧ nextJob b 0 = some (job (.seal w)) ∧ mayStart b 0 (job (.seal w)) = true
    ∧ ((bg (running (.seal w))).pipe 0).running = some (job (.seal w)) := by decide +kernel
theorem test_unwrap :
    let b := bg (live.updCmd 4 fun c => { c with e := { opcode := 0x30 } })
    waitingUnwrap b = some 4 ∧ mayStart b 0 { job := .unwrap 4 (slice (zeros 40) 0 40), since := b.time.now, die := dieOfFn b (b.cmd 4).fn } = true
    ∧ ((bg (running (.unwrap 4 []))).pipe 0).running = some (job (.unwrap 4 [])) := by decide +kernel
theorem test_open :
    let b := bg { restoring with ciph := { restoring.ciph with queue := [job (.openSeg 4 none)] } }
    openJobFor b 0 = some (job (.openSeg 4 none)) ∧ slotWithLabel b (b.cmd 4).tenant 77 = some 3 ∧ (b.slot 3).closing = false
    ∧ mayStart b 0 (job (.openSeg 4 none)) = true ∧ ((bg (running (.openSeg 4 none))).pipe 0).running = some (job (.openSeg 4 none)) := by
  decide +kernel

/-- A slot to zeroize, the DRBG in each state, an erasure due. -/
theorem test_keys :
    let b := bg (live.updSlot 3 fun x => { x with closing := true, drops := [4] })
    let d (x : DrbgState) (e : Bool) : Block := bg { live with ciph := { live.ciph with drbg := x, genCalls := 65536 }, boot := { live.boot with entropy := e } }
    let t := bg { live with ciph := { live.ciph with eraseDue := [(0, true)], retries := 3 } }
    (b.slot 3).closing = true ∧ slotHeld b 3 = false ∧ (b.slot 3).drops = [4]
    ∧ (d .seeding true).boot.entropy = true ∧ (d .seeding true).ciph.drbg ≠ .ready ∧ (d .seeding true).ciph.retries < 3
    ∧ (d .ready true).ciph.drbg = .ready ∧ 65536 ≤ (d .ready true).ciph.genCalls
    ∧ (t.ciph.eraseDue.filter fun x => x.1 = 0) ≠ [] ∧ 3 ≤ t.ciph.retries ∧ t.ciph.drbg ≠ .ready ∧ t.ciph.drbg ≠ .failed := by decide +kernel

/-- NonceValuesNeverRepeat: a pipeline with a value at hand, and the reserved block. -/
theorem test_nonce : (live.ciph.nonceNext < live.ciph.nonceEnd) ∧ live.ciph.pipes = [] := by decide +kernel
theorem test_nonce_inv : NonceInv live :=
  ⟨fun _ => Nat.zero_le _, fun _ _ _ v h => Nat.not_lt_zero v h.1.2⟩

/-- ErasureLeavesNoKey: no stream, no command, no job. -/
theorem test_erasure : live.ing.streams = [] ∧ live.hq.cmds = [] ∧ (∀ x ∈ live.ciph.slots, x.2.drops = []) ∧ live.ciph.pipes = [] := by
  decide +kernel

/-- The beam store: channels in the pool, a merge entry 256 ns old, a bucket to leak, a step to fill; a line that is kept. -/
theorem test_beam :
    let e : MergeEntry := { line := 5, mask := 1, data := zeros 64 }
    let b := bg (late (live.updBeamCh 0 fun h => { h with merge := [e] }))
    let f := bg (wr { live with boot := { live.boot with beam := true } } Fld.BEAM_POOL_POOL_STEPS 4)
    beamC b ≠ 0 ∧ (b.beamCh 0).merge = [e] ∧ 1024 ≤ since b e.since ∧ 1 < beamC b
    ∧ rd b (Fld.BEAM_CH_BUCKET_LEAK_S (chReg b 1).1 (chReg b 1).2) * 4000000000 ≤ since b (b.beamCh 1).leakAt
    ∧ fillWanted (wr f Fld.BEAM_CTRL_AUTO_FILL 1) = true := by decide +kernel
theorem test_line : listed { live with beam := { live.beam with lines := [(5, goodLine (zeros 64))] } } 5 = true := by decide +kernel

/-! ### Wefts, format sequencers, read channel, ledger -/

/-- WeavingRowsTakeTheirEffect: a group that streams, its boundary reached, and one of a cross-device group. -/
def streamingNow : Block := late (setSm live 5 1)
theorem test_point :
    let b := bg streamingNow
    schedules b 5 = true ∧ streaming b 5 = true ∧ (b.grp 5).cross = false ∧ reached b ((b.grp 5).nextL - leadTicks b 5) = true
    ∧ ((live.updGrp 6 fun q => { q with valid := true, cross := true }).grp 6).cross = true := by decide +kernel
/-- An abort and a verdict on their way, a weft to withdraw, one to assess. -/
theorem test_wefts :
    let w : Weft := { no := 1, l := 0 }
    let b := bg (late ({ live with heads := { live.heads with aborts := [(5, 1)], verdicts := [zeros 16 ++ leB 2 9 ++ zeros 14] } }.updGrp 5
      fun q => { q with wefts := [w] }))
    b.heads.aborts = [(5, 1)] ∧ b.heads.verdicts.length = 1 ∧ groupSlot { b with heads := { b.heads with verdicts := [] } } 9 = some 5
    ∧ ((b.grp 5).wefts.find? fun w => w.state = .decided && !w.intentDurable) = some w ∧ reached b (w.l - 80000) = true
    ∧ ((b.grp 5).wefts.find? fun w => !w.assessed && w.state != .withdrawn) = some w ∧ reached b (w.l + (3 + w.grace) * w.tw) = true
    ∧ there b (Reg.WEAVE_MEMBER_CTRL 5 0) = true ∧ there b (Reg.WEAVE_MEMBER_CTRL 31 63) = true := by decide +kernel
/-- A cartridge with an entry as old as CAT_AGE; a member that can be held; a hold that has waited 5 s. -/
def carted : Block :=
  let b := live.updTape 0 fun t => { t with cart := some 1 }
  { b with cons := { b.cons with carts := [{ id := 1, unwritten := [(2, [], 0)] }] } }
theorem test_age :
    let b := bg (late carted)
    (cartOn b 0).isSome = true ∧ ((cartOn b 0).bind fun c => c.unwritten.head?) = some (2, [], 0)
    ∧ rd b Fld.WEAVE_CAT_CTRL_CAT_AGE * 4000000000 ≤ since b 0 := by decide +kernel
theorem test_held_member :
    let b := bg (wr (wr carted (Fld.HDL_STATUS_STATE 0) 2) (Fld.SAFE_PORT_STATE_STATE 0 0) 1)
    canHold b 5 0 = true := by decide +kernel
theorem test_restart :
    let b := bg (late (live.updGrp 5 fun q => { q with condAt := some 0, heldAt := some 0, queue := [1, 2, 3, 4, 5, 6, 7, 8] }))
    (b.grp 5).condAt = some 0 ∧ (b.grp 5).heldAt = some 0 ∧ restartDue b 5 = true ∧ mayRestart b 5 = true
    ∧ 20000000000 ≤ since b 0 := by decide +kernel
theorem test_roles : 0 < 3 ∧ roleOf 3 2 1 = 0 ∧ memberOf 3 0 1 = 2 := by decide +kernel

/-- FormattingRowsTakeTheirEffect: a segment whose rows are due, its slot due on an UP link, and an allocated rewrite slot. -/
def writing : Block :=
  let x : WSeg := { g := 5, weft := 1, role := 0, kind := 1, tw := 1000000, content := some [] }
  late ((wr live (Fld.HDL_STATUS_STATE 0) 2).updWport 0 fun w => { w with
    inRun := true, segs := [x], alloc := [(1, (0, 3, false)), (2, (0, 3, false))] })
theorem test_slot :
    let b := bg writing
    let w := b.wport 0
    (nextSeg w).isSome = true ∧ linkUp b 0 = true ∧ (nextSeg w).map (fun x => reached b (bitTime x (slotStart x.slot) - 48000)) = some true
    ∧ (w.segs.find? fun x => x.run = w.run && x.slot < 104 && x.cut.isNone && !isMarker x && tabGet 0 x.fetched 7 < 416).isSome = true
    ∧ (nextSeg w).map (fun x => sourceLive b x && reached b (x.l - 1000000)) = some true := by decide +kernel
theorem test_regen :
    let b := bg writing
    let w := b.wport 0
    tabGet (0, 4096, false) w.alloc 1 = (0, 3, false) ∧ (segOf w 0).isSome = true ∧ (segStart w 0).isSome = true ∧ 3 < 4096 := by decide +kernel

/-- ReadChannelRowsTakeTheirEffect: a pass more, a look buffer free for a port that waits, dual-look reading. -/
theorem test_read :
    let b := bg { wr live (Fld.RDCH_STATE_MODE 0) 3 with sl := { live.sl with lookWait := [0] } }
    passMax b 0 2 ≠ 0 ∧ (b.rdch 0).turbo = [] ∧ (b.sl.lookWait.find? fun p => p / 16 = 0) = some 0
    ∧ ((List.range 4).find? fun r => tabGet 0 b.sl.looks r = 0) = some 0 ∧ rd b (Fld.RDCH_STATE_MODE 0) = 3
    ∧ there b (Reg.VFY_CTRL 0) = true := by decide +kernel

/-- LedgerRowsTakeTheirEffect: an open page with a record, a program, an erase in each state. -/
theorem test_ledger :
    let x : LRec := { data := [1] }
    let b := bg (late { live with ledg := { live.ledg with state := .ready } })
    let p := b.updOpenPage 7 0 fun p => { p with recs := [x], urgentAt := some 0 }
    let n (s : NandState) : Block := b.updNdie 15 fun n => { n with state := s }
    b.ledg.state ≠ .scanning ∧ (p.openPage 7 0).recs ≠ [] ∧ (p.openPage 7 0).urgentAt = some 0 ∧ 40000 ≤ since p 0
    ∧ ((n .program).ndie 15).state = .program ∧ ((n .program).ndie 15).progFlag = none ∧ ((n .erase).ndie 15).state = .erase
    ∧ (b.nblock 0).erases + 1 < 50000 ∧ ((n .eraseSuspending).ndie 15).state = .eraseSuspending
    ∧ 2000000 ≤ since (n .erase) ((n .erase).ndie 15).eraseSince ∧ 0 < flagBase := by decide +kernel
/-- ProgramsTakeAPageInOrder and ErasesWaitForCopiesAndNeverExceedFour: a page that starts, and an erase that begins. -/
theorem test_program :
    let b := { live with ledg := { live.ledg with state := .ready } }.updOpenPage 7 0 fun p => { p with recs := [{ data := [1] }], due := true }
    (startProgram b 0).ndie 0 ≠ b.ndie 0 ∧ ((startProgram b 0).ndie 0).progFlag = none := by decide +kernel
theorem test_erase :
    let k := regionBase 7
    let b := { live with ledg := { live.ledg with state := .ready } }.updNblock k fun x => { x with pages := [{ region := 7 }], shut := true }
    ((beginErase b k).ndie (blockDie k)).progFlag ≠ (b.ndie (blockDie k)).progFlag ∧ allCopied b k 7 = true := by decide +kernel

/-! ### Control-law engines, edge compiler, supervisor -/

/-- Port 0 UP, after a long time. -/
def up0 : Block := late (wr live (Fld.HDL_STATUS_STATE 0) 2)

/-- LoopRowsTakeTheirEffect: a frame pending, a frame missing, an offload step, an injection at its end, a capture full, a run to check. -/
theorem test_loops :
    let b := bg (up0.updCle 0 fun c => { c with
      servo := [(1, { pending := some (0, 0, true) })], tF := 4, offN := 1024, inj := some { active := true, duration := 1, ticks := 1 } })
    let c := b.cle 0
    linkUp b 0 = true ∧ (tabGet {} c.servo 1 : ServoRd).pending.isSome = true ∧ 400000 ≤ since b c.aAt
    ∧ reached b (c.frameAt + (c.missing + 1) * 3 * c.tF / 2) = true ∧ 1024 ≤ c.offN
    ∧ (c.inj.map fun j => j.active && decide (j.duration ≠ 0) && decide (j.duration ≤ j.ticks)) = some true
    ∧ there b (Reg.CLE_RC_CTRL 0 2) = true := by decide +kernel
theorem test_capture :
    let j : Inject := { samples := List.replicate 16384 default, active := false }
    captureDone j = true ∧ j.active = false := by decide +kernel
theorem test_unsettled :
    let b := bg ((late live).updWport 0 fun w => { w with inRun := true, segs := [{ l := 400000000000001 }] })
    let w := b.wport 0
    w.inRun = true ∧ (w.segs.find? fun s => s.run = w.run).isSome = true ∧ reached b (400000000000001 - 40000) = true
    ∧ reached b 400000000000001 = false ∧ (b.cle 0).settled < 64 := by decide +kernel
/-- HoldKeepsALoopsOutput: a loop in HOLD with an output. -/
theorem test_hold :
    let b := live.updLoop 0 4 fun x => { x with hold := true, out := 5 }
    (loopOf (b.cle 0) 4).hold = true ∧ (loopOf ((releaseLoop b 0 4 true).cle 0) 4).out = 0
    ∧ (loopOf ((releaseLoop b 0 4 false).cle 0) 4).out = 5 := by decide +kernel

/-- ReelRowsTakeTheirEffect and CarrierPeriodsHoldTheirPulses: the next period, the bridges off, timings that fit and that do not, a
map of four bridges, a manual request under a grant. -/
theorem test_reel :
    let b := bg up0
    linkUp b 0 = true ∧ (b.edgeC 0).last < ceilDiv (b.time.now + 8000) (carrierTicks b 0) * carrierTicks b 0
    ∧ bridgesOff b 0 = true ∧ there b (Reg.EDGE_CARRIER 0) = true ∧ there b (Reg.EDGE_TIMING 0) = true ∧ there b (Reg.EDGE_MAP 0) = true
    ∧ there b (Reg.EDGE_TEST 0) = true ∧ configLocked b = false
    ∧ ((List.range 4).map fun l => bitsOf 0x3210 (4 * l) 3).eraseDups.length = 4 := by decide +kernel
theorem test_carrier :
    let b := bg up0
    let c := writeFields b (Reg.EDGE_CARRIER 0) (regGet b (Reg.EDGE_CARRIER 0)) true
    4 * (minTicks c 0 + deadTicks c 0) ≤ carrierTicks c 0 ∧ 4 * (minTicks b 0 + deadTicks b 0) ≤ carrierTicks b 0
    ∧ writeEdgeTiming (wr b (Fld.EDGE_CARRY_STATE_CARRY 0 0) 5) 0 (Reg.EDGE_CARRIER 0) (regGet b (Reg.EDGE_CARRIER 0)) ≠ wr b (Fld.EDGE_CARRY_STATE_CARRY 0 0) 5 := by
  decide +kernel
theorem test_test :
    let b := bg ((wr up0 (Fld.SAFE_PORT_STATE_STATE 0 0) 2).updLoop 0 4 fun x => { x with manual := true, hold := false })
    let c := b.updLoop 0 5 fun x => { x with manual := true, hold := false }
    granted c 0 = true ∧ loopMode (loopOf (c.cle 0) 4) = 1 ∧ loopMode (loopOf (c.cle 0) 5) = 1 ∧ bitsOf 0x10010 4 2 = 1 ∧ bitsOf 0x10010 16 16 ≠ 0 := by
  decide +kernel

/-- SupervisorRowsTakeTheirEffect and GrantsNeedEveryCondition: a port that may be granted, one whose test is old, one in RUN. -/
def grantable : Block :=
  let b := wr (wr (wr (wr up0 (Fld.SAFE_PORT_STATE_STATE 0 0) 1) (Fld.HDL_STATUS_LOCKED 0) 1) (Fld.SAFE_STATUS_CH_A_OK 0) 1) (Fld.SAFE_STATUS_CH_B_OK 0) 1
  let b := wr (wr b (Fld.EDGE_TEN_SRC_LET_HEALTHY 0) 1) (Fld.HDL_XPORT_STATE 0) 0
  (b.updSafe 0 fun s => { s with hbA := b.time.now, hbB := b.time.now, permitAt := some b.time.now }).updHdl 0 fun h => { h with bridges := 8 }
theorem test_grant_port :
    let b := bg grantable
    grantOk b 0 = true ∧ permitFresh b 0 = true ∧ bridgesFit b 0 = true ∧ portState b 0 = 1
    ∧ permitFresh (b.updSafe 0 fun s => { s with permitAt := none }) 0 = false
    ∧ portState (wr b (Fld.SAFE_PORT_STATE_STATE 0 0) 2) 0 = 2 ∧ (b.wport 0).inRun = false := by decide +kernel
theorem test_grant_ok :
    let b := grantable
    portState b 0 = 1 ∧ (b.safeP 0).latched = [] ∧ rdB b (Fld.SAFE_STATUS_CH_A_OK 0) = true ∧ rdB b (Fld.SAFE_STATUS_CH_B_OK 0) = true
    ∧ rdB b (Fld.HDL_STATUS_LOCKED 0) = true ∧ rdB b (Fld.EDGE_TEN_SRC_LET_HEALTHY 0) = true ∧ rd b (Fld.HDL_XPORT_STATE 0) ≤ 1
    ∧ rdB b (Fld.HDL_XPORT_SAFE_STOP_SEEN 0) = false ∧ since b (b.safeP 0).hbA ≤ 600000 ∧ since b (b.safeP 0).hbB ≤ 440000
    ∧ portState (grantMotion b 0 true) 0 = 2 := by decide +kernel
theorem test_watch :
    let b := bg (up0.updCle 0 fun c => { c with sense := List.replicate 5 {} })
    linkUp b 0 = true ∧ 440000 < since b (b.safeP 0).hbB ∧ 600000 < since b (b.safeP 0).hbA ∧ (b.cle 0).sense.length = 5
    ∧ there b (Reg.SAFE_PORT_CTRL 0 0) = true ∧ there b (Reg.SAFE_PORT_CTRL 0 15) = true := by decide +kernel

/-! ### Register fabric, start-up, warden -/

/-- SystemRowsTakeTheirEffect: the code in the middle and at its ends, registers reached, a die up, a register without locked fields. -/
theorem test_system :
    let b := bg (late live)
    4000000 ≤ since b b.boot.since ∧ tabGet 0 b.lands.vidAt 0 = 0 ∧ vidOf b 0 = 10 ∧ vidOf b 1 < 30
    ∧ there b Reg.SYS_EVENT = true ∧ there b Reg.SYS_EVENT_EN = true ∧ dieUp b 0 = true ∧ dieUp b 1 = true
    ∧ awayS b 0 (Reg.CARD_ENG_ENABLE 0) = false ∧ (regFor b 0 (Reg.CARD_ENG_ENABLE 0)).isSome = true ∧ configLocked b = false
    ∧ b.lands.extest = false ∧ b.fuse.lifecycle = 0
    ∧ ({ b with fuse := { b.fuse with lifecycle := 1 } } : Block).fuse.lifecycle ≠ 0 := by decide +kernel

/-- AbsentRegistersTakeNoAccess: the Die S window without Die S and with a lost link, and an address that holds no register. -/
theorem test_absent :
    let b := bg live
    0x10000000 / 0x10000000 = 1 ∧ b.boot.dieS = false
    ∧ rdB (wr b (Fld.SYS_D2D_LOST 0) 1) (Fld.SYS_D2D_LOST 0) = true
    ∧ (regFor b 0 0x0FFFFFFC).isNone = true ∧ (0x0FFFFFFC / 0x10000000 : Nat) ≠ 1 ∧ (regFor b 5 0x1FFFFFFC).isNone = true := by decide +kernel

/-- LoReadsHoldTheHighWord: the LO and HI words of a pair, read by the host. -/
theorem test_lo :
    let b := bg live
    let lo := Reg.HDL_FEC_CORR_LO 0
    awayS b 0 lo = false ∧ (regFor b 0 lo).map (fun x => (isLo x.1, isHi x.1)) = some (true, false) ∧ lo < 2 ^ 32
    ∧ awayS b 0 (lo + 4) = false ∧ (regFor b 0 (lo + 4)).map (fun x => isHi x.1) = some true := by decide +kernel

/-- A part in a start-up step. -/
def stage (n : Nat) : Block := late (wr live Fld.BOOT_STATE_STATE n)

/-- BootRowsTakeTheirEffect: for each command of start-up a block in the step it is due in. -/
theorem test_boot :
    let b0 := bg (stage 0)
    let r0 := bg { stage 0 with boot := { (stage 0).boot with roles := true } }
    let b1 := bg (stage 1)
    let i1 := bg { stage 1 with boot := { (stage 1).boot with image := true, scanned := true }, ciph := { (stage 1).ciph with drbg := .ready } }
    rd b0 Fld.BOOT_STATE_STATE = 0 ∧ b0.boot.roles = false ∧ rdB b0 Fld.BOOT_STATE_HALF_ISOLATED = false ∧ r0.boot.roles = true
    ∧ rd b1 Fld.BOOT_STATE_STATE = 1 ∧ b1.boot.image = false ∧ b1.boot.scanned = false ∧ rd (bg (stage 5)) Fld.BOOT_STATE_STATE = 5
    ∧ rd (bg (stage 7)) Fld.BOOT_STATE_STATE = 7 ∧ (bg (stage 7)).boot.scanned = false
    ∧ i1.boot.attKey = none ∧ i1.boot.scanned = true ∧ i1.ciph.drbg = .ready ∧ rd i1 Fld.BOOT_STATE_STATE = 1
    ∧ ({ i1 with boot := { i1.boot with attKey := some [] } } : Block).boot.attKey.isSome = true
    ∧ b0.ward.power ≠ .dormant ∧ awake (stage 0) = true := by decide +kernel
theorem test_lock :
    let b := bg (stage 2)
    let c := bg { wr (stage 2) Fld.BOOT_STATE_CONFIG_LOCK 1 with boot := { (stage 2).boot with lockAt := 399999960000000 } }
    rd b Fld.BOOT_STATE_STATE = 2 ∧ configLocked b = false ∧ b.beam.hashKey.isSome = true
    ∧ min (beamC b) (rd b Fld.BEAM_POOL_POOL_STEPS) ≤ rd b Fld.BEAM_POOL_RELEASED_STEPS
    ∧ configLocked c = true ∧ reached c (c.boot.lockAt + 40000000) = true ∧ 80000000000 + legacyTicks b ≤ since b b.boot.since
    ∧ rdB (wr b (Fld.SYS_D2D_LINK_UP 0) 1) (Fld.SYS_D2D_LINK_UP 0) = true ∧ rdB (wr b (Fld.SYS_D2D_LINK_UP 1) 1) (Fld.SYS_D2D_LINK_UP 1) = true := by
  decide +kernel
theorem test_recovery :
    let b := bg { stage 4 with boot := { (stage 4).boot with rom := true } }
    rd b Fld.BOOT_STATE_STATE = 4 ∧ b.boot.rom = true ∧ b.fuse.lifecycle = 0 ∧ (3 : Nat).testBit 0 = true ∧ (3 : Nat).testBit 1 = true
    ∧ rd b Fld.BOOT_PROV_STATUS_STATUS = 0 ∧ there b Reg.BOOT_CTRL = true ∧ there b Reg.BOOT_EXT_CTRL = true := by decide +kernel

/-- WardenRowsTakeTheirEffect: WAKE_AFTER set and passed, registers reached, a write of the record under way; a wake whose state is intact
resumes where the slot's image, whatever its digest, is the one that ran, and one with a tamper does not. -/
def waking : Block := late (live.updWard fun w => { w with power := .waking, resume := true })
theorem test_warden :
    let b := bg (wr (late live) Fld.WARD_CTRL_WAKE_AFTER 60)
    rd b Fld.WARD_CTRL_WAKE_AFTER = 60 ∧ 60 * 4000000000 ≤ since b b.ward.dormantAt
    ∧ there b Reg.WARD_CTRL = true ∧ there b (Reg.WARD_CH_CFG 0) = true ∧ there b (Reg.WARD_CH_CFG 15) = true ∧ there b Reg.WARD_CLR_CTRL = true
    ∧ (b.updWard fun w => { w with writing := true }).ward.writing = true ∧ b.ward.power = .run := by decide +kernel
theorem test_wake :
    let b := bg waking
    let t := bg (wr waking Fld.WARD_STATUS_TAMPER 1)
    b.ward.power = .waking ∧ 4000000000 ≤ since b b.ward.wakeAt ∧ b.ward.resume = true ∧ tampered b = false
    ∧ t.ward.power = .waking ∧ tampered t = true := by decide +kernel
theorem test_resume (image : Bytes) (h : slotVerify (bg waking) (rd (bg waking) Fld.BOOT_STATE_SLOT) = some image) :
    (slotVerify (bg waking) (rd (bg waking) Fld.BOOT_STATE_SLOT)).map sha384 = some (sha384 image) := by rw [h]; rfl

/-- TamperAlarmsAreLatchedAndAnswered: enabled causes at the ends of the range, in each power state. -/
theorem test_tamper :
    let b := wr live Fld.WARD_TAMPER_EN_EN 0x7FF
    (rd b Fld.WARD_TAMPER_EN_EN).testBit 0 = true ∧ (rd b Fld.WARD_TAMPER_EN_EN).testBit 10 = true ∧ tampered b = false
    ∧ tampered (tamperAlarm b 1) = true ∧ b.ward.power = .run
    ∧ ({ b with boot := { b.boot with attKey := some [] } } : Block).boot.attKey.isSome = true
    ∧ (tamperAlarm (b.updWard fun w => { w with power := .dormant, resume := true }) 12).ciph.keks = false ∧ waking.ward.power = .waking := by
  decide +kernel

/-- RulesActOncePerExcursion: a rule of COUNT 2 and one of COUNT 1 with results on each side, armed and fired. -/
theorem test_rule :
    let b := wr (wrS live (Fld.WARD_RULE_THRESHOLD 0) 100) (Fld.WARD_RULE_COUNT 0) 2
    let f := b.updWard fun w => { w with rules := tabSet {} w.rules 0 { count := 2, fired := true } }
    (tabGet {} b.ward.rules 0 : RuleSt) = {} ∧ rdS b (Fld.WARD_RULE_THRESHOLD 0) = 100 ∧ rdB b (Fld.WARD_RULE_BELOW 0) = false
    ∧ rd b (Fld.WARD_RULE_COUNT 0) = 2 ∧ [(101 : Int)].length < 2 ∧ rd b (Fld.WARD_RULE_HYST 0) = 0
    ∧ rd (wr b (Fld.WARD_RULE_COUNT 0) 1) (Fld.WARD_RULE_COUNT 0) = 1
    ∧ (tabGet {} f.ward.rules 0 : RuleSt).fired = true ∧ (tabGet {} f.ward.rules 0 : RuleSt).opened = false := by decide +kernel

/-! ### Heddle links, loom time, shuttle fabric -/

/-- HeddleRowsTakeTheirEffect: a link whose training step is overdue, and one UP with all it may hold. -/
theorem test_training :
    let b := bg ((late (wr live (Fld.HDL_STATUS_STATE 0) 1)).updHdl 0 fun h => { h with step := 6, due := 1 })
    training b 0 = true ∧ reached b (b.hdlP 0).due = true ∧ 6 ≤ (b.hdlP 0).step ∧ tabGet 0 (b.hdlP 0).upSeq 100 ≠ 0 % 256 + 1
    ∧ there b (Reg.HDL_CTRL 0) = true := by decide +kernel
theorem test_link :
    let x : HdlMsg := { typ := 1, seq := 1 }
    let y : HdlMsg := { typ := 1, seq := 1, resends := 3 }
    let b := bg ((wr up0 (Fld.HDL_STATUS_ROLE1 0) 1).updHdl 0 fun h => { h with markers := [(256, 5)], sample := some {}, unacked := [x] })
    let c := b.updHdl 0 fun h => { h with unacked := [y] }
    linkUp b 0 = true ∧ 20000000 ≤ since b (b.hdlP 0).statusAt ∧ 40000 ≤ since b (b.hdlP 0).edgeAt ∧ 256 % 256 = 0
    ∧ ((b.hdlP 0).markers.find? fun m => m.1 = fieldAt (slice (zeros 17 ++ [1]) 0 32) 16 2) = some (256, 5)
    ∧ (b.hdlP 0).sample.isSome = true ∧ rd b (Fld.HDL_STATUS_ROLE0 0) = 0 ∧ rd b (Fld.HDL_STATUS_ROLE1 0) = 1
    ∧ ((b.hdlP 0).unacked.find? fun x => 200000 ≤ since b x.sentAt) = some x ∧ x.resends < 3
    ∧ ((c.hdlP 0).unacked.find? fun x => 200000 ≤ since c x.sentAt) = some y ∧ 3 ≤ y.resends ∧ training c 0 = false := by decide +kernel

/-- FabricRowsTakeTheirEffect: a part with shuttle port 0 UP and its parent; one DOWN; a root; a lone part; a standby; a part in hold. -/
def woven : Block :=
  late (wr (wr (wr live (Fld.SHUT_PORT_STATUS_STATE 0 0) 2) Fld.SHUT_ID_DEVICE_ID 7) Fld.SHUT_ID_FABRIC_ID 1)
theorem test_child :
    let b := bg (woven.updFab fun f => { f with parent := some 0 })
    there b (Reg.SHUT_PORT_CTRL 0 0) = true ∧ shutUp b 0 = true ∧ 12000000 ≤ since b (b.shut 0).timeAt ∧ ownDev b ≠ 9
    ∧ b.fab.parent = some 0 ∧ 12000000 ≤ since b (b.shut 0).heardAt ∧ isRoot b = false := by decide +kernel
theorem test_down :
    let b := bg (wr (wr woven (Fld.SHUT_PORT_STATUS_STATE 0 0) 3) (Fld.SHUT_PORT_CTRL_ENABLE 0 0) 1)
    shutThere b 0 = true ∧ shutOn b 0 = true ∧ shutState b 0 = 3 ∧ 400000000 ≤ since b (b.shut 0).downAt := by decide +kernel
theorem test_root :
    let b := bg (wr (wr (wr woven Fld.SHUT_ROLE_ROLE 2) Fld.TIME_CTRL_REF_EN 1) Fld.TIME_CTRL_PPS_EN 1)
    isRoot b = true ∧ b.fab.epochPending = false ∧ reached b b.fab.hbNext = true ∧ refRoot b = true ∧ rdB b Fld.TIME_CTRL_PPS_EN = true := by
  decide +kernel
theorem test_alone :
    let b := bg woven
    isRoot b = false ∧ hasFabric b = true ∧ b.fab.parent = none ∧ rd b Fld.TIME_STATUS_STATE ≠ 3 ∧ there b Reg.SHUT_CTRL = true := by decide +kernel
theorem test_standby :
    let b := bg (wr (wr woven Fld.SHUT_ROLE_ROLE 1) Fld.SHUT_ROLE_PRIORITY 1)
    let m := b.updFab fun f => { f with mgr := some (3, 1, 0) }
    fabRole b = 1 ∧ ownPriority b ≠ 0 ∧ b.fab.hold = none ∧ b.fab.mgr = none
    ∧ (20 + 10 * (ownPriority b - 1)) * 4000000 ≤ since b (waitFrom b)
    ∧ m.fab.mgr = some (3, 1, 0) ∧ (5 + 2 * (ownPriority b - 1)) * 4000000 ≤ since m 0 := by decide +kernel
theorem test_hold_claim :
    let b := bg (wr (wr woven Fld.SHUT_ROLE_ROLE 3) Fld.SHUT_CTRL_AUTO_CLAIM_MS 100)
    fabRole b = 3 ∧ rd b Fld.SHUT_CTRL_AUTO_CLAIM_MS = 100 ∧ 100 * 4000000 ≤ since b b.fab.holdAt := by decide +kernel

/-- CrossRowsTakeTheirEffect: a manager with a cross-device group at its boundary; a member part with a plan not launched. -/
theorem test_manager :
    let b := bg ((wr (wr woven Fld.SHUT_ROLE_ROLE 2) (Fld.WEAVE_SM_STATUS_STATE 5) 1).updGrp 5 fun q => { q with cross := true })
    let q := b.grp 5
    q.valid = true ∧ q.cross = true ∧ isManager b = true ∧ streaming b 5 = true
    ∧ reached b (q.nextL - weftPeriod b (rdB b (Fld.WEAVE_SM_STATUS_EDGE 5)) (rd b (Fld.WEAVE_SM_STATUS_STEP 5)) - leadTicks b 5 - 880000) = true := by
  decide +kernel
theorem test_member :
    let x : Plan := { g := 5, weft := 1 }
    let c := wr (wr (late carted) Fld.SHUT_ROLE_MANAGER 3) (Fld.SAFE_PORT_STATE_STATE 0 0) 1
    let b := bg ((wr (wr c (Fld.HDL_STATUS_STATE 0) 2) (Fld.SHUT_PORT_STATUS_STATE 0 0) 2).updFab
      fun f => { f with plans := [x] })
    (b.fab.plans.find? fun p => p.g = 5 && p.launch && !p.launched) = some x ∧ reached b (x.l - 80000) = true
    ∧ (0, { port := 0 }) ∈ localMembers b (b.grp 5) ∧ memberAbsent b { port := 0 } = false
    ∧ shutUp b 0 = true ∧ b.fab.hold = none ∧ fromManager b 3 = true ∧ fieldAt (zeros 64) 26 2 = 0 ∧ ownDev b ≠ 3
    ∧ isManager b = false ∧ managerId b ≠ 0 ∧ 400000000 ≤ since b b.fab.hopAt := by decide +kernel

/-! ### What remains -/

/-- LoomTimeAdvancesEvenly: the time base after reset, and the fastest and slowest rates that R454 allows. -/
theorem test_rates : live.time.frac < 2 ^ 32 ∧ live.time.adj = 0 ∧ -(2 ^ 32 : Int) ≤ -42950 ∧ -(2 ^ 32 : Int) ≤ 42950 := by decide +kernel

/-- SignalsAndForceBudgetsFollowTheirClocks: an unsignalled entry whose time is up, a grid point due and one not due, the register. -/
theorem test_clocks :
    let b := bg (late (paired.updQp 0 fun p => { p with unsignalled := 1, unsigSince := some 0 }))
    let c := wr b (Fld.QP_CTRL_IE 0 0) 1
    let g := wr b (Fld.HQI_TENANT_FORCE_FORCE_RATE 0) 1
    aggTimeUp c 0 0 = true ∧ rdB c (Fld.QP_CTRL_IE 0 0) = true ∧ 0 < (c.qp 0).unsignalled
    ∧ gridDue g 0 = true ∧ gridDue (wr b (Fld.HQI_TENANT_FORCE_FORCE_RATE 0) 0) 0 = false
    ∧ there b (Reg.HQI_TENANT_FORCE 0) = true ∧ there b (Reg.HQI_TENANT_FORCE 255) = true := by decide +kernel

/-- FunctionMapWritesAreDiscardedWhole: the registers at both ends; an enabled pair within the quota; sums of 1,024 and 1,025. -/
theorem test_map :
    let b := bg live
    there b (Reg.HQI_FN_MAP 0) = true ∧ there b (Reg.HQI_FN_MAP 255) = true ∧ b.ing.streams = []
    ∧ 0 < quotaOf (bg paired) 0 ∧ qpOn (bg paired) 0 0 = true ∧ qpOn b 0 0 = false
    ∧ quotaSum b - quotaOf b 5 + (1024 - quotaSum b + quotaOf b 5) = 1024
    ∧ 1024 < quotaSum b - quotaOf b 5 + (1025 - quotaSum b + quotaOf b 5) := by decide +kernel

/-- EmptyBobbinsReadIdle: a bobbin with nothing in it, one that drops; words of no byte and of 64. -/
theorem test_bobbin :
    (live.bobbin 0).words = [] ∧ ({ (live.bobbin 0) with dropping := true } : Bobbin).dropping = true ∧ (zeros 64).length ≤ 64 ∧ (zeros 0).length ≤ 64 := by
  decide +kernel

/-- NoncesSpellPrefixAndCounter: a stream whose segment has begun and one whose has not. -/
theorem test_segment :
    (live.sealState 0).active = false
    ∧ ((live.updSealState 0 fun x => { x with active := true }).sealState 0).active = true := by decide +kernel

/-- SlotsAreReadBack and EveryTrackIsWrittenInEverySlot: bits of the length of a slot, and a port with its segment. -/
theorem test_slot_bits : (List.replicate 17472 false).length = 17472 ∧ (List.replicate (32 * 546) true).length = 32 * 546 := by
  simp only [List.length_replicate]; decide
theorem test_segment_there :
    let x : WSeg := { g := 5, weft := 1, role := 0, kind := 1, tw := 1000000, content := some [] }
    segOf ((live.updWport 0 fun w => { w with inRun := true, segs := [x] }).wport 0) x.idx = some x := by decide +kernel

/-- DatasetBytesLieInTheirRows: a dataset of its size, with its first and last bytes. -/
theorem test_dataset : (zeros 6815744).length = 6815744 ∧ 6815743 / 425984 = 15 ∧ 6815743 % 425984 / 2048 = 207 := by
  refine ⟨List.length_replicate, by decide, by decide⟩

/-- RolesRotateOnePerWeft, MergedLinesAreRewrittenOrPoisoned: a masked byte takes the entry's value. -/
theorem test_merge :
    let b : Block := { live with beam := { live.beam with lines := [(5, goodLine (zeros 64))] } }
    let e : MergeEntry := { line := 5, mask := 2, data := List.replicate 64 7 }
    listed b 5 = true ∧ e.mask.testBit 1 = true ∧ e.mask.testBit 0 = false ∧ ((lineAt (rmw b e []) 5).data.take 3) = [0, 7, 0] := by decide +kernel


/-! ### Hypotheses of this model's later conditions -/

/-- BobbinRowsTakeTheirEffect: the record's turn on its port, its read's completion and failure, a credited write with and without room. -/
theorem test_turn :
    let b := bg granted1
    let a := bg asked1
    dmaTurn b 2 3000 = true ∧ bobbinOf a 2 = some 10 ∧ (a.cmd 2).e.opcode = 4 ∧ (a.bobbin 10).dead = false ∧ (a.bobbin 10).allIn = false
    ∧ (List.replicate 3000 (7 : Byte)).length ≤ (a.bobbin 10).due ∧ 0 < (a.bobbin 10).due ∧ ((bg begun1).bobbin 10).dead = false := by decide +kernel
theorem test_credits :
    let b := bg live
    let e := bg (live.updBobbin 2 fun x => { x with credits := 0 })
    let f := bg (live.updBobbin 0 fun x => { x with credits := 0 })
    (b.bobbin 2).missed = 0 ∧ (b.bobbin 2).pend = [] ∧ ceilDiv (zeros 16).length 16 ≤ (b.bobbin 2).credits
    ∧ ¬ ceilDiv (zeros 16).length 16 ≤ (e.bobbin 2).credits ∧ (e.bobbin 2).pend = []
    ∧ ¬ ceilDiv (zeros 16).length 16 ≤ (f.bobbin 0).credits ∧ (f.bobbin 0).missed = 0 := by decide +kernel

/-- CardingRowsTakeTheirEffect: the restore's decode is the oldest job of its die, and its first engine idles. -/
theorem test_oldest : oldestCard (bg restoring) 0 = some 4 ∧ (writeBack (bg restoring) 0).isSome = true := by decide +kernel

/-- SealingRowsTakeTheirEffect: an unwrap that joins the queue and is next; runs of samples that pass and that fail. -/
theorem test_queue_unwrap :
    let b := queueUnwrap (bg (live.updCmd 4 fun c => { c with e := { opcode := 0x30 } })) (zeros 40)
    (nextJob b 0).map (fun j => (jobKind j.job, mayStart b 0 j)) = some (2, true) := by decide +kernel
theorem test_noise :
    (noiseTest {} [1, 2, 3]).2 = false ∧ (noiseTest {} (List.replicate 11 5)).2 = true ∧ (noiseTest {} (List.replicate 10 5)).2 = false := by
  decide +kernel
/-- A draw of the DRBG that is ready and whose reseed is not due (BootRowsTakeTheirEffect). -/
theorem test_drbg :
    drbgOk { live with ciph := { live.ciph with drbg := .ready } } = true
    ∧ drbgOk { live with ciph := { live.ciph with drbg := .ready, genCalls := 65536 } } = false := by decide +kernel

/-- BeamRowsTakeTheirEffect: a line due for scrubbing and none due. -/
theorem test_scrub :
    let b := bg (wr live (Fld.BEAM_CTRL_SCRUB_HOURS) 24)
    scrubDue b = true ∧ scrubDue { b with beam := { b.beam with scrubAt := some b.time.now } } = false := by decide +kernel

/-- WeavingRowsTakeTheirEffect: an evaluation 100 ms after the last, and a cross-device group. -/
theorem test_eval :
    let b := bg (late (live.updGrp 5 fun x => { x with evalAt := some 0 }))
    schedules b 5 = true ∧ (b.grp 5).evalAt = some 0 ∧ 400000000 ≤ since b 0 := by decide +kernel

/-- FormattingRowsTakeTheirEffect: a row in time, an intent durable and one that is not, rows that came and rows that are here. -/
theorem test_rows :
    let x : WSeg := { g := 5, weft := 1, role := 0, kind := 1, tw := 1000000, content := some [] }
    let b := bg writing
    let g : Block := (b.updWport 0 fun w => { w with what := .group 5 }).updGrp 5 fun q => { q with wefts := [{ no := 1, l := 0 }] }
    let s := firstInTime b { x with l := b.time.now }
    4 * s < 416 ∧ intentHolds b 0 x = true ∧ intentHolds g 0 x = false ∧ (segOf (b.wport 0) 0).map (·.rows) = some none
    ∧ ((segOf ((b.updWport 0 fun w => { w with segs := [{ x with rows := some [] }] }).wport 0) 0).bind (·.rows)).isSome = true := by decide +kernel
theorem test_codes :
    let x : WSeg := { g := 5, weft := 1, role := 0, kind := 1, tw := 1000000, content := some [] }
    let w := (bg writing).wport 0
    128 * w.groups + (tabGet [] w.codes 3).length = (x.idx - w.runFirst) * segBits + slotStart 0 - (1024 + 64) := by decide +kernel

/-- ReadChannelRowsTakeTheirEffect: slots that wait for a pass, a look that stands alone, a slot overdue in verify. -/
theorem test_passes :
    let t : SlotRec := { reader := 3 }
    let b := bg (live.updRdch 0 fun x => { x with slots := [t], turbo := [t] })
    (b.rdch 0).slots.find? (fun u => u.reader = 3) = some t ∧ leads b 0 3 = false ∧ leads (wr b (Fld.RDCH_STATE_MODE 0) 3) 0 35 = true
    ∧ ((b.rdch 0).turbo.take 4).find? (fun u => u.reader = 3) = some t ∧ passMax b 0 2 ≠ 0 ∧ passMax b 0 3 ≠ 0 := by decide +kernel
theorem test_overdue :
    let b := bg ((wr up0 (Fld.RDCH_STATE_MODE 0) 1).updHdl 0 fun h => { h with sample := some { verify := some (0, 1000000) } })
    rd b (Fld.RDCH_STATE_MODE 0) = 1 ∧ (b.hdlP 0).sample.bind (·.verify) = some (0, 1000000) ∧ slotKnown b 0 0 5 7 = false
    ∧ reached b (0 + (0 * segBits + (slotStart 5 + 18018)) * 1000000 / segBits) = true := by decide +kernel
theorem test_lead :
    let l : Look := { rec_ := { reader := 35, slot := 5 } }
    let b := bg ((wr up0 (Fld.RDCH_STATE_MODE 0) 3).updRdch 0 fun x => { x with looks := [l] })
    (b.rdch 0).looks.find? (fun l => l.rec_.seg % 65536 = 0 && l.rec_.slot = 5 && l.rec_.reader % 32 = 3) = some l
    ∧ slotKnown b 0 0 5 3 = false ∧ reached b (l.rec_.time + 400000 * 16777216 * 2 / rawUnit + 160000) = true := by decide +kernel

/-- LoopRowsTakeTheirEffect: the tick of CLE-B due, and not due without a stream. -/
theorem test_tick :
    let b := bg (up0.updHdl 0 fun h => { h with sample := some {} })
    cleBDue b 0 = true ∧ cleBDue (bg up0) 0 = false := by decide +kernel

/-- SupervisorRowsTakeTheirEffect: a port in RUN that writes nothing. -/
theorem test_return : portState (wr (bg grantable) (Fld.SAFE_PORT_STATE_STATE 0 0) 2) 0 = 2 ∧ Machine.writing (bg grantable) 0 = false := by decide +kernel

/-- HeddleRowsTakeTheirEffect: a stream that is read, with a reader at an even bit; the instant of the two angles. -/
theorem test_sampled :
    let b := bg ((wr up0 (Fld.RDCH_STATE_MODE 0) 1).updHdl 0 fun h => { h with sample := some {} })
    let c := b.updRdch 0 fun x => { x with readers := [(3, { phase := 2, n := 8, sched := some 1 })] }
    linkUp (streamNow b 0) 0 = true ∧ ((streamNow b 0).hdlP 0).sample = some {} ∧ rd (streamNow b 0) (Fld.RDCH_STATE_MODE 0) ≠ 0
    ∧ (readerOf c 0 3).phase ≠ 0 ∧ (readerOf c 0 3).sched = some (((readerOf c 0 3).n : Int) - 7) ∧ linkUp c 0 = true
    ∧ (b.hdlP 0).sample = some {} ∧ ({} : SampleRun).sSense + 8000 ≤ b.time.now := by decide +kernel

/-! ### Published examples of the codes and ciphers that the rules name -/

/-- FIPS 197, C.3: AES-256. -/
theorem test_aes256 :
    aesEncrypt ((List.range 32).map fun i => BitVec.ofNat 8 i) ((List.range 16).map fun i => BitVec.ofNat 8 (17 * i))
      = [0x8E, 0xA2, 0xB7, 0xCA, 0x51, 0x67, 0x45, 0xBF, 0xEA, 0xFC, 0x49, 0x90, 0x4B, 0x49, 0x60, 0x89] := by decide +kernel

/-- FIPS 180-4, SHA-384 of "abc": the first bytes. -/
theorem test_sha384 : (sha384 [0x61, 0x62, 0x63]).take 8 = [0xCB, 0x00, 0x75, 0x3F, 0x45, 0xA3, 0x5E, 0x8B] := by decide +kernel

/-- The tag of AES-256-GCM over nothing with a zero key and nonce (the first case of its authors for 256 bits). -/
theorem test_gcm : (gcmTag (zeros 32) (zeros 12) [] []).take 4 = [0x53, 0x0F, 0x8A, 0xFB] := by decide +kernel
end Sys2Proof.Tests
end

/-!
PROOF. The statements of the family of scope: what a command answers, which entries pass their fetch (R42, R55, R504), how the rows of the register
fabric, the cores and the lands take effect (R567, R576, R579, R591, R601, R604), and the latch of LO/HI pairs (R9, R571).
-/

namespace Sys2Proof.Machine

/-! ### What a command answers -/

/-- A command that runs leaves `after` of any effect that does the same to the block it finds. -/
theorem runCmd_eq_after {dt : Nat} {s : State} {f g : Block → Block} (ha : awake s.blk = true)
    (h : f (begun dt s) = g (begun dt s)) : runCmd dt s f = .next (after dt s g) := by
  rw [runCmd_awake ha, after_congr h]

/-- Settles O2: both frames a command can run in answer a next state and keep the queue. That a command whose occasion does not hold
answers too, and that none faults, are the model's choices (log entries 2 and 3). -/
theorem everyCommandAnswersNext : Obligations.EveryCommandAnswersNext := by
  intro c s
  rcases exec_form c s with ⟨-, dt, f, h⟩ | ⟨-, dt, f, h⟩
  · exact ⟨_, h, rfl⟩
  · exact ⟨_, h, rfl⟩

/-! ### The fetch checks, in their order (R55) -/

theorem fetchFault_of_unknown {fn : Nat} {e : Sqe} {sgl : List Sgl} (h : opcodes.contains e.opcode = false) :
    fetchFault fn e sgl = some (0x1001, 0) := by
  unfold fetchFault
  rw [h]; rfl

theorem fetchFault_of_notPermitted {fn : Nat} {e : Sqe} {sgl : List Sgl} (h : opcodes.contains e.opcode = true)
    (h0 : fn0Ops.contains e.opcode = true) (hfn : fn ≠ 0) : fetchFault fn e sgl = some (0x1006, 0) := by
  simp [fetchFault, h, h0, hfn, -List.contains_eq_mem]

/-- An entry of a known opcode that its function may send is in error where a field is. -/
theorem fetchFault_of_permitted {fn : Nat} {e : Sqe} {sgl : List Sgl}
    (h : (opcodes.contains e.opcode && !(fn0Ops.contains e.opcode && fn != 0)) = true) :
    fetchFault fn e sgl = (fieldFault e sgl).map fun d => (0x1002, d) := by
  obtain ⟨hop, hfn⟩ := Bool.and_eq_true_iff.mp h
  have hno : ¬ (fn0Ops.contains e.opcode && decide (fn ≠ 0)) = true := by
    intro hboth
    obtain ⟨h0, hne⟩ := Bool.and_eq_true_iff.mp hboth
    simp [h0, of_decide_eq_true hne, -List.contains_eq_mem] at hfn
  unfold fetchFault
  rw [hop, if_neg (by decide), if_neg hno]

/-! ### Changes to one pair and to what is sent out -/

/-- `c` differs from `b` in pair `k` and in what is sent out alone. -/
def PairFrame (b c : Block) (k : Nat) : Prop :=
  (∀ j, j ≠ k → c.qp j = b.qp j) ∧ c = { b with out := c.out, hq := { b.hq with qps := c.hq.qps } }

theorem PairFrame.trans {a b c : Block} {k : Nat} (h1 : PairFrame a b k) (h2 : PairFrame b c k) : PairFrame a c k := by
  obtain ⟨hq1, he1⟩ := h1
  obtain ⟨hq2, he2⟩ := h2
  refine ⟨fun j hj => (hq2 j hj).trans (hq1 j hj), ?_⟩
  rw [he1] at he2
  exact he2

theorem PairFrame.updQp (b : Block) (k : Nat) (f : Qp → Qp) : PairFrame b (b.updQp k f) k :=
  ⟨fun _ hj => b.updQp_other f hj, rfl⟩

theorem PairFrame.fetchReads (b : Block) (fn q : Nat) (e : Sqe) (sgl : List Sgl) (k : Nat) :
    PairFrame b (fetchReads b fn q e sgl) k := by
  obtain ⟨o, h⟩ := fetchReads_shape b fn q e sgl
  rw [h]
  exact ⟨fun _ _ => rfl, rfl⟩

theorem PairFrame.failEntry (b : Block) (fn q : Nat) (e : Sqe) (st d : Nat) (res : Bytes) :
    PairFrame b (failEntry b fn q e st d res) (qpKey fn q) :=
  PairFrame.updQp b _ _

/-! ### The fetch of an entry (R42, R55, R504) -/

/-- The block with the entry read and the SQ head moved past it: the part of a fetch that does not hang on the checks. -/
def pastEntry (b : Block) (fn q : Nat) (e : Sqe) (sgl : List Sgl) : Block :=
  (fetchReads b fn q e sgl).updQp (qpKey fn q) fun p => { p with sqHead := (p.sqHead + 1) % qpSize p }

theorem pastEntry_frame (b : Block) (fn q : Nat) (e : Sqe) (sgl : List Sgl) : PairFrame b (pastEntry b fn q e sgl) (qpKey fn q) :=
  (PairFrame.fetchReads b fn q e sgl _).trans (PairFrame.updQp _ _ _)

@[simp] theorem pastEntry_qp (b : Block) (fn q : Nat) (e : Sqe) (sgl : List Sgl) :
    (pastEntry b fn q e sgl).qp (qpKey fn q)
      = { b.qp (qpKey fn q) with sqHead := ((b.qp (qpKey fn q)).sqHead + 1) % 2 ^ (b.qp (qpKey fn q)).sizeLog2 } := by
  obtain ⟨o, h⟩ := fetchReads_shape b fn q e sgl
  unfold pastEntry
  rw [Block.updQp_same, h]
  rfl

/-- The first read sent out is that of the entry's 64 bytes. -/
theorem pastEntry_out (b : Block) (fn q : Nat) (e : Sqe) (sgl : List Sgl) :
    ∃ r, (pastEntry b fn q e sgl).out
      = b.out ++ .hostRead fn ((b.qp (qpKey fn q)).sqBase + 64 * (b.qp (qpKey fn q)).sqHead) 64 :: r := by
  unfold pastEntry fetchReads
  rw [Block.updQp_out]
  simp only
  split
  · exact ⟨[.hostRead fn e.dataAddr (16 * sgl.length)], by simp⟩
  · exact ⟨[], rfl⟩

theorem failEntry_qp (b : Block) (fn q : Nat) (e : Sqe) (st d : Nat) :
    (failEntry b fn q e st d).qp (qpKey fn q) = { b.qp (qpKey fn q) with
      waiting := (b.qp (qpKey fn q)).waiting
        ++ [{ cid := e.cid, status := st, seq := 0xFFFFFFFFFFFFFFFF, detail := d, opcode := e.opcode, handle := e.handle }] } :=
  Block.updQp_same _ _ _

/-- An entry that a fetch check fails completes with the check's status and DETAIL. -/
theorem fetchEntry_of_fault {b : Block} {fn q : Nat} {e : Sqe} {sgl : List Sgl} {st d : Nat} (h : fetchFault fn e sgl = some (st, d)) :
    fetchEntry b fn q e sgl = failEntry (pastEntry b fn q e sgl) fn q e st d := by
  unfold fetchEntry
  rw [h]; rfl

theorem rdB_pastEntry (b : Block) (fn q : Nat) (e : Sqe) (sgl : List Sgl) (f : Fld) : rdB (pastEntry b fn q e sgl) f = rdB b f := by
  rw [(pastEntry_frame b fn q e sgl).2]; rfl

theorem onPortB_pastEntry (b : Block) (fn q : Nat) (e : Sqe) (sgl : List Sgl) (g : Nat) :
    onPortB (pastEntry b fn q e sgl) g = onPortB b g := by
  rw [(pastEntry_frame b fn q e sgl).2]; rfl

/-- An entry that passes the fetch checks waits for the scheduler, or completes with HALF_ISOLATED on a port B cut off (R504). -/
theorem fetchEntry_of_passed {b : Block} {fn q : Nat} {e : Sqe} {sgl : List Sgl} (h : fetchFault fn e sgl = none) :
    fetchEntry b fn q e sgl =
      if rdB b Fld.BOOT_STATE_HALF_ISOLATED && onPortB b fn then failEntry (pastEntry b fn q e sgl) fn q e 0x9002 0
      else (pastEntry b fn q e sgl).updQp (qpKey fn q) fun p => { p with fetched := p.fetched ++ [⟨e, sgl⟩] } := by
  rw [← rdB_pastEntry b fn q e sgl, ← onPortB_pastEntry b fn q e sgl]
  unfold fetchEntry
  rw [h]; rfl

/-- Whatever the checks find: the fetch changes its pair and what is sent out alone, and sends out no more than the reads. -/
theorem fetchEntry_frame (b : Block) (fn q : Nat) (e : Sqe) (sgl : List Sgl) :
    PairFrame b (fetchEntry b fn q e sgl) (qpKey fn q) ∧ (fetchEntry b fn q e sgl).out = (pastEntry b fn q e sgl).out := by
  have hpast := pastEntry_frame b fn q e sgl
  cases h : fetchFault fn e sgl with
  | some x =>
    rw [fetchEntry_of_fault h]
    exact ⟨hpast.trans (PairFrame.failEntry ..), rfl⟩
  | none =>
    rw [fetchEntry_of_passed h]
    split
    · exact ⟨hpast.trans (PairFrame.failEntry ..), rfl⟩
    · exact ⟨hpast.trans (PairFrame.updQp ..), rfl⟩

theorem fetchEntry_qp_of_fault {b : Block} {fn q : Nat} {e : Sqe} {sgl : List Sgl} {st d : Nat} (h : fetchFault fn e sgl = some (st, d)) :
    (fetchEntry b fn q e sgl).qp (qpKey fn q) = { b.qp (qpKey fn q) with
      sqHead := ((b.qp (qpKey fn q)).sqHead + 1) % 2 ^ (b.qp (qpKey fn q)).sizeLog2
      waiting := (b.qp (qpKey fn q)).waiting
        ++ [{ cid := e.cid, status := st, seq := 0xFFFFFFFFFFFFFFFF, detail := d, opcode := e.opcode, handle := e.handle }] } := by
  rw [fetchEntry_of_fault h, failEntry_qp, pastEntry_qp]

/-- Settles O14: the two outcomes of `fetchFault` and the isolation of port B, in the order of R55; that HALF_ISOLATED comes after the
fetch checks is the model's reading of R504 and R505 (log entry 18). -/
theorem fetchedEntriesAreCheckedInOrder : Obligations.FetchedEntriesAreCheckedInOrder := by
  intro dt s fn q raw sgl ha b k e c p fails permitted hcan
  obtain ⟨⟨hother, hframe⟩, hout⟩ := fetchEntry_frame b fn.val q.val e sgl
  have fault {st d : Nat} (h : fetchFault fn.val e sgl = some (st, d)) : fails st d := fetchEntry_qp_of_fault h
  have field (hp : permitted = true) : fetchFault fn.val e sgl = (fieldFault e sgl).map fun d => (0x1002, d) :=
    fetchFault_of_permitted hp
  have passes (hp : permitted = true) (hf : fieldFault e sgl = none) : fetchFault fn.val e sgl = none := by rw [field hp, hf]; rfl
  have hexec : exec (.sqEntryFetch dt fn q raw sgl) s = .next (after dt s fun b => fetchEntry b fn.val q.val e sgl) := by
    show execSqEntryFetch dt fn q raw sgl s = _
    exact runCmd_eq_after ha (if_pos hcan)
  refine ⟨hexec, fun h => fault (fetchFault_of_unknown h), fun h h0 hfn => fault (fetchFault_of_notPermitted h h0 hfn),
    fun d hp hd => fault (by rw [field hp, hd]; rfl), ?isolated, ?joins, ?reads, hother, hframe⟩
  case isolated =>
    intro hp hf hiso hB
    show (fetchEntry b fn.val q.val e sgl).qp k = _
    rw [fetchEntry_of_passed (passes hp hf), hiso, hB, Bool.and_true, if_pos rfl, failEntry_qp, pastEntry_qp]
  case joins =>
    intro hp hf hiso
    show (fetchEntry b fn.val q.val e sgl).qp k = _
    rw [fetchEntry_of_passed (passes hp hf), hiso, if_neg Bool.false_ne_true, Block.updQp_same, pastEntry_qp]
  case reads =>
    obtain ⟨r, hr⟩ := pastEntry_out b fn.val q.val e sgl
    exact ⟨r, hout.trans hr⟩

/-! ### The latch of LO/HI pairs (R9, R571) -/

@[simp] theorem clearRc_hq (b : Block) (addr : Nat) (d : RegDesc) : (clearRc b addr d).hq = b.hq := rfl

/-- The place of a requester's latch for the pair whose LO register is at `addr`. -/
def latchKey (who addr : Nat) : Nat := who * 2 ^ 32 + addr

theorem latchKey_ne {who addr w a : Nat} (haddr : addr < 2 ^ 32) (ha : a < 2 ^ 32) (h : w ≠ who ∨ a ≠ addr) :
    latchKey who addr ≠ latchKey w a := by
  unfold latchKey; omega

/-- The value a read of a register gives: that of HI registers is the requester's latch. -/
theorem readReg_value {b : Block} {who addr : Nat} {d : RegDesc} {ix : List Nat} (h1 : awayS b who addr = false)
    (h2 : regFor b who addr = some (d, ix)) :
    (readReg b who addr).1 = if isHi d then tabGet 0 b.hq.hiLatch (latchKey who (addr - 4)) else regValue b addr := by
  simp only [readReg, h1, h2, Bool.false_eq_true, ↓reduceIte]
  rfl

/-- What a read of a register does to the latches: a LO register sets its own. -/
theorem readReg_hiLatch {b : Block} {who addr : Nat} {d : RegDesc} {ix : List Nat} (h1 : awayS b who addr = false)
    (h2 : regFor b who addr = some (d, ix)) :
    (readReg b who addr).2.hq.hiLatch
      = if isLo d then tabSet 0 b.hq.hiLatch (latchKey who addr) (regValue b (addr + 4)) else b.hq.hiLatch := by
  simp only [readReg, h1, h2, Bool.false_eq_true, ↓reduceIte, clearRc_hq]
  split <;> rfl

/-- A read changes no latch but the requester's own for that address. -/
theorem readReg_latch_other (b : Block) {w a key : Nat} (h : key ≠ latchKey w a) :
    tabGet 0 (readReg b w a).2.hq.hiLatch key = tabGet 0 b.hq.hiLatch key := by
  cases h1 : awayS b w a with
  | true =>
    have haway : (readReg b w a).2 = inc b (Fld.SYS_D2D_FORWARD_ABORT 0) := by
      unfold readReg
      rw [if_pos h1]
    rw [haway, inc_hq]
  | false =>
    cases h2 : regFor b w a with
    | none => simp [readReg, h1, h2]
    | some x =>
      obtain ⟨d, ix⟩ := x
      rw [readReg_hiLatch h1 h2]
      split
      · exact tabGet_tabSet_other 0 _ _ h
      · rfl

/-- Settles O53: a latch per requester and pair (R571; log entry 38) is set by the read of LO, read at HI, and kept by every other read. -/
theorem loReadsHoldTheHighWord : Obligations.LoReadsHoldTheHighWord := by
  intro b who addr d ix haway hreg hlo hhi haddr r key
  have hlatch : tabGet 0 r.2.hq.hiLatch key = regValue b (addr + 4) := by
    show tabGet 0 (readReg b who addr).2.hq.hiLatch (latchKey who addr) = _
    rw [readReg_hiLatch haway hreg, if_pos hlo, tabGet_tabSet_same]
  refine ⟨?_, hlatch, ?_, ?_⟩
  · show (readReg b who addr).1 = _
    rw [readReg_value haway hreg, hhi, if_neg Bool.false_ne_true]
  · intro c h iy hkept haway' hreg' hhi'
    rw [readReg_value haway' hreg', if_pos hhi', hkept, Nat.add_sub_cancel]
    exact hlatch
  · intro c w a ha hne
    exact readReg_latch_other c (latchKey_ne haddr ha hne)

/-! ### The register fabric, the cores and the lands -/

/-- A step of the VID code that is due moves the code (R591). -/
theorem vidStep_of_due {b : Block} {die : Nat} {up : Bool} (hrel : 4000000 ≤ since b b.boot.since)
    (hlast : tabGet 0 b.lands.vidAt die = 0 ∨ 40000 ≤ since b (tabGet 0 b.lands.vidAt die))
    (hroom : if up then vidOf b die < 30 else 0 < vidOf b die) :
    vidStep b die up =
      let n := if up then vidOf b die + 1 else vidOf b die - 1
      wr { b with lands := { b.lands with vid := tabSet 10 b.lands.vid die n, vidAt := tabSet 0 b.lands.vidAt die b.time.now } }
        (Fld.SYS_POWER_VCORE die) (700 + 5 * n) := by
  have hdue : ¬ (since b b.boot.since < tMs ∨ (tabGet 0 b.lands.vidAt die ≠ 0 ∧ since b (tabGet 0 b.lands.vidAt die) < 10 * tUs)
      ∨ (up = true ∧ 30 ≤ vidOf b die) ∨ ((!up) = true ∧ vidOf b die = 0)) := by
    unfold tMs tUs
    rintro (h | ⟨h0, h⟩ | ⟨rfl, h⟩ | ⟨h0, h⟩)
    · omega
    · omega
    · simp only [↓reduceIte] at hroom; omega
    · rw [Bool.not_eq_true'] at h0
      simp only [h0, Bool.false_eq_true, ↓reduceIte] at hroom; omega
  exact if_neg hdue

/-- An exception of a core of a die that works is not ignored (R579). -/
theorem coreException_of_up {b : Block} {die : Nat} (h : dieUp b die = true) (slice n : Nat) :
    (coreException b die 0 slice n =
        let c := inc (internalError b die (0x10 + slice) 0xFFFF 9 n) (Fld.LOOM_CORE_RESTARTS (16 * die + slice))
        if writing c (16 * die + slice) then endRunNow c (16 * die + slice) else c)
      ∧ coreException b die 1 slice n = internalError b die 1 0xFFFF 9 n
      ∧ coreException b die 2 slice n = internalError b die 0 0xFFFF 9 n := by
  unfold coreException
  rw [h]
  exact ⟨rfl, rfl, rfl⟩

/-- A write of a whole dword reaches its register (R567, R568), and no locked field of it is counted (R10). -/
theorem regAccess_of_reached {b : Block} {who addr data : Nat} {d : RegDesc} {ix : List Nat} (haddr : addr / 4 * 4 < 2 ^ 32)
    (haway : awayS b who (addr / 4 * 4) = false) (hreg : regFor b who (addr / 4 * 4) = some (d, ix))
    (hlock : configLocked b = false ∨ hasRwl d = false) :
    regAccess b who addr 15 data = routeWrite b (addr / 4 * 4) data d ix := by
  have hl : ¬ (configLocked b = true ∧ hasRwl d = true) := by
    rintro ⟨h1, h2⟩
    rcases hlock with h | h
    · exact Bool.false_ne_true (h.symm.trans h1)
    · exact Bool.false_ne_true (h.symm.trans h2)
  simp only [regAccess, Nat.not_le.mpr haddr, haway, hreg, hl, Bool.false_eq_true, ne_eq, not_true_eq_false, ↓reduceIte]

/-- Outside EXTEST, an instruction other than EXTEST, or EXTEST of an owned part, leaves the pins (R601). -/
theorem tapInstruction_of_idle {b : Block} {inst : Nat} (hext : b.lands.extest = false) (h : inst ≠ 2 ∨ b.fuse.lifecycle ≠ 0) :
    tapInstruction b inst = b := by
  have hno : (decide (inst = 2) && decide (b.fuse.lifecycle = 0)) = false := by
    rcases h with h | h <;> simp [h]
  unfold tapInstruction
  simp only [hno, hext, beq_self_eq_true, ↓reduceIte]

/-- Settles O51, row by row: each command of the family runs (the part is awake), and its effect on its occasion is a lemma above. -/
theorem systemRowsTakeTheirEffect : Obligations.SystemRowsTakeTheirEffect := by
  intro dt s ha b
  refine ⟨?thermtrip, ?vid, ?events, ?cores, ?reads, ?writes, ?tap, ?extest⟩
  case thermtrip =>
    intro die temp
    show execThermtrip dt die temp s = _
    exact runCmd_awake ha
  case vid =>
    intro die up v hrel hlast hroom
    show execVidStep dt die up s = _
    exact runCmd_eq_after ha (vidStep_of_due hrel hlast hroom)
  case events =>
    intro data
    constructor
    · rintro ⟨haway, hdec⟩
      show execSysEventWrite dt data s = _
      exact runCmd_eq_after ha (hostWrites_reaches haway hdec rfl)
    · rintro ⟨haway, hdec⟩
      show execSysEventEnWrite dt data s = _
      exact runCmd_eq_after ha (hostWrites_reaches haway hdec rfl)
  case cores =>
    intro die slice n hup
    obtain ⟨hloom, hhost, hsys⟩ := coreException_of_up hup slice.val n
    refine ⟨?_, ?_, ?_⟩
    · show execCoreException dt die 0 slice n s = _
      exact runCmd_eq_after ha hloom
    · show execCoreException dt die 1 slice n s = _
      exact runCmd_eq_after ha hhost
    · show execCoreException dt die 2 slice n s = _
      exact runCmd_eq_after ha hsys
  case reads =>
    intro who addr
    constructor
    · show execLoReadLatch dt who addr s = _
      exact runCmd_awake ha
    · show execRcRead dt who addr s = _
      exact runCmd_awake ha
  case writes =>
    intro who addr data d ix a haddr haway hreg hlock
    show execRegisterWrite dt who addr 15 data s = _
    exact runCmd_eq_after ha (regAccess_of_reached haddr haway hreg hlock)
  case tap =>
    intro inst hext h
    show execTapInstruction dt inst s = _
    exact runCmd_eq_after ha (tapInstruction_of_idle hext h)
  case extest =>
    intro _ _
    show execTapInstruction dt 2 s = _
    exact runCmd_awake ha

end Sys2Proof.Machine

/-!
PROOF. The statements of the family of architecture: a slot's channel bits after the opposite channel bit (R35, R182, R210), and how
the rows of the format sequencers take their effect (R206 to R209).
-/

namespace Sys2Proof.Machine

/-! ### The modulator from the opposite magnetization (R182, R210) -/

/-- The modulator with the opposite magnetization and digital sum, and the same scrambler. -/
def ModState.opposite (m : ModState) : ModState := { m with mag := !m.mag, rds := -m.rds }

@[simp] theorem ModState.opposite_rds (m : ModState) : m.opposite.rds = -m.rds := rfl

theorem modBit_opposite (m : ModState) (u : Bool) :
    modBit m.opposite u = ((modBit m u).1.opposite, !(modBit m u).2) := by
  have hmag (y : Bool) : xor (!m.mag) y = !xor m.mag y := Bool.not_xor _ _
  have hrds (c : Bool) : -m.rds + (if (!c) = true then 1 else -1) = -(m.rds + if c = true then 1 else -1) := by
    cases c <;> simp <;> omega
  simp only [modBit, ModState.opposite, hmag, hrds]

theorem modBits_opposite (m : ModState) (us : List Bool) :
    modBits m.opposite us = ((modBits m us).1.opposite, (modBits m us).2.map (!·)) := by
  induction us generalizing m with
  | nil => rfl
  | cons u t ih => simp only [modBits, modBit_opposite, ih, List.map_cons]

/-- The choice of the augmenting bit goes by the size of the digital sums, which the opposite does not change. -/
theorem modWord_opposite (m : ModState) (w : List Bool) :
    modWord m.opposite w = ((modWord m w).1.opposite, (modWord m w).2.map (!·)) := by
  simp only [modWord, modBits_opposite, ModState.opposite_rds, Int.natAbs_neg]
  split <;> rfl

theorem modWords_opposite (n : Nat) (m : ModState) (bits : List Bool) :
    modWords n m.opposite bits = (modWords n m bits).map (!·) := by
  induction n generalizing m bits with
  | zero => rfl
  | succ n ih => simp only [modWords, modWord_opposite, ih, List.map_append]

/-- Settles O38: a slot begins with scrambler and digital sum at 0 (R182), so the modulator after the opposite channel bit is the
opposite of the other, and stays so word by word. -/
theorem rewrittenSlotsAreEqualOrComplement : Obligations.RewrittenSlotsAreEqualOrComplement := by
  intro mag bits
  exact modWords_opposite 546 { mag := mag } bits

/-! ### The rows of the format sequencers (R206 to R209) -/

@[simp] theorem reached_updWseg (b : Block) (p idx : Nat) (f : WSeg → WSeg) (t : Nat) :
    reached (updWseg b p idx f) t = reached b t := rfl

/-- Whether a segment's source can be read does not hang on what the ports hold of segments. -/
@[simp] theorem sourceLive_updWseg (b : Block) (p idx : Nat) (f : WSeg → WSeg) (x : WSeg) :
    sourceLive (updWseg b p idx f) x = sourceLive b x := rfl

/-- The request for the copy of codeword `e` of segment `i` in the rewrite slot with key `key` is taken, and counted. -/
def takeRegen (b : Block) (p key i e : Nat) : Block :=
  inc (b.updWport p fun w => { w with alloc := tabSet (0, 4096, false) w.alloc key (i, e, true) }) (Fld.FMT_REGEN_COUNT p)

/-- The request is refused, and the arbiter allocates the codeword again (R209). -/
def refuseRegen (b : Block) (p i e n slot : Nat) : Block :=
  checkVerdict (refuseCopy (inc b (Fld.FMT_LATE_REGEN_REFUSED p)) p i e n slot) p i

/-- REGEN_LEAD is kept before rewrite slot `slot` of a segment that begins at `l` (R208). -/
def RegenInTime (b : Block) (v : WSeg) (e l slot : Nat) : Prop :=
  b.time.now + regenLead b v e ≤ l + slotStart (120 + slot) * v.tw / segBits

section regenRequest

variable {dt : Nat} {port : Fin 32} {seg : Nat} {track : Fin 32} {slot : Fin 4} {s : State} {n key i e l : Nat} {v : WSeg}
  (ha : awake s.blk = true) (hn : n = ((begun dt s).wport port.val).runFirst + seg) (hkey : key = 128 * n + 4 * track.val + slot.val)
  (halloc : tabGet (0, 4096, false) ((begun dt s).wport port.val).alloc key = (i, e, false))
  (hv : segOf ((begun dt s).wport port.val) i = some v) (hl : segStart ((begun dt s).wport port.val) n = some l) (he : e < 4096)

include ha hn hkey halloc hv hl he

theorem execRegenRequest_inTime (htime : RegenInTime (begun dt s) v e l slot.val) :
    execRegenRequest dt port seg track slot s = .next (after dt s fun b =>
      if v.rows.isSome then
        msgTo (takeRegen b port.val key i e) (((weftOf ((takeRegen b port.val key i e).grp v.g) v.weft).map (·.owner)).getD 0) 0x0C
          (regenMsg (takeRegen b port.val key i e) v e)
      else takeRegen b port.val key i e) := by
  subst hkey hn
  refine runCmd_eq_after ha ?_
  simp only [halloc, hv, hl, he, ↓reduceIte]
  exact if_pos htime

theorem execRegenRequest_late (hlate : ¬ RegenInTime (begun dt s) v e l slot.val) :
    execRegenRequest dt port seg track slot s = .next (after dt s fun b => refuseRegen b port.val i e n slot.val) := by
  subst hkey hn
  refine runCmd_eq_after ha ?_
  simp only [halloc, hv, hl, he, ↓reduceIte]
  exact if_neg hlate

end regenRequest

/-- Settles O36, row by row: each command of the format sequencers runs (the part is awake), and on its occasion the branch of its
meaning that has the effect is taken. -/
theorem formattingRowsTakeTheirEffect : Obligations.FormattingRowsTakeTheirEffect := by
  intro dt s port ha b p w
  refine ⟨?fetch, ?slot, ?regen⟩
  case fetch =>
    intro seq x hseg n m hm hheld hlead hlive
    show execRowFetch dt port seq s = _
    refine runCmd_eq_after ha ?_
    simp only [reached_updWseg, sourceLive_updWseg]
    rw [hseg]
    exact if_pos ⟨hm, hheld, hlead, hlive⟩
  case slot =>
    intro fail mask x hnext hup hdue
    refine ⟨fun hintent => ?durable, fun hintent => ?notDurable⟩
    case durable =>
      have hgo : ¬ ((!linkUp b p) = true ∨ (!intentHolds b p x) = true
          ∨ (!reached b (bitTime x (slotStart x.slot) - 48000)) = true) := by
        simp [hup, hintent, hdue]
      show execSlotWrite dt port fail mask s = _
      refine runCmd_eq_after ha ?_
      rw [hnext]
      exact if_neg hgo
    case notDurable =>
      have hstop : (!intentHolds b p x) = true := by rw [hintent]; rfl
      show execSlotWrite dt port fail mask s = _
      refine runCmd_eq_after ha ?_
      rw [hnext]
      exact if_pos (.inr (.inl hstop))
  case regen =>
    intro seg track slot i e l v n key inTime halloc hv hl he
    refine ⟨fun htime hrows => ?here, fun htime hrows => ?crossed, fun hlate => ?late⟩
    case here =>
      refine (execRegenRequest_inTime ha rfl rfl halloc hv hl he htime).trans ?_
      rw [hrows]
      rfl
    case crossed =>
      refine (execRegenRequest_inTime ha rfl rfl halloc hv hl he htime).trans ?_
      rw [hrows]
      rfl
    case late => exact execRegenRequest_late ha rfl rfl halloc hv hl he hlate

end Sys2Proof.Machine

/-!
PROOF. The statements of the family of host queues: the list of ready tenants at every step (R65), the acceptance of host commands
(R53 to R55), and the commands that only FN 0 may send (R40).
-/

namespace Sys2Proof.Machine

/-! ### The list of ready tenants (R65) -/

theorem runWard_keeps_ready {dt : Nat} {s t : State} {f : Block → Block} (h : runWard dt s f = .next t) :
    t.blk.hq.ready = readyTenants t.blk := by
  rw [← Host.Outcome.next.inj h]
  dsimp only
  exact settle_ready _ _

theorem runCmd_keeps_ready {dt : Nat} {s t : State} {f : Block → Block} (hs : s.blk.hq.ready = readyTenants s.blk)
    (h : runCmd dt s f = .next t) : t.blk.hq.ready = readyTenants t.blk := by
  rw [← Host.Outcome.next.inj h]
  dsimp only
  split
  · exact settle_ready _ _
  · exact hs

theorem exec_keeps_ready {c : Instr} {s t : State} (hs : s.blk.hq.ready = readyTenants s.blk) (h : exec c s = .next t) :
    t.blk.hq.ready = readyTenants t.blk := by
  rcases exec_form c s with ⟨-, dt, f, hf⟩ | ⟨-, dt, f, hf⟩
  · exact runCmd_keeps_ready hs (hf.symm.trans h)
  · exact runWard_keeps_ready (hf.symm.trans h)

/-- Settles O5: a step idles, or runs a command in one of the two frames of `exec_form`, which both end by listing the ready anew. -/
theorem stepsKeepReadyTenants : Obligations.StepsKeepReadyTenants := by
  intro s t hs hstep
  unfold step at hstep
  split at hstep
  case h_1 =>
    cases hstep
    exact hs
  case h_2 c rest _ => exact exec_keeps_ready (s := { s with pending := rest }) hs hstep

/-- Settles O6. -/
theorem resetHasExactReadyTenants : Obligations.ResetHasExactReadyTenants := ⟨rfl, rfl, rfl, rfl⟩

/-! ### Acceptance of host commands (R53, R55, R65) -/

theorem qpKey_div {fn q : Nat} (hq : q < 1024) : qpKey fn q / 1024 = fn := by unfold qpKey; omega
theorem qpKey_mod {fn q : Nat} (hq : q < 1024) : qpKey fn q % 1024 = q := by unfold qpKey; omega

@[simp] theorem charged_popHead (b : Block) (k : Nat) (e : Sqe) : charged (popHead b k) e = charged b e := rfl

/-- An entry whose tenant is charged is taken from its queue, its tenant is charged, and it is accepted. -/
theorem takeEntry_of_charged {b : Block} {t w k : Nat} {f : Fetched} (h : charged b f.e = true) :
    takeEntry b t w k f = accept (charge (popHead b k) t w f.e) k f := by
  simp only [takeEntry, charged_popHead, h, ↓reduceIte]

/-- The row of an accepted host command, its entry charged, leaves what its acceptance does on the entry taken (log entry 63). -/
theorem runCmd_submit_of_accepted {dt : Nat} {s : State} {fn : Fin 256} {q : Fin 1024} {e : Sqe} {sgl : List Sgl}
    (ha : awake s.blk = true) (h : Accepted (begun dt s) fn.val q.val e sgl)
    (hc : charged (chosen (begun dt s) fn.val q.val e sgl) e = true) :
    runCmd dt s (fun b => submit b fn.val q.val e sgl)
      = .next (after dt s fun b => accept (taken b fn.val q.val e sgl) (qpKey fn.val q.val) ⟨e, sgl⟩) := by
  refine runCmd_eq_after ha ?_
  show submit (begun dt s) fn.val q.val e sgl = _
  rw [submit_accepted q.isLt h, takeEntry_of_charged (f := ⟨e, sgl⟩) hc, taken]

/-- An entry that is no PUT_RECORD is always charged; a PUT_RECORD is where it fits its object (R65, R66). -/
theorem charged_of_ne {b : Block} {e : Sqe} (h : e.opcode ≠ 4) : charged b e = true := by
  simp [charged, h]

theorem charged_of_fits {b : Block} {e : Sqe} (h : recordFits b e = true) : charged b e = true := by
  simp [charged, h]

/-- Settles O9: a row is the submission of its entry (log entry 63), and the opcode selects the acceptance. -/
theorem streamCommandsAreAccepted : Obligations.StreamCommandsAreAccepted := by
  intro dt s fn q e sgl ha k ok at'
  refine ⟨?openStream, ?closeStream, ?openObject, ?putRecord, ?closeObject, ?flush, ?abort⟩
  case putRecord => exact fun h hfits => runCmd_submit_of_accepted ha h (charged_of_fits hfits)
  all_goals exact fun h => runCmd_submit_of_accepted ha h (charged_of_ne (by simp))

/-- The command made of an accepted entry holds the entry. -/
theorem newCmd_entry (b : Block) (k : Nat) (f : Fetched) (stream obj : Option Nat) (seq : Nat) (taped : Bool) (phase : Phase) :
    ((newCmd b k f stream obj seq taped phase).2.cmd (newCmd b k f stream obj seq taped phase).1).e = f.e := by
  simp only [newCmd, Block.cmd, Block.updQp, tabGet_tabSet_same]

/-- The row of an accepted host command whose opcode is no stream's leaves what `f`, its opcode's acceptance, does on the command made
of the entry. -/
theorem runCmd_submit_of_other {dt : Nat} {s : State} {fn : Fin 256} {q : Fin 1024} {e : Sqe} {sgl : List Sgl} {f : Block → Nat → Block}
    (ha : awake s.blk = true) (h : Accepted (begun dt s) fn.val q.val e sgl) (hop : e.opcode ∉ [1, 2, 3, 4, 5, 6, 7])
    (hf : ∀ b n, (b.cmd n).e = e → acceptOther b n = f b n) :
    runCmd dt s (fun b => submit b fn.val q.val e sgl)
      = .next (after dt s fun b => f (entered b fn.val q.val e sgl).2 (entered b fn.val q.val e sgl).1) := by
  simp only [List.mem_cons, List.not_mem_nil, or_false, not_or] at hop
  obtain ⟨h1, h2, h3, h4, h5, h6, h7⟩ := hop
  rw [runCmd_submit_of_accepted ha h (charged_of_ne h4)]
  refine congrArg _ (after_congr ?_)
  have hother : accept (taken (begun dt s) fn.val q.val e sgl) (qpKey fn.val q.val) ⟨e, sgl⟩
      = acceptOther (entered (begun dt s) fn.val q.val e sgl).2 (entered (begun dt s) fn.val q.val e sgl).1 := by
    simp only [accept, entered]
  rw [hother, hf _ _ (newCmd_entry ..)]

/-- Settles O10: a row is the submission of its entry (log entry 63), and `acceptOther` selects the acceptance by the opcode of the
command made of it. -/
theorem otherHostCommandsAreAccepted : Obligations.OtherHostCommandsAreAccepted := by
  intro dt s fn q e sgl ha ok at'
  refine ⟨?mount, ?unmount, ?locate, ?readObject, ?readRecord, ?patrol, ?rebuild, ?reshape, ?keyLoad, ?keyDrop, ?attestQuote,
    ?getEntropy, ?getLog, ?tuneLoop, ?injectCapture, ?beamFill, ?beamRetire⟩
  all_goals
    intro e h
    refine runCmd_submit_of_other ha h (by simp) fun b n hn => ?_
    simp only [acceptOther, hn]

/-! ### Commands of FN 0 alone (R40) -/

/-- Settles O15: a fetched entry in error completes, and nothing else of the block changes; from FN 0 the fetch checks have no such
status. -/
theorem functionZeroCommandsAreNotPermittedElsewhere : Obligations.FunctionZeroCommandsAreNotPermittedElsewhere := by
  intro b fn q e sgl hop
  have h0 : fn0Ops.contains e.opcode = true := List.contains_iff_mem.mpr hop
  have hknown : opcodes.contains e.opcode = true := by
    have hsub : ∀ o ∈ fn0Ops, opcodes.contains o = true := by decide
    exact hsub _ hop
  constructor
  · intro hfn c p
    obtain ⟨⟨hother, hframe⟩, -⟩ := fetchEntry_frame b fn q e sgl
    exact ⟨fetchEntry_qp_of_fault (fetchFault_of_notPermitted hknown h0 hfn), hother, hframe⟩
  · intro d hd
    rw [fetchFault_of_permitted (by rw [hknown, h0]; rfl)] at hd
    obtain ⟨x, -, hx⟩ := Option.map_eq_some_iff.mp hd
    cases hx

end Sys2Proof.Machine

/-!
PROOF. The statements of the family of host queues: the registers of a queue pair and its doorbells (R43 to R47).
-/

namespace Sys2Proof.Machine

/-! ### Registers and pairs as other updates leave them -/

theorem regGet_congr {b c : Block} (h : c.regs = b.regs) (a : Nat) : regGet c a = regGet b a := by
  unfold regGet
  rw [h]

@[simp] theorem rd_updQp (b : Block) (k : Nat) (f : Qp → Qp) (g : Fld) : rd (b.updQp k f) g = rd b g := rfl
theorem qp_of_qps {b c : Block} (h : c.hq.qps = b.hq.qps) (j : Nat) : c.qp j = b.qp j := by
  unfold Block.qp
  rw [h]

theorem qp_of_hq {b c : Block} (h : c.hq = b.hq) (j : Nat) : c.qp j = b.qp j := qp_of_qps (congrArg Hq.qps h) j

@[simp] theorem qp_wr (b : Block) (f : Fld) (v k : Nat) : (wr b f v).qp k = b.qp k := rfl

theorem regGet_wr_other {b : Block} {f : Fld} {v a : Nat} (h : a ≠ f.addr) : regGet (wr b f v) a = regGet b a :=
  regGet_regPut_other b _ h

/-! ### Writes of the host that reach a pair's register -/

/-- A write of the host to a register that it reaches, of a pair that is there, has its effect (R567, R573). -/
theorem runCmd_hostWrites {dt : Nat} {s : State} {addr fn q : Nat} {f : Block → Block} (ha : awake s.blk = true)
    (hr : HostReaches (begun dt s) addr) (ht : pairThere (begun dt s) fn q = true) :
    runCmd dt s (fun b => hostWrites b addr f (pairThere b fn q)) = .next (after dt s f) :=
  runCmd_eq_after ha (hostWrites_reaches hr.1 hr.2 ht)

/-- One from whose effect nothing follows leaves its effect. -/
theorem runCmd_hostWrites_still {dt : Nat} {s : State} {addr fn q : Nat} {f : Block → Block} (ha : awake s.blk = true)
    (hr : HostReaches (begun dt s) addr) (ht : pairThere (begun dt s) fn q = true) (hst : Still (begun dt s) (f (begun dt s))) :
    runCmd dt s (fun b => hostWrites b addr f (pairThere b fn q)) = .next { s with blk := f (begun dt s) } := by
  have heff : hostWrites (begun dt s) addr f (pairThere (begun dt s) fn q) = f (begun dt s) := hostWrites_reaches hr.1 hr.2 ht
  rw [runCmd_of_still ha (heff.symm ▸ hst), heff]

theorem bitsOf_index (i : Nat) : bitsOf i 0 12 = i % 4096 := by
  simp [bitsOf]

/-! ### The doorbells (R43 to R46) -/

/-- A doorbell value out of range sets DOORBELL_ERR and stops the pair's fetching, and changes nothing else. -/
theorem doorbellErr_effect (b : Block) (fn q : Nat) :
    let c := doorbellErr b fn q
    rd c (Fld.QP_STATUS_DOORBELL_ERR fn q) = 1 ∧ c.qp (qpKey fn q) = { b.qp (qpKey fn q) with fetching := false }
      ∧ (∀ j, j ≠ qpKey fn q → c.qp j = b.qp j) ∧ (∀ a, a ≠ Reg.QP_STATUS fn q → regGet c a = regGet b a)
      ∧ c = { b with regs := c.regs, hq := { b.hq with qps := c.hq.qps } } := by
  refine ⟨?err, ?pair, ?others, ?regs, rfl⟩
  case err =>
    unfold doorbellErr
    rw [rd_updQp, rd_wr_same]
    rfl
  case pair =>
    unfold doorbellErr
    rw [Block.updQp_same, qp_wr]
  case others => exact fun j hj => Block.updQp_other _ _ hj
  case regs => exact fun a h => regGet_wr_other h

theorem sqTailDb_of_off {b : Block} {fn q i : Nat} (h : qpOn b fn q = false) : sqTailDb b fn q i = b := by
  simp [sqTailDb, h]

theorem sqTailDb_of_inRange {b : Block} {fn q i : Nat} (hon : qpOn b fn q = true) (hi : i < qpSize (b.qp (qpKey fn q))) :
    sqTailDb b fn q i = b.updQp (qpKey fn q) fun p => { p with sqTail := i } := by
  simp [sqTailDb, hon, hi]

theorem sqTailDb_of_outOfRange {b : Block} {fn q i : Nat} (hon : qpOn b fn q = true) (hi : qpSize (b.qp (qpKey fn q)) ≤ i) :
    sqTailDb b fn q i = doorbellErr b fn q := by
  simp [sqTailDb, hon, hi]

/-- Settles O12: the three branches of `sqTailDb`. -/
theorem tailDoorbellsMoveOneIndex : Obligations.TailDoorbellsMoveOneIndex := by
  intro dt s fn q index ha b k i c hr hp
  have hrow : exec (.qpSqTailDb dt fn q index) s
      = runCmd dt s fun b =>
          hostWrites b (Reg.QP_SQ_TAIL_DB fn.val q.val) (fun b => sqTailDb b fn.val q.val i) (pairThere b fn.val q.val) := by
    show execQpSqTailDb dt fn q index s = _
    unfold execQpSqTailDb
    rw [bitsOf_index]
  refine ⟨?runs, ?still, sqTailDb_of_off, ?inRange, ?outOfRange⟩
  case runs => exact hrow.trans (runCmd_hostWrites ha hr hp)
  case still => exact fun hst => hrow.trans (runCmd_hostWrites_still ha hr hp hst)
  case inRange =>
    intro hon hi
    have hc : c = b.updQp k fun p => { p with sqTail := i } := sqTailDb_of_inRange hon hi
    rw [hc]
    exact ⟨b.updQp_same _ _, fun j hj => b.updQp_other _ hj, rfl⟩
  case outOfRange =>
    intro hon hi
    have hc : c = doorbellErr b fn.val q.val := sqTailDb_of_outOfRange hon hi
    rw [hc]
    exact doorbellErr_effect b fn.val q.val

theorem cqHeadDb_of_ok {b : Block} {fn q i : Nat} (hidle : qpIdle b fn q = false) (hok : cqHeadOk (b.qp (qpKey fn q)) i = true) :
    cqHeadDb b fn q i = b.updQp (qpKey fn q) fun p => { p with cqHead := i } := by
  simp [cqHeadDb, hidle, hok]

theorem cqHeadDb_of_bad {b : Block} {fn q i : Nat} (hidle : qpIdle b fn q = false) (hbad : cqHeadOk (b.qp (qpKey fn q)) i = false) :
    cqHeadDb b fn q i = doorbellErr b fn q := by
  simp [cqHeadDb, hidle, hbad]

theorem cqHeadOk_iff (p : Qp) (i : Nat) :
    cqHeadOk p i = true ↔ i < 2 ^ p.sizeLog2
      ∧ (i + 2 ^ p.sizeLog2 - p.cqHead) % 2 ^ p.sizeLog2 ≤ (p.cqTail + 2 ^ p.sizeLog2 - p.cqHead) % 2 ^ p.sizeLog2 := by
  unfold cqHeadOk
  rw [Bool.and_eq_true, decide_eq_true_iff, decide_eq_true_iff]
  rfl

/-- Counted forward with wrap, the way from `h` to `t` on a ring of `n` places. -/
theorem ring_distance {n h t : Nat} (hh : h < n) (ht : t < n) : (t + n - h) % n = if h ≤ t then t - h else t + n - h := by
  split
  · next hle => rw [show t + n - h = t - h + n by omega, Nat.add_mod_right, Nat.mod_eq_of_lt (by omega)]
  · exact Nat.mod_eq_of_lt (by omega)

/-- A head that moves toward the tail leaves no more places from it to the tail. -/
theorem ring_distance_le {n h t i : Nat} (hh : h < n) (ht : t < n) (hi : i < n) (hle : (i + n - h) % n ≤ (t + n - h) % n) :
    (t + n - i) % n ≤ (t + n - h) % n := by
  rw [ring_distance hh hi, ring_distance hh ht] at hle
  rw [ring_distance hi ht, ring_distance hh ht]
  split at hle <;> split at hle <;> split <;> omega

/-- Settles O13: the two branches of `cqHeadDb` on a pair that is not IDLE, the first taken exactly from the CQ head to the CQ tail. -/
theorem headDoorbellsFreeOnlyWrittenSlots : Obligations.HeadDoorbellsFreeOnlyWrittenSlots := by
  intro dt s fn q index ha b k p n i c hr hp hidle hhead htail
  have hrow : exec (.qpCqHeadDb dt fn q index) s
      = runCmd dt s fun b =>
          hostWrites b (Reg.QP_CQ_HEAD_DB fn.val q.val) (fun b => cqHeadDb b fn.val q.val i) (pairThere b fn.val q.val) := by
    show execQpCqHeadDb dt fn q index s = _
    unfold execQpCqHeadDb
    rw [bitsOf_index]
  have hgood (h : cqHeadOk p i = true) : c = b.updQp k fun p => { p with cqHead := i } := cqHeadDb_of_ok hidle h
  have hbad (h : cqHeadOk p i = false) : c = doorbellErr b fn.val q.val := cqHeadDb_of_bad hidle h
  refine ⟨?runs, ?still, ?freed, ?discarded, ?fewer⟩
  case runs => exact hrow.trans (runCmd_hostWrites ha hr hp)
  case still => exact fun hst => hrow.trans (runCmd_hostWrites_still ha hr hp hst)
  case freed =>
    intro hin
    rw [hgood ((cqHeadOk_iff p i).mpr hin)]
    exact ⟨b.updQp_same _ _, fun j hj => b.updQp_other _ hj, rfl⟩
  case discarded =>
    intro hout
    obtain ⟨herr, hpair, hothers, hregs, hframe⟩ := doorbellErr_effect b fn.val q.val
    rw [hbad (Bool.eq_false_iff.mpr (mt (cqHeadOk_iff p i).mp hout))]
    exact ⟨by rw [hpair], hpair, herr, hothers, hregs, hframe⟩
  case fewer =>
    cases h : cqHeadOk p i with
    | true =>
      obtain ⟨hi, hle⟩ := (cqHeadOk_iff p i).mp h
      rw [hgood h, Block.updQp_same]
      exact ring_distance_le hhead htail hi hle
    | false =>
      obtain ⟨-, hpair, -⟩ := doorbellErr_effect b fn.val q.val
      rw [hbad h, hpair]
      exact Nat.le_refl _

/-! ### Starting and stopping a pair (R43, R47) -/

/-- A part in service, with pair 0 of FN 0 enabled and one completion entry in its CQ that no vector has been signalled for, since the
pair's interrupts are not enabled. MSI-X is as reset leaves it: not enabled. -/
def unsignalledPair : Block :=
  (wr (wr {} Fld.BOOT_STATE_STATE 3) (Fld.QP_CTRL_ENABLE 0 0) 1).updQp 0 fun p => { p with fetching := true, cqTail := 1, unsignalled := 1 }

/-- Refutes O11: a write of QP_CTRL that sets IE while an entry is not signalled signals the vector (R41; log entry 68), and where MSI-X
is not enabled this sets the vector's pending bit (log entry 70), which is neither a register, a pair nor an output. -/
theorem not_queuePairsStartAndStop : ¬ Obligations.QueuePairsStartAndStop := by
  intro h
  have hreach : HostReaches (begun 0 { blk := unsignalledPair }) (Reg.QP_CTRL 0 0) := by unfold HostReaches; decide +kernel
  have hthere : pairThere (begun 0 { blk := unsignalledPair }) 0 0 = true := by decide +kernel
  obtain ⟨-, -, hwrite⟩ := h 0 { blk := unsignalledPair } 0 0 0 rfl hreach hthere
  obtain ⟨-, -, -, -, hframe⟩ := hwrite 0x29
  have hpend : (writeQpCtrl (begun 0 { blk := unsignalledPair }) 0 0 0x29).hq.vecPend = [0] := by decide +kernel
  have hkept : (writeQpCtrl (begun 0 { blk := unsignalledPair }) 0 0 0x29).hq.vecPend = [] := congrArg (·.hq.vecPend) hframe
  exact absurd (hpend.symm.trans hkept) (by decide)

end Sys2Proof.Machine

/-!
PROOF. The statements of the family of host queues: what the posting of a completion changes (R45, R51, R60, R61).
-/

namespace Sys2Proof.Machine

/-! ### The posting of a completion (R45, R51, R60, R61) -/

/-- A fold keeps what each of its steps keeps. -/
theorem forEach_keeps {α : Type} {P : Block → Prop} {f : Block → α → Block} (hf : ∀ b x, P b → P (f b x)) (l : List α) :
    ∀ b, P b → P (forEach l b f) := by
  unfold forEach
  induction l with
  | nil => exact fun b hb => hb
  | cons x l ih => exact fun b hb => ih _ (hf b x hb)

/-- `c` has the host queues and the outputs of `b`. -/
def SameQueues (b c : Block) : Prop := c.hq = b.hq ∧ c.out = b.out

theorem freeGranules_sameQueues (b : Block) (gs : List Nat) : SameQueues b (freeGranules b gs) := by
  unfold freeGranules
  refine forEach_keeps (P := SameQueues b) (fun c g hc => ?_) gs _ ⟨rfl, rfl⟩
  split
  · exact hc
  · exact hc

theorem freeStream_sameQueues (b : Block) (slot : Nat) : SameQueues b (freeStream b slot) := by
  have hset : SameQueues b (if (tabGet {} b.card.saved slot : SavedCtx).dataset = none
      then freeGranules b (tabGet {} b.card.saved slot : SavedCtx).granules else b) := by
    split
    · exact freeGranules_sameQueues _ _
    · exact ⟨rfl, rfl⟩
  exact hset

/-- What a completion's posting frees is no part of the queues. -/
theorem afterCompletion_sameQueues (b : Block) (x : Completion) : SameQueues b (afterCompletion b x) := by
  have hfree : SameQueues b (match x.frees with | some i => freeObj b i | none => b) := by
    split <;> exact ⟨rfl, rfl⟩
  unfold afterCompletion
  dsimp only
  split
  · next s _ =>
    obtain ⟨hhq, hout⟩ := freeStream_sameQueues (match x.frees with | some i => freeObj b i | none => b) s
    exact ⟨hhq.trans hfree.1, hout.trans hfree.2⟩
  · exact hfree

theorem afterCompletion_regs {b : Block} {x : Completion} (h : x.closes = none) : (afterCompletion b x).regs = b.regs := by
  unfold afterCompletion
  rw [h]
  dsimp only
  split <;> rfl

/-- `c` differs from `b`, as far as the pairs and the outputs go, in more sent out after what was, and in more completions behind those
that wait, with the counts of running commands moved. -/
def HandsOut (b c : Block) : Prop :=
  (∃ o, c.out = b.out ++ o) ∧ ∀ j, ∃ more n, c.qp j = { b.qp j with waiting := (b.qp j).waiting ++ more, running := n }

theorem HandsOut.refl (b : Block) : HandsOut b b :=
  ⟨⟨[], (List.append_nil _).symm⟩, fun j => ⟨[], (b.qp j).running, by rw [List.append_nil]⟩⟩

theorem HandsOut.trans {a b c : Block} (h1 : HandsOut a b) (h2 : HandsOut b c) : HandsOut a c := by
  obtain ⟨⟨o1, ho1⟩, hq1⟩ := h1
  obtain ⟨⟨o2, ho2⟩, hq2⟩ := h2
  refine ⟨⟨o1 ++ o2, by rw [ho2, ho1, List.append_assoc]⟩, fun j => ?_⟩
  obtain ⟨m1, n1, e1⟩ := hq1 j
  obtain ⟨m2, n2, e2⟩ := hq2 j
  exact ⟨m1 ++ m2, n2, by rw [e2, e1, List.append_assoc]⟩

theorem HandsOut.of_sameQueues {b c : Block} (h : SameQueues b c) : HandsOut b c := by
  obtain ⟨hhq, hout⟩ := h
  refine ⟨⟨[], by rw [hout, List.append_nil]⟩, fun j => ⟨[], (b.qp j).running, ?_⟩⟩
  rw [qp_of_hq hhq, List.append_nil]

/-- A change of one pair that lets a completion join, or moves the count of running commands, hands out. -/
theorem HandsOut.updQp (b : Block) (k : Nat) {f : Qp → Qp}
    (hf : ∀ p : Qp, ∃ more n, f p = { p with waiting := p.waiting ++ more, running := n }) : HandsOut b (b.updQp k f) := by
  refine ⟨⟨[], (List.append_nil _).symm⟩, fun j => ?_⟩
  by_cases hj : j = k
  · subst hj
    rw [Block.updQp_same]
    exact hf _
  · exact ⟨[], (b.qp j).running, by rw [Block.updQp_other _ _ hj, List.append_nil]⟩

theorem pushCompletion_handsOut (b : Block) (fn q : Nat) (x : Completion) : HandsOut b (pushCompletion b fn q x) :=
  HandsOut.updQp b _ fun p => ⟨[x], p.running, rfl⟩

theorem releaseCmd_handsOut (b : Block) (n : Nat) : HandsOut b (releaseCmd b n) := by
  unfold releaseCmd
  dsimp only
  split
  · exact HandsOut.refl b
  · next x _ =>
    have hrun : HandsOut b (if (b.cmd n).implicit then { b with hq := { b.hq with cmds := tabSet {} b.hq.cmds n {} } }
        else Block.updQp { b with hq := { b.hq with cmds := tabSet {} b.hq.cmds n {} } } (qpKey (b.cmd n).fn (b.cmd n).q)
          fun p => { p with running := p.running - 1 }) := by
      have hcmds : HandsOut b { b with hq := { b.hq with cmds := tabSet {} b.hq.cmds n {} } } := HandsOut.refl b
      split
      · exact hcmds
      · exact hcmds.trans (HandsOut.updQp _ _ fun p => ⟨[], p.running - 1, by rw [List.append_nil]⟩)
    split
    · exact hrun.trans (HandsOut.of_sameQueues (afterCompletion_sameQueues _ _))
    · exact hrun.trans (pushCompletion_handsOut _ _ _ _)

/-- Handing out the finished completions of a stream only lets completions join their pairs' lists (R60). -/
theorem flushDone_handsOut (b : Block) (handle : Nat) : HandsOut b (flushDone b handle) := by
  have hfold (l : List (Nat × Cmd)) (g : Block × Bool × Bool → Nat × Cmd → Block × Bool × Bool)
      (hg : ∀ a x, HandsOut a.1 (g a x).1) : ∀ a, HandsOut a.1 (l.foldl g a).1 := by
    induction l with
    | nil => exact fun a => HandsOut.refl _
    | cons x l ih => exact fun a => (hg a x).trans (ih _)
  unfold flushDone
  refine hfold _ _ (fun a x => ?_) _
  dsimp only
  split
  · exact releaseCmd_handsOut _ _
  · exact HandsOut.refl _

/-- Signalling a vector adds to what is sent out, or to the pending bits: no pair and no register changes. -/
theorem sendMsix_frame (b : Block) (fn v : Nat) :
    (∃ o, (sendMsix b fn v).out = b.out ++ o) ∧ (sendMsix b fn v).hq.qps = b.hq.qps ∧ (sendMsix b fn v).regs = b.regs := by
  unfold sendMsix
  split
  · exact ⟨⟨_, rfl⟩, rfl, rfl⟩
  · exact ⟨⟨[], (List.append_nil _).symm⟩, rfl, rfl⟩

/-- The signal of a CQ adds to what is sent out, and changes of the pairs its own count of entries not signalled alone (R41). -/
theorem signalCq_frame (b : Block) (fn q : Nat) (up : Bool) :
    (∃ o, (signalCq b fn q up).out = b.out ++ o)
      ∧ (∃ n t, (signalCq b fn q up).qp (qpKey fn q) = { b.qp (qpKey fn q) with unsignalled := n, unsigSince := t })
      ∧ (∀ j, j ≠ qpKey fn q → (signalCq b fn q up).qp j = b.qp j) ∧ (signalCq b fn q up).regs = b.regs := by
  unfold signalCq
  dsimp only
  split
  · set c := b.updQp (qpKey fn q) fun p => { p with unsignalled := 0, unsigSince := none } with hc
    obtain ⟨hout, hqps, hregs⟩ := sendMsix_frame c fn (rd b (Fld.QP_CTRL_VECTOR fn q))
    have hqp := qp_of_qps hqps
    refine ⟨hout, ⟨0, none, ?_⟩, fun j hj => ?_, hregs⟩
    · rw [hqp, hc, Block.updQp_same]
    · rw [hqp, hc, Block.updQp_other _ _ hj]
  · exact ⟨⟨[], (List.append_nil _).symm⟩, ⟨_, _, rfl⟩, fun _ _ => rfl, rfl⟩

/-- The pair as the write of its first waiting completion leaves it, before its signal; `last`: the tail wraps (R45). -/
def Qp.afterPost (p : Qp) (rest : List Completion) (last : Bool) (now : Nat) : Qp :=
  { p with
    waiting := rest, cqTail := (p.cqTail + 1) % qpSize p, phase := xor p.phase last
    unsignalled := p.unsignalled + 1, unsigSince := p.unsigSince.orElse fun _ => some now }

/-- The block with the entry of `x` sent to its CQ, and logged where it is a failure (R51, R74). -/
def entrySent (b : Block) (fn q : Nat) (x : Completion) : Block :=
  let p := b.qp (qpKey fn q)
  logFailure (emit b (.hostWrite fn (p.cqBase + 32 * p.cqTail) (cqEntry p x))) fn q x

/-- The block with the entry of `x` written, and out of its pair's list. -/
def entryWritten (b : Block) (fn q : Nat) (x : Completion) (rest : List Completion) : Block :=
  let p := b.qp (qpKey fn q)
  (entrySent b fn q x).updQp (qpKey fn q) fun r => r.afterPost rest (p.cqTail + 1 = qpSize p) (entrySent b fn q x).time.now

/-- The block with the entry of `x` written, and what it frees free, and its CQ signalled: the posting without what follows in the
stream. -/
def posted (b : Block) (fn q : Nat) (x : Completion) (rest : List Completion) : Block :=
  signalCq (afterCompletion (entryWritten b fn q x rest) x) fn q false

theorem postOne_of_stream {b : Block} {fn q : Nat} {x : Completion} {rest : List Completion} {h : Nat}
    (hw : (b.qp (qpKey fn q)).waiting = x :: rest) (hroom : ¬ (cqFull (b.qp (qpKey fn q)) = true ∨ (b.qp (qpKey fn q)).cqHeld = true))
    (hs : x.stream = some h) : postOne b fn q = flushDone (posted b fn q x rest) h := by
  unfold postOne
  simp only [hw, hroom, hs, ↓reduceIte]
  rfl

theorem postOne_of_no_stream {b : Block} {fn q : Nat} {x : Completion} {rest : List Completion}
    (hw : (b.qp (qpKey fn q)).waiting = x :: rest) (hroom : ¬ (cqFull (b.qp (qpKey fn q)) = true ∨ (b.qp (qpKey fn q)).cqHeld = true))
    (hs : x.stream = none) : postOne b fn q = posted b fn q x rest := by
  unfold postOne
  simp only [hw, hroom, hs, ↓reduceIte]
  rfl

theorem entrySent_frame (b : Block) (fn q : Nat) (x : Completion) :
    (entrySent b fn q x).out = b.out
        ++ [.hostWrite fn ((b.qp (qpKey fn q)).cqBase + 32 * (b.qp (qpKey fn q)).cqTail) (cqEntry (b.qp (qpKey fn q)) x)]
      ∧ (entrySent b fn q x).hq = b.hq ∧ (entrySent b fn q x).regs = b.regs := by
  unfold entrySent logFailure
  dsimp only
  split <;> exact ⟨rfl, rfl, rfl⟩

theorem entryWritten_frame (b : Block) (fn q : Nat) (x : Completion) (rest : List Completion) :
    (entryWritten b fn q x rest).out = b.out
        ++ [.hostWrite fn ((b.qp (qpKey fn q)).cqBase + 32 * (b.qp (qpKey fn q)).cqTail) (cqEntry (b.qp (qpKey fn q)) x)]
      ∧ (∃ t, (entryWritten b fn q x rest).qp (qpKey fn q)
          = (b.qp (qpKey fn q)).afterPost rest ((b.qp (qpKey fn q)).cqTail + 1 = qpSize (b.qp (qpKey fn q))) t)
      ∧ (∀ j, j ≠ qpKey fn q → (entryWritten b fn q x rest).qp j = b.qp j) ∧ (entryWritten b fn q x rest).regs = b.regs := by
  obtain ⟨hout, hhq, hregs⟩ := entrySent_frame b fn q x
  refine ⟨hout, ⟨(entrySent b fn q x).time.now, ?_⟩, fun j hj => ?_, hregs⟩
  · rw [entryWritten, Block.updQp_same, qp_of_hq hhq]
  · rw [entryWritten, Block.updQp_other _ _ hj, qp_of_hq hhq]

theorem posted_frame (b : Block) (fn q : Nat) (x : Completion) (rest : List Completion) :
    (∃ r, (posted b fn q x rest).out = b.out
        ++ .hostWrite fn ((b.qp (qpKey fn q)).cqBase + 32 * (b.qp (qpKey fn q)).cqTail) (cqEntry (b.qp (qpKey fn q)) x) :: r)
      ∧ (∃ t n u, (posted b fn q x rest).qp (qpKey fn q)
          = { (b.qp (qpKey fn q)).afterPost rest ((b.qp (qpKey fn q)).cqTail + 1 = qpSize (b.qp (qpKey fn q))) t with
              unsignalled := n, unsigSince := u })
      ∧ (∀ j, j ≠ qpKey fn q → (posted b fn q x rest).qp j = b.qp j)
      ∧ (x.closes = none → (posted b fn q x rest).regs = b.regs) := by
  obtain ⟨wout, ⟨t, wqp⟩, wother, wregs⟩ := entryWritten_frame b fn q x rest
  obtain ⟨ahq, aout⟩ := afterCompletion_sameQueues (entryWritten b fn q x rest) x
  have aqp := qp_of_hq ahq
  obtain ⟨⟨o, sout⟩, ⟨n, u, sqp⟩, sother, sregs⟩ := signalCq_frame (afterCompletion (entryWritten b fn q x rest) x) fn q false
  refine ⟨⟨o, ?_⟩, ⟨t, n, u, ?_⟩, fun j hj => ?_, fun hcl => ?_⟩
  · exact sout.trans (by rw [aout, wout, List.append_assoc]; rfl)
  · exact sqp.trans (by rw [aqp, wqp])
  · exact (sother j hj).trans (by rw [aqp, wother j hj])
  · exact sregs.trans (by rw [afterCompletion_regs hcl, wregs])

@[simp] theorem leB_length (n v : Nat) : (leB n v).length = n := by
  induction n generalizing v with
  | zero => rfl
  | succ n ih => simp [leB, ih]

@[simp] theorem slice_length (bs : Bytes) (o n : Nat) : (slice bs o n).length = n := by
  simp [slice]

/-- A completion entry has 32 bytes (R51). -/
theorem cqEntry_length (p : Qp) (x : Completion) : (cqEntry p x).length = 32 := by
  simp [cqEntry, zeros]

/-- The posting is `posted`, with completions of the same stream handed out after it. -/
theorem postOne_handsOut {b : Block} {fn q : Nat} {x : Completion} {rest : List Completion}
    (hw : (b.qp (qpKey fn q)).waiting = x :: rest) (hroom : ¬ (cqFull (b.qp (qpKey fn q)) = true ∨ (b.qp (qpKey fn q)).cqHeld = true)) :
    HandsOut (posted b fn q x rest) (postOne b fn q) ∧ (x.stream = none → postOne b fn q = posted b fn q x rest) := by
  refine ⟨?_, postOne_of_no_stream hw hroom⟩
  cases hs : x.stream with
  | none =>
    rw [postOne_of_no_stream hw hroom hs]
    exact HandsOut.refl _
  | some h =>
    rw [postOne_of_stream hw hroom hs]
    exact flushDone_handsOut _ _

/-- Settles O16: a posting is `posted` with the completions that follow in its stream handed out, and nothing where it may not be. -/
theorem completionsArePostedIntoFreedSlots : Obligations.CompletionsArePostedIntoFreedSlots := by
  intro dt s fn q ha b k p c
  refine ⟨?runs, ?stays, ?posts⟩
  case runs =>
    show execCompletionPost dt fn q s = _
    exact runCmd_awake ha
  case stays =>
    rintro (hempty | hfull | hheld)
    · show postOne b fn.val q.val = b
      unfold postOne
      simp only [show (b.qp (qpKey fn.val q.val)).waiting = [] from hempty]
    · exact postOne_stays (.inl (beq_iff_eq.mpr hfull))
    · exact postOne_stays (.inr hheld)
  case posts =>
    intro x rest hw hfull hheld
    have hroom : ¬ (cqFull p = true ∨ p.cqHeld = true) := by simp [cqFull, hfull, hheld]
    obtain ⟨⟨r, hout⟩, ⟨t, n, u, hqp⟩, hother, hregs⟩ := posted_frame b fn.val q.val x rest
    obtain ⟨⟨⟨o, hmore⟩, hjoin⟩, hsame⟩ := postOne_handsOut hw hroom
    obtain ⟨more, m, hk⟩ := hjoin k
    have hc : c.qp k = { p.afterPost rest (p.cqTail + 1 = qpSize p) t with
        waiting := rest ++ more, running := m, unsignalled := n, unsigSince := u } := by
      rw [show c.qp k = _ from hk, hqp]
      rfl
    refine ⟨⟨r ++ o, ?out⟩, cqEntry_length p x, ⟨more, by rw [hc], ?alone⟩, ?tail, ?phase, ?sqHead, ?sqTail, ?cqHead, ?fetched,
      ?others, ?frame⟩
    case tail | sqHead | sqTail | cqHead | fetched =>
      rw [hc]
      rfl
    case out =>
      rw [show c.out = _ from hmore, hout]
      rfl
    case alone =>
      intro hs
      have hwait : (c.qp k).waiting = rest := by
        rw [show c = _ from hsame hs, hqp]
        rfl
      rw [hc] at hwait
      exact List.append_right_eq_self.mp hwait
    case phase =>
      rw [hc]
      show xor p.phase (decide (p.cqTail + 1 = qpSize p)) = _
      by_cases hlast : p.cqTail + 1 = qpSize p <;> simp [hlast]
    case others =>
      intro j hj
      obtain ⟨more, m, hjk⟩ := hjoin j
      exact ⟨more, m, by rw [show c.qp j = _ from hjk, hother j hj]⟩
    case frame =>
      intro hs hcl
      rw [show c = _ from hsame hs]
      exact ⟨hother, regGet_congr (hregs hcl)⟩

end Sys2Proof.Machine

/-!
PROOF. The statements of the family of host queues: the scheduler (R65, R66), the ends of a hold (R56, R62, R85), signals and FORCE budgets
(R41, R69) and the function map (R67).
-/

namespace Sys2Proof.Machine

/-! ### The scheduler (R65, R66) -/

/-- The start tag that `refreshReady` gives each tenant. -/
theorem forEach_raise_tag (v : Nat) (l : List Nat) (b : Block) (hv : b.hq.vtime = v) (t : Nat) :
    ((forEach l b fun b t => b.updTenant t fun x => { x with tag := max x.tag b.hq.vtime }).tenant t).tag
      = if t ∈ l then max (b.tenant t).tag v else (b.tenant t).tag := by
  unfold forEach
  induction l generalizing b with
  | nil => rfl
  | cons u l ih =>
    rw [List.foldl_cons]
    refine (ih (b.updTenant u _) hv).trans ?_
    by_cases htu : t = u
    · subst htu
      simp [hv]
    · simp only [List.mem_cons, htu, false_or]
      rw [Block.updTenant_other _ _ htu]

theorem refreshReady_tag (b : Block) (t : Nat) :
    ((refreshReady b).tenant t).tag
      = if t ∈ readyTenants b ∧ t ∉ b.hq.ready then max (b.tenant t).tag b.hq.vtime else (b.tenant t).tag := by
  refine (forEach_raise_tag b.hq.vtime ((readyTenants b).filter fun t => !b.hq.ready.contains t) b rfl t).trans ?_
  simp only [List.mem_filter, Bool.not_eq_true', List.contains_eq_mem, decide_eq_false_iff_not]

theorem mem_insertNat {y z : Nat} {l : List Nat} (h : z ∈ insertNat y l) : z = y ∨ z ∈ l := by
  induction l with
  | nil => simpa [insertNat] using h
  | cons a l ih =>
    unfold insertNat at h
    split at h
    · exact List.mem_cons.mp h
    · split at h
      · exact .inr h
      · rcases List.mem_cons.mp h with rfl | h
        · exact .inr List.mem_cons_self
        · exact (ih h).imp_right (List.mem_cons_of_mem _)

/-- Insertion keeps a list rising. -/
theorem insertNat_rising {x : Nat} {l : List Nat} (h : l.Pairwise (· < ·)) : (insertNat x l).Pairwise (· < ·) := by
  induction l with
  | nil => simp [insertNat]
  | cons y l ih =>
    obtain ⟨hy, hl⟩ := List.pairwise_cons.mp h
    unfold insertNat
    split
    · next hxy =>
      refine List.pairwise_cons.mpr ⟨fun z hz => ?_, h⟩
      rcases List.mem_cons.mp hz with rfl | hz
      · exact hxy
      · exact Nat.lt_trans hxy (hy z hz)
    · split
      · exact h
      · next hlt hne =>
        refine List.pairwise_cons.mpr ⟨fun z hz => ?_, ih hl⟩
        rcases mem_insertNat hz with rfl | hz
        · omega
        · exact hy z hz

/-- The ready tenants are listed in rising order. -/
theorem readyTenants_rising (b : Block) : (readyTenants b).Pairwise (· < ·) := by
  refine List.Pairwise.filter _ ?_
  unfold activeTenants
  generalize (b.hq.qps.filter fun (x : Nat × Qp) => !x.2.fetched.isEmpty).map (fun x => tenantOf b (x.1 / 1024)) = l
  induction l with
  | nil => exact List.Pairwise.nil
  | cons t l ih => exact insertNat_rising ih

/-- The tenant of least start tag found by one pass over tenants in rising order, from `a` on, keeping the earlier of two equals. -/
def leastTag (b : Block) (a : Nat) (l : List Nat) : Nat :=
  l.foldl (fun a t => if (b.tenant t).tag < (b.tenant a).tag then t else a) a

theorem leastTag_spec (b : Block) (l : List Nat) : ∀ a, (a :: l).Pairwise (· < ·) →
    leastTag b a l ∈ a :: l ∧ ∀ u ∈ a :: l, (b.tenant (leastTag b a l)).tag ≤ (b.tenant u).tag
      ∧ ((b.tenant u).tag = (b.tenant (leastTag b a l)).tag → leastTag b a l ≤ u) := by
  induction l with
  | nil =>
    intro a _
    simp [leastTag]
  | cons t l ih =>
    intro a hp
    obtain ⟨ha, htl⟩ := List.pairwise_cons.mp hp
    obtain ⟨ht, hl⟩ := List.pairwise_cons.mp htl
    have hat : a < t := ha t List.mem_cons_self
    by_cases hlt : (b.tenant t).tag < (b.tenant a).tag
    · have hstep : leastTag b a (t :: l) = leastTag b t l := by simp [leastTag, hlt]
      obtain ⟨hmem, hmin⟩ := ih t htl
      rw [hstep]
      refine ⟨List.mem_cons_of_mem _ hmem, fun u hu => ?_⟩
      rcases List.mem_cons.mp hu with rfl | hu
      · have := (hmin t List.mem_cons_self).1
        exact ⟨by omega, fun h => by omega⟩
      · exact hmin u hu
    · have hstep : leastTag b a (t :: l) = leastTag b a l := by simp [leastTag, hlt]
      obtain ⟨hmem, hmin⟩ := ih a (List.pairwise_cons.mpr ⟨fun u hu => ha u (List.mem_cons_of_mem _ hu), hl⟩)
      rw [hstep]
      refine ⟨?_, fun u hu => ?_⟩
      · rcases List.mem_cons.mp hmem with h | h
        · rw [h]
          exact List.mem_cons_self
        · exact List.mem_cons_of_mem _ (List.mem_cons_of_mem _ h)
      · rcases List.mem_cons.mp hu with rfl | hu
        · exact hmin u List.mem_cons_self
        · rcases List.mem_cons.mp hu with rfl | hu
          · obtain ⟨hle, heq⟩ := hmin a List.mem_cons_self
            exact ⟨by omega, fun h => by have := heq (by omega); omega⟩
          · exact hmin u (List.mem_cons_of_mem _ hu)

theorem nextQueue_mem {b : Block} {t k : Nat} (h : nextQueue b t = some k) : k ∈ readyQueues b t := by
  unfold nextQueue at h
  dsimp only at h
  cases hf : (readyQueues b t).find? fun k => decide ((b.tenant t).lastQ < globalQp b (k / 1024) (k % 1024)) with
  | some q =>
    rw [hf] at h
    cases h
    exact List.mem_of_find?_eq_some hf
  | none =>
    rw [hf] at h
    exact List.mem_of_head? h

/-- The scheduler's choice is a ready queue of a ready tenant whose start tag is least, the lowest among equals. -/
theorem schedPick_spec {b : Block} {t k : Nat} (h : schedPick b = some (t, k)) :
    t ∈ readyTenants b ∧ k ∈ readyQueues b t
      ∧ ∀ u ∈ readyTenants b, (b.tenant t).tag ≤ (b.tenant u).tag ∧ ((b.tenant u).tag = (b.tenant t).tag → t ≤ u) := by
  have hr := readyTenants_rising b
  unfold schedPick at h
  dsimp only at h
  split at h
  · cases h
  · next t0 ts hts =>
    obtain ⟨q, hq, heq⟩ := Option.map_eq_some_iff.mp h
    have hpick : leastTag b t0 (t0 :: ts) = leastTag b t0 ts := by simp [leastTag]
    rw [hts] at hr
    obtain ⟨hmem, hmin⟩ := leastTag_spec b ts t0 hr
    rw [hts] at heq hq
    cases heq
    rw [hts]
    rw [show List.foldl _ t0 (t0 :: ts) = leastTag b t0 (t0 :: ts) from rfl, hpick] at *
    exact ⟨hmem, nextQueue_mem hq, hmin⟩

theorem tenantReady_of_mem {b : Block} {t : Nat} (h : t ∈ readyTenants b) : tenantReady b t = true ∧ weightOf b t ≠ 0 := by
  have hr : tenantReady b t = true := (List.mem_filter.mp h).2
  have hw := (Bool.and_eq_true_iff.mp hr).1
  exact ⟨hr, bne_iff_ne.mp hw⟩

theorem queueReady_of_mem {b : Block} {t k : Nat} (h : k ∈ readyQueues b t) : tenantOf b (k / 1024) = t ∧ queueReady b k = true := by
  have hk := (List.mem_filter.mp h).2
  obtain ⟨ht, hq⟩ := Bool.and_eq_true_iff.mp hk
  exact ⟨of_decide_eq_true ht, hq⟩

theorem slotOnce_of_pick {b : Block} {t k : Nat} (h : schedPick (refreshReady b) = some (t, k)) :
    slotOnce b = dispatch (schedTake (refreshReady b) t k) t k := by
  unfold slotOnce
  simp only [h]

/-- With no tenant ready a dispatch slot only notes so. -/
theorem slotOnce_of_none {b : Block} (h : readyTenants b = []) : slotOnce b = refreshReady b := by
  have hnone : schedPick (refreshReady b) = none := by
    unfold schedPick
    simp only [readyTenants_refreshReady, h]
  unfold slotOnce
  simp only [hnone]

theorem schedTake_lastQ (b : Block) (t k : Nat) : ((schedTake b t k).tenant t).lastQ = globalQp b (k / 1024) (k % 1024) := by
  unfold schedTake
  rw [Block.updTenant_same]
  rfl

/-- Settles O17: a dispatch slot refreshes the start tags and dispatches the scheduler's choice. -/
theorem schedulerServesLeastStartTag : Obligations.SchedulerServesLeastStartTag := by
  intro dt s ha b r
  refine ⟨?runs, refreshReady_tag b, slotOnce_of_none, fun t k hpick => ?picks⟩
  case runs =>
    show execDispatchSlot dt s = _
    exact runCmd_awake ha
  case picks =>
    obtain ⟨ht, hk, hmin⟩ := schedPick_spec hpick
    obtain ⟨hready, hweight⟩ := tenantReady_of_mem ht
    obtain ⟨htenant, hqueue⟩ := queueReady_of_mem hk
    exact ⟨hready, hweight, htenant, hqueue, hmin, slotOnce_of_pick hpick, rfl, schedTake_lastQ r t k⟩

/-! ### The ends of a hold (R56, R62, R85) -/

theorem heldAccept_of_ready {b : Block} {k : Nat} {f : Fetched} {r : List Fetched} {h : Held} (hf : (b.qp k).fetched = f :: r)
    (hh : (b.qp k).held = some h) (hok : dispatchFault b (tenantOf b (k / 1024)) f.e = none) (hr : heldReady b k f = true) :
    heldAccept b k = takeEntry b (tenantOf b (k / 1024)) h.weight k f := by
  unfold heldAccept
  simp only [hf, hh, hok, hr, ↓reduceIte]

/-- A held OPEN_OBJECT whose hold has run out, with no in-flight entry free. -/
theorem objHoldExpiry_of_full {b : Block} {k : Nat} {f : Fetched} {r : List Fetched} {h : Held} (hf : (b.qp k).fetched = f :: r)
    (hh : (b.qp k).held = some h) (hop : f.e.opcode = 3) (hover : rd b Fld.HQI_HOLD_OBJ_HOLD * tMs ≤ since b h.since)
    (hfull : objRoom b = false) :
    objHoldExpiry b k = failEntry (popHead (inc b Fld.BOB_OBJ_HELD_TIMEOUTS) k) (k / 1024) (k % 1024) f.e 0x7001
      (rd b Fld.HQI_HOLD_OBJ_HOLD) := by
  unfold objHoldExpiry
  simp only [hf, hh, hop, Nat.not_lt.mpr hover, hfull, ne_eq, not_true_eq_false, or_self, Bool.false_and, Bool.false_eq_true, ↓reduceIte]

/-- A held PUT_RECORD whose hold has run out. -/
theorem beamHoldExpiry_of_over {b : Block} {k : Nat} {f : Fetched} {r : List Fetched} {h : Held} (hf : (b.qp k).fetched = f :: r)
    (hh : (b.qp k).held = some h) (hop : f.e.opcode = 4) (hover : rd b Fld.HQI_HOLD_BEAM_HOLD * tMs ≤ since b h.since) :
    beamHoldExpiry b k = pumpStream (implicitAbort (popHead b k) k f 0x7003 (heldMs b h)) f.e.handle := by
  unfold beamHoldExpiry
  simp only [hf, hh, hop, Nat.not_lt.mpr hover, ne_eq, not_true_eq_false, or_self, ↓reduceIte]

/-- Settles O18: the branch of each row that its occasion selects. -/
theorem heldCommandsEndOneWay : Obligations.HeldCommandsEndOneWay := by
  intro dt s fn q f r h ha b k hf hh
  have hdiv : k / 1024 = fn.val := qpKey_div q.isLt
  have hmod : k % 1024 = q.val := qpKey_mod q.isLt
  refine ⟨?accepted, ?tableFull, ?beamFull⟩
  case accepted =>
    intro hok hr
    show execHeldCommandAccept dt fn q s = _
    refine runCmd_eq_after ha ((heldAccept_of_ready hf hh ?_ hr).trans ?_)
    · rw [hdiv]
      exact hok
    · rw [hdiv]
  case tableFull =>
    intro hop hover hfull
    show execObjHoldExpiry dt fn q s = _
    refine runCmd_eq_after ha ((objHoldExpiry_of_full hf hh hop hover hfull).trans ?_)
    rw [hdiv, hmod]
  case beamFull =>
    intro hop hover
    show execBeamHoldExpiry dt fn q s = _
    exact runCmd_eq_after ha (beamHoldExpiry_of_over hf hh hop hover)

/-! ### Signals and FORCE budgets (R41, R69) -/

theorem signalCq_of_timeUp {b : Block} {fn q : Nat} (hie : rdB b (Fld.QP_CTRL_IE fn q) = true) (hun : 0 < (b.qp (qpKey fn q)).unsignalled) :
    signalCq b fn q true = sendMsix (b.updQp (qpKey fn q) fun p => { p with unsignalled := 0, unsigSince := none }) fn
      (rd b (Fld.QP_CTRL_VECTOR fn q)) := by
  unfold signalCq
  exact if_pos ⟨hie, hun, .inr (.inr rfl)⟩

/-- Settles O20: the signal at the end of AGG_TIME, the grid point that is due or not, and the bucket that a write fills. -/
theorem signalsAndForceBudgetsFollowTheirClocks : Obligations.SignalsAndForceBudgetsFollowTheirClocks := by
  intro dt s fn t q data ha b k
  refine ⟨?signal, ?due, ?early, ?write⟩
  case signal =>
    intro hup hie hun
    show execAggTimeExpiry dt fn q s = _
    exact runCmd_eq_after ha ((if_pos hup).trans (signalCq_of_timeUp hie hun))
  case due =>
    intro hdue
    show execForceTokenGrid dt t s = _
    exact runCmd_eq_after ha (if_pos hdue)
  case early =>
    intro hdue
    show execForceTokenGrid dt t s = _
    exact runCmd_eq_after ha (if_neg (Bool.eq_false_iff.mp hdue))
  case write =>
    rintro ⟨haway, hdec⟩
    constructor
    · show execHqiTenantForceWrite dt t data s = _
      exact runCmd_eq_after ha (hostWrites_reaches haway hdec rfl)
    · intro c
      have hc : c.tenant t.val = { (b.tenant t.val) with
          tokens := rd c (Fld.HQI_TENANT_FORCE_FORCE_BURST t.val), gridFrom := b.time.now, gridDone := 0 } :=
        Block.updTenant_same _ _ _
      rw [hc]
      exact ⟨rfl, rfl, rfl, rfl, fun u hu => Block.updTenant_other _ _ hu⟩

/-! ### The function map (R67) -/

theorem fnEnabled_iff (b : Block) (fn : Nat) : fnEnabled b fn = true ↔ ∃ q, q < quotaOf b fn ∧ qpOn b fn q = true := by
  simp [fnEnabled]

theorem bitsOf_lt (v lo w : Nat) : bitsOf v lo w < 2 ^ w := Nat.mod_lt _ (Nat.two_pow_pos w)

/-- TENANT and QP_QUOTA as a write of HQI_FN_MAP leaves them: a reserved encoding leaves the field (R11). -/
def mapTenant (b : Block) (fn data : Nat) : Nat :=
  if fn = 0 then 0 else if bitsOf data 0 8 = 0 then tenantOf b fn else bitsOf data 0 8
def mapQuota (b : Block) (fn data : Nat) : Nat := if bitsOf data 16 11 ≤ 1024 then bitsOf data 16 11 else quotaOf b fn

theorem mapTenant_lt (b : Block) (fn data : Nat) : mapTenant b fn data < 2 ^ 8 := by
  unfold mapTenant
  split
  · decide
  · split
    · next hfn _ =>
      rw [tenantOf, if_neg hfn]
      exact bitsOf_lt _ _ _
    · exact bitsOf_lt _ _ _

theorem mapQuota_lt (b : Block) (fn data : Nat) : mapQuota b fn data < 2 ^ 11 := by
  unfold mapQuota
  split <;> exact bitsOf_lt _ _ _

theorem writeFnMap_of_enabled {b : Block} {fn data : Nat} (h : fnEnabled b fn = true) : writeFnMap b fn data = b := by
  simp only [writeFnMap, h, ↓reduceIte]

theorem writeFnMap_of_over {b : Block} {fn data : Nat} (h : 1024 < quotaSum b - quotaOf b fn + mapQuota b fn data) :
    writeFnMap b fn data = b := by
  unfold mapQuota at h
  simp only [writeFnMap, h, ↓reduceIte, ite_self]

/-- A write that is taken, with no stream open to end. -/
theorem writeFnMap_of_taken {b : Block} {fn data : Nat} (hoff : fnEnabled b fn = false)
    (h : ¬ 1024 < quotaSum b - quotaOf b fn + mapQuota b fn data) (hs : b.ing.streams = []) :
    writeFnMap b fn data
      = wr (wr b (Fld.HQI_FN_MAP_TENANT fn) (mapTenant b fn data)) (Fld.HQI_FN_MAP_QP_QUOTA fn) (mapQuota b fn data) := by
  unfold mapQuota at h
  simp only [writeFnMap, hoff, h, Bool.false_eq_true, ↓reduceIte, wr_ing, hs, List.filter_nil, List.map_nil]
  exact ite_self _

/-- Settles O21: the two writes that are discarded whole, and the fields that a write taken leaves. -/
theorem functionMapWritesAreDiscardedWhole : Obligations.FunctionMapWritesAreDiscardedWhole := by
  intro dt s fn data ha b f quota total hr
  obtain ⟨haway, hdec⟩ := hr
  have hrow : exec (.hqiFnMapWrite dt fn data) s = .next (after dt s fun b => writeFnMap b f data.toNat) := by
    show execHqiFnMapWrite dt fn data s = _
    exact runCmd_eq_after ha (hostWrites_reaches haway hdec rfl)
  refine ⟨fun hon => ?enabled, fun hover => ?exceeded, fun hoff htotal => ⟨hrow, fun hs => ?taken⟩⟩
  case enabled => rw [hrow, after_congr (g := id) (writeFnMap_of_enabled ((fnEnabled_iff b f).mpr hon))]
  case exceeded => rw [hrow, after_congr (g := id) (writeFnMap_of_over hover)]
  case taken =>
    have hdis : fnEnabled b f = false := by
      rw [Bool.eq_false_iff, ne_eq, fnEnabled_iff]
      rintro ⟨q, hq, hon⟩
      exact Bool.false_ne_true ((hoff q hq).symm.trans hon)
    rw [writeFnMap_of_taken hdis (Nat.not_lt.mpr htotal) hs]
    refine ⟨?_, ?_, fun a h => ?_⟩
    · rw [rd_wr_same]
      exact Nat.mod_eq_of_lt (mapQuota_lt b f data.toNat)
    · rw [rd_wr_field _ _ _ _ (.inr (show 0 + 8 ≤ 16 by decide)), rd_wr_same]
      exact Nat.mod_eq_of_lt (mapTenant_lt b f data.toNat)
    · rw [regGet_wr_other h, regGet_wr_other h]

end Sys2Proof.Machine

/-!
PROOF. The statements of the family of host queues: failed reads and writes of PCI Express, and Function Level Reset (R44, R48).
-/

namespace Sys2Proof.Machine

/-! ### QP_STATUS is written by its own fields (R9, R10, R566) -/

/-- What an address decodes to is a register of the map whose replication reaches it. -/
theorem regAt_some {addr : Nat} {d : RegDesc} {ix : List Nat} (h : regAt addr = some (d, ix)) :
    d ∈ regDescs ∧ ∃ off, (d.place, off) ∈ (placeOf addr).2 ∧ d.base ≤ off ∧ ixOf d.dims (off - d.base) = some ix := by
  obtain ⟨⟨w, off⟩, hplace, hdesc⟩ := List.exists_of_findSome?_eq_some h
  obtain ⟨e, he, hix⟩ := List.exists_of_findSome?_eq_some hdesc
  split at hix
  · next hw =>
    obtain ⟨rfl, hbase⟩ := hw
    obtain ⟨ix', hix', heq⟩ := Option.map_eq_some_iff.mp hix
    cases heq
    exact ⟨he, off, hplace, hbase, hix'⟩
  · cases hix

/-- A bound of the offsets that a replication reaches. -/
def extent (dims : List (Nat × Nat)) : Nat := (dims.map fun x => x.1 * x.2).sum

theorem ixOf_le_extent {dims : List (Nat × Nat)} {rel : Nat} {ix : List Nat} (h : ixOf dims rel = some ix) : rel ≤ extent dims := by
  induction dims generalizing rel ix with
  | nil =>
    unfold ixOf at h
    split at h
    · omega
    · cases h
  | cons x dims ih =>
    obtain ⟨count, stride⟩ := x
    unfold ixOf at h
    split at h
    · cases h
    · split at h
      · next hlt =>
        obtain ⟨iy, hiy, -⟩ := Option.map_eq_some_iff.mp h
        have hrest := ih hiy
        have hdiv : rel = stride * (rel / stride) + rel % stride := (Nat.div_add_mod _ _).symm
        have hmul : stride * (rel / stride) ≤ stride * count := Nat.mul_le_mul_left _ hlt.le
        simp only [extent, List.map_cons, List.sum_cons] at hrest ⊢
        rw [Nat.mul_comm count]
        omega
      · cases h

theorem ixOf_single {count stride rel : Nat} {ix : List Nat} (h : ixOf [(count, stride)] rel = some ix) : rel % stride = 0 := by
  unfold ixOf at h
  split at h
  · cases h
  · split at h
    · obtain ⟨iy, hiy, -⟩ := Option.map_eq_some_iff.mp h
      unfold ixOf at hiy
      split at hiy
      · assumption
      · cases hiy
    · cases h

/-- Where QP_STATUS of a pair lies: on a function page, that of FN 0 also at its place in the window of Die N (R43, R565). -/
theorem placeOf_qpStatus {fn q : Nat} (hq : q < 1024) {w : Where} {off : Nat} (h : (w, off) ∈ (placeOf (Reg.QP_STATUS fn q)).2) :
    (w = .fn ∧ off = 0x2014 + q * 0x20) ∨ (w ≠ .fn ∧ off = 0x102014 + q * 0x20) := by
  by_cases hfn : fn = 0
  · have haddr : Reg.QP_STATUS fn q = 0x102014 + q * 0x20 := by rw [Reg.QP_STATUS, fnPage, if_pos hfn]
    have hplace : (placeOf (0x102014 + q * 0x20)).2
        = [(.n, 0x102014 + q * 0x20), (.both, 0x102014 + q * 0x20), (.fn, 0x2014 + q * 0x20)] := by
      unfold placeOf
      have h1 : 0x102014 + q * 0x20 < 0x20000000 := by omega
      have h2 : (0x102014 + q * 0x20) / 0x10000000 = 0 := by omega
      have h3 : (0x102014 + q * 0x20) % 0x10000000 = 0x102014 + q * 0x20 := by omega
      have h4 : ¬ 0x1000000 ≤ 0x102014 + q * 0x20 := by omega
      have h5 : 0x100000 ≤ 0x102014 + q * 0x20 := by omega
      have h6 : 0x102014 + q * 0x20 < 0x110000 := by omega
      have h7 : 0x102014 + q * 0x20 - 0x100000 = 0x2014 + q * 0x20 := by omega
      simp only [h1, h2, h3, h4, h5, h6, h7, decide_true, decide_false, Bool.false_and, Bool.true_and, Bool.false_eq_true, ↓reduceIte,
        List.cons_append, List.nil_append]
    rw [haddr, hplace] at h
    simp only [List.mem_cons, Prod.mk.injEq, List.not_mem_nil, or_false] at h
    rcases h with ⟨rfl, rfl⟩ | ⟨rfl, rfl⟩ | ⟨rfl, rfl⟩
    · exact .inr ⟨by decide, rfl⟩
    · exact .inr ⟨by decide, rfl⟩
    · exact .inl ⟨rfl, rfl⟩
  · have haddr : Reg.QP_STATUS fn q = 0x40000000 + fn * 0x10000 + (0x2014 + q * 0x20) := by
      rw [Reg.QP_STATUS, fnPage, if_neg hfn]; omega
    have hplace : (placeOf (0x40000000 + fn * 0x10000 + (0x2014 + q * 0x20))).2 = [(.fn, 0x2014 + q * 0x20)] := by
      unfold placeOf
      have h1 : ¬ 0x40000000 + fn * 0x10000 + (0x2014 + q * 0x20) < 0x20000000 := by omega
      have h2 : 0x40000000 ≤ 0x40000000 + fn * 0x10000 + (0x2014 + q * 0x20) := by omega
      have h3 : (0x40000000 + fn * 0x10000 + (0x2014 + q * 0x20)) % 0x10000 = 0x2014 + q * 0x20 := by omega
      rw [if_neg h1, if_pos h2, h3]
    rw [haddr, hplace, List.mem_singleton] at h
    cases h
    exact .inl ⟨rfl, rfl⟩

/-- Which register of the map can lie where QP_STATUS of a pair does: one whose last field is DMA_ERR, cleared by a 1. -/
def statusOrElsewhere (d : RegDesc) : Bool :=
  if d.place = .fn then
    (d.dims = [] && decide (d.base < 0x2014)) || decide (0xA014 ≤ d.base)
      || (d.dims = [(1024, 0x20)] && (d.base % 0x20 != 0x14 || d.fields.getLast?.map (fun f => (f.lo, f.width, f.acc)) = some (3, 1, .w1c)))
  else decide (0x10A014 ≤ d.base) || decide (d.base + extent d.dims < 0x102014)

theorem regDescs_statusOrElsewhere : ∀ d ∈ regDescs, statusOrElsewhere d = true := by
  rw [← List.all_eq_true]
  decide +kernel

/-- The register at QP_STATUS of a pair ends in DMA_ERR (R48). -/
theorem regAt_qpStatus {fn q : Nat} (hq : q < 1024) {d : RegDesc} {ix : List Nat} (h : regAt (Reg.QP_STATUS fn q) = some (d, ix)) :
    ∃ fs f, d.fields = fs ++ [f] ∧ f.lo = 3 ∧ f.width = 1 ∧ f.acc = .w1c := by
  obtain ⟨hd, off, hplace, hbase, hix⟩ := regAt_some h
  have hcase := regDescs_statusOrElsewhere d hd
  unfold statusOrElsewhere at hcase
  rcases placeOf_qpStatus hq hplace with ⟨hfn, rfl⟩ | ⟨hfn, rfl⟩
  · rw [if_pos hfn] at hcase
    simp only [Bool.or_eq_true, Bool.and_eq_true, decide_eq_true_eq, bne_iff_ne] at hcase
    rcases hcase with (⟨hdims, hlow⟩ | hhigh) | ⟨hdims, hmod | hlast⟩
    · have := ixOf_le_extent hix
      rw [hdims] at this
      simp only [extent, List.map_nil, List.sum_nil] at this
      omega
    · omega
    · rw [hdims] at hix
      have := ixOf_single hix
      omega
    · obtain ⟨f, hf, hshape⟩ := Option.map_eq_some_iff.mp hlast
      obtain ⟨fs, hfs⟩ := List.getLast?_eq_some_iff.mp hf
      obtain ⟨hlo, hwidth, hacc⟩ : f.lo = 3 ∧ f.width = 1 ∧ f.acc = .w1c := by simpa using hshape
      exact ⟨fs, f, hfs, hlo, hwidth, hacc⟩
  · rw [if_neg hfn] at hcase
    have := ixOf_le_extent hix
    simp only [Bool.or_eq_true, decide_eq_true_eq] at hcase
    omega

/-- A write of 1 to DMA_ERR clears it (R10, R48). -/
theorem dmaErr_writeFields {fn q : Nat} (hq : q < 1024) (b : Block) : dmaErr (writeFields b (Reg.QP_STATUS fn q) 8) fn q = false := by
  have hw : bitsOf (written b (Reg.QP_STATUS fn q) 8 false) 3 1 = 0 := by
    unfold written
    split
    · rfl
    · next d ix h =>
      obtain ⟨fs, f, hfs, hlo, hwidth, hacc⟩ := regAt_qpStatus hq h
      rw [hfs, List.foldl_append, List.foldl_cons, List.foldl_nil]
      unfold fieldWrite
      rw [hacc, hlo, hwidth]
      dsimp only
      rw [bitsOf_setBits_same]
      have h8 : bitsOf 8 3 1 = 1 := by decide
      simp [h8, bitOf]
  have hrd : rd (writeFields b (Reg.QP_STATUS fn q) 8) (Fld.QP_STATUS_DMA_ERR fn q) = 0 := by
    unfold rd writeFields
    rw [show (Fld.QP_STATUS_DMA_ERR fn q).addr = Reg.QP_STATUS fn q from rfl, regGet_regPut_same]
    exact hw
  unfold dmaErr rdB
  rw [hrd]
  rfl

/-! ### Errors of PCI Express (R44, R48) -/

/-- A failed read or write sets DMA_ERR and stops the pair's fetching, and changes nothing else. -/
theorem setDmaErr_effect (b : Block) (fn q : Nat) :
    let c := setDmaErr b fn q
    rd c (Fld.QP_STATUS_DMA_ERR fn q) = 1 ∧ c.qp (qpKey fn q) = { b.qp (qpKey fn q) with fetching := false }
      ∧ (∀ j, j ≠ qpKey fn q → c.qp j = b.qp j) ∧ (∀ a, a ≠ Reg.QP_STATUS fn q → regGet c a = regGet b a) := by
  unfold setDmaErr
  refine ⟨?_, ?_, fun j hj => Block.updQp_other _ _ hj, fun a h => regGet_wr_other h⟩
  · rw [rd_updQp, rd_wr_same]
    rfl
  · rw [Block.updQp_same, qp_wr]

/-- A write of 1 to DMA_ERR changes the register and, of the pairs, the holding back of its own pair's entries alone. -/
theorem cleared_effect (b : Block) {fn q : Nat} (hq : q < 1024) :
    let v := (writeFields b (Reg.QP_STATUS fn q) 8).updQp (qpKey fn q) fun p => { p with cqHeld := false }
    dmaErr v fn q = false ∧ v.qp (qpKey fn q) = { b.qp (qpKey fn q) with cqHeld := false }
      ∧ (∀ j, j ≠ qpKey fn q → v.qp j = b.qp j) ∧ ∀ a, a ≠ Reg.QP_STATUS fn q → regGet v a = regGet b a :=
  ⟨dmaErr_writeFields hq b, Block.updQp_same _ _ _, fun _ hj => Block.updQp_other _ _ hj, fun _ h => regGet_regPut_other b _ h⟩

theorem writeQpStatus_of_clear {b : Block} {fn q data : Nat} (h : dmaErr b fn q = false) :
    writeQpStatus b fn q data = writeFields b (Reg.QP_STATUS fn q) data := by
  simp [writeQpStatus, h]

theorem writeQpStatus_of_err {b : Block} {fn q : Nat} (hq : q < 1024) (h : dmaErr b fn q = true) :
    writeQpStatus b fn q 8 = postAll ((writeFields b (Reg.QP_STATUS fn q) 8).updQp (qpKey fn q) fun p => { p with cqHeld := false }) fn q
      (b.qp (qpKey fn q)).waiting.length := by
  unfold writeQpStatus
  simp only [h, dmaErr_writeFields hq b, Bool.not_false, Bool.and_self, ↓reduceIte, Block.updQp_same]
  rfl

/-! ### Function Level Reset (R48) -/

/-- A pair as a reset of its function leaves it where no completion waited: its commands run on. -/
def Qp.stopped (p : Qp) : Qp := { running := p.running }

theorem pairReset_of_quiet {b : Block} {k : Nat} (h : (b.qp k).waiting = []) : pairReset b k = b.updQp k Qp.stopped := by
  unfold pairReset
  simp only [h, List.filterMap_nil, List.eraseDups_nil]
  rfl

theorem forEach_pairReset (l : List Nat) (b : Block) (h : ∀ k ∈ l, (b.qp k).waiting = []) :
    (forEach l b pairReset).ing = b.ing ∧ (∀ n, (forEach l b pairReset).qp n = if n ∈ l then (b.qp n).stopped else b.qp n) := by
  unfold forEach
  induction l generalizing b with
  | nil => exact ⟨rfl, fun _ => rfl⟩
  | cons k l ih =>
    have hk : pairReset b k = b.updQp k Qp.stopped := pairReset_of_quiet (h k List.mem_cons_self)
    have hrest : ∀ j ∈ l, ((pairReset b k).qp j).waiting = [] := by
      intro j hj
      rw [hk]
      by_cases hjk : j = k
      · subst hjk
        rw [Block.updQp_same]
        rfl
      · rw [Block.updQp_other _ _ hjk]
        exact h j (List.mem_cons_of_mem _ hj)
    obtain ⟨hing, hqp⟩ := ih (pairReset b k) hrest
    rw [List.foldl_cons]
    refine ⟨hing.trans (by rw [hk]; rfl), fun n => ?_⟩
    rw [hqp n, hk]
    by_cases hnk : n = k
    · subst hnk
      rw [Block.updQp_same]
      simp [Qp.stopped]
    · rw [Block.updQp_other _ _ hnk]
      simp [hnk]

/-- `c` has the pairs and the streams of `b`. -/
def SamePairs (b c : Block) : Prop := c.hq.qps = b.hq.qps ∧ c.ing = b.ing

/-- Marking the commands of a function to be dropped changes no pair and no stream. -/
theorem dropCmds_samePairs (b : Block) (l : List Nat) :
    SamePairs b (forEach l b fun b n => b.updCmd n fun c => { c with drop := true }) := by
  refine forEach_keeps (P := SamePairs b) (fun _ _ hc => ?_) l b ⟨rfl, rfl⟩
  exact hc

/-- Registers that take their reset values change no pair and no stream. -/
theorem resetRegs_samePairs (b : Block) (l : List Nat) :
    SamePairs b (forEach l b fun b a => regPut b a (resetVal a)) := by
  refine forEach_keeps (P := SamePairs b) (fun _ _ hc => ?_) l b ⟨rfl, rfl⟩
  exact hc

/-- After a reset of a function none of whose streams is open and none of whose pairs holds completions, each of its pairs is stopped. -/
theorem funcReset_stops {b : Block} {fn : Nat} (hs : ∀ x ∈ b.ing.streams, (x.2.isOpen && x.2.fn == fn) = false)
    (hw : ∀ n, n / 1024 = fn → (b.qp n).waiting = []) {n : Nat} (hn : n / 1024 = fn) :
    (funcReset b fn).qp n = (b.qp n).stopped ∨ (funcReset b fn).qp n = {} := by
  unfold funcReset
  dsimp only
  generalize hb1 : forEach ((tabKeys b.hq.cmds).filter fun n => (b.cmd n).fn = fn && !(b.cmd n).implicit) b
    (fun b n => b.updCmd n fun c => { c with drop := true }) = b1
  obtain ⟨q1, i1⟩ : SamePairs b b1 := hb1 ▸ dropCmds_samePairs b _
  have hquiet : ∀ k ∈ (tabKeys b1.hq.qps).filter fun k => k / 1024 = fn, (b1.qp k).waiting = [] := by
    intro k hk
    rw [qp_of_qps q1]
    exact hw k (of_decide_eq_true (List.mem_filter.mp hk).2)
  generalize hb2 : forEach ((tabKeys b1.hq.qps).filter fun k => k / 1024 = fn) b1 pairReset = b2
  obtain ⟨i2, p2⟩ := hb2 ▸ forEach_pairReset _ b1 hquiet
  generalize hb3 : forEach ((tabKeys b2.regs).filter fun a => a / 0x10000 = Reg.QP_CTRL fn 0 / 0x10000) b2
    (fun b a => regPut b a (resetVal a)) = b3
  obtain ⟨q3, i3⟩ : SamePairs b2 b3 := hb3 ▸ resetRegs_samePairs b2 _
  have hnone : (b3.ing.streams.filter fun (x : Nat × Stream) => x.2.isOpen && x.2.fn = fn && x.2.tenant = tenantOf b3 fn) = [] := by
    rw [i3, i2, i1, List.filter_eq_nil_iff]
    intro x hx
    have hclosed : (x.2.isOpen && decide (x.2.fn = fn)) = false := hs x hx
    rw [hclosed]
    exact Bool.false_ne_true
  rw [hnone]
  show b3.qp n = _ ∨ b3.qp n = _
  rw [qp_of_qps q3, p2, qp_of_qps q1]
  split
  · exact .inl rfl
  · next hout =>
    right
    rcases tabGet_mem ({} : Qp) b.hq.qps n with h | h
    · exact h
    · have hkey : n ∈ tabKeys b1.hq.qps := by
        rw [q1]
        exact List.mem_map.mpr ⟨_, h, rfl⟩
      refine absurd ?_ hout
      rw [List.mem_filter]
      exact ⟨hkey, decide_eq_true hn⟩

@[simp] theorem msixReset_qp (b : Block) (fn n : Nat) : (msixReset b fn).qp n = b.qp n := rfl

/-- A reset of a virtual function is that of its pairs, streams and registers, and of its MSI-X settings. -/
theorem functionReset_qp {b : Block} {fn : Nat} (hvf : (tabGet {} b.hq.fns fn : FnCfg).vf ≠ 0) (n : Nat) :
    (functionReset b fn).qp n = (funcReset b fn).qp n := by
  simp only [functionReset, hvf, ↓reduceIte, msixReset_qp]

theorem functionReset_stops {b : Block} {fn : Nat} (hs : ∀ x ∈ b.ing.streams, (x.2.isOpen && x.2.fn == fn) = false)
    (hvf : (tabGet {} b.hq.fns fn : FnCfg).vf ≠ 0) (hw : ∀ n, n / 1024 = fn → (b.qp n).waiting = []) {n : Nat} (hn : n / 1024 = fn) :
    let p := (functionReset b fn).qp n
    p.fetching = false ∧ p.fetched = [] ∧ p.held = none ∧ p.waiting = [] := by
  rw [functionReset_qp hvf]
  rcases funcReset_stops hs hw hn with hp | hp <;> rw [hp] <;> exact ⟨rfl, rfl, rfl, rfl⟩

/-- Settles O19: the branch of each row that its occasion selects, and the effect of each on the pairs and the registers. That a cleared
DMA_ERR posts the held completions and does not resume fetching is the model's reading of R48 (log entry 67). -/
theorem dmaErrorsStopFetchingAndKeepEntries : Obligations.DmaErrorsStopFetchingAndKeepEntries := by
  intro dt s fn q ha b k c h w v
  refine ⟨?readFailed, ?writeFailed, ?clear, ?reset, rfl, ?noError, ?error, cleared_effect b q.isLt,
    setDmaErr_effect b fn.val q.val, ?stops⟩
  case readFailed =>
    intro hcan
    show execSqReadFailed dt fn q s = _
    exact runCmd_eq_after ha (if_pos hcan)
  case writeFailed =>
    intro hw hfull hheld
    show execCqWriteFailed dt fn q s = _
    refine runCmd_eq_after ha (if_pos ?_)
    rw [hfull, hheld, List.isEmpty_eq_false_iff.mpr hw]
    rfl
  case clear =>
    intro hr hp
    show execDmaErrClear dt fn q s = _
    exact runCmd_hostWrites ha hr hp
  case reset =>
    intro hthere
    show execFunctionLevelReset dt fn s = _
    exact runCmd_eq_after ha (if_pos hthere)
  case noError =>
    intro hclear
    exact congrArg (·.hq) (writeQpStatus_of_clear hclear)
  case error => exact writeQpStatus_of_err q.isLt
  case stops => exact fun hs hvf hw n hn => functionReset_stops hs hvf hw hn

end Sys2Proof.Machine

/-!
PROOF. The statements of the family of host queues: the rows of the DMA engine and the bobbins (R88 to R99).
-/

namespace Sys2Proof.Machine

/-! ### Tables and bobbins changed twice -/

theorem tabDrop_tabDrop {α : Type} (t : Tab α) (k : Nat) : tabDrop (tabDrop t k) k = tabDrop t k := by
  simp [tabDrop]

theorem tabDrop_tabPut {α : Type} (k : Nat) (v : α) (t : Tab α) : tabDrop (tabPut k v t) k = tabDrop t k := by
  induction t with
  | nil => simp [tabPut, tabDrop]
  | cons x t ih =>
    obtain ⟨j, w⟩ := x
    unfold tabPut
    split
    · simp [tabDrop]
    · unfold tabDrop at ih ⊢
      rw [List.filter_cons, List.filter_cons, ih]

/-- Of two values set, the later stands, and the table is the one that it alone makes. -/
theorem tabSet_tabSet {α : Type} [DecidableEq α] (d : α) (t : Tab α) (k : Nat) (v w : α) :
    tabSet d (tabSet d t k v) k w = tabSet d t k w := by
  have hdrop : tabDrop (tabSet d t k v) k = tabDrop t k := by
    unfold tabSet
    split
    · exact tabDrop_tabDrop t k
    · rw [tabDrop_tabPut, tabDrop_tabDrop]
  simp only [tabSet] at hdrop ⊢
  rw [hdrop]

theorem tabUpd_tabUpd {α : Type} [DecidableEq α] (d : α) (t : Tab α) (k : Nat) (f g : α → α) :
    tabUpd d (tabUpd d t k f) k g = tabUpd d t k fun x => g (f x) := by
  rw [tabUpd, tabGet_tabUpd_same, tabUpd, tabSet_tabSet, tabUpd]

/-- Two changes of a bobbin are one. -/
theorem updBobbin_updBobbin (b : Block) (k : Nat) (f g : Bobbin → Bobbin) :
    (b.updBobbin k f).updBobbin k g = b.updBobbin k fun x => g (f x) := by
  simp only [Block.updBobbin, tabUpd_tabUpd]

/-- A change of a bobbin counts only as far as it goes from what the bobbin is. -/
theorem updBobbin_congr {b : Block} {k : Nat} {f g : Bobbin → Bobbin} (h : f (b.bobbin k) = g (b.bobbin k)) :
    b.updBobbin k f = b.updBobbin k g := by
  unfold Block.bobbin at h
  simp only [Block.updBobbin, tabUpd, h]

/-! ### Drops (R91, R93, R94, R96) -/

theorem dropRest_of_allIn {b : Block} {k : Nat} (h : (b.bobbin k).allIn = true) :
    dropRest b k = inc (releaseBobbin (b.updBobbin k fun x => { x with dropping := true, inPacket := false }) k)
      (Fld.BOB_DROP_COUNT_DROPS (k / 512)) := by
  simp only [dropRest, settleBobbin, Block.updBobbin_same, h, ↓reduceIte]

theorem dropRest_of_coming {b : Block} {k : Nat} (h : (b.bobbin k).allIn = false) :
    dropRest b k = b.updBobbin k fun x => { x with words := [], taken := x.wrote, dropping := true, inPacket := false } := by
  simp only [dropRest, settleBobbin, Block.updBobbin_same, h, Bool.false_eq_true, ↓reduceIte, updBobbin_updBobbin]

/-! ### Record bytes (R88, R89, R95, R98, R100) -/

/-- Settling a bobbin makes no packet one of an ended object. -/
theorem settleBobbin_dead {b : Block} {k : Nat} (h : (b.bobbin k).dead = false) : ((settleBobbin b k).bobbin k).dead = false := by
  have hrel : ((releaseBobbin b k).bobbin k).dead = false := by
    have hempty : ((b.updBobbin k fun _ => {}).bobbin k).dead = false := by rw [Block.updBobbin_same]
    unfold releaseBobbin
    dsimp only
    split
    · split <;> exact hempty
    · exact hempty
  unfold settleBobbin
  dsimp only
  split
  · split
    · exact hrel
    · rw [Block.updBobbin_same]
      exact h
  · split
    · exact hrel
    · exact h

theorem storeWords_dead {b : Block} {k : Nat} {ws : List WideWord} {all : Bool} (h : (b.bobbin k).dead = false) :
    ((storeWords b k ws all).bobbin k).dead = false := by
  refine settleBobbin_dead ?_
  rw [Block.updBobbin_same]
  exact h

/-- Bytes of an issued read of a record whose object goes on are packed and stored. -/
theorem recordBytes_of_alive {b : Block} {k n : Nat} {data : Bytes} (hop : (b.cmd n).e.opcode = 4) (hdead : (b.bobbin k).dead = false) :
    recordBytes b k n data =
      let x := b.bobbin k
      let last : Bool := decide (x.due = data.length ∧ x.left = 0)
      let p := packWords last ((x.packing ++ data).length / 64 + 1) (x.packing ++ data)
      storeWords ((b.updBobbin k fun x => { x with packing := p.2, due := x.due - data.length }).updCmd n
        fun c => { c with arrived := c.arrived + data.length }) k p.1 last := by
  have hop' (f : Bobbin → Bobbin) : ((b.updBobbin k f).cmd n).e.opcode = 4 := hop
  unfold recordBytes
  simp only [hop', ↓reduceIte]
  rw [storeWords_dead]
  · rfl
  · show ((b.updBobbin k _).bobbin k).dead = false
    rw [Block.updBobbin_same]
    exact hdead

/-! ### Credited writes (R97; log entry 72) -/

theorem creditRoom_iff (b : Block) (k len : Nat) :
    creditRoom b k len = true ↔ ceilDiv len 16 ≤ (b.bobbin k).credits ∧ (b.bobbin k).words.length + ceilDiv len 64 ≤ 1024 := by
  unfold creditRoom
  rw [Bool.and_eq_true, decide_eq_true_iff, decide_eq_true_iff]

/-- A safety event path that missed no event has no overflow event to write. -/
theorem overflowEvent_of_none_missed {b : Block} {k : Nat} (h : (b.bobbin k).missed = 0) : overflowEvent b k = b := by
  simp only [overflowEvent, h, Nat.lt_irrefl, false_and, and_false, ↓reduceIte]

/-- With no record waiting before it, a record with room is the only thing written. -/
theorem writePend_single_of_room {b : Block} {k : Nat} {d : Bytes} (hroom : creditRoom b k d.length = true)
    (hpend : (b.bobbin k).pend = []) : writePend k [d] b = creditedPacket b k d := by
  simp only [writePend, hroom, ↓reduceIte, creditedPacket, updBobbin_updBobbin]
  exact updBobbin_congr (by rw [← hpend])

theorem writePend_single_of_no_room {b : Block} {k : Nat} {d : Bytes} (hroom : creditRoom b k d.length = false) :
    writePend k [d] b = b.updBobbin k fun x => { x with pend := [d] } := by
  simp only [writePend, hroom, Bool.false_eq_true, ↓reduceIte]

section creditedWrite

variable {dt : Nat} {s : State} {die : Fin 2} {m : Fin 10} {data : Bytes} (ha : awake s.blk = true) (hdata : data ≠ [])

include ha hdata

/-- A safety event with no event missed before it is written with room, and counted without. -/
theorem execCreditedWrite_event (hm : m.val < 2) (hmissed : ((begun dt s).bobbin (512 * die.val + m.val)).missed = 0) :
    execCreditedWrite dt die m data s = .next (after dt s fun b =>
      if creditRoom b (512 * die.val + m.val) data.length then creditedPacket b (512 * die.val + m.val) data
      else b.updBobbin (512 * die.val + m.val) fun x => { x with missed := 1 }) := by
  refine runCmd_eq_after ha ?_
  simp only [hdata, hm, overflowEvent_of_none_missed hmissed, hmissed, true_and, ↓reduceIte]
  split
  · rfl
  · exact updBobbin_congr (by simp only [hmissed])

/-- A ledger record with none waiting before it is written with room, and waits without. -/
theorem execCreditedWrite_record (hm : 2 ≤ m.val) (hpend : ((begun dt s).bobbin (512 * die.val + m.val)).pend = []) :
    execCreditedWrite dt die m data s = .next (after dt s fun b => writePend (512 * die.val + m.val) [data] b) := by
  refine runCmd_eq_after ha ?_
  simp only [hdata, Nat.not_lt.mpr hm, hpend, List.nil_append, ↓reduceIte]

end creditedWrite

/-! ### The rows of the DMA engine and the bobbins -/

/-- The reading of a word changes no command. -/
theorem readWord_cmd (b : Block) (k : Nat) (w : WideWord) (flip : Bytes) (side n : Nat) : (readWord b k w flip side).2.cmd n = b.cmd n := by
  unfold readWord
  dsimp only
  split <;> rfl

/-- The engine that runs the record's job takes the first word of its bobbin (R99). -/
theorem execBobbinWideRead_of_job {dt : Nat} {s : State} {die : Fin 2} {m : Fin 512} {flip : Bytes} {side n e : Nat} {w : WideWord}
    {ws : List WideWord} (ha : awake s.blk = true) (hw : ((begun dt s).bobbin (512 * die.val + m.val)).words = w :: ws)
    (hdrop : ((begun dt s).bobbin (512 * die.val + m.val)).dropping = false)
    (hdead : ((begun dt s).bobbin (512 * die.val + m.val)).dead = false) (hm : 10 ≤ m.val)
    (hown : ((begun dt s).bobbin (512 * die.val + m.val)).owner = some n) (hjob : jobEngine (begun dt s) n = some e)
    (hroom : ((begun dt s).engine e).input.length < 131072) :
    execBobbinWideRead dt die m flip side s = .next (after dt s fun b =>
      let r := readWord (begun dt s) (512 * die.val + m.val) w flip side
      noteReady (pumpStream (engineTakes r.2 (512 * die.val + m.val) n e r.1.1 r.1.2.1 r.1.2.2.1 r.1.2.2.2) ((b.cmd n).stream.getD 0))) := by
  refine runCmd_eq_after ha ?_
  simp only [hw, hdrop, Nat.not_lt.mpr hm, hdead, hown, hjob, Nat.not_le.mpr hroom, Bool.false_eq_true, ↓reduceIte, readWord_cmd]

/-- DROP_REST of the packet in progress in a record bobbin. -/
theorem execDropRest_of_inPacket {dt : Nat} {s : State} {die : Fin 2} {m : Fin 512} (ha : awake s.blk = true)
    (hin : ((begun dt s).bobbin (512 * die.val + m.val)).inPacket = true) (hm : 10 ≤ m.val) :
    execDropRest dt die m s = .next (after dt s fun b => dropRest b (512 * die.val + m.val)) := by
  refine runCmd_eq_after ha ?_
  simp only [hin, Nat.not_lt.mpr hm, ↓reduceIte]

theorem bobbin_div (die : Fin 2) {m : Nat} (hm : m < 512) : (512 * die.val + m) / 512 = die.val := by omega

/-- Settles O22: the branch of each row that its occasion selects. What a credited bobbin takes, what counts as missed and what waits
are the model's choices (log entry 72). -/
theorem bobbinRowsTakeTheirEffect : Obligations.BobbinRowsTakeTheirEffect := by
  intro dt s ha b
  refine ⟨?grant, ?request, ?completion, ?failed, ?wideRead, ?drop, ?credited⟩
  case grant =>
    intro die n m hn hm
    show execBobbinGrant dt die s = _
    refine runCmd_eq_after ha ?_
    simp only [show waitingRecord (begun dt s) die.val = some n from hn, show freeBobbin (begun dt s) die.val = some m from hm]
  case request =>
    intro cmd len k c hk hlen hturn
    show execDmaReadRequest dt cmd len s = _
    refine runCmd_eq_after ha ?_
    dsimp only
    rw [show ((begun dt s).cmd cmd).bobbin = some k from hk]
    exact if_pos ⟨hlen, hturn⟩
  case completion =>
    intro cmd k data x last p hk hop hdead hall hdata hlen
    show execDmaReadCompletion dt cmd data s = _
    refine runCmd_eq_after ha ?_
    rw [show bobbinOf (begun dt s) cmd = some k from hk]
    refine (if_pos ⟨hdata, hlen, ?_⟩).trans (recordBytes_of_alive hop hdead)
    rw [show ((begun dt s).bobbin k).allIn = false from hall]
    rfl
  case failed =>
    intro cmd k hk hop hdue hall
    show execDmaReadFailed dt cmd s = _
    refine runCmd_eq_after ha ?_
    have hgo : 0 < ((begun dt s).bobbin k).due ∧ (!((begun dt s).bobbin k).allIn) = true := by
      rw [show ((begun dt s).bobbin k).allIn = false from hall]
      exact ⟨hdue, rfl⟩
    rw [show bobbinOf (begun dt s) cmd = some k from hk]
    refine (if_pos hgo).trans ?_
    rw [show ((begun dt s).cmd cmd).e.opcode = 4 from hop]
    rfl
  case wideRead =>
    intro die m flip side n e w ws k r hw hdrop hdead hm hown hjob hroom
    exact execBobbinWideRead_of_job ha hw hdrop hdead hm hown hjob hroom
  case drop =>
    intro die m k
    have hrow := execDropRest_of_inPacket (dt := dt) (die := die) (m := m) ha
    refine ⟨fun hout => ?outside, fun hin hm hall => ?whole, fun hin hm hall => ?rest⟩
    case outside =>
      show execDropRest dt die m s = _
      refine runCmd_eq_after ha ?_
      simp only [show ((begun dt s).bobbin (512 * die.val + m.val)).inPacket = false from hout, Bool.false_eq_true, ↓reduceIte]
    case whole =>
      refine (hrow hin hm).trans (congrArg _ (after_congr ((dropRest_of_allIn hall).trans ?_)))
      rw [bobbin_div die m.isLt]
    case rest => exact (hrow hin hm).trans (congrArg _ (after_congr (dropRest_of_coming hall)))
  case credited =>
    intro die m data k n ws room hdata
    have hroom : creditRoom b k data.length = true ↔ room := creditRoom_iff b k data.length
    refine ⟨fun hr hmissed hpend => ?stored, fun hr hm hmissed => ?counted, fun hr hm hpend => ?waits⟩
    case stored =>
      rcases Nat.lt_or_ge m.val 2 with hm | hm
      · exact (execCreditedWrite_event ha hdata hm hmissed).trans (congrArg _ (after_congr (if_pos (hroom.mpr hr))))
      · exact (execCreditedWrite_record ha hdata hm hpend).trans
          (congrArg _ (after_congr (writePend_single_of_room (hroom.mpr hr) hpend)))
    case counted =>
      exact (execCreditedWrite_event ha hdata hm hmissed).trans (congrArg _ (after_congr (if_neg (mt hroom.mp hr))))
    case waits =>
      exact (execCreditedWrite_record ha hdata hm hpend).trans
        (congrArg _ (after_congr (writePend_single_of_no_room (Bool.eq_false_iff.mpr (mt hroom.mp hr)))))

end Sys2Proof.Machine

/-!
PROOF. The statements of the family of ingest: wide words and their packing, and the idle word (R88 to R92).
-/

namespace Sys2Proof.Machine

/-! ### The side band (R90) -/

/-- The parity bits lie above the tag. -/
theorem dvd_sideParity (data : Bytes) (tag : Nat) : 2 ^ 16 ∣ sideParity data tag := by
  refine Nat.dvd_add (Nat.dvd_mul_left ..) (List.dvd_sum ?_)
  intro x hx
  obtain ⟨j, -, rfl⟩ := List.mem_map.mp hx
  exact Dvd.dvd.mul_left (pow_dvd_pow 2 (by omega)) _

theorem b2n_lt_two (f : Bool) : b2n f < 2 := by cases f <;> decide

theorem b2n_eq_one (f : Bool) : decide (b2n f = 1) = f := by cases f <;> rfl

section sideBand

variable {data : Bytes} {valid : Nat} {last poison idle term : Bool} (h : valid ≤ 64)

include h

/-- The low 16 bits are the tag alone. -/
theorem sideBand_tag : sideBand data valid last poison idle term % 2 ^ 16
    = valid + 128 * b2n last + 256 * b2n poison + 512 * b2n idle + 1024 * b2n term := by
  have hpar := dvd_sideParity data (valid + 128 * b2n last + 256 * b2n poison + 512 * b2n idle + 1024 * b2n term)
  have hlast := b2n_lt_two last
  have hpoison := b2n_lt_two poison
  have hidle := b2n_lt_two idle
  have hterm := b2n_lt_two term
  unfold sideBand
  dsimp only
  omega

/-- VALID_COUNT is the count given. -/
theorem sideBand_valid : sideBand data valid last poison idle term % 128 = valid := by
  have htag := @sideBand_tag data valid last poison idle term h
  omega

/-- LAST is the flag given. -/
theorem sideBand_last : bitOf (sideBand data valid last poison idle term) 7 = last := by
  have htag := @sideBand_tag data valid last poison idle term h
  have hlast := b2n_lt_two last
  have hbit : sideBand data valid last poison idle term / 2 ^ 7 % 2 = b2n last := by omega
  rw [bitOf, Nat.testBit_eq_decide_div_mod_eq, hbit, b2n_eq_one]

/-- IDLE is the flag given. -/
theorem sideBand_idle : bitOf (sideBand data valid last poison idle term) 9 = idle := by
  have htag := @sideBand_tag data valid last poison idle term h
  have hlast := b2n_lt_two last
  have hpoison := b2n_lt_two poison
  have hidle := b2n_lt_two idle
  have hbit : sideBand data valid last poison idle term / 2 ^ 9 % 2 = b2n idle := by omega
  rw [bitOf, Nat.testBit_eq_decide_div_mod_eq, hbit, b2n_eq_one]

end sideBand

/-! ### The idle word (R92) -/

theorem idleWord_side : idleWord.side = 512 + sideParity (zeros 64) 512 := by
  simp only [idleWord, sideBand, b2n, Bool.false_eq_true, ↓reduceIte, Nat.mul_zero, Nat.add_zero, Nat.zero_add, Nat.mul_one]

/-- A read that finds no word to deliver sends out the idle word and changes nothing. -/
theorem execBobbinWideRead_of_idle {dt : Nat} {s : State} {die : Fin 2} {m : Fin 512} {flip : Bytes} {side : Nat}
    (ha : awake s.blk = true)
    (hidle : ((begun dt s).bobbin (512 * die.val + m.val)).words = []
      ∨ ((begun dt s).bobbin (512 * die.val + m.val)).dropping = true) :
    execBobbinWideRead dt die m flip side s = .next (after dt s fun b => emit b (.wide idleWord.data idleWord.side)) := by
  refine runCmd_eq_after ha ?_
  dsimp only
  split
  · rfl
  · next w ws hw =>
    have hdrop := hidle.resolve_left (by rw [hw]; exact List.cons_ne_nil w ws)
    exact if_pos hdrop

/-- Settles O23: the two branches of the row that answer with the idle word, and the IDLE bit of every word the packer makes. -/
theorem emptyBobbinsReadIdle : Obligations.EmptyBobbinsReadIdle := by
  refine ⟨?idle, ?packed⟩
  case idle =>
    intro dt s die m flip side ha b x hidle
    rw [← idleWord_side]
    exact execBobbinWideRead_of_idle ha hidle
  case packed => exact fun bs last poison term h => sideBand_idle h

/-! ### The words that bytes are packed into (R88, R89) -/

/-- The bytes of a wide word that VALID_COUNT covers. -/
def validBytes (w : WideWord) : Bytes := w.data.take (w.side % 128)

theorem take_slice_zero {bs : Bytes} {n : Nat} (h : bs.length ≤ n) : (slice bs 0 n).take bs.length = bs := by
  simp only [slice, List.drop_zero, List.take_of_length_le h, List.take_left']

section wideWord

variable {bs : Bytes} {last poison term : Bool}

theorem wideWord_data_length : (wideWord bs last poison term).data.length = 64 := slice_length bs 0 64

theorem wideWord_valid (h : bs.length ≤ 64) : (wideWord bs last poison term).side % 128 = bs.length := sideBand_valid h

theorem wideWord_last (h : bs.length ≤ 64) : bitOf (wideWord bs last poison term).side 7 = last := sideBand_last h

/-- A wide word made of at most 64 bytes delivers just these. -/
theorem validBytes_wideWord (h : bs.length ≤ 64) : validBytes (wideWord bs last poison term) = bs := by
  rw [validBytes, wideWord_valid h]
  exact take_slice_zero h

end wideWord

/-- The words `ws` with the bytes `rest` left over are a packing of `bs`, which end a record where `last` holds. -/
structure PackedAs (last : Bool) (bs : Bytes) (ws : List WideWord) (rest : Bytes) : Prop where
  bytes : ws.flatMap validBytes ++ rest = bs
  left_over : if last then rest = [] else rest.length < 64
  sizes : ∀ w ∈ ws, w.data.length = 64 ∧ 1 ≤ w.side % 128 ∧ w.side % 128 ≤ 64
  full : ∀ w ∈ ws.dropLast, w.side % 128 = 64 ∧ bitOf w.side 7 = false
  marked : ∀ w ∈ ws.getLast?, bitOf w.side 7 = last

/-- Fewer than 64 bytes that end no record wait for more, and no bytes make no word. -/
theorem packedAs_waiting {last : Bool} {bs : Bytes} (h : bs.length < 64) (hlast : last = true → bs = []) : PackedAs last bs [] bs where
  bytes := rfl
  left_over := by
    split
    · next hl => exact hlast hl
    · exact h
  sizes := by simp
  full := by simp
  marked := by simp

/-- The last bytes of a record make one word with LAST. -/
theorem packedAs_end {bs : Bytes} (h : bs.length ≤ 64) (hne : bs ≠ []) : PackedAs true bs [wideWord bs true false false] [] where
  bytes := by simp [validBytes_wideWord h]
  left_over := rfl
  sizes := by
    intro w hw
    obtain rfl := List.mem_singleton.mp hw
    rw [wideWord_valid h]
    exact ⟨wideWord_data_length, List.length_pos_iff.mpr hne, h⟩
  full := by simp
  marked := by
    intro w hw
    obtain rfl : _ = w := Option.some.inj hw
    exact wideWord_last h

/-- A full word goes before the packing of what follows it, which is some byte where a record ends. -/
theorem packedAs_cons {last : Bool} {bs rest : Bytes} {ws : List WideWord} (h : 64 ≤ bs.length) (hlast : last = true → 64 < bs.length)
    (hp : PackedAs last (bs.drop 64) ws rest) : PackedAs last bs (wideWord (bs.take 64) false false false :: ws) rest := by
  have hlen : (bs.take 64).length = 64 := by rw [List.length_take, Nat.min_eq_left h]
  have hle : (bs.take 64).length ≤ 64 := hlen.le
  have hvalid : (wideWord (bs.take 64) false false false).side % 128 = 64 := (wideWord_valid hle).trans hlen
  have hnot : bitOf (wideWord (bs.take 64) false false false).side 7 = false := wideWord_last hle
  refine { bytes := ?bytes, left_over := hp.left_over, sizes := ?sizes, full := ?full, marked := ?marked }
  case bytes => rw [List.flatMap_cons, validBytes_wideWord hle, List.append_assoc, hp.bytes, List.take_append_drop]
  case sizes =>
    refine List.forall_mem_cons.mpr ⟨?_, hp.sizes⟩
    rw [hvalid]
    exact ⟨wideWord_data_length, by decide, le_rfl⟩
  case full =>
    cases ws with
    | nil => simp
    | cons v ws => exact List.forall_mem_cons.mpr ⟨⟨hvalid, hnot⟩, hp.full⟩
  case marked =>
    cases ws with
    | cons v ws => simpa only [List.getLast?_cons_cons] using hp.marked
    | nil =>
      -- No word follows, so what follows is left over, and at the end of a record nothing is.
      have hrest : rest = bs.drop 64 := hp.bytes
      have hopen : last = false := by
        refine Bool.eq_false_iff.mpr fun hl => ?_
        have hnone : rest = [] := by simpa [hl] using hp.left_over
        have hshort : bs.length ≤ 64 := List.drop_eq_nil_iff.mp (hrest.symm.trans hnone)
        exact absurd (hlast hl) hshort.not_gt
      intro w hw
      obtain rfl : _ = w := Option.some.inj hw
      rw [hopen]
      exact hnot

/-! ### What the packer does with each length -/

theorem packWords_of_waiting {last : Bool} {bs : Bytes} (n : Nat) (h : bs.length < 64) (hlast : last = true → bs = []) :
    packWords last (n + 1) bs = ([], bs) := by
  rw [packWords, if_pos (.inl h), if_neg fun ⟨hl, hne⟩ => hne (hlast hl), if_neg h.ne]

theorem packWords_of_end {bs : Bytes} (n : Nat) (h : bs.length ≤ 64) (hne : bs ≠ []) :
    packWords true (n + 1) bs = ([wideWord bs true false false], []) := by
  rw [packWords, if_pos (h.lt_or_eq.imp_right fun he => ⟨rfl, he⟩), if_pos ⟨rfl, hne⟩]

theorem packWords_of_full {last : Bool} {bs : Bytes} (n : Nat) (h : 64 ≤ bs.length) (hlast : last = true → 64 < bs.length) :
    packWords last (n + 1) bs =
      (wideWord (bs.take 64) false false false :: (packWords last n (bs.drop 64)).1, (packWords last n (bs.drop 64)).2) := by
  have hmore : ¬ (bs.length < 64 ∨ (last = true ∧ bs.length = 64)) := by
    rintro (hlt | ⟨hl, he⟩)
    · omega
    · exact (hlast hl).ne' he
  rw [packWords, if_neg hmore]

/-- The packer packs bytes for whose words its count suffices. -/
theorem packWords_packedAs (last : Bool) {n : Nat} {bs : Bytes} (h : bs.length < 64 * n) :
    PackedAs last bs (packWords last n bs).1 (packWords last n bs).2 := by
  induction n generalizing bs with
  | zero => omega
  | succ n ih =>
    by_cases hfull : 64 ≤ bs.length ∧ (last = true → 64 < bs.length)
    · obtain ⟨hlen, hlast⟩ := hfull
      rw [packWords_of_full n hlen hlast]
      exact packedAs_cons hlen hlast (ih (by rw [List.length_drop]; omega))
    by_cases hend : last = true ∧ bs ≠ []
    · obtain ⟨rfl, hne⟩ := hend
      have hle : bs.length ≤ 64 := by
        by_contra hgt
        exact hfull ⟨by omega, fun _ => by omega⟩
      rw [packWords_of_end n hle hne]
      exact packedAs_end hle hne
    · have hlast : last = true → bs = [] := fun hl => not_not.mp fun hne => hend ⟨hl, hne⟩
      have hlt : bs.length < 64 := by
        by_contra hge
        refine hfull ⟨by omega, fun hl => ?_⟩
        rw [hlast hl, List.length_nil] at hge
        omega
      rw [packWords_of_waiting n hlt hlast]
      exact packedAs_waiting hlt hlast

/-- Settles O24: the packing of `packWords_packedAs`, with a count that suffices for the length. -/
theorem packingKeepsEveryByte : Obligations.PackingKeepsEveryByte := by
  intro last bs p
  obtain ⟨hbytes, hleft, hsizes, hfull, hmarked⟩ := packWords_packedAs last (Nat.lt_mul_div_succ bs.length (by decide : 0 < 64))
  exact ⟨hbytes, hleft, hsizes, hfull, hmarked⟩

end Sys2Proof.Machine

/-!
PROOF. The statements of the family of carding: frames of raw and run blocks and their decoding (R108 to R110, R122), the form of a
block (R113, R117), and how the rows of the carding engines take effect (R103, R104, R112 to R117, R122, R123).
-/

namespace Sys2Proof.Machine

/-! ### Integers in bytes (R8) -/

theorem leN_leB (n v : Nat) : leN (leB n v) = v % 256 ^ n := by
  induction n generalizing v with
  | zero => simp [leB, leN, Nat.mod_one]
  | succ n ih => rw [Nat.pow_succ', Nat.mod_mul, ← ih]; rfl

/-- A field that stands at the front of a string is read whole, whatever follows. -/
theorem fieldAt_append (bs t : Bytes) : fieldAt (bs ++ t) 0 bs.length = leN bs := by
  simp [fieldAt, slice]

/-- A string absorbed piece by piece gives the state of the whole (R121). -/
theorem foldl_xxUpdate {α : Type} (f : α → Bytes) (l : List α) (h : Xxh) :
    l.foldl (fun h x => xxUpdate h (f x)) h = xxUpdate h (l.flatMap f) :=
  (List.foldl_flatMap ..).symm

/-! ### One block (R110, R122) -/

@[simp] theorem blockHeader_length (last : Bool) (typ size : Nat) : (blockHeader last typ size).length = 3 := leB_length 3 _

section blockStep

variable (win : Nat) (c : CardCtx) (out : Bytes) (last : Bool)

/-- The fields of a block header, as the decoder takes them from the front of the blocks. -/
theorem blockHeader_fields {typ size : Nat} (htyp : typ < 4) (hsize : size ≤ 131072) (t : Bytes) :
    fieldAt (blockHeader last typ size ++ t) 0 3 % 2 = b2n last
      ∧ fieldAt (blockHeader last typ size ++ t) 0 3 / 2 % 4 = typ
      ∧ fieldAt (blockHeader last typ size ++ t) 0 3 / 8 = size := by
  have hfield : fieldAt (blockHeader last typ size ++ t) 0 3 = (b2n last + 2 * typ + 8 * size) % 256 ^ 3 := by
    rw [← leN_leB]
    exact fieldAt_append (blockHeader last typ size) t
  have hlast := b2n_lt_two last
  omega

theorem blockHeader_drop (typ size : Nat) (t : Bytes) : (blockHeader last typ size ++ t).drop 3 = t :=
  List.drop_left' (blockHeader_length last typ size)

/-- A raw block decodes to the bytes that it holds. -/
theorem blockStep_raw {bs : Bytes} (h : bs.length ≤ 131072) (t : Bytes) :
    blockStep win c out (blockHeader last 0 bs.length ++ (bs ++ t)) = some (last, out ++ bs, c, t) := by
  obtain ⟨hlast, htyp, hsize⟩ := blockHeader_fields last (typ := 0) (by decide) h (bs ++ t)
  have hlong : ¬ (blockHeader last 0 bs.length ++ (bs ++ t)).length < 3 := by simp
  have hfits : ¬ (bs ++ t).length < bs.length := by simp
  rw [blockStep, if_neg hlong]
  simp only [hlast, htyp, hsize, blockHeader_drop, Nat.not_lt.mpr h, hfits, b2n_eq_one, List.take_left, List.drop_left, ↓reduceIte]

/-- A run block decodes to its byte, as often as its header says. -/
theorem blockStep_run {n : Nat} (h : n ≤ 131072) (v : Byte) (t : Bytes) :
    blockStep win c out (blockHeader last 1 n ++ v :: t) = some (last, out ++ List.replicate n v, c, t) := by
  obtain ⟨hlast, htyp, hsize⟩ := blockHeader_fields last (typ := 1) (by decide) h (v :: t)
  have hlong : ¬ (blockHeader last 1 n ++ v :: t).length < 3 := by simp
  rw [blockStep, if_neg hlong]
  simp only [hlast, htyp, hsize, blockHeader_drop, Nat.not_lt.mpr h, b2n_eq_one, Nat.one_ne_zero, ↓reduceIte]

end blockStep

/-! ### Frames of raw and run blocks (R108, R109) -/

/-- The block of a piece of content: a run block of its first byte where it is marked as a run, else a raw block. -/
def plainBlock (x : Bool × Bytes) : Bytes :=
  if x.1 then blockHeader false 1 x.2.length ++ x.2.take 1 else blockHeader false 0 x.2.length ++ x.2

/-- A piece of content that one raw or run block can hold. -/
def PlainPiece (x : Bool × Bytes) : Prop :=
  1 ≤ x.2.length ∧ x.2.length ≤ 131072 ∧ (x.1 = true → ∀ a ∈ x.2, some a = x.2.head?)

theorem plainBlock_length_pos (x : Bool × Bytes) : 0 < (plainBlock x).length := by
  unfold plainBlock
  split <;> simp

/-- The block of a piece decodes to the piece, and leaves the tables as they are. -/
theorem blockStep_plainBlock {x : Bool × Bytes} (hx : PlainPiece x) (win : Nat) (c : CardCtx) (out t : Bytes) :
    blockStep win c out (plainBlock x ++ t) = some (false, out ++ x.2, c, t) := by
  obtain ⟨run, bs⟩ := x
  obtain ⟨hpos, hmax, hrun⟩ := hx
  cases run with
  | false => simpa only [plainBlock, Bool.false_eq_true, ↓reduceIte, List.append_assoc] using blockStep_raw win c out false hmax t
  | true =>
    obtain ⟨v, tl, rfl⟩ := List.exists_cons_of_length_pos hpos
    have hall : v :: tl = List.replicate (v :: tl).length v :=
      List.eq_replicate_iff.mpr ⟨rfl, fun a ha => Option.some.inj (hrun rfl a ha)⟩
    have hstep := blockStep_run win c out false hmax v t
    rw [← hall] at hstep
    simpa only [plainBlock, ↓reduceIte, List.append_assoc, List.take_succ_cons, List.take_zero, List.cons_append,
      List.nil_append] using hstep

/-- The blocks of the pieces and the end block decode to the pieces joined; the bytes left bound the steps needed. -/
theorem blocksDec_plainBlocks (win : Nat) (c : CardCtx) (t : Bytes) {pieces : List (Bool × Bytes)} (hp : ∀ x ∈ pieces, PlainPiece x)
    {fuel : Nat} (hfuel : (pieces.flatMap plainBlock).length < fuel) (out : Bytes) :
    blocksDec win fuel c out (pieces.flatMap plainBlock ++ (blockHeader true 0 0 ++ t)) = some (out ++ pieces.flatMap Prod.snd, t) := by
  induction pieces generalizing fuel out with
  | nil =>
    obtain ⟨f, rfl⟩ := Nat.exists_eq_succ_of_ne_zero (Nat.ne_zero_of_lt hfuel)
    have hend : blockStep win c out (blockHeader true 0 0 ++ t) = some (true, out ++ [], c, t) :=
      blockStep_raw win c out true (bs := []) (by simp) t
    rw [List.flatMap_nil, List.flatMap_nil, List.nil_append, blocksDec, hend]
    rfl
  | cons x xs ih =>
    obtain ⟨f, rfl⟩ := Nat.exists_eq_succ_of_ne_zero (Nat.ne_zero_of_lt hfuel)
    obtain ⟨hx, hxs⟩ := List.forall_mem_cons.mp hp
    have hpos := plainBlock_length_pos x
    rw [List.flatMap_cons, List.length_append] at hfuel
    rw [List.flatMap_cons, List.append_assoc, blocksDec, blockStep_plainBlock hx]
    exact (ih hxs (by omega) (out ++ x.2)).trans (by rw [List.append_assoc, List.flatMap_cons])

theorem frameHeader_bytes : frameHeader = [0x28, 0xB5, 0x2F, 0xFD, 0x04, 0x50] := by decide

/-- A frame with the header that the engine writes is decoded with the window of 1,048,576 bytes, no content size, and a checksum. -/
theorem frameDec_frameHeader_append (bs : Bytes) :
    frameDec (frameHeader ++ bs) = (blocksDec 1048576 (bs.length + 7) {} [] bs).bind fun (content, rest) =>
      if rest.length = 4 ∧ leN rest = xxh64 content % 4294967296 then some content else none := by
  have hlen : (frameHeader ++ bs).length = bs.length + 6 := by rw [frameHeader_bytes]; simp
  have hmagic : fieldAt (frameHeader ++ bs) 0 4 = 0xFD2FB528 := by
    rw [frameHeader, List.append_assoc, List.append_assoc]
    exact (fieldAt_append (leB 4 0xFD2FB528) _).trans (leN_leB 4 0xFD2FB528)
  have hdesc : ((frameHeader ++ bs).getD 4 0).toNat = 4 := by rw [frameHeader_bytes]; rfl
  have hwin : ((frameHeader ++ bs).getD 5 0).toNat = 80 := by rw [frameHeader_bytes]; rfl
  have hinfo : frameInfo (frameHeader ++ bs) = (6, 1048576, none) := by
    simp only [frameInfo, hdesc, hwin]
    rfl
  have hdrop : (frameHeader ++ bs).drop 6 = bs := by rw [frameHeader_bytes]; rfl
  have hsum : bitOf 4 2 = true := rfl
  have hres : bitOf 4 3 = false := rfl
  have hok : ¬ (fieldAt (frameHeader ++ bs) 0 4 ≠ 0xFD2FB528 ∨ (!bitOf 4 2) = true ∨ 4 % 4 ≠ 0 ∨ bitOf 4 3 = true
      ∨ (frameHeader ++ bs).length < 6 ∨ 1048576 < 1048576) := by
    simp [hmagic, hlen, hsum, hres]
  unfold frameDec
  simp only [hdesc, hinfo]
  rw [if_neg hok, hlen, hdrop]
  simp only [Option.getD_none, and_true]

/-- Settles O27: the blocks of the pieces decode to the pieces joined (`blocksDec_plainBlocks`), whose checksum is the one carried along
piece by piece (`foldl_xxUpdate`). -/
theorem plainFramesDecodeToTheirContent : Obligations.PlainFramesDecodeToTheirContent := by
  intro pieces hp blocks hash
  have hhash : xxDigest hash = xxh64 (pieces.flatMap Prod.snd) := congrArg xxDigest (foldl_xxUpdate Prod.snd pieces {})
  have hsum : leN (leB 4 (xxDigest hash)) = xxh64 (pieces.flatMap Prod.snd) % 4294967296 := by rw [leN_leB, hhash]; norm_num
  have hblocks : blocks = pieces.flatMap plainBlock := rfl
  rw [frameClose, hblocks, List.append_assoc, frameDec_frameHeader_append, blocksDec_plainBlocks _ _ _ hp (by simp; omega),
    Option.bind_some]
  exact if_pos ⟨leB_length .., hsum⟩

/-! ### The form of a block (R113, R117) -/

/-- A string of equal bytes is a run of its first byte. -/
theorem eq_head_of_allEqual {a : Byte} {t : Bytes} (h : allEqual (a :: t) = true) : ∀ v ∈ a :: t, v = a := by
  refine List.forall_mem_cons.mpr ⟨rfl, fun v hv => ?_⟩
  exact of_decide_eq_true (List.all_eq_true.mp h v hv)

/-- The form that R113 chooses for a block that is not cut: its type, its body, the NOT_SHRUNK count and the context it leaves. -/
inductive UncutForm (x : CardCtx) (level : Nat) (content : Bytes) : Nat → Bytes → Nat → CardCtx → Prop where
  | stored : level = 0 → UncutForm x level content 0 content 0 x
  | run (v : Byte) : level ≠ 0 → (∀ a ∈ content, a = v) → UncutForm x level content 1 [v] 0 x
  | notShrunk : level ≠ 0 → content.length ≤ (compressBlock x level content).1.length → UncutForm x level content 0 content 1 x
  | compressed : level ≠ 0 → (compressBlock x level content).1.length < content.length →
      UncutForm x level content 2 (compressBlock x level content).1 0 (compressBlock x level content).2

/-- The plan of a block is a form of R113 that fits the room, or the content is cut to a raw block that fills the room. -/
theorem blockPlan_form (x : CardCtx) (level room : Nat) (content : Bytes) :
    ∃ kind body ns x', UncutForm x level content kind body ns x' ∧ blockPlan x level room content =
      if room < body.length then (room, 0, content.take room, ns, x) else (content.length, kind, body, ns, x') := by
  by_cases hlevel : level = 0
  · exact ⟨_, _, _, _, .stored hlevel, by simp only [blockPlan, hlevel, ↓reduceIte]⟩
  by_cases hrun : (decide (2 ≤ content.length) && allEqual content) = true
  · obtain ⟨hlen, hall⟩ := Bool.and_eq_true_iff.mp hrun
    obtain ⟨a, t, rfl⟩ := List.exists_cons_of_length_pos (Nat.zero_lt_of_lt (of_decide_eq_true hlen))
    exact ⟨_, _, _, _, .run a hlevel (eq_head_of_allEqual hall),
      by simp only [blockPlan, hlevel, hrun, ↓reduceIte, List.take_succ_cons, List.take_zero]⟩
  by_cases hshrunk : content.length ≤ (compressBlock x level content).1.length
  · exact ⟨_, _, _, _, .notShrunk hlevel hshrunk, by simp only [blockPlan, hlevel, hrun, hshrunk, Bool.false_eq_true, ↓reduceIte]⟩
  · exact ⟨_, _, _, _, .compressed hlevel (Nat.not_le.mp hshrunk),
      by simp only [blockPlan, hlevel, hrun, hshrunk, Bool.false_eq_true, ↓reduceIte]⟩

/-- A form takes no more bytes than its content has, and counts at most one block that did not shrink. -/
theorem UncutForm.bounds {x x' : CardCtx} {level kind ns : Nat} {content body : Bytes} (h : UncutForm x level content kind body ns x')
    (hne : content ≠ []) : body.length ≤ content.length ∧ ns ≤ 1 := by
  cases h with
  | stored => exact ⟨le_rfl, by decide⟩
  | run => exact ⟨List.length_pos_iff.mpr hne, by decide⟩
  | notShrunk => exact ⟨le_rfl, le_rfl⟩
  | compressed _ hlt => exact ⟨hlt.le, by decide⟩

/-- Settles O26: a plan is a form of R113 or a cut to the room (`blockPlan_form`); a cut is raw, and each form is as the statement says. -/
theorem blocksNeverOutgrowTheirContent : Obligations.BlocksNeverOutgrowTheirContent := by
  intro x level room content hne hroom
  have hpos : 1 ≤ content.length := List.length_pos_iff.mpr hne
  obtain ⟨kind, body, ns, x', hform, hplan⟩ := blockPlan_form x level room content
  obtain ⟨hlen, hns⟩ := hform.bounds hne
  by_cases hcut : room < body.length
  · rw [hplan, if_pos hcut]
    exact ⟨hroom, hcut.le.trans hlen, List.length_take_le .., hns, .inl ⟨rfl, rfl⟩, fun _ => rfl⟩
  · rw [hplan, if_neg hcut]
    refine ⟨hpos, le_rfl, Nat.not_lt.mp hcut, hns, ?_⟩
    cases hform with
    | stored => exact ⟨.inl ⟨rfl, List.take_length.symm⟩, fun _ => rfl⟩
    | run v hlevel hall => exact ⟨.inr (.inl ⟨rfl, rfl, v, rfl, hall⟩), fun h => absurd h hlevel⟩
    | notShrunk => exact ⟨.inl ⟨rfl, List.take_length.symm⟩, fun _ => rfl⟩
    | compressed hlevel hlt => exact ⟨.inr (.inr ⟨rfl, rfl, hlt⟩), fun h => absurd h hlevel⟩

/-! ### The rows of the carding engines -/

/-- COMPRESSION_JOB_START of a ready record with an engine for it starts the job there (R103, R104). -/
theorem execCompressionJobStart_of_ready {dt : Nat} {s : State} {die : Fin 2} {n e : Nat} {c : Block} (ha : awake s.blk = true)
    (hjob : oldestJob (begun dt s) die.val = some n)
    (hengine : assignEngine (begun dt s) die.val (slotOfHandle (((begun dt s).cmd n).stream.getD 0)) = some (e, c)) :
    execCompressionJobStart dt die s = .next (after dt s fun b => c.updEngine e fun x =>
      { x with state := .compressing, ctx := some (slotOfHandle ((b.cmd n).stream.getD 0)), job := some n, input := []
               inputEnd := false, output := [], jobConsumed := 0, jobShrunk := 0 }) := by
  refine runCmd_eq_after ha ?_
  simp only [hjob, hengine]

/-- BLOCK_EMIT with a whole block, or the record's end, in the input, of a frame that is open, makes one pass of R117. -/
theorem execBlockEmit_of_open {dt : Nat} {s : State} {engine : Fin 64} {bad1 bad2 : Bool} {n : Nat} (ha : awake s.blk = true)
    (hstate : ((begun dt s).engine engine.val).state = .compressing) (hjob : ((begun dt s).engine engine.val).job = some n)
    (hinput : ((begun dt s).engine engine.val).input ≠ [])
    (hwhole : ((begun dt s).engine engine.val).inputEnd = true ∨ 131072 ≤ ((begun dt s).engine engine.val).input.length)
    (hopen : ((begun dt s).ctx (slotOfHandle (((begun dt s).cmd n).stream.getD 0))).frameOpen = true) :
    execBlockEmit dt engine bad1 bad2 s = .next (after dt s fun b =>
      let h := ((begun dt s).cmd n).stream.getD 0
      noteReady (pumpStream (blockPass b engine.val n (slotOfHandle h) ((b.cmd n).obj.getD 0) bad1 bad2) h)) := by
  refine runCmd_eq_after ha ?_
  have hready : (((begun dt s).engine engine.val).inputEnd || decide (131072 ≤ ((begun dt s).engine engine.val).input.length)) = true := by
    simpa only [Bool.or_eq_true, decide_eq_true_eq] using hwhole
  simp only [hstate, hjob, hinput, hready, hopen, decide_false, Bool.not_true, Bool.or_self, Bool.false_eq_true, ↓reduceIte]

/-- The content of a decoded segment is delivered to READ_RECORD or to READ_OBJECT, whichever restores it. -/
def deliverSegment (d : Block) (cmd : Nat) (record : Option Nat) (g : RSeg) (plain content : Bytes) : Block :=
  match record with
  | some i => deliverRecord d cmd i g plain content
  | none => deliverObject d cmd g content

/-- DECOMPRESSION_JOB of the oldest job of a die, whose segment is good: the first decode's content is delivered, or else the second's,
with the retry counted and logged; where both go wrong the command fails (R122, R123; log entry 144). -/
theorem execDecompressionJob_of_good {dt : Nat} {s : State} {die : Fin 2} {cmd e : Nat} {plain content : Bytes} {g : RSeg}
    {gs : List RSeg} {c : Block} (ha : awake s.blk = true)
    (hframe : ((begun dt s).cmd cmd).rst.frame = some plain) (hsegs : ((begun dt s).cmd cmd).rst.segs = g :: gs)
    (hidle : idlestEngine (begun dt s) die.val = some e) (hold : oldestCard (begun dt s) die.val = some cmd)
    (hback : writeBack (begun dt s) e = some c) (hgood : decodeSeg ((begun dt s).cmd cmd).rst g plain = some content)
    (bad1 bad2 : Bool) :
    execDecompressionJob dt die cmd bad1 bad2 s = .next (after dt s fun b =>
      let r := (b.cmd cmd).rst
      let d := c.updEngine e fun x => { x with idleSince := c.time.now }
      let again := (secondEngine d die.val e).2
      if bad1 = false then deliverSegment d cmd r.record g plain content
      else if bad2 = false then
        deliverSegment (cardLog (inc again (Fld.CARD_RESTORE_ERR_RETRIED die.val)) 0 4 e 0 r.objectId g.objectOffset 1) cmd r.record
          g plain content
      else readFail (cardLog (inc again (Fld.CARD_RESTORE_ERR_FAILED die.val)) 0x2006 5 e 0 r.objectId g.objectOffset 1) cmd 0x2006) := by
  refine runCmd_eq_after ha ?_
  simp only [hframe, hsegs, hidle, hold, hback, hgood, ne_eq, not_true_eq_false, ↓reduceIte]
  cases bad1 with
  | false => rfl
  | true =>
    cases bad2 with
    | false => rfl
    | true => rfl

/-- Settles O25: the branch of each row that its occasion selects. That ENGINE of a retry's log entry is the first decode's is the model's
choice (log entries 73 and 144). -/
theorem cardingRowsTakeTheirEffect : Obligations.CardingRowsTakeTheirEffect := by
  intro dt s ha b
  refine ⟨?start, ?emit, ?enable, ?decode⟩
  case start =>
    intro die n e c hjob hengine
    show execCompressionJobStart dt die s = _
    exact execCompressionJobStart_of_ready ha hjob hengine
  case emit =>
    intro engine bad1 bad2 n x h hstate hjob hinput hwhole hopen
    show execBlockEmit dt engine bad1 bad2 s = _
    exact execBlockEmit_of_open ha hstate hjob hinput hwhole hopen
  case enable =>
    rintro die data ⟨haway, hdec⟩
    show execCardEngEnableWrite dt die data s = _
    exact runCmd_eq_after ha (hostWrites_reaches haway hdec rfl)
  case decode =>
    intro die cmd e plain content g gs c x d deliver hframe hsegs hidle hold hback hgood
    have hrow := execDecompressionJob_of_good ha hframe hsegs hidle hold hback hgood
    refine ⟨?first, ?second, ?failed⟩
    case first => exact hrow false false
    case second => exact hrow true false
    case failed => exact hrow true true

end Sys2Proof.Machine

/-!
PROOF. The statements of the family of sealing: the values of the nonce counter and their nonces (R144, R146, R147, R149), the erasure of
keys (R160 to R162), tamper alarms (R556 to R558), and how the rows of the cipher units take effect (R144 to R164).
-/

namespace Sys2Proof.Machine

/-! ### Counter values (R147, R149) -/

/-- A value lies in what is left of a pipeline's sub-block. -/
def InSub (b : Block) (p v : Nat) : Prop := (b.pipe p).subNext ≤ v ∧ v < (b.pipe p).subEnd

/-- No draw can give the value any more: the counter has passed it, and no sub-block has it left. -/
def Spent (b : Block) (v : Nat) : Prop := v < b.ciph.nonceNext ∧ ∀ p, ¬ InSub b p v

theorem inSub_updPipe (b : Block) (p q v : Nat) (f : Pipeline → Pipeline) :
    InSub (b.updPipe p f) q v ↔ if q = p then (f (b.pipe p)).subNext ≤ v ∧ v < (f (b.pipe p)).subEnd else InSub b q v := by
  by_cases h : q = p
  · subst h; simp [InSub]
  · simp [InSub, Block.updPipe_other b f h, h]

/-- While a sub-block lasts its pipeline takes the least value left in it. -/
theorem drawNonce_of_left {b : Block} {p : Nat} (h : (b.pipe p).subNext < (b.pipe p).subEnd) :
    drawNonce b p = ((b.pipe p).subNext, b.updPipe p fun x => { x with subNext := x.subNext + 1 }) := by
  simp only [drawNonce, h, ↓reduceIte]

/-- The block with a new sub-block for a pipeline, whose first value the pipeline has taken. -/
def newSub (b : Block) (p : Nat) : Block :=
  let hi := min (b.ciph.nonceNext + 4096) b.ciph.nonceEnd
  Block.updPipe { b with ciph := { b.ciph with nonceNext := hi } } p
    fun x => { x with subNext := b.ciph.nonceNext + 1, subEnd := hi }

/-- Where the sub-block is used up the pipeline takes the counter's next value, and the sub-block that follows it. -/
theorem drawNonce_of_used {b : Block} {p : Nat} (h : (b.pipe p).subEnd ≤ (b.pipe p).subNext) :
    drawNonce b p = (b.ciph.nonceNext, newSub b p) := by
  simp only [drawNonce, Nat.not_lt.mpr h, ↓reduceIte, newSub]

theorem inSub_newSub (b : Block) (p q v : Nat) :
    InSub (newSub b p) q v ↔
      if q = p then b.ciph.nonceNext < v ∧ v < min (b.ciph.nonceNext + 4096) b.ciph.nonceEnd else InSub b q v :=
  inSub_updPipe _ p q v _

/-- A draw takes `b` to `c` and gives `v`, which no draw has given before or can give again: it was not spent and now is, and what was
spent stays so. -/
structure DrawsOnce (b : Block) (v : Nat) (c : Block) : Prop where
  inv : NonceInv c
  grows : b.ciph.nonceNext ≤ c.ciph.nonceNext
  fresh : ¬ Spent b v
  spent : Spent c v
  keeps : ∀ u, Spent b u → Spent c u

theorem drawsOnce_of_left {b : Block} {p : Nat} (hinv : NonceInv b) (h : (b.pipe p).subNext < (b.pipe p).subEnd) :
    DrawsOnce b (b.pipe p).subNext (b.updPipe p fun x => { x with subNext := x.subNext + 1 }) := by
  obtain ⟨hbelow, hdisj⟩ := hinv
  have hv : InSub b p (b.pipe p).subNext := ⟨Nat.le_refl _, h⟩
  -- A sub-block has left what it had, less the value drawn.
  have hsub {q u : Nat} (hu : InSub (b.updPipe p fun x => { x with subNext := x.subNext + 1 }) q u) :
      InSub b q u ∧ u ≠ (b.pipe p).subNext := by
    rw [inSub_updPipe] at hu
    split at hu
    case isTrue hq => subst hq; exact ⟨⟨Nat.le_of_succ_le hu.1, hu.2⟩, Nat.ne_of_gt hu.1⟩
    case isFalse hq => exact ⟨hu, by rintro rfl; exact hdisj q p hq _ ⟨hu, hv⟩⟩
  refine ⟨⟨fun q => ?below, fun q r hqr u hu => hdisj q r hqr u ⟨(hsub hu.1).1, (hsub hu.2).1⟩⟩, Nat.le_refl _,
    fun hs => hs.2 p hv, ⟨Nat.lt_of_lt_of_le h (hbelow p), fun q hq => (hsub hq).2 rfl⟩,
    fun u hu => ⟨hu.1, fun q hq => hu.2 q (hsub hq).1⟩⟩
  by_cases hq : q = p
  · subst hq; rw [Block.updPipe_same]; exact hbelow q
  · rw [Block.updPipe_other _ _ hq]; exact hbelow q

theorem drawsOnce_of_used {b : Block} {p : Nat} (hinv : NonceInv b) (hmore : b.ciph.nonceNext < b.ciph.nonceEnd) :
    DrawsOnce b b.ciph.nonceNext (newSub b p) := by
  obtain ⟨hbelow, hdisj⟩ := hinv
  have hlt : b.ciph.nonceNext < (newSub b p).ciph.nonceNext := Nat.lt_min.mpr ⟨by omega, hmore⟩
  -- What a sub-block has left was there before, or is the pipeline's new sub-block behind the value drawn.
  have hsub {q u : Nat} (hu : InSub (newSub b p) q u) : (q ≠ p ∧ InSub b q u) ∨ (q = p ∧ b.ciph.nonceNext < u) := by
    rw [inSub_newSub] at hu
    split at hu
    case isTrue hq => exact .inr ⟨hq, hu.1⟩
    case isFalse hq => exact .inl ⟨hq, hu⟩
  have hold {q u : Nat} (hu : InSub b q u) : u < b.ciph.nonceNext := Nat.lt_of_lt_of_le hu.2 (hbelow q)
  refine ⟨⟨fun q => ?below, fun q r hqr u hu => ?disjoint⟩, Nat.le_of_lt hlt, fun hs => Nat.lt_irrefl _ hs.1,
    ⟨hlt, fun q hq => ?gone⟩, fun u hu => ⟨Nat.lt_trans hu.1 hlt, fun q hq => ?kept⟩⟩
  case below =>
    by_cases hq : q = p
    · subst hq; exact Nat.le_of_eq (congrArg Pipeline.subEnd (Block.updPipe_same _ q _))
    · exact Nat.le_trans (Nat.le_of_eq (congrArg Pipeline.subEnd (Block.updPipe_other _ _ hq))) (Nat.le_trans (hbelow q) hlt.le)
  case disjoint =>
    rcases hsub hu.1 with ⟨-, h1⟩ | ⟨h1, h1'⟩ <;> rcases hsub hu.2 with ⟨-, h2⟩ | ⟨h2, h2'⟩
    · exact hdisj q r hqr u ⟨h1, h2⟩
    · exact Nat.lt_asymm (hold h1) h2'
    · exact Nat.lt_asymm (hold h2) h1'
    · exact hqr (h1.trans h2.symm)
  case gone =>
    rcases hsub hq with ⟨-, h⟩ | ⟨-, h⟩
    · exact Nat.lt_irrefl _ (hold h)
    · exact Nat.lt_irrefl _ h
  case kept =>
    rcases hsub hq with ⟨-, h⟩ | ⟨-, h⟩
    · exact hu.2 q h
    · exact Nat.lt_asymm hu.1 h

theorem drawNonce_drawsOnce {b : Block} {p : Nat} (hinv : NonceInv b) (hp : Drawable b p) :
    DrawsOnce b (drawNonce b p).1 (drawNonce b p).2 := by
  by_cases h : (b.pipe p).subNext < (b.pipe p).subEnd
  · rw [drawNonce_of_left h]; exact drawsOnce_of_left hinv h
  · rw [drawNonce_of_used (Nat.le_of_not_lt h)]; exact drawsOnce_of_used hinv (hp.resolve_left h)

/-- Values drawn one after the other were not spent before the first draw, and are spent after the last. -/
theorem draws_spend {b c : Block} {vs : List Nat} (hd : Draws b vs c) (hinv : NonceInv b) :
    vs.Nodup ∧ NonceInv c ∧ b.ciph.nonceNext ≤ c.ciph.nonceNext ∧ (∀ u, Spent b u → Spent c u)
    ∧ ∀ v ∈ vs, ¬ Spent b v ∧ Spent c v := by
  induction hd with
  | none b => exact ⟨List.nodup_nil, hinv, Nat.le_refl _, fun _ h => h, by simp⟩
  | more p hp _ ih =>
    obtain ⟨hinv', hgrows, hfresh, hspent, hkeeps⟩ := drawNonce_drawsOnce hinv hp
    obtain ⟨hnodup, hc, hle, hkept, hvs⟩ := ih hinv'
    refine ⟨List.nodup_cons.mpr ⟨fun hmem => (hvs _ hmem).1 hspent, hnodup⟩, hc, Nat.le_trans hgrows hle,
      fun u hu => hkept u (hkeeps u hu), fun v hv => ?_⟩
    rcases List.mem_cons.mp hv with rfl | hv
    · exact ⟨hfresh, hkept _ hspent⟩
    · exact ⟨fun hs => (hvs v hv).1 (hkeeps v hs), (hvs v hv).2⟩

/-- Settles O29, by induction on the draws: each value drawn is spent from then on (`draws_spend`). -/
theorem nonceValuesNeverRepeat : Obligations.NonceValuesNeverRepeat := by
  intro b c vs hinv hd
  obtain ⟨hnodup, hc, hle, -, hvs⟩ := draws_spend hd hinv
  exact ⟨hnodup, hc, hle, fun v hv => (hvs v hv).2⟩

/-! ### Nonces as bytes (R147) -/

theorem leN_append (xs ys : Bytes) : leN (xs ++ ys) = leN xs + 256 ^ xs.length * leN ys := by
  induction xs with
  | nil => simp [leN]
  | cons x xs ih => rw [List.cons_append, leN, leN, ih, List.length_cons, Nat.pow_succ', Nat.mul_add, Nat.mul_assoc, Nat.add_assoc]

@[simp] theorem beB_length (n v : Nat) : (beB n v).length = n := by simp [beB]

/-- The most significant bytes come first. -/
theorem beN_append (xs ys : Bytes) : beN (xs ++ ys) = beN xs * 256 ^ ys.length + beN ys := by
  rw [beN, List.reverse_append, leN_append, List.length_reverse, beN, beN, Nat.mul_comm, Nat.add_comm]

theorem beN_beB (n v : Nat) : beN (beB n v) = v % 256 ^ n := by rw [beN, beB, List.reverse_reverse, leN_leB]

theorem rd_lt (b : Block) (f : Fld) : rd b f < 2 ^ f.width := bitsOf_lt _ _ _

@[simp] theorem nonceOf_length (b : Block) (v : Nat) : (nonceOf b v).length = 12 := by simp [nonceOf]

theorem beN_nonceOf (b : Block) {v : Nat} (hv : v < 2 ^ 64) :
    beN (nonceOf b v) = rd b Fld.CIPH_NONCE_PREFIX_PREFIX * 2 ^ 64 + v := by
  have hpre : rd b Fld.CIPH_NONCE_PREFIX_PREFIX < 2 ^ 32 := rd_lt b Fld.CIPH_NONCE_PREFIX_PREFIX
  rw [nonceOf, beN_append, beB_length, beN_beB, beN_beB, show (256 : Nat) ^ 4 = 2 ^ 32 by decide, show (256 : Nat) ^ 8 = 2 ^ 64 by decide,
    Nat.mod_eq_of_lt hpre, Nat.mod_eq_of_lt hv]

theorem nonceOf_injective (b : Block) {u v : Nat} (hu : u < 2 ^ 64) (hv : v < 2 ^ 64) (h : nonceOf b u = nonceOf b v) : u = v := by
  have hsame := congrArg beN h
  rw [beN_nonceOf b hu, beN_nonceOf b hv] at hsame
  exact Nat.add_left_cancel hsame

theorem nonceInv_reset : NonceInv State.reset.blk :=
  ⟨fun _ => Nat.le_refl _, fun _ _ _ v hv => Nat.not_lt_zero v hv.1.2⟩

/-! ### The start of a seal job (R146, R147) -/

theorem updSeg_segs (b : Block) (d i : Nat) (f : Seg → Seg) :
    ((updSeg b d i f).dataset d).segs = (b.dataset d).segs.modify i f := by rw [updSeg, Block.updDataset_same]

/-- A draw concerns the counter and the sub-blocks alone. -/
theorem drawNonce_frame (b : Block) (p : Nat) :
    (drawNonce b p).2.ds = b.ds ∧ (drawNonce b p).2.regs = b.regs := by
  by_cases h : (b.pipe p).subNext < (b.pipe p).subEnd
  · rw [drawNonce_of_left h]; exact ⟨rfl, rfl⟩
  · rw [drawNonce_of_used (Nat.le_of_not_lt h)]; exact ⟨rfl, rfl⟩

theorem sealStart_of_active {b : Block} {w : SealWork} (h : (b.sealState (slotOfHandle w.stream)).active = true) (p : Nat) :
    sealStart b p w = b := by
  simp only [sealStart, h, ↓reduceIte]

/-- The block after a draw, with the nonce in the segment of a seal work. -/
def nonceGiven (b : Block) (p : Nat) (w : SealWork) : Block :=
  updSeg (drawNonce b p).2 w.dataset w.seg fun g => { g with nonce := nonceOf (drawNonce b p).2 (drawNonce b p).1 }

theorem sealStart_of_inactive {b : Block} {w : SealWork} (h : (b.sealState (slotOfHandle w.stream)).active = false) (p : Nat) :
    sealStart b p w =
      let g := ((nonceGiven b p w).dataset w.dataset).segs.getD w.seg {}
      (nonceGiven b p w).updSealState (slotOfHandle w.stream) fun _ =>
        { active := true, keySlot := w.key, nonce := g.nonce, aad := aadOf g, gmac := g.mode = 1 } := by
  simp only [sealStart, h, Bool.false_eq_true, ↓reduceIte]
  rfl

@[simp] theorem sealState_updSealState (b : Block) (k : Nat) (f : SealState → SealState) :
    (b.updSealState k f).sealState k = f (b.sealState k) := tabGet_tabUpd_same _ _ _ _

@[simp] theorem dataset_updSealState (b : Block) (k : Nat) (f : SealState → SealState) (d : Nat) :
    (b.updSealState k f).dataset d = b.dataset d := rfl

/-- A nonce is spelled from CIPH_NONCE_PREFIX alone. -/
theorem nonceOf_drawNonce (b : Block) (p v : Nat) : nonceOf (drawNonce b p).2 v = nonceOf b v := by
  obtain ⟨-, hregs⟩ := drawNonce_frame b p
  rw [nonceOf, nonceOf, rd, rd, regGet_congr hregs]

theorem nonceGiven_nonce {b : Block} {w : SealWork} (h : w.seg < (b.dataset w.dataset).segs.length) (p : Nat) :
    (((nonceGiven b p w).dataset w.dataset).segs.getD w.seg {}).nonce = nonceOf b (drawNonce b p).1 := by
  obtain ⟨hds, -⟩ := drawNonce_frame b p
  have hsame : (drawNonce b p).2.dataset w.dataset = b.dataset w.dataset := by rw [Block.dataset, hds, Block.dataset]
  rw [nonceGiven, updSeg_segs, hsame, List.getD_eq_getElem?_getD, List.getElem?_modify_eq, List.getElem?_eq_getElem h]
  exact nonceOf_drawNonce b p _

/-- Settles O30: the spelling of a nonce (`beN_nonceOf`), and what the start of a seal job leaves by whether its segment has its
SEAL_STATE. -/
theorem noncesSpellPrefixAndCounter : Obligations.NoncesSpellPrefixAndCounter := by
  refine ⟨fun b v hv => ⟨nonceOf_length b v, beN_nonceOf b hv, fun u hu h => nonceOf_injective b hu hv h⟩, nonceInv_reset,
    fun b p w => ⟨fun h => sealStart_of_active h p, fun h => ?first⟩⟩
  case first =>
    dsimp only
    rw [sealStart_of_inactive h]
    simp only [sealState_updSealState, dataset_updSealState, true_and]
    exact fun hseg => ⟨nonceGiven_nonce hseg p, nonceGiven_nonce hseg p⟩

/-! ### Key erasure in a part without work (R160 to R162) -/

/-- No pipeline has a job. -/
def PipesIdle (b : Block) : Prop := ∀ p, (b.pipe p).running = none ∧ (b.pipe p).suspended = none

/-- `c` is `b` with its pipelines changed, and nothing else. -/
def OnlyPipes (b c : Block) : Prop := ∃ ps, c = { b with ciph := { b.ciph with pipes := ps } }

theorem OnlyPipes.updPipe {b c : Block} (h : OnlyPipes b c) (k : Nat) (f : Pipeline → Pipeline) : OnlyPipes b (c.updPipe k f) := by
  obtain ⟨ps, rfl⟩ := h
  exact ⟨_, rfl⟩

/-- The pipelines of a die without their jobs. -/
def emptyPipes (b : Block) (die : Nat) : Block :=
  forEach (List.range 4) b fun b i => b.updPipe (4 * die + i) fun x => { x with running := none, suspended := none }

theorem emptyPipes_onlyPipes (b : Block) (die : Nat) : OnlyPipes b (emptyPipes b die) :=
  forEach_keeps (fun _ _ h => h.updPipe _ _) _ b ⟨b.ciph.pipes, rfl⟩

theorem pipesIdle_emptyPipes {b : Block} (h : PipesIdle b) (die : Nat) : PipesIdle (emptyPipes b die) := by
  refine forEach_keeps (P := PipesIdle) (fun c i hc q => ?_) _ b h
  by_cases hq : q = 4 * die + i
  · subst hq; rw [Block.updPipe_same]; exact ⟨rfl, rfl⟩
  · rw [Block.updPipe_other _ _ hq]; exact hc q

/-- Where no job runs or waits, stopping a die's pipelines ends none. -/
theorem stopPipes_of_idle {b : Block} (hpipes : PipesIdle b) (hqueue : b.ciph.queue = []) (die : Nat) :
    stopPipes b die = emptyPipes b die := by
  have hjobs : ((List.range 4).flatMap fun i => (b.pipe (4 * die + i)).running.toList ++ (b.pipe (4 * die + i)).suspended.toList) = [] :=
    List.flatMap_eq_nil_iff.mpr fun i _ => by obtain ⟨hrun, hsus⟩ := hpipes (4 * die + i); rw [hrun, hsus]; rfl
  have hempty : (emptyPipes b die).ciph.queue = [] := by obtain ⟨ps, h⟩ := emptyPipes_onlyPipes b die; rw [h]; exact hqueue
  unfold stopPipes
  dsimp only
  rw [hjobs, ← emptyPipes, hempty]
  show { emptyPipes b die with ciph := { (emptyPipes b die).ciph with queue := [] } } = emptyPipes b die
  rw [← hempty]

/-- The block with every key of the part gone from its slots, with the DRBG's state, and after a tamper alarm the KEKs (R160, R161). -/
def keysGone (b : Block) (tamper : Bool) : Block :=
  { b with ciph := { b.ciph with
    slots := [], drbg := if b.ciph.drbg = .failed then .failed else .uninstantiated, drbgKey := [], drbgV := 0, genCalls := 0,
    retries := 0, keks := b.ciph.keks && !tamper, eraseDue := b.ciph.eraseDue.filter fun x => x.1 ≠ 0 } }

/-- The erasure of a die is reported (R162). -/
def reportErased (b : Block) (die duration : Nat) : Block :=
  wr (wr b (Fld.CIPH_ERASE_STATUS_ERASED die) 1) (Fld.CIPH_ERASE_STATUS_DURATION die) (min duration 500)

theorem rd_reportErased (b : Block) (die duration : Nat) :
    rd (reportErased b die duration) (Fld.CIPH_ERASE_STATUS_ERASED die) = 1
    ∧ rd (reportErased b die duration) (Fld.CIPH_ERASE_STATUS_DURATION die) = min duration 500 := by
  refine ⟨?_, ?_⟩
  · rw [reportErased, rd_wr_field _ _ _ _ (.inr (show 0 + 1 ≤ 16 by decide)), rd_wr_same]; rfl
  · rw [reportErased, rd_wr_same]
    exact Nat.mod_eq_of_lt (Nat.lt_of_le_of_lt (Nat.min_le_right _ _) (show 500 < 2 ^ 12 by decide))

/-- An erasure on Die N with nothing under way ends nothing: the keys go, and the erasure is reported. -/
theorem eraseDie_of_quiet {b : Block} (hstreams : b.ing.streams = []) (hcmds : b.hq.cmds = []) (hdrops : ∀ x ∈ b.ciph.slots, x.2.drops = [])
    (hqueue : b.ciph.queue = []) (hpipes : PipesIdle b) (tamper : Bool) (duration : Nat) :
    eraseDie b 0 tamper duration = reportErased (keysGone (emptyPipes b 0) tamper) 0 duration := by
  obtain ⟨ps, h⟩ := emptyPipes_onlyPipes b 0
  have hstop : stopPipes b 0 = { b with ciph := { b.ciph with pipes := ps } } := (stopPipes_of_idle hpipes hqueue 0).trans h
  have hwork : forEach (tabKeys b.ing.streams) b eraseStream = b := by rw [hstreams]; rfl
  have hnone : (b.ciph.slots.flatMap fun x => x.2.drops) = [] := List.flatMap_eq_nil_iff.mpr hdrops
  unfold eraseDie
  simp only [↓reduceIte, hwork, hstop, hcmds, hnone, h]
  rfl

/-- Settles O31: where nothing is under way the erasure is the going of the keys and its report (`eraseDie_of_quiet`). -/
theorem erasureLeavesNoKey : Obligations.ErasureLeavesNoKey := by
  intro b tamper duration hstreams hcmds hdrops hqueue hpipes c
  have hc : c = reportErased (keysGone (emptyPipes b 0) tamper) 0 duration :=
    eraseDie_of_quiet hstreams hcmds hdrops hqueue hpipes tamper duration
  obtain ⟨herased, hduration⟩ := rd_reportErased (keysGone (emptyPipes b 0) tamper) 0 duration
  have hciph : c.ciph = (keysGone (emptyPipes b 0) tamper).ciph := by rw [hc]; rfl
  have hdrbg : (emptyPipes b 0).ciph.drbg = b.ciph.drbg := by obtain ⟨ps, h⟩ := emptyPipes_onlyPipes b 0; rw [h]
  refine ⟨fun k => ?slots, fun i _ => ?pipes, ?drbg, fun ht => ?keks, fun x hx => ?due, hc ▸ herased, hc ▸ hduration⟩
  case slots =>
    have hslot : c.slot k = {} := by rw [Block.slot, hciph]; rfl
    rw [hslot]
    exact ⟨rfl, rfl, rfl⟩
  case pipes =>
    have hpipe : c.pipe i = (emptyPipes b 0).pipe i := by rw [Block.pipe, hciph]; rfl
    rw [hpipe]
    exact pipesIdle_emptyPipes hpipes 0 i
  case drbg => rw [hciph, ← hdrbg]; rfl
  case keks => rw [hciph, ht]; exact Bool.and_false _
  case due =>
    rw [hciph] at hx
    exact of_decide_eq_true (List.mem_filter.mp hx).2

/-! ### Tamper alarms (R557, R558) -/

theorem add_two_pow_eq_setBits {v k : Nat} (h : v.testBit k = false) : v + 2 ^ k = setBits v k 1 1 := by
  have hbit : bitsOf v k 1 = 0 := by
    rw [Nat.testBit_eq_decide_div_mod_eq, decide_eq_false_iff_not] at h
    exact (Nat.mod_two_eq_zero_or_one _).resolve_right h
  rw [setBits, hbit, Nat.zero_mul, Nat.sub_zero, show 1 % 2 ^ 1 = 1 by decide, Nat.one_mul]

/-- Cause bits with one more set, as an alarm leaves them. -/
def withCause (old k : Nat) : Nat := if bitOf old k then old else old + 2 ^ k

theorem testBit_withCause (old k i : Nat) : (withCause old k).testBit i = (decide (i = k) || old.testBit i) := by
  unfold withCause bitOf
  split
  case isTrue h =>
    by_cases hi : i = k
    · subst hi; simp [h]
    · simp [hi]
  case isFalse h =>
    rw [add_two_pow_eq_setBits (Bool.eq_false_iff.mpr h), testBit_setBits]
    by_cases hi : i = k
    · subst hi; simp
    · rw [if_neg (by omega), decide_eq_false hi, Bool.false_or]

@[simp] theorem rd_updWard (b : Block) (f : Warden → Warden) (g : Fld) : rd (b.updWard f) g = rd b g := rfl

/-- TAMPER is latched with its cause and count, and both dies mirror it. -/
def tamperLatched (b : Block) (cause : Nat) : Block :=
  let old := rd b Fld.WARD_STATUS_CAUSE
  let c := wr (wr b Fld.WARD_STATUS_TAMPER 1) Fld.WARD_STATUS_CAUSE (withCause old (cause - 1))
  let c := c.updWard fun w => { w with count := if tampered b then w.count else w.count + 1, writing := true }
  let c := wr c Fld.WARD_STATUS_TAMPER_COUNT (c.ward.count % 256)
  wr (wr c (Fld.CIPH_ERASE_STATUS_TAMPER 0) 1) (Fld.CIPH_ERASE_STATUS_TAMPER 1) 1

/-- A clear under way fails, the alarm is logged, and while the part runs its event is set. -/
def tamperAnnounced (b : Block) (cause : Nat) : Block :=
  let c := wardLog (if rd b Fld.WARD_CLR_CTRL_STATUS = 2 then wr b Fld.WARD_CLR_CTRL_STATUS 3 else b) 0x6004 3 cause 0
  if c.ward.power = .run then setEvent c 7 else c

theorem tamperAlarm_of_enabled {b : Block} {cause : Nat} (h : cause ≤ 11 → (rd b Fld.WARD_TAMPER_EN_EN).testBit (cause - 1) = true) :
    tamperAlarm b cause = tamperResponse (tamperAnnounced (tamperLatched b cause) cause) := by
  have hon : ¬ (cause ≤ 11 ∧ (!bitOf (rd b Fld.WARD_TAMPER_EN_EN) (cause - 1)) = true) := by
    rintro ⟨hle, hoff⟩
    rw [bitOf, h hle] at hoff
    exact absurd hoff (by decide)
  unfold tamperAlarm
  rw [if_neg hon]
  rfl

/-- The registers that show a tamper alarm. -/
def tamperRegs : List Nat := [Reg.WARD_STATUS, Reg.CIPH_ERASE_STATUS 0, Reg.CIPH_ERASE_STATUS 1]

/-- The registers that show a tamper alarm read in `c` as in `b`. -/
def ShowsSame (b c : Block) : Prop := ∀ a ∈ tamperRegs, regGet c a = regGet b a

theorem ShowsSame.of_regs {b c : Block} (h : c.regs = b.regs) : ShowsSame b c := fun a _ => regGet_congr h a

theorem ShowsSame.trans {a b c : Block} (h1 : ShowsSame a b) (h2 : ShowsSame b c) : ShowsSame a c :=
  fun x hx => (h2 x hx).trans (h1 x hx)

theorem ShowsSame.wr (b : Block) {f : Fld} (v : Nat) (h : f.addr ∉ tamperRegs) :
    ShowsSame b (wr b f v) := fun _ ha => regGet_wr_other fun e => h (e ▸ ha)

theorem ShowsSame.rd {b c : Block} (h : ShowsSame b c) (f : Fld) (hf : f.addr ∈ tamperRegs) : rd c f = rd b f := by
  rw [Machine.rd, Machine.rd, h _ hf]

/-- A log entry of the warden concerns the logs and the warden's own memory. -/
theorem wardLog_frame (b : Block) (code kind unit : Nat) (value : Int) :
    ∃ newest dorm logs, wardLog b code kind unit value
      = { b with ward := { b.ward with newest := newest, dormLog := dorm }, logs := logs } := by
  unfold wardLog
  dsimp only
  split
  · exact ⟨_, _, _, rfl⟩
  · exact ⟨_, _, _, rfl⟩

theorem wardAlert_frame (b : Block) (low : Bool) :
    ShowsSame b (wardAlert b low) ∧ (wardAlert b low).ward = b.ward ∧ (wardAlert b low).ciph = b.ciph
    ∧ (wardAlert b low).boot = b.boot := by
  unfold wardAlert
  split
  · exact ⟨.of_regs rfl, rfl, rfl, rfl⟩
  · exact ⟨ShowsSame.wr b (f := Fld.WARD_CTRL_ALERT) _ (by decide), rfl, rfl, rfl⟩

theorem tamperAnnounced_frame (b : Block) (cause : Nat) :
    ShowsSame b (tamperAnnounced b cause) ∧ (tamperAnnounced b cause).ciph = b.ciph ∧ (tamperAnnounced b cause).boot = b.boot
    ∧ ∃ newest dorm, (tamperAnnounced b cause).ward = { b.ward with newest := newest, dormLog := dorm } := by
  have hclear : ∃ rs, (if rd b Fld.WARD_CLR_CTRL_STATUS = 2 then wr b Fld.WARD_CLR_CTRL_STATUS 3 else b) = { b with regs := rs }
      ∧ ShowsSame b { b with regs := rs } := by
    split
    · exact ⟨_, rfl, ShowsSame.wr b (f := Fld.WARD_CLR_CTRL_STATUS) 3 (by decide)⟩
    · exact ⟨b.regs, rfl, .of_regs rfl⟩
  obtain ⟨rs, hset, hshow⟩ := hclear
  unfold tamperAnnounced
  rw [hset]
  obtain ⟨newest, dorm, logs, h⟩ := wardLog_frame { b with regs := rs } 0x6004 3 cause 0
  rw [h]
  dsimp only
  split
  · exact ⟨hshow.trans (ShowsSame.wr _ (f := ⟨Reg.SYS_EVENT, 7, 1⟩) 1 (by decide)), rfl, rfl, newest, dorm, rfl⟩
  · exact ⟨hshow, rfl, rfl, newest, dorm, rfl⟩

/-- What the response to an alarm leaves by the phase in which it falls; it keeps what the alarm shows and its count. -/
theorem tamperResponse_effect (b : Block) :
    let c := tamperResponse b
    ShowsSame b c ∧ c.ward = { b.ward with resume := if b.ward.power = .run then b.ward.resume else false }
    ∧ (b.ward.power = .run → b.boot.attKey.isSome = true → c.ciph.eraseDue = b.ciph.eraseDue ++ [(0, true), (1, true)])
    ∧ (b.ward.power = .dormant → c.ciph.slots = [] ∧ c.ciph.keks = false ∧ c.boot.attKey = none) := by
  unfold tamperResponse
  cases hpow : b.ward.power with
  | run =>
    dsimp only
    split
    case isTrue hkey => exact ⟨.of_regs rfl, rfl, fun _ _ => List.append_assoc _ _ _, nofun⟩
    case isFalse hkey => exact ⟨.of_regs rfl, rfl, fun _ h => absurd h hkey, nofun⟩
  | dormant =>
    dsimp only
    obtain ⟨hshow, hward, hciph, hboot⟩ := wardAlert_frame
      (Block.updWard { b with ciph := { b.ciph with slots := [], keks := false }, boot := { b.boot with attKey := none } }
        fun w => { w with resume := false }) true
    exact ⟨hshow, hward, nofun, fun _ => ⟨by rw [hciph]; rfl, by rw [hciph]; rfl, by rw [hboot]; rfl⟩⟩
  | waking => exact ⟨.of_regs rfl, rfl, nofun, nofun⟩

/-- What the latch holds and shows: TAMPER, the cause bits, the count, and the mirrors of both dies. -/
theorem tamperLatched_effect (b : Block) (cause : Nat) :
    let c := tamperLatched b cause
    rd c Fld.WARD_STATUS_TAMPER = 1 ∧ rd c (Fld.CIPH_ERASE_STATUS_TAMPER 0) = 1 ∧ rd c (Fld.CIPH_ERASE_STATUS_TAMPER 1) = 1
    ∧ rd c Fld.WARD_STATUS_CAUSE = withCause (rd b Fld.WARD_STATUS_CAUSE) (cause - 1) % 2 ^ 12
    ∧ c.ward = { b.ward with count := if tampered b then b.ward.count else b.ward.count + 1, writing := true }
    ∧ c.ciph = b.ciph ∧ c.boot = b.boot := by
  refine ⟨?tamper, ?mirrorN, ?mirrorS, ?cause, rfl, rfl, rfl⟩
  case tamper =>
    rw [tamperLatched, rd_wr_addr _ _ _ _ (by decide), rd_wr_addr _ _ _ _ (by decide), rd_wr_field _ _ _ _ (by decide), rd_updWard,
      rd_wr_field _ _ _ _ (by decide), rd_wr_same]
    rfl
  case mirrorN => rw [tamperLatched, rd_wr_addr _ _ _ _ (by decide), rd_wr_same]; rfl
  case mirrorS => rw [tamperLatched, rd_wr_same]; rfl
  case cause =>
    rw [tamperLatched, rd_wr_addr _ _ _ _ (by decide), rd_wr_addr _ _ _ _ (by decide), rd_wr_field _ _ _ _ (by decide), rd_updWard,
      rd_wr_same]
    rfl

theorem rdB_of_rd_eq_one {b : Block} {f : Fld} (h : rd b f = 1) : rdB b f = true := by rw [rdB, h]; rfl

/-- Settles O56: the latch, the announcement, which keeps what the latch shows, and the response by the part's phase. That the attestation
key goes with the keys is R546, that there is no resume R547, and that both go at once the model's choice (log entry 31). -/
theorem tamperAlarmsAreLatchedAndAnswered : Obligations.TamperAlarmsAreLatchedAndAnswered := by
  intro b cause hlow hhigh hon c
  have hc : c = tamperResponse (tamperAnnounced (tamperLatched b cause) cause) := tamperAlarm_of_enabled hon
  obtain ⟨htamper, hmirrorN, hmirrorS, hcause, hlward, hlciph, hlboot⟩ := tamperLatched_effect b cause
  obtain ⟨hashow, haciph, haboot, newest, dorm, haward⟩ := tamperAnnounced_frame (tamperLatched b cause) cause
  obtain ⟨hrshow, hrward, hrun, hdormant⟩ := tamperResponse_effect (tamperAnnounced (tamperLatched b cause) cause)
  rw [← hc, haward, hlward] at hrward
  rw [← hc, haward, hlward, haboot, hlboot, haciph, hlciph] at hrun
  rw [← hc, haward, hlward] at hdormant
  have hshow : ShowsSame (tamperLatched b cause) c := hc ▸ hashow.trans hrshow
  have hbits (i : Nat) (hi : i < 12) : (rd c Fld.WARD_STATUS_CAUSE).testBit i =
      (decide (i = cause - 1) || (rd b Fld.WARD_STATUS_CAUSE).testBit i) := by
    rw [hshow.rd Fld.WARD_STATUS_CAUSE (by decide), hcause, Nat.testBit_mod_two_pow, decide_eq_true hi, Bool.true_and, testBit_withCause]
  refine ⟨rdB_of_rd_eq_one ?tamper, rdB_of_rd_eq_one ?mirrorN, rdB_of_rd_eq_one ?mirrorS, ?cause, fun i hi hset => ?causes,
    by rw [hrward], by rw [hrward], by rw [hrward], hrun, fun hd => ?dormant, fun hw => ?waking⟩
  case tamper => rw [hshow.rd Fld.WARD_STATUS_TAMPER (by decide), htamper]
  case mirrorN => rw [hshow.rd (Fld.CIPH_ERASE_STATUS_TAMPER 0) (by decide), hmirrorN]
  case mirrorS => rw [hshow.rd (Fld.CIPH_ERASE_STATUS_TAMPER 1) (by decide), hmirrorS]
  case cause => rw [hbits (cause - 1) (by omega), decide_eq_true rfl, Bool.true_or]
  case causes => rw [hbits i hi, hset, Bool.or_true]
  case dormant =>
    obtain ⟨hslots, hkeks, hkey⟩ := hdormant hd
    exact ⟨hslots, hkeks, hkey, by simp [hrward, hd]⟩
  case waking => simp [hrward, hw]

/-! ### Jobs of the pipelines (R144 to R153, R157 to R159) -/

/-- SEAL_JOB starts the seal job whose turn it is, where each segment that must start can have a counter value (R150). -/
theorem execSealJob_of_startable {dt : Nat} {s : State} {p : Fin 8} {j : QueuedJob} {w : SealWork} (ha : awake s.blk = true)
    (hfed : ∀ x ∈ (begun dt s).ciph.queue, ∀ v, x.job = .seal v →
      ((begun dt s).sealState (slotOfHandle v.stream)).active = true ∨ nonceMay (begun dt s) = true)
    (hnext : nextJob (begun dt s) p.val = some j) (hseal : j.job = .seal w) (hmay : mayStart (begun dt s) p.val j = true) :
    execSealJob dt p true s = .next (after dt s fun b => sealStart (placeJob b p.val j) p.val w) := by
  refine runCmd_eq_after ha ?_
  dsimp only
  rw [if_pos rfl]
  split
  case h_1 h hstarved =>
    -- No job that waits is starved.
    obtain ⟨x, hx, hcheck⟩ := List.exists_of_findSome?_eq_some hstarved
    split at hcheck
    case h_1 v hv =>
      rcases hfed x hx v hv with hact | hnonce
      · rw [hact] at hcheck; exact absurd hcheck (by simp)
      · rw [hnonce] at hcheck; exact absurd hcheck (by simp)
    case h_2 => exact absurd hcheck (by simp)
  case h_2 => simp only [hnext, hseal, hmay, ↓reduceIte]

/-- SEAL_JOB ends the seal job that runs. -/
theorem execSealJob_of_running {dt : Nat} {s : State} {p : Fin 8} {j : QueuedJob} {w : SealWork} (ha : awake s.blk = true)
    (hrun : ((begun dt s).pipe p.val).running = some j) (hseal : j.job = .seal w) :
    execSealJob dt p false s = .next (after dt s fun b =>
      let c := sealEnd (freePipe b p.val) w
      noteReady (pumpStream (forEach (tabKeys c.ciph.slots) c zeroizeSlot) w.stream)) := by
  refine runCmd_eq_after ha ?_
  simp only [hrun, hseal, Bool.false_eq_true, ↓reduceIte]

theorem execUnwrapJob_of_startable {dt : Nat} {s : State} {p : Fin 8} {blob : Bytes} {j : QueuedJob} (ha : awake s.blk = true)
    (hnext : nextJob (queueUnwrap (begun dt s) blob) p.val = some j) (hkind : jobKind j.job = 2)
    (hmay : mayStart (queueUnwrap (begun dt s) blob) p.val j = true) :
    execUnwrapJob dt p true blob s = .next (after dt s fun b => placeJob (queueUnwrap b blob) p.val j) := by
  refine runCmd_eq_after ha ?_
  simp only [hnext, hkind, hmay, and_self, ↓reduceIte]

theorem execUnwrapJob_of_running {dt : Nat} {s : State} {p : Fin 8} {i : QueuedJob} {n : Nat} {bl : Bytes} (ha : awake s.blk = true)
    (hrun : ((begun dt s).pipe p.val).running = some i) (hunwrap : i.job = .unwrap n bl) (blob : Bytes) :
    execUnwrapJob dt p false blob s = .next (after dt s fun b => unwrapEnd (freePipe b p.val) n bl) := by
  refine runCmd_eq_after ha ?_
  simp only [hrun, hunwrap, Bool.false_eq_true, ↓reduceIte]

theorem queueUnwrap_queue {b : Block} {n : Nat} (h : waitingUnwrap b = some n) (blob : Bytes) :
    (queueUnwrap b blob).ciph.queue
      = b.ciph.queue ++ [{ job := .unwrap n (slice blob 0 40), since := b.time.now, die := dieOfFn b (b.cmd n).fn }] := by
  simp only [queueUnwrap, h]

/-- An open job starts where a slot open to new jobs holds its key (R157, R159). -/
theorem openStart_of_keyed {b : Block} {p n k : Nat} {tried : Option Nat} {j : QueuedJob} {g : RSeg} {gs : List RSeg}
    (hsegs : (b.cmd n).rst.segs = g :: gs) (hkey : slotWithLabel b (b.cmd n).tenant g.keyLabel = some k)
    (hopen : (b.slot k).closing = false) (hmay : mayStart b p j = true) : openStart b p n tried j = placeJob b p j := by
  simp only [openStart, hsegs, hkey, hopen, hmay, Bool.not_false, Bool.or_true, ↓reduceIte]

theorem openJobFor_of_next {b : Block} {p n : Nat} {tried : Option Nat} {j : QueuedJob} (hnext : nextJob b p = some j)
    (hjob : j.job = .openSeg n tried) : openJobFor b p = some j := by
  rw [openJobFor, hnext, Option.filter_some, hjob]
  rfl

theorem execOpenJob_of_startable {dt : Nat} {s : State} {p : Fin 8} {j : QueuedJob} {n k : Nat} {tried : Option Nat} {g : RSeg}
    {gs : List RSeg} (ha : awake s.blk = true) (hnext : nextJob (begun dt s) p.val = some j) (hjob : j.job = .openSeg n tried)
    (hsegs : ((begun dt s).cmd n).rst.segs = g :: gs)
    (hkey : slotWithLabel (begun dt s) ((begun dt s).cmd n).tenant g.keyLabel = some k)
    (hopen : ((begun dt s).slot k).closing = false) (hmay : mayStart (begun dt s) p.val j = true) (upset : Bool) :
    execOpenJob dt p true upset s = .next (after dt s fun b => placeJob b p.val j) := by
  refine runCmd_eq_after ha ?_
  simp only [openJobFor_of_next hnext hjob, hjob, openStart_of_keyed hsegs hkey hopen hmay, ↓reduceIte]

theorem execOpenJob_of_running {dt : Nat} {s : State} {p : Fin 8} {j : QueuedJob} {n : Nat} {tried : Option Nat} (ha : awake s.blk = true)
    (hrun : ((begun dt s).pipe p.val).running = some j) (hjob : j.job = .openSeg n tried) (upset : Bool) :
    execOpenJob dt p false upset s = .next (after dt s fun b =>
      forEach (tabKeys b.ciph.slots) (openEnd (freePipe b p.val) p.val n tried upset) zeroizeSlot) := by
  refine runCmd_eq_after ha ?_
  simp only [hrun, hjob, Bool.false_eq_true, ↓reduceIte]

/-- A closing slot that no job holds is emptied, and its KEY_DROPs complete (R158). -/
theorem zeroizeSlot_of_free {b : Block} {k : Nat} (hclosing : (b.slot k).closing = true) (hheld : slotHeld b k = false) :
    zeroizeSlot b k = forEach (b.slot k).drops (b.updSlot k fun _ => {}) fun b n => finishCmd b n 0 0 := by
  simp only [zeroizeSlot, hclosing, hheld, Bool.not_false, Bool.and_self, ↓reduceIte]

/-! ### The DRBG and its source (R163, R164) -/

theorem drbgOk_eq_false {b : Block} (h : 65536 ≤ b.ciph.genCalls ∨ 40000000000 ≤ since b b.ciph.seedTime) : drbgOk b = false := by
  rw [drbgOk, show 10 * tS = 40000000000 by decide]
  rcases h with h | h
  · rw [decide_eq_false (Nat.not_lt.mpr h), Bool.and_false, Bool.false_and]
  · rw [decide_eq_false (Nat.not_lt.mpr h), Bool.and_false]

theorem eq_pair_of_snd {r : Noise × Bool} {v : Bool} (h : r.2 = v) : r = (r.1, v) := Prod.ext rfl h

/-- Both tests pass: the source is tested, and the DRBG has its seed (R163). -/
theorem takeSeed_of_passed {b : Block} {samples : Bytes} {r q : Noise}
    (hstart : noiseTest b.ciph.noise (samples.take (samples.length - 2048)) = (r, false))
    (hseed : noiseTest r (samples.drop (samples.take (samples.length - 2048)).length) = (q, false)) :
    ∃ key v, takeSeed b samples = { b with ciph := { b.ciph with
      noise := q, srcTested := true, drbg := .ready, drbgKey := key, drbgV := v, genCalls := 0, seedTime := b.time.now } } := by
  simp only [takeSeed, testNoise, hstart, hseed, Bool.false_eq_true, ↓reduceIte]
  exact ⟨_, _, rfl⟩

theorem takeSeed_of_startupFailed {b : Block} {samples : Bytes} {r : Noise}
    (h : noiseTest b.ciph.noise (samples.take (samples.length - 2048)) = (r, true)) :
    takeSeed b samples = startupFails { b with ciph := { b.ciph with noise := r } } := by
  simp only [takeSeed, testNoise, h, ↓reduceIte]

theorem execDrbgSeed_of_due {s : State} {noise : NoiseIn} (ha : awake s.blk = true) (hent : (begun noise.dt s).boot.entropy = true)
    (hfailed : (begun noise.dt s).ciph.drbg ≠ .failed) (hready : (begun noise.dt s).ciph.drbg ≠ .ready)
    (hlen : noise.samples.length = if (begun noise.dt s).ciph.srcTested then 2048 else 3072) :
    execDrbgSeed noise s = .next (after noise.dt s fun b => takeSeed b noise.samples) := by
  refine runCmd_eq_after ha ?_
  simp only [hent, hfailed, hready, hlen, ne_eq, not_true_eq_false, decide_false, Bool.not_true, Bool.or_self, Bool.false_eq_true, ↓reduceIte]

theorem execDrbgReseed_of_due {s : State} {noise : NoiseIn} (ha : awake s.blk = true) (hready : (begun noise.dt s).ciph.drbg = .ready)
    (hdue : 65536 ≤ (begun noise.dt s).ciph.genCalls ∨ 40000000000 ≤ since (begun noise.dt s) (begun noise.dt s).ciph.seedTime)
    (hlen : noise.samples.length = 2048) :
    execDrbgReseed noise s = .next (after noise.dt s fun b => takeSeed b noise.samples) := by
  refine runCmd_eq_after ha ?_
  simp only [hready, drbgOk_eq_false hdue, hlen, Bool.not_false, and_self, ↓reduceIte]

/-- The source is started again at most three times (R163). -/
theorem startupFails_of_retry {b : Block} (h : b.ciph.retries < 3) :
    startupFails b = inc { b with ciph := { b.ciph with retries := b.ciph.retries + 1, drbg := .seeding, noise := {}, srcTested := false } }
      Fld.CIPH_DRBG_STATUS_RESTARTS := if_pos h

theorem startupFails_of_last {b : Block} (h : 3 ≤ b.ciph.retries) :
    startupFails b = internalError (drbgGone b .failed) 0 4 0xFFFF 4 0 := if_neg (Nat.not_lt.mpr h)

/-- Samples have passed the tests of the source; a failure is the start-up test's or one in service. -/
def healthTested (b : Block) (startup : Bool) (samples : Bytes) : Block :=
  let c := (testNoise b samples).2
  if (testNoise b samples).1 then (if startup then startupFails c else healthFails c) else c

theorem execHealthTestFailure_of_source {dt : Nat} {s : State} {startup : Bool} {samples : Bytes} {f : Block → Block}
    (ha : awake s.blk = true) (hent : (begun dt s).boot.entropy = true) (hfailed : (begun dt s).ciph.drbg ≠ .failed)
    (hready : startup = true → (begun dt s).ciph.drbg ≠ .ready) (hf : healthTested (begun dt s) startup samples = f (begun dt s)) :
    execHealthTestFailure ⟨dt, samples⟩ startup s = .next (after dt s f) := by
  refine runCmd_eq_after ha (Eq.trans ?_ hf)
  have hout : (startup && decide ((begun dt s).ciph.drbg = .ready)) = false := by
    cases startup with
    | false => rfl
    | true => exact decide_eq_false (hready rfl)
  simp only [hent, hfailed, hout, decide_false, Bool.not_true, Bool.or_self, Bool.false_eq_true, ↓reduceIte]
  rfl

theorem healthTested_of_passed {b : Block} {samples : Bytes} {r : Noise} (h : noiseTest b.ciph.noise samples = (r, false)) (startup : Bool) :
    healthTested b startup samples = { b with ciph := { b.ciph with noise := r } } := by
  simp only [healthTested, testNoise, h, Bool.false_eq_true, ↓reduceIte]

theorem healthTested_of_failed {b : Block} {samples : Bytes} {r : Noise} (h : noiseTest b.ciph.noise samples = (r, true)) (startup : Bool) :
    healthTested b startup samples =
      if startup then startupFails { b with ciph := { b.ciph with noise := r } }
      else healthFails { b with ciph := { b.ciph with noise := r } } := by
  simp only [healthTested, testNoise, h, ↓reduceIte]

/-! ### The erasure an alarm has ordered (R160) -/

theorem execKeyErasure_of_due {dt : Nat} {s : State} {die : Fin 2} {duration : Nat} (ha : awake s.blk = true)
    (hdue : ((begun dt s).ciph.eraseDue.filter fun x => x.1 = die.val) ≠ []) :
    execKeyErasure dt die duration s = .next (after dt s fun b =>
      eraseDie b die.val ((b.ciph.eraseDue.filter fun x => x.1 = die.val).any (·.2)) duration) := by
  refine runCmd_eq_after ha ?_
  split
  case h_1 hnone => exact absurd hnone hdue
  case h_2 => rfl

/-- Settles O28: the branch of each row that its occasion selects. That a failure in service leads to a new start-up test is the model's
choice (log entry 142). -/
theorem sealingRowsTakeTheirEffect : Obligations.SealingRowsTakeTheirEffect := by
  intro dt s ha b
  refine ⟨?sealJob, ?unwrapJob, ?openJob, ?reserve, ?zeroize, ?seed, ?health, ?erase⟩
  case sealJob =>
    intro p j w
    refine ⟨fun hfed hnext hseal hmay => ?start, fun hrun hseal => ?ends⟩
    case start => exact execSealJob_of_startable ha hfed hnext hseal hmay
    case ends => exact execSealJob_of_running ha hrun hseal
  case unwrapJob =>
    intro p blob
    refine ⟨fun j hnext hkind hmay => ?start, fun n h => queueUnwrap_queue h blob, fun n i bl hrun hunwrap => ?ends⟩
    case start => exact execUnwrapJob_of_startable ha hnext hkind hmay
    case ends => exact execUnwrapJob_of_running ha hrun hunwrap blob
  case openJob =>
    intro p j n k tried g gs upset
    refine ⟨fun hnext hjob hsegs hkey hopen hmay => ?start, fun hrun hjob => ?ends⟩
    case start => exact execOpenJob_of_startable ha hnext hjob hsegs hkey hopen hmay upset
    case ends => exact execOpenJob_of_running ha hrun hjob upset
  case reserve => exact runCmd_awake ha
  case zeroize =>
    intro k hclosing hheld
    exact runCmd_eq_after ha (zeroizeSlot_of_free hclosing hheld)
  case seed =>
    intro samples head t1 t2
    refine ⟨fun hent hfailed hready hlen => ?seeds, fun hready hdue hlen => ?reseeds, fun h1 h2 => ?passed, fun h => ?failed⟩
    case seeds => exact execDrbgSeed_of_due ha hent hfailed hready hlen
    case reseeds => exact execDrbgReseed_of_due ha hready hdue hlen
    case passed => exact takeSeed_of_passed (eq_pair_of_snd h1) (eq_pair_of_snd h2)
    case failed => exact takeSeed_of_startupFailed (eq_pair_of_snd h)
  case health =>
    intro startup samples r hent hfailed hready
    have hrow {f : Block → Block} (hf : healthTested b startup samples = f b) := execHealthTestFailure_of_source ha hent hfailed hready hf
    have hfail (h : r.2 = true) := healthTested_of_failed (eq_pair_of_snd h) startup
    refine ⟨fun h => ?passed, fun h hstart hleft => ?retried, fun h hstart hlast => ?gone, fun h hservice => ?inService⟩
    case passed => exact hrow (healthTested_of_passed (eq_pair_of_snd h) startup)
    case retried => exact hrow ((hfail h).trans ((if_pos hstart).trans (startupFails_of_retry hleft)))
    case gone => exact hrow ((hfail h).trans ((if_pos hstart).trans (startupFails_of_last hlast)))
    case inService => exact hrow ((hfail h).trans (if_neg (hservice ▸ Bool.false_ne_true)))
  case erase =>
    intro die duration hdue
    exact execKeyErasure_of_due ha hdue

end Sys2Proof.Machine

/-!
PROOF. The statements of the family of the dataset format: a reader recovers a slot's bits (R182), the bytes of a dataset in its rows
and its codewords in slots and tracks (R183, R186), and what a slot that falls due leaves on a track (R207, R208).
-/

namespace Sys2Proof.Machine

/-! ### What a reader makes of the modulator's bits (R182) -/

theorem modBits_length (m : ModState) (us : List Bool) : (modBits m us).2.length = us.length := by
  induction us generalizing m with
  | nil => rfl
  | cons u t ih => simp only [modBits, List.length_cons, ih]

/-- A word goes through scrambler and NRZI behind one augmenting bit, whichever the writer chose. -/
theorem modWord_eq_modBits (m : ModState) (w : List Bool) : ∃ a, modWord m w = modBits m (a :: w) := by
  simp only [modWord]
  split
  · exact ⟨true, rfl⟩
  · exact ⟨false, rfl⟩

theorem modWords_length (n : Nat) (m : ModState) (bits : List Bool) : (modWords n m bits).length = n + min (32 * n) bits.length := by
  induction n generalizing m bits with
  | zero => simp [modWords]
  | succ n ih =>
    obtain ⟨a, ha⟩ := modWord_eq_modBits m (bits.take 32)
    simp only [modWords, ha, List.length_append, modBits_length, ih, List.length_cons, List.length_take, List.length_drop]
    omega

/-- The bits before the scrambler that a reader in the modulator's state `m` recovers from channel bits. -/
def recovered (m : ModState) (ms : List Bool) : List Bool := unscramble m.y1 m.y2 m.y3 (flips m.mag ms)

/-- The reader recovers each bit and follows the modulator to its next state. -/
theorem recovered_modBits_append (m : ModState) (us ms : List Bool) :
    recovered m ((modBits m us).2 ++ ms) = us ++ recovered (modBits m us).1 ms := by
  induction us generalizing m with
  | nil => rfl
  | cons u t ih =>
    have hy : xor (xor m.mag (xor u (xor m.y2 m.y3))) m.mag = xor u (xor m.y2 m.y3) := by
      rw [Bool.xor_comm, ← Bool.xor_assoc, Bool.xor_self, Bool.false_xor]
    have hu : xor (xor u (xor m.y2 m.y3)) (xor m.y2 m.y3) = u := by rw [Bool.xor_assoc, Bool.xor_self, Bool.xor_false]
    have htail := ih (modBit m u).1
    simp only [recovered, modBit] at htail
    simp only [recovered, modBits, modBit, List.cons_append, flips, unscramble, hy, hu, htail]

/-- Bits from index `i` on, without those at the places of augmenting bits. -/
def plainBits (i : Nat) (us : List Bool) : List Bool := ((us.zipIdx i).filter fun x => x.2 % 33 != 0).map (·.1)

/-- Of a word of 33 the first bit is left out and the other 32 are kept. -/
theorem plainBits_word {i : Nat} (hi : i % 33 = 0) (a : Bool) {w : List Bool} (hw : w.length = 32) (us : List Bool) :
    plainBits i (a :: w ++ us) = w ++ plainBits (i + 33) us := by
  have hword : (w.zipIdx (i + 1)).filter (fun x => x.2 % 33 != 0) = w.zipIdx (i + 1) := by
    refine List.filter_eq_self.2 fun x hx => ?_
    have hlow := List.le_snd_of_mem_zipIdx hx
    have hhigh := List.snd_lt_add_of_mem_zipIdx hx
    simp only [bne_iff_ne]
    omega
  have hnext : i + 1 + w.length = i + 33 := by omega
  simp [plainBits, List.zipIdx_append, hi, hword, hnext]

theorem plainBits_recovered_modWords (n : Nat) {i : Nat} (hi : i % 33 = 0) (m : ModState) {bits : List Bool} (hb : bits.length = 32 * n) :
    plainBits i (recovered m (modWords n m bits)) = bits := by
  induction n generalizing i m bits with
  | zero => rw [List.length_eq_zero_iff.1 hb]; rfl
  | succ n ih =>
    obtain ⟨a, ha⟩ := modWord_eq_modBits m (bits.take 32)
    have hword : (bits.take 32).length = 32 := by rw [List.length_take]; omega
    have hrest : (bits.drop 32).length = 32 * n := by rw [List.length_drop]; omega
    simp only [modWords, ha, recovered_modBits_append]
    rw [plainBits_word hi a hword, ih (by omega) _ hrest, List.take_append_drop]

/-- Settles O37, by induction on the words: a reader follows the modulator's state bit by bit, so it recovers what went into the
scrambler, and the augmenting bits stand at every 33rd place. -/
theorem slotsAreReadBack : Obligations.SlotsAreReadBack := by
  have hwords (n : Nat) (mag : Bool) (bits : List Bool) (hb : bits.length = 32 * n) :
      (modWords n { mag := mag } bits).length = 33 * n ∧ readSlot mag (modWords n { mag := mag } bits) = bits := by
    refine ⟨?_, plainBits_recovered_modWords n (Nat.zero_mod 33) { mag := mag } hb⟩
    rw [modWords_length]
    omega
  exact ⟨hwords, fun mag bits hb => hwords 546 mag bits hb⟩

/-! ### Rows, slots and tracks of a dataset (R183, R186) -/

theorem slice_getElem? {bs : Bytes} {o n j : Nat} (hj : j < n) (hin : o + j < bs.length) : (slice bs o n)[j]? = bs[o + j]? := by
  have hshort : j < ((bs.drop o).take n).length := by
    rw [List.length_take, List.length_drop]
    omega
  simp only [slice]
  rw [List.getElem?_append_left hshort, List.getElem?_take_of_lt hj, List.getElem?_drop]

theorem dsRow_of_data (ds : Bytes) (s : Nat) {r : Nat} (hr : r < 208) : dsRow ds s r = slice ds (s * 425984 + r * 2048) 2048 := if_pos hr

/-- The index 16 r + s of the codeword that slot k of track t holds (R186). -/
theorem cwAt_index {k t : Nat} (hk : k < 120) : 16 * (cwAt k t).2 + (cwAt k t).1 = 32 * k + (t + 1408 - 11 * k) % 32 := by
  simp only [cwAt]
  split <;> omega

theorem cwAt_sub_lt (k t : Nat) : (cwAt k t).1 < 16 := Nat.mod_lt _ (by decide)

theorem slotOf_lt {s r : Nat} (hs : s < 16) (hr : r < 240) : slotOf s r < 120 := by
  simp only [slotOf]
  omega

/-- The slot has the codeword's index between its first two rows, and so has what the slot holds on the codeword's track. -/
theorem cwAt_trackOf {s r : Nat} (hs : s < 16) (hr : r < 240) : cwAt (slotOf s r) (trackOf s r) = (s, r) := by
  have hslot := slotOf_lt hs hr
  have hsub := cwAt_sub_lt (slotOf s r) (trackOf s r)
  have hindex := cwAt_index (t := trackOf s r) hslot
  have hplace : 32 * slotOf s r + (trackOf s r + 1408 - 11 * slotOf s r) % 32 = 16 * r + s := by
    simp only [trackOf, slotOf] at hslot ⊢
    omega
  exact Prod.ext (by omega) (by omega)

/-- Settles O40: the places are quotients and remainders, and a slot's track counts round by 11 from the one before. -/
theorem datasetBytesLieInTheirRows : Obligations.DatasetBytesLieInTheirRows := by
  refine ⟨?bytes, fun s r hs hr => ?place, fun k t hk ht => ?back⟩
  case bytes =>
    intro ds i hlen hi s r
    have hr : r < 208 := by omega
    have hplace : s * 425984 + r * 2048 + i % 2048 = i := by omega
    rw [dsRow_of_data ds s hr]
    refine ⟨by omega, hr, slice_length .., ?_, by omega⟩
    rw [slice_getElem? (by omega) (by omega), hplace]
  case place =>
    exact ⟨slotOf_lt hs hr, Nat.mod_lt _ (by decide), cwAt_trackOf hs hr⟩
  case back =>
    have hindex := cwAt_index (t := t) hk
    have hsub := cwAt_sub_lt k t
    refine ⟨hsub, by omega, ?_, ?_⟩
    · simp only [slotOf]; omega
    · simp only [trackOf]; omega

/-! ### The codes that a slot adds to a track (R172, R173, R182, R239) -/

/-- The preamble and sync mark that stand before slot k (R172). -/
def beforeSlot (k : Nat) : List Bool := (if k = 0 then ambleBits 256 else []) ++ (if k % 8 = 0 then syncBits else [])

theorem ambleBits_length (n : Nat) : (ambleBits n).length = 4 * n := by
  simp [ambleBits, Nat.mul_comm]

theorem beforeSlot_length (k : Nat) : (beforeSlot k).length = (if k = 0 then 1024 else 0) + (if k % 8 = 0 then 64 else 0) := by
  rw [beforeSlot, List.length_append, apply_ite List.length, apply_ite List.length, ambleBits_length]
  simp [syncBits]

theorem cwHeader_length (datasetNo desc sds kind row : Nat) : (cwHeader datasetNo desc sds kind row).length = 8 := by
  simp [cwHeader]

theorem transCodes_length (i : Nat) (mag : Bool) (last : Option Nat) (ms : List Bool) : (transCodes i mag last ms).1.length = ms.length := by
  induction ms generalizing i mag last with
  | nil => rfl
  | cons m t ih => simp only [transCodes, List.length_cons, ih]

/-- Codes that go on where a track's codes end are appended, none left out. -/
theorem formCodes_codes_length {b : Block} {w : Wport} {t first : Nat} {codes : List Nat}
    (hat : 128 * w.groups + (tabGet [] w.codes t).length = first) :
    (tabGet [] (formCodes b w t first codes).codes t).length = (tabGet [] w.codes t).length + codes.length := by
  simp [formCodes, hat]

section sendSlot

variable {b : Block} {p k t : Nat} {x : WSeg} {header row : Bytes}

theorem sendSlot_codes_other {u : Nat} (h : u ≠ t) :
    tabGet [] ((sendSlot b p x k t header row).wport p).codes u = tabGet [] (b.wport p).codes u := by
  simp only [sendSlot, formCodes, Block.updWport_same]
  exact tabGet_tabSet_other _ _ _ h

/-- A track whose codes reach to what stands before the slot gains the codes of that, of the slot's 546 words, as far as they have bits,
and of the postamble after slot 123. -/
theorem sendSlot_codes_length (hat : 128 * (b.wport p).groups + (tabGet [] (b.wport p).codes t).length
      = (x.idx - (b.wport p).runFirst) * segBits + slotStart k - (beforeSlot k).length) :
    (tabGet [] ((sendSlot b p x k t header row).wport p).codes t).length
      = (tabGet [] (b.wport p).codes t).length
        + ((beforeSlot k).length + (546 + min 17472 (slotBits header row).length) + (if k = 123 then ambleBits 128 else []).length) := by
  simp only [sendSlot, Block.updWport_same]
  refine (formCodes_codes_length hat).trans ?_
  rw [transCodes_length, List.length_append, List.length_append, modulate, modWords_length]
  rfl

end sendSlot

/-! ### A marker segment whose block is empty -/

/-- A slot of a marker carries the marker's block, on every track (R198). -/
theorem writeTrack_of_marker {x : WSeg} {k : Nat} (hx : isMarker x = true) (hk : k < 120) (b : Block) (p failed t : Nat) :
    writeTrack x p k failed b t = sendSlot b p x k t (placedHeader b (b.wport p) x t k) x.marker := by
  have hlate : ¬ 120 ≤ k := by omega
  simp [writeTrack, slotContent, hx, hk, hlate, when]

theorem writeSlot_of_marker {b : Block} {p : Nat} {x : WSeg} (hx : isMarker x = true) (hseg : segOf (b.wport p) x.idx = some x) (mask : Nat) :
    writeSlot b p x 0 mask
      = updWseg (forEach (List.range 32) b (writeTrack x p x.slot 0)) p x.idx fun y => { y with slot := x.slot + 1 } := by
  simp [writeSlot, pathFail, hx, hseg]

theorem updWseg_codes (b : Block) (p idx : Nat) (f : WSeg → WSeg) : ((updWseg b p idx f).wport p).codes = (b.wport p).codes := by
  rw [updWseg, Block.updWport_same]

/-- The tracks of a slot are sent one after the other, and each leaves the codes of the others. -/
theorem forEach_writeTrack_codes_other {x : WSeg} {k : Nat} (hx : isMarker x = true) (hk : k < 120) (p failed : Nat) {u : Nat}
    {l : List Nat} (hu : u ∉ l) (b : Block) :
    tabGet [] ((forEach l b (writeTrack x p k failed)).wport p).codes u = tabGet [] (b.wport p).codes u := by
  induction l generalizing b with
  | nil => rfl
  | cons t l ih =>
    obtain ⟨hne, hl⟩ := not_or.1 (mt List.mem_cons.2 hu)
    refine (ih hl _).trans ?_
    rw [writeTrack_of_marker hx hk, sendSlot_codes_other hne]

/-- A skip marker (KIND 4 of R389) whose block has no bytes, where R198 gives 2,048. -/
def emptyMarker : WSeg := { kind := 4 }

/-- Port 0 with that marker as its segment, and nothing written. -/
def emptyMarkerDue : Block := ({} : Block).updWport 0 fun w => { w with segs := [emptyMarker] }

theorem slotBits_nil_length (header : Bytes) : (slotBits header []).length = 8 * header.length := by
  have hbyte (v : Byte) : (bitsMsb v).length = 8 := by rw [bitsMsb, List.length_map, List.length_range]
  have hrow : c1Encode [] = [] := by decide
  simp [slotBits, hrow, hbyte, Nat.mul_comm]

/-- Track 0 gains the 1,088 bits before slot 0, one bit for each of 546 words, and 64 for the header. -/
theorem writeSlot_emptyMarker_codes_length : (tabGet [] ((writeSlot emptyMarkerDue 0 emptyMarker 0 0).wport 0).codes 0).length = 1698 := by
  have hmarker : isMarker emptyMarker = true := rfl
  have hseg : segOf (emptyMarkerDue.wport 0) emptyMarker.idx = some emptyMarker := rfl
  have hslot : emptyMarker.slot = 0 := rfl
  have hplace : 0 < 120 := by decide
  have hothers : (0 : Nat) ∉ (List.range 31).map Nat.succ := by decide
  have hat : 128 * (emptyMarkerDue.wport 0).groups + (tabGet [] (emptyMarkerDue.wport 0).codes 0).length
      = (emptyMarker.idx - (emptyMarkerDue.wport 0).runFirst) * segBits + slotStart 0 - (beforeSlot 0).length := by
    rw [beforeSlot_length]
    rfl
  have hbits : (slotBits (placedHeader emptyMarkerDue (emptyMarkerDue.wport 0) emptyMarker 0 0) emptyMarker.marker).length = 64 :=
    (slotBits_nil_length _).trans (congrArg (8 * ·) (cwHeader_length ..))
  rw [writeSlot_of_marker hmarker hseg, updWseg_codes, hslot, List.range_succ_eq_map, forEach, List.foldl_cons, ← forEach,
    forEach_writeTrack_codes_other hmarker hplace 0 0 hothers, writeTrack_of_marker hmarker hplace, sendSlot_codes_length hat,
    beforeSlot_length, hbits]
  rfl

/-- Refutes O39: the channel bits of a slot are 18,018 only where the row has its 2,048 bytes, and the statement speaks of every
block: it does not ask of a marker that its block has the size R198 gives it. -/
theorem not_everyTrackIsWrittenInEverySlot : ¬ Obligations.EveryTrackIsWrittenInEverySlot := by
  intro h
  obtain ⟨htracks, -⟩ := h emptyMarkerDue 0 emptyMarker rfl
  obtain ⟨cs, hcodes, hlen, -⟩ := htracks 0 (by decide) (by decide)
  have hshort : cs.length = 1698 := (congrArg List.length hcodes).symm.trans writeSlot_emptyMarker_codes_length
  exact absurd (hshort.symm.trans hlen) (by decide)

end Sys2Proof.Machine

/-!
PROOF. The statement of the family of formatting: how the rows of the weft scheduler take their effect (R215 to R222, R365 to R376,
R403, R536).
-/

namespace Sys2Proof.Machine

/-! ### The rows of the weft scheduler -/

section weftScheduler

variable {dt : Nat} {s : State} {g : Fin 32} (ha : awake s.blk = true)

include ha

theorem execWeftAbortReceive_of_aborts {k no : Nat} {t : List (Nat × Nat)} (haborts : (begun dt s).heads.aborts = (k, no) :: t) :
    execWeftAbortReceive dt s
      = .next (after dt s fun b => abortArrives { b with heads := { b.heads with aborts := t } } k no) := by
  refine runCmd_eq_after ha ?_
  simp only [haborts]

/-- Speed matching evaluates where the last evaluation, if there was one, is 100 ms past (R215). -/
theorem execSpeedMatchEval_of_due (hsched : schedules (begun dt s) g.val = true)
    (hdue : ∀ t, ((begun dt s).grp g.val).evalAt = some t → 400000000 ≤ since (begun dt s) t) :
    execSpeedMatchEval dt g s = .next (after dt s fun b =>
      let b := b.updGrp g.val fun x => { x with
        closes := x.closes.filter fun t => since b t < 4000000000, evalAt := some b.time.now }
      speedMatch b g.val (lambdaNow b (b.grp g.val)) (groupQ (b.grp g.val))) := by
  refine runCmd_eq_after ha (if_pos ⟨hsched, ?_⟩)
  split
  case h_1 t ht => exact (Bool.not_eq_true' _).mpr (decide_eq_false (Nat.not_lt.mpr (hdue t ht)))
  case h_2 => rfl

theorem execWeftDecisionPoint_of_reached (hcross : ((begun dt s).grp g.val).cross = false)
    (hsched : schedules (begun dt s) g.val = true) (hstream : streaming (begun dt s) g.val = true)
    (hreached : reached (begun dt s) (((begun dt s).grp g.val).nextL - leadTicks (begun dt s) g.val) = true) :
    execWeftDecisionPoint dt g s = .next (after dt s fun b => decideBoundary b g.val) := by
  refine runCmd_eq_after ha ?_
  simp only [hcross, hsched, hstream, hreached, Bool.false_eq_true, and_self, ↓reduceIte]

theorem execWeftDecisionPoint_of_cross (hcross : ((begun dt s).grp g.val).cross = true) :
    execWeftDecisionPoint dt g s = .next (after dt s fun b => ownerPoint b g.val) :=
  runCmd_eq_after ha (if_pos hcross)

theorem execCatAgeExpiry_of_aged {port : Fin 32} {c : CartK} {e : Nat × Bytes × Nat} (hcart : cartOn (begun dt s) port.val = some c)
    (holdest : c.unwritten.head? = some e) (haged : rd (begun dt s) Fld.WEAVE_CAT_CTRL_CAT_AGE * 4000000000 ≤ since (begun dt s) e.2.2) :
    execCatAgeExpiry dt port s = .next (after dt s fun b => b.updTape port.val fun x =>
      { x with aged := true, wantUpd := x.wantUpd || (runOver b port.val && x.mount.isNone) }) := by
  refine runCmd_eq_after ha ?_
  simp only [hcart, holdest, Option.bind_some]
  exact if_pos haged

/-- HOLD_WAIT_TIMEOUT counts 5 s from the later of the restart condition and the first held report (R222). -/
theorem execHoldWaitTimeout_of_waited {c h : Nat} (hcond : ((begun dt s).grp g.val).condAt = some c)
    (hheld : ((begun dt s).grp g.val).heldAt = some h) (hmay : mayRestart (begun dt s) g.val = true)
    (hdue : restartDue (begun dt s) g.val = true) (hc : 20000000000 ≤ since (begun dt s) c) (hh : 20000000000 ≤ since (begun dt s) h) :
    execHoldWaitTimeout dt g s = .next (after dt s fun b => setRestart b g.val) := by
  refine runCmd_eq_after ha ?_
  simp only [hcond, hheld]
  exact if_pos ⟨hmay, hdue, hc, hh⟩

theorem execIntentDeadline_of_notDurable {w : Weft} (hcross : ((begun dt s).grp g.val).cross = false)
    (hsched : schedules (begun dt s) g.val = true)
    (hfirst : (((begun dt s).grp g.val).wefts.find? fun w => w.state = .decided && !w.intentDurable) = some w)
    (hreached : reached (begun dt s) (w.l - 80000) = true) :
    execIntentDeadline dt g s = .next (after dt s fun b =>
      stopGroup (internalError (withdrawFrom b g.val w.no) 0 5 g.val 5 w.no) g.val 1) := by
  refine runCmd_eq_after ha ?_
  simp only [hcross, hsched, hfirst, hreached, Bool.not_true, Bool.false_eq_true, ↓reduceIte]

theorem execIntentDeadline_of_cross (hcross : ((begun dt s).grp g.val).cross = true) :
    execIntentDeadline dt g s = .next (after dt s fun b => crossDeadline b g.val) :=
  runCmd_eq_after ha (if_pos hcross)

/-- The oldest verdict of a group known here goes to the scheduler, wherever that is (R368, R382). -/
theorem execVerdictArrival_of_known {r : Bytes} {t : List Bytes} {k : Nat} (hverdicts : (begun dt s).heads.verdicts = r :: t)
    (hgroup : groupSlot { begun dt s with heads := { (begun dt s).heads with verdicts := t } } (fieldAt r 16 2) = some k) :
    execVerdictArrival dt s = .next (after dt s fun b =>
      let b := { b with heads := { b.heads with verdicts := t } }
      if schedules b k then verdictIn b r else sendVerdict b r) := by
  refine runCmd_eq_after ha ?_
  simp only [hverdicts, hgroup]

theorem execGraceExpiry_of_reached {w : Weft} (hsched : schedules (begun dt s) g.val = true)
    (hfirst : (((begun dt s).grp g.val).wefts.find? fun w => !w.assessed && w.state != .withdrawn) = some w)
    (hreached : reached (begun dt s) (w.l + (3 + w.grace) * w.tw) = true) :
    execGraceExpiry dt g s = .next (after dt s fun b => assessLate b g.val w.no) := by
  refine runCmd_eq_after ha ?_
  simp only [hsched, hfirst, hreached, Bool.not_true, Bool.false_eq_true, ↓reduceIte]

end weftScheduler

/-- Settles O34, row by row: each command of the weft scheduler runs (the part is awake), and on its occasion the branch of its
meaning that has the effect is taken. -/
theorem weavingRowsTakeTheirEffect : Obligations.WeavingRowsTakeTheirEffect := by
  intro dt s g ha b x
  refine ⟨?abort, ?speed, ?decision, ?decisionCross, ?catAge, ?held, ?restart, ?holdWait, ?intent, ?intentCross, ?verdict, ?verify,
    ?grace, ?memberCtrl, ?release⟩
  case abort => exact fun _ _ _ => execWeftAbortReceive_of_aborts ha
  case speed => exact execSpeedMatchEval_of_due ha
  case decision => exact execWeftDecisionPoint_of_reached ha
  case decisionCross => exact execWeftDecisionPoint_of_cross ha
  case catAge => exact fun _ _ _ => execCatAgeExpiry_of_aged ha
  case held =>
    intro i hcan
    show execMemberHeldReport dt g i s = _
    exact runCmd_eq_after ha (if_pos hcan)
  case restart =>
    show execGroupRestart dt g s = _
    exact runCmd_awake ha
  case holdWait => exact fun _ _ => execHoldWaitTimeout_of_waited ha
  case intent => exact fun _ => execIntentDeadline_of_notDurable ha
  case intentCross => exact execIntentDeadline_of_cross ha
  case verdict => exact fun _ _ _ => execVerdictArrival_of_known ha
  case verify =>
    intro hsched
    show execVerifyDue dt g s = _
    exact runCmd_eq_after ha (if_pos hsched)
  case grace => exact fun _ => execGraceExpiry_of_reached ha
  case memberCtrl =>
    rintro i data ⟨haway, hdec⟩
    constructor
    · show execDeclareFailed dt g i data s = _
      exact runCmd_eq_after ha (hostWrites_reaches haway hdec rfl)
    · show execRejoin dt g i data s = _
      exact runCmd_eq_after ha (hostWrites_reaches haway hdec rfl)
  case release =>
    show execDatasetRelease dt g s = _
    exact runCmd_awake ha

end Sys2Proof.Machine

/-!
PROOF. The statement of the family of heddle_link: how the rows of the heddle links take their effect (R227, R228, R232, R235 to R237,
R243, R245, R246, R248, R249, R346).
-/

namespace Sys2Proof.Machine

/-- The leading bytes of a text, as many as it has, are the text. -/
theorem slice_zero_of_length {bs : Bytes} {n : Nat} (h : bs.length = n) : slice bs 0 n = bs := by
  have htake := take_slice_zero h.le
  rwa [h, List.take_of_length_le (slice_length bs 0 n).le] at htake

@[simp] theorem rd_updHdl (b : Block) (k : Nat) (f : Hdl → Hdl) (g : Fld) : rd (b.updHdl k f) g = rd b g := rfl

/-! ### What the operations of a link do on their occasion -/

section operations

variable {b : Block} {p : Nat}

theorem markerSend_of_marker {seq : Nat} (hup : linkUp b p = true) (hmarker : seq % 256 = 0) :
    markerSend b p seq =
      emit (b.updHdl p fun h => { h with
        markers := (h.markers.drop (h.markers.length - 3)) ++ [(seq % 65536, b.time.now)], dnSeq := seq % 65536 })
        (.hdlCell p (rd b (Fld.HDL_STATUS_ROLE0 p)) 2
          (leB 8 b.time.now ++ leB 4 (ofS 32 (b.hdlP p).delay) ++ leB 2 (seq % 65536) ++ zeros 18)) := by
  refine if_neg ?_
  simp [hmarker, hup]

/-- A message of a new number is noted and acted on, on a link that is UP or in training from step 6 on (R245; log entry 134). -/
theorem freshMsg_of_new {seq : Nat} (hopen : linkUp b p = true ∨ (training b p = true ∧ 6 ≤ (b.hdlP p).step))
    (hnew : tabGet 0 (b.hdlP p).upSeq 100 ≠ seq % 256 + 1) (f : Block → Block) :
    freshMsg b p seq f = f (b.updHdl p fun h => { h with upSeq := tabSet 0 h.upSeq 100 (seq % 256 + 1) }) := by
  have hlisten : (linkUp b p || (training b p && decide (6 ≤ (b.hdlP p).step))) = true := by simpa using hopen
  refine if_neg ?_
  simp [hlisten, hnew]

section resend

variable {x : HdlMsg} (holdest : ((b.hdlP p).unacked.find? fun x => 50 * tUs ≤ since b x.sentAt) = some x)

include holdest

theorem msgResend_of_retry (htries : x.resends < 3) :
    msgResend b p =
      emit (b.updHdl p fun h => { h with unacked := h.unacked.map fun y =>
        if y.seq = x.seq then { y with sentAt := b.time.now, resends := y.resends + 1 } else y })
        (.hdlMsg p x.typ (msgCell x.typ x.seq x.payload)) := by
  unfold msgResend
  rw [holdest]
  exact if_neg (Nat.not_le.mpr htries)

theorem msgResend_of_last (htries : 3 ≤ x.resends) (htrain : training b p = false) :
    msgResend b p = linkDown b p 5 (x.typ = 2) := by
  unfold msgResend
  rw [holdest]
  simp only [htries, htrain, Bool.false_eq_true, ↓reduceIte]

end resend

/-- A SAMPLE cell of a stream that is read: the reader whose turn it is on the lane takes it up, or its loss (R235, R249, R268). -/
def cellToReader (b : Block) (p set lane : Nat) (cell : Option Bytes) : Block :=
  let (r, j) := cellReader set lane (tabGet 0 (b.hdlP p).cells lane)
  let b := b.updHdl p fun h => { h with cells := tabUpd 0 h.cells lane fun n => n + 1 }
  let b := if cell.isNone then inc b (Fld.HDL_CELL_ERR_LOST p) else b
  emergency (advanceReader b p r fun x => addSamples (readCfg b p r) x j cell) p (32 ≤ r)

/-- The count of lost cells is not in the register that shows what the port reads. -/
theorem rd_mode_lostCell (on : Bool) :
    rd (when on b fun b => inc b (Fld.HDL_CELL_ERR_LOST p)) (Fld.RDCH_STATE_MODE p) = rd b (Fld.RDCH_STATE_MODE p) := by
  cases on with
  | false => rfl
  | true => exact rd_wr_addr b _ _ _ (by simp [Fld.RDCH_STATE_MODE, Fld.HDL_CELL_ERR_LOST, Reg.RDCH_STATE, Reg.HDL_CELL_ERR])

theorem onSample_of_read {lane : Nat} {cell : Option Bytes} {st : SampleRun} (hup : linkUp (streamNow b p) p = true)
    (hstream : ((streamNow b p).hdlP p).sample = some st) (hread : rd (streamNow b p) (Fld.RDCH_STATE_MODE p) ≠ 0) :
    onSample b p lane cell = cellToReader (streamNow b p) p st.set lane cell := by
  unfold onSample
  simp only [hstream, hup, Bool.not_true, Bool.false_eq_true, ↓reduceIte, rd_mode_lostCell, rd_updHdl, hread]
  rfl

theorem schedulingPoint_of_due {r : Nat} (hup : linkUp b p = true) (hphase : (readerOf b p r).phase ≠ 0)
    (hsched : (readerOf b p r).sched = some (((readerOf b p r).n : Int) - 7)) :
    schedulingPoint b p r = advanceReader (storeBank b p r) p r (rebank (readCfg (storeBank b p r) p r)) := by
  refine if_neg ?_
  simp [hup, hphase, hsched]

/-- The angles are judged at the last instant of their evaluation, 100,000 ticks apart from 8,000 after the sense grid's start (R346). -/
theorem evalTransducers_of_sampled {st : SampleRun} (hup : linkUp b p = true) (hstream : (b.hdlP p).sample = some st)
    (hbegun : st.sSense + 8000 ≤ b.time.now) :
    evalTransducers b p =
      let i := st.sSense + (b.time.now - st.sSense - 8000) / 100000 * 100000
      let b := if (b.cle p).okLet + 400000 ≤ i then loseLet b p else b
      if (b.cle p).okTake + 400000 ≤ i then loseTake b p else b := by
  unfold evalTransducers
  rw [hstream]
  refine if_neg ?_
  simp [hup, hbegun]

end operations

/-! ### The rows of the heddle links -/

section heddleRows

variable {dt : Nat} {s : State} {port : Fin 32} (ha : awake s.blk = true)

include ha

/-- An upstream lane counts, and of the downstream lanes the two with a role (R249). -/
theorem execLaneLockLoss_of_active {upstream : Bool} {lane : Fin 4}
    (hlane : upstream = true ∨ lane.val = rd (begun dt s) (Fld.HDL_STATUS_ROLE0 port.val)
      ∨ lane.val = rd (begun dt s) (Fld.HDL_STATUS_ROLE1 port.val)) :
    execLaneLockLoss dt false port upstream lane s = .next (after dt s fun b => linkDown b port.val 1) := by
  refine runCmd_eq_after ha ((if_neg Bool.false_ne_true).trans (if_pos ?_))
  simpa only [Bool.or_eq_true, beq_iff_eq, or_assoc] using hlane

theorem execSampleCell_of_read {lane : Fin 4} {bytes : Bytes} {st : SampleRun} (lost : Bool) (hlen : bytes.length = 32)
    (hup : linkUp (streamNow (begun dt s) port.val) port.val = true)
    (hstream : ((streamNow (begun dt s) port.val).hdlP port.val).sample = some st)
    (hread : rd (streamNow (begun dt s) port.val) (Fld.RDCH_STATE_MODE port.val) ≠ 0) :
    execSampleCell dt port lane lost bytes s = .next (after dt s fun b =>
      cellToReader (streamNow b port.val) port.val st.set lane.val (if lost then none else some bytes)) := by
  refine runCmd_eq_after ha ?_
  rw [slice_zero_of_length hlen]
  exact onSample_of_read hup hstream hread

theorem execSenseCell_of_length {cell : Option Bytes} (hlen : ∀ c ∈ cell, c.length = 32) :
    execSenseCell dt port cell s = .next (after dt s fun b => onSense b port.val cell) := by
  have hcell : (cell.map fun c => slice c 0 32) = cell := by
    cases cell with
    | none => rfl
    | some c => exact congrArg some (slice_zero_of_length (hlen c rfl))
  refine runCmd_eq_after ha ?_
  rw [hcell]

/-- The four messages of the transport run in one frame. -/
theorem runCmd_freshMsg {p seq : Nat} (f : Block → Block)
    (hopen : linkUp (begun dt s) p = true ∨ (training (begun dt s) p = true ∧ 6 ≤ ((begun dt s).hdlP p).step))
    (hnew : tabGet 0 ((begun dt s).hdlP p).upSeq 100 ≠ seq % 256 + 1) :
    runCmd dt s (fun b => freshMsg b p seq f) = .next (after dt s fun b =>
      f (b.updHdl p fun h => { h with upSeq := tabSet 0 h.upSeq 100 (seq % 256 + 1) })) :=
  runCmd_eq_after ha (freshMsg_of_new hopen hnew f)

end heddleRows

/-- Settles O58, row by row: each command of a link runs (the part is awake), and on its occasion the branch of its meaning that has
the effect is taken. That cells from S on are the new stream's, and which messages count as repeats, are the model's choices (log
entries 51 and 134). -/
theorem heddleRowsTakeTheirEffect : Obligations.HeddleRowsTakeTheirEffect := by
  intro dt s port ha b p h
  refine ⟨?ctrl, ?trainingTimeout, ?block, ?codeword, ?statusTimeout, ?lane, ?shuttleLane, ?marker, ?timeExchange, ?cells, ?angles,
    ?keepalive, ?messages, ?resend⟩
  case ctrl =>
    rintro data ⟨haway, hdec⟩
    constructor
    · show execHdlEnable dt port data s = _
      exact runCmd_eq_after ha (hostWrites_reaches haway hdec rfl)
    · show execHdlRetrain dt port s = _
      exact runCmd_eq_after ha (hostWrites_reaches haway hdec rfl)
  case trainingTimeout =>
    intro htrain hdue
    show execHdlTrainingTimeout dt port s = _
    exact runCmd_eq_after ha (if_pos ⟨htrain, hdue⟩)
  case block =>
    intro lane inv control locked
    constructor
    · show execTrainingBlock dt false port lane inv control locked s = _
      exact runCmd_eq_after ha (if_neg Bool.false_ne_true)
    · show execTrainingBlock dt true port lane inv control locked s = _
      exact runCmd_eq_after ha (if_pos rfl)
  case codeword =>
    intro lane header cells check word
    constructor
    · show execCodewordReceive dt false port lane header cells check s = _
      exact runCmd_eq_after ha (if_neg Bool.false_ne_true)
    · show execCodewordReceive dt true port lane header cells check s = _
      exact runCmd_eq_after ha (if_pos rfl)
  case statusTimeout =>
    intro hup hsilent
    show execStatusTimeout dt port s = _
    exact runCmd_eq_after ha (if_pos ⟨hup, hsilent⟩)
  case lane =>
    intro lane _
    exact ⟨execLaneLockLoss_of_active ha (.inl rfl), fun hrole => execLaneLockLoss_of_active ha (.inr hrole)⟩
  case shuttleLane =>
    intro up lane hup
    show execLaneLockLoss dt true port up lane s = _
    exact runCmd_eq_after ha (if_pos hup)
  case marker =>
    intro seq hup hmarker
    show execMarkerSend dt port seq s = _
    exact runCmd_eq_after ha (markerSend_of_marker hup hmarker)
  case timeExchange =>
    intro cell t4 _ _ hlen _
    show execTimeExchange dt port cell t4 s = _
    refine runCmd_eq_after ha ?_
    rw [slice_zero_of_length hlen]
  case cells =>
    intro hup
    refine ⟨?sample, ?scheduling, ?servo, ?sense⟩
    case sample => exact fun _ lost _ _ hlen => execSampleCell_of_read ha lost hlen
    case scheduling =>
      intro moduleB role half place r x hphase hsched
      show execSchedulingPoint dt port moduleB role half place s = _
      exact runCmd_eq_after ha (schedulingPoint_of_due hup hphase hsched)
    case servo =>
      intro r lost bytes hlen
      show execServoCell dt port r lost bytes s = _
      refine runCmd_eq_after ha ?_
      rw [slice_zero_of_length hlen]
    case sense => exact fun _ => execSenseCell_of_length ha
  case angles =>
    intro st hup hstream hbegun
    show execTransducerEvaluation dt port s = _
    exact runCmd_eq_after ha (evalTransducers_of_sampled hup hstream hbegun)
  case keepalive =>
    intro hup hsilent
    show execEdgeKeepalive dt port s = _
    exact runCmd_eq_after ha (if_pos ⟨hup, hsilent⟩)
  case messages =>
    intro seq m hopen hnew note
    refine ⟨?ident, ?status, ?event, ?ack⟩
    case ident => exact runCmd_freshMsg ha (fun b => onIdent b p m) hopen hnew
    case status => exact runCmd_freshMsg ha (fun b => onStatus b p m) hopen hnew
    case event => exact runCmd_freshMsg ha (fun b => onEvent b p m) hopen hnew
    case ack => exact runCmd_freshMsg ha (fun b => onAck b p m) hopen hnew
  case resend =>
    intro x holdest
    constructor
    · intro htries
      show execMsgResend dt port s = _
      exact runCmd_eq_after ha (msgResend_of_retry holdest htries)
    · intro htries htrain
      show execMsgResend dt port s = _
      exact runCmd_eq_after ha (msgResend_of_last holdest htries htrain)

end Sys2Proof.Machine

/-!
PROOF. The statement of the family of read_channel: how the rows of the read channel take their effect (R271 to R280, R298).
-/

namespace Sys2Proof.Machine

/-! ### A pass of a slot ends (R271 to R274, R276 to R278) -/

section passes

variable {b : Block} {p r : Nat} {t : SlotRec} {rest : List SlotRec}

/-- The oldest slot of a reader that waits for its first pass is taken out: of the leading module its look is stored (R276, R277), of
another reader it is decoded. -/
theorem passEnd_of_first (holdest : (b.rdch p).slots.find? (fun u => u.reader = r) = some t) :
    passEnd b p r false =
      let taken := b.updRdch p fun x => { x with slots := x.slots.erase t }
      if leads b p r then storeLook taken p t else slotEnds taken p t (b.rdch p).turbo := by
  have hleads (f : Rdch → Rdch) : leads (b.updRdch p f) p r = leads b p r := rfl
  simp only [passEnd, holdest, hleads, Bool.false_eq_true, ↓reduceIte]

theorem passEnd_of_again (hturbo : ((b.rdch p).turbo.take 4).find? (fun u => u.reader = r) = some t) :
    passEnd b p r true = slotEnds b p t ((b.rdch p).turbo.erase t) := by
  simp only [passEnd, hturbo, ↓reduceIte]

@[simp] theorem slotPass_pass (b : Block) (p : Nat) (t : SlotRec) : (slotPass b p t).1.pass = t.pass + 1 := rfl

/-- A slot that has converged is reported, without TRUNCATED. -/
theorem slotEnds_of_converged (hok : (slotPass b p t).2.2 = true) :
    slotEnds b p t rest =
      reportSlot (b.updRdch p fun x => { x with turbo := rest }) p (slotPass b p t).1 (slotPass b p t).2.1 true false := by
  have hlast : passMore b p (slotPass b p t).1 true = false := rfl
  unfold slotEnds
  simp only [hok, hlast, Bool.false_and, Bool.false_eq_true, ↓reduceIte]

/-- A slot that has not converged joins the turbo queue where a further pass is allowed and the queue has room (R272, R274). -/
theorem slotEnds_of_further (hok : (slotPass b p t).2.2 = false) (hpass : t.pass + 1 < 3) (hallowed : passMax b p (t.pass + 2) ≠ 0)
    (hroom : rest.length < 36) :
    slotEnds b p t rest = b.updRdch p fun x => { x with turbo := rest ++ [(slotPass b p t).1] } := by
  have hmore : passMore b p (slotPass b p t).1 false = true := by simp [passMore, hpass, hallowed]
  unfold slotEnds
  simp only [hok, hmore, hroom, decide_true, Bool.and_self, ↓reduceIte]

end passes

/-! ### Reports without a trailing look (R275, R279) -/

section reports

variable {b : Block} {p track slot seg : Nat}

/-- In verify a slot that nobody knows of gets its report when its last channel bit should have passed (R275). -/
theorem noSync_of_overdue {first tw : Nat} (hmode : rd b (Fld.RDCH_STATE_MODE p) = 1)
    (hverify : (b.hdlP p).sample.bind (·.verify) = some (first, tw)) (hunknown : slotKnown b p seg slot track = false)
    (hdue : reached b (first + (seg * segBits + (slotStart slot + 18018)) * tw / segBits) = true) :
    noSync b p track slot seg =
      deliver b p (reportOf { reader := track, seg := seg, slot := slot, time := first + (seg * segBits + slotStart slot) * tw / segBits }
        (zeros 8) 18 0 0 0) [] := by
  unfold noSync
  rw [hmode, hverify]
  exact if_neg (by simp [hunknown, hdue])

/-- The ticks by which the trailing look of a slot is due behind the leading one: the channel bits in the 1.6 mm between the modules, at
the nominal bit time (R276, R279; log entry 53). -/
def lookGap (b : Block) (p : Nat) : Nat :=
  (match cartOn b p with | some k => if wrapEdge k (wrapRead b p) then 350000 else 400000 | none => 400000)
    * ((b.hdlP p).sample.getD {}).adv * ((b.hdlP p).sample.getD {}).p / rawUnit

/-- The report of a leading look alone, decoded by `r`: of one pass, and of the time at which the trailing look was due `gap` behind it
(R279, R280; log entry 53). -/
def leadReport (l : Look) (gap : Nat) (r : Bool × Nat × List Int × LdpcState) : Bytes :=
  let ls := lookLlrs l
  let corrected := (List.zipWith xor (r.2.2.1.map hard) ((ls.drop 64).map hard)).countP id
  reportOf { l.rec_ with time := l.rec_.time + gap } (headerOf ls)
    ((if r.1 then 0 else 1) + 4 * b2n (headerOk (headerOf ls)) + 32) r.2.1 1 corrected

/-- `r` stands for what the decoder finds, which the proof is not to compute. -/
theorem leadOnly_of_alone {l : Look} {r : Bool × Nat × List Int × LdpcState}
    (hr : ldpcPass ((lookLlrs l).drop 64) {} (passMax b p 1) = r) (hmode : rd b (Fld.RDCH_STATE_MODE p) = 3)
    (hlook : (b.rdch p).looks.find? (fun l => l.rec_.seg % 65536 = seg && l.rec_.slot = slot && l.rec_.reader % 32 = track) = some l)
    (hunknown : slotKnown b p seg slot track = false) (hdue : reached b (l.rec_.time + lookGap b p + 160000) = true) :
    leadOnly b p track slot seg = deliver b p (leadReport l (lookGap b p) r) (packMsb 2048 (r.2.2.1.map hard)) := by
  unfold leadOnly
  rw [hlook]
  simp only [hr]
  refine if_neg ?_
  rintro (hother | hknown | hearly)
  · exact hother hmode
  · exact Bool.false_ne_true (hunknown.symm.trans hknown)
  · exact Bool.false_ne_true (((Bool.not_eq_true' _).mp hearly).symm.trans hdue)

end reports

/-- The oldest port of a die that waits gets the lowest free region, and its dual-look read begins (R277). -/
theorem grantLook_of_free {b : Block} {die w r : Nat} (hwaits : (b.sl.lookWait.find? fun p => p / 16 = die) = some w)
    (hfree : ((List.range 4).find? fun r => tabGet 0 b.sl.looks (4 * die + r) = 0) = some r) :
    grantLook b die =
      let b := { b with sl := { b.sl with
        looks := tabSet 0 b.sl.looks (4 * die + r) (w + 1), lookWait := b.sl.lookWait.filter (· ≠ w) } }
      startReading (wr (wr (wr b (Fld.RDCH_STATE_LOOK_BUF w) 1) (Fld.RDCH_STATE_REGION w) r) (Fld.RDCH_STATE_WAIT_BUF w) 0) w 3 := by
  unfold grantLook
  rw [hwaits, hfree]

/-! ### The rows of the read channel -/

/-- Settles O41, row by row: each command of the read channel runs (the part is awake), and on its occasion the branch of its meaning
that has the effect is taken. That the report of a leading look alone bears the time at which the trailing one was due, and the leading
look's FLAGGED, is the model's choice (log entry 53). -/
theorem readChannelRowsTakeTheirEffect : Obligations.ReadChannelRowsTakeTheirEffect := by
  intro dt s port ha b p x
  refine ⟨?passes, ?ends, ?noSync, ?grant, ?lead, ?clear⟩
  case passes =>
    intro moduleB role place t reader
    refine ⟨fun holdest => ⟨fun htrails => ?trails, fun hleads => ?leads⟩, fun hturbo => ?again⟩
    case trails =>
      show execDecodePassEnd dt port moduleB role place false s = _
      exact runCmd_eq_after ha ((passEnd_of_first holdest).trans (if_neg (by simp [htrails])))
    case leads =>
      show execDecodePassEnd dt port moduleB role place false s = _
      exact runCmd_eq_after ha ((passEnd_of_first holdest).trans (if_pos hleads))
    case again =>
      show execDecodePassEnd dt port moduleB role place true s = _
      exact runCmd_eq_after ha (passEnd_of_again hturbo)
  case ends => exact fun c t _ => ⟨slotPass_pass c p t, slotEnds_of_converged, slotEnds_of_further⟩
  case noSync =>
    intro track slot segment first tw at' hmode hverify hunknown hdue
    show execNoSyncReport dt port ⟨track, slot, segment⟩ s = _
    exact runCmd_eq_after ha (noSync_of_overdue hmode hverify hunknown hdue)
  case grant =>
    intro die w r hwaits hfree
    show execLookBufferGrant dt die s = _
    exact runCmd_eq_after ha (grantLook_of_free hwaits hfree)
  case lead =>
    intro track slot segment l gap ls r bits hmode hlook hunknown hdue
    show execLeadOnlyReport dt port track ⟨slot, segment⟩ s = _
    exact runCmd_eq_after ha (leadOnly_of_alone (r := r) rfl hmode hlook hunknown hdue)
  case clear =>
    rintro data ⟨haway, hdec⟩
    constructor
    · show execDeadClearA dt port data s = _
      exact runCmd_eq_after ha (hostWrites_reaches haway hdec rfl)
    · show execDeadClearB dt port data s = _
      exact runCmd_eq_after ha (hostWrites_reaches haway hdec rfl)

end Sys2Proof.Machine

/-!
PROOF. The statements of the family of track following: HOLD of a loop (R323, R328), and how the rows of the control-law engines take
their effect (R304, R305, R309, R311, R322, R327, R329, R331, R332).
-/

namespace Sys2Proof.Machine

/-! ### HOLD of a loop (R323, R328) -/

/-- A loop that has entered HOLD: the output stays. -/
def Loop.entered (x : Loop) : Loop := { x with hold := true, blend := false, back := false }

/-- A loop that has left HOLD with its output, or with 0: it goes to MANUAL, or to AUTO by a hand-over. -/
def Loop.released (zero : Bool) (x : Loop) : Loop :=
  { x with hold := false, back := !x.manual, out := if zero then 0 else x.out }

section loops

variable (b : Block) (p l : Nat)

/-- Showing a loop writes registers alone. -/
@[simp] theorem cle_showLoop (k : Nat) : (showLoop b p l).cle k = b.cle k := by
  unfold showLoop Block.cle
  rw [wrS_sl, wr_sl, wr_sl]

@[simp] theorem loopOf_updLoop_same (f : Loop → Loop) : loopOf ((b.updLoop p l f).cle p) l = f (loopOf (b.cle p) l) := by
  simp [Block.updLoop, loopOf]

theorem loopOf_updLoop_other_loop (f : Loop → Loop) {m : Nat} (h : m ≠ l) :
    loopOf ((b.updLoop p l f).cle p) m = loopOf (b.cle p) m := by
  simp [Block.updLoop, loopOf, tabGet_tabUpd_other _ _ _ h]

theorem cle_updLoop_other_port (f : Loop → Loop) {k : Nat} (h : k ≠ p) : (b.updLoop p l f).cle k = b.cle k :=
  b.updCle_other _ h

/-- A change of a port's injection leaves its loops, and those of the other ports. -/
theorem loopOf_updInj (g : Option Inject → Option Inject) (k m : Nat) :
    loopOf ((b.updCle p fun c => { c with inj := g c.inj }).cle k) m = loopOf (b.cle k) m := by
  by_cases h : k = p
  · subst h
    rw [Block.updCle_same]
    rfl
  · rw [Block.updCle_other _ _ h]

theorem loopOf_breakInject (held : Bool) (k m : Nat) : loopOf ((breakInject b p held).cle k) m = loopOf (b.cle k) m :=
  loopOf_updInj b p _ k m

/-- Entering HOLD changes the loop's mode alone: what it does to an injection leaves the loops. -/
theorem loopOf_holdLoop_of_free (hfree : (loopOf (b.cle p) l).hold = false) (k m : Nat) :
    loopOf ((holdLoop b p l).cle k) m = loopOf ((b.updLoop p l Loop.entered).cle k) m := by
  unfold holdLoop
  rw [hfree, if_neg Bool.false_ne_true]
  simp only [cle_showLoop]
  split
  · split
    · exact loopOf_breakInject _ _ _ _ _
    · split
      · exact loopOf_updInj _ _ _ _ _
      · rfl
  · rfl

theorem holdLoop_of_held (hheld : (loopOf (b.cle p) l).hold = true) : holdLoop b p l = b := if_pos hheld

theorem releaseLoop_of_free (zero : Bool) (hfree : (loopOf (b.cle p) l).hold = false) : releaseLoop b p l zero = b := by
  unfold releaseLoop
  rw [hfree]
  rfl

theorem cle_releaseLoop_of_held (zero : Bool) (hheld : (loopOf (b.cle p) l).hold = true) (k : Nat) :
    (releaseLoop b p l zero).cle k = (b.updLoop p l (Loop.released zero)).cle k := by
  unfold releaseLoop
  rw [hheld, if_neg (by decide), cle_showLoop]
  rfl

end loops

/-- Settles O46: a loop already in HOLD is left alone by `holdLoop`, one out of HOLD by `releaseLoop`; otherwise each changes the one
loop, to `Loop.entered` or `Loop.released`, and no other. -/
theorem holdKeepsALoopsOutput : Obligations.HoldKeepsALoopsOutput := by
  intro b p l x c
  cases hx : (loopOf (b.cle p) l).hold with
  | true =>
    have hc : c = b := holdLoop_of_held b p l hx
    rw [hc]
    refine ⟨hx, rfl, fun _ _ => rfl, fun _ _ _ => rfl, ?_⟩
    intro zero r
    have hr : r.cle p = (b.updLoop p l (Loop.released zero)).cle p := cle_releaseLoop_of_held b p l zero hx p
    rw [hr, loopOf_updLoop_same]
    refine ⟨rfl, ?_, fun h => absurd h (by decide), fun m hm => loopOf_updLoop_other_loop b p l _ hm⟩
    simp [Loop.released, x]
  | false =>
    have hc (k m : Nat) : loopOf (c.cle k) m = loopOf ((b.updLoop p l Loop.entered).cle k) m := loopOf_holdLoop_of_free b p l hx k m
    refine ⟨?_, ?_, fun m hm => ?_, fun k m hk => ?_, ?_⟩
    · rw [hc, loopOf_updLoop_same]; rfl
    · rw [hc, loopOf_updLoop_same]; rfl
    · rw [hc, loopOf_updLoop_other_loop b p l _ hm]
    · rw [hc, cle_updLoop_other_port b p l _ hk]
    · intro zero r
      have hr : r = b := releaseLoop_of_free b p l zero hx
      rw [hr]
      refine ⟨hx, ?_, fun _ => rfl, fun _ _ => rfl⟩
      simp [x]

/-! ### What the operations of the control-law engines do on their occasion -/

section operations

variable {b : Block} {p : Nat}

theorem cleBTick_of_notDue (h : cleBDue b p = false) : cleBTick b p = b := by
  unfold cleBTick
  exact if_pos ((Bool.not_eq_true' _).mpr h)

/-- A frame that is half a frame time overdue counts as missing, and the fourth inhibits writing (R309, R327). -/
theorem frameMissing_of_overdue (hup : linkUp b p = true) (htimed : (b.cle p).tF ≠ 0)
    (hdue : reached b ((b.cle p).frameAt + (2 * (b.cle p).missing + 3) * (b.cle p).tF / 2) = true) :
    frameMissing b p =
      let c := b.cle p
      let n := c.missing + 1
      let z := b.updCle p fun c =>
        { c with
          missing := n, goodFrames := 0, settled := 0, aAt := b.time.now, frames := c.frames + (if !c.servoSrc then 0 else if reverseNow c then -1 else 1),
          servo := tabUpd {} (tabUpd {} c.servo 0 fun (r : ServoRd) => { r with bits := [] }) 1 fun (r : ServoRd) => { r with bits := [] } }
      let z := sendAct (captureTick (idleTick (trackMode (wr z (Fld.CLE_TRACK_STATUS_MISSING p) (min 15 n)) p) p 0) p true) p 24
      if n = 4 then writeInhibit z p (Fld.CLE_INHIBIT_SERVO p) else z := by
  refine if_neg ?_
  simp [hup, htimed, hdue]

/-- After 1,024 frames the mean FINE is taken (R311). -/
theorem offloadStep_of_full (hfull : 1024 ≤ (b.cle p).offN) :
    offloadStep b p =
      let c := b.cle p
      let k : Int := (rd b (Fld.CLE_TRACK_CFG_OFFLOAD_STEP p) : Nat)
      let dir : Int := if (c.offSum < 0) != rdB b (Fld.CLE_TRACK_CFG_COARSE_SIGN p) then -1 else 1
      b.updCle p fun c =>
        { c with offSum := 0, offN := 0, offload := if 8192 * 1024 < c.offSum.natAbs then c.offload + dir * k else c.offload } :=
  if_neg hfull.not_gt

section injections

variable {j : Inject} (hinj : (b.cle p).inj = some j)

include hinj

/-- An injection that has lasted its DURATION, or to the end of its capture, ends (R329). -/
theorem injectionEnd_of_lasted (hactive : j.active = true)
    (hlasted : if j.duration = 0 then captureDone j = true else j.duration ≤ j.ticks) :
    injectionEnd b p = b.updCle p fun c => { c with inj := some { j with active := false } } := by
  unfold injectionEnd
  rw [hinj]
  refine if_pos ⟨hactive, ?_⟩
  split at hlasted
  case isTrue hopen => rw [if_pos hopen]; exact hlasted
  case isFalse htimed => rw [if_neg htimed]; exact decide_eq_true hlasted

/-- A full capture whose injection has ended is written to the host, and its command completes (R331, R332). -/
theorem captureFull_of_done (hdone : captureDone j = true) (hended : j.active = false) :
    captureFull b p =
      let m := b.cmd j.cmd
      finishCmd ((writeBuf b m.fn m.e m.sgl 0 (captureBuffer b p j)).updCle p fun c => { c with inj := none }) j.cmd 0 0
        (leB 4 j.samples.length ++ leB 1 (b2n j.interrupted + 2 * b2n (bitsOf j.select 5 3 = 0) + 4 * b2n j.held)) := by
  unfold captureFull
  rw [hinj]
  refine if_neg ?_
  simp [hdone, hended]

end injections

/-- Within 10 µs of the first L of a run, with the head not settled, writing is inhibited (R327). -/
theorem unsettledCheck_of_unsettled {x : WSeg} (hfirst : ((b.wport p).segs.find? fun s => s.run = (b.wport p).run) = some x)
    (hrun : (b.wport p).inRun = true) (hnear : reached b (x.l - 40000) = true) (hbefore : reached b x.l = false)
    (hunsettled : (b.cle p).settled < 64) :
    unsettledCheck b p = writeInhibit b p (Fld.CLE_INHIBIT_OFFTRACK p) true := by
  unfold unsettledCheck
  simp only [hfirst]
  exact if_pos ⟨hrun, hnear, (Bool.not_eq_true' _).mpr hbefore, hunsettled⟩

end operations

/-! ### The rows of the control-law engines -/

/-- Settles O45, row by row: each command of the control-law engines runs (the part is awake), and on its occasion the branch of its
meaning that has the effect is taken. That each missing frame stands a frame time after the one before it is the model's reading (log
entry 52). -/
theorem loopRowsTakeTheirEffect : Obligations.LoopRowsTakeTheirEffect := by
  intro dt s port ha b p c
  refine ⟨?tickB, ?tickBEarly, ?tickA, ?idle, ?missing, ?offload, ?overrunA, ?overrunB, ?injection, ?capture, ?clear, ?unsettled⟩
  case tickB =>
    intro _
    show execCleBTick dt port s = _
    exact runCmd_awake ha
  case tickBEarly =>
    intro hearly
    show execCleBTick dt port s = _
    exact runCmd_eq_after ha (cleBTick_of_notDue hearly)
  case tickA =>
    intro _ _
    show execCleATick dt port s = _
    exact runCmd_awake ha
  case idle =>
    intro hup hlong
    show execCleAIdleTick dt port s = _
    exact runCmd_eq_after ha (if_pos ⟨hup, hlong⟩)
  case missing =>
    intro hup htimed hdue
    show execServoFrameMissing dt port s = _
    exact runCmd_eq_after ha (frameMissing_of_overdue hup htimed hdue)
  case offload =>
    intro hfull
    show execOffloadStep dt port s = _
    exact runCmd_eq_after ha (offloadStep_of_full hfull)
  case overrunA =>
    show execTickOverrun dt port false s = _
    exact runCmd_eq_after ha (if_neg Bool.false_ne_true)
  case overrunB =>
    show execTickOverrun dt port true s = _
    exact runCmd_eq_after ha (if_pos rfl)
  case injection =>
    intro j hinj hactive hlasted
    show execInjectionEnd dt port s = _
    exact runCmd_eq_after ha (injectionEnd_of_lasted hinj hactive hlasted)
  case capture =>
    intro j hinj hdone hended
    show execCaptureFull dt port s = _
    exact runCmd_eq_after ha (captureFull_of_done hinj hdone hended)
  case clear =>
    rintro rc data ⟨haway, hdec⟩
    show execRcClear dt port rc data s = _
    exact runCmd_eq_after ha (hostWrites_reaches haway hdec rfl)
  case unsettled =>
    intro x hfirst hrun hnear hbefore hunsettled
    show execUnsettledCheck dt port s = _
    exact runCmd_eq_after ha (unsettledCheck_of_unsettled hfirst hrun hnear hbefore hunsettled)

end Sys2Proof.Machine

/-!
PROOF. Steps and runs of steps, and what a command does while the part is in DORMANT or waking (R545, R547).
-/

namespace Sys2Proof.Machine

/-! ### A step, and a run of steps -/

/-- Settles O1. -/
theorem stepTakesFrontCommand : Obligations.StepTakesFrontCommand := fun _ _ => ⟨rfl, rfl⟩

/-- A step answers a next state, and takes the front command from the queue. -/
theorem step_answers (s : State) : ∃ t, step s = .next t ∧ t.pending = s.pending.drop 1 := by
  unfold step
  split
  case h_1 hidle => exact ⟨s, rfl, by rw [hidle]; rfl⟩
  case h_2 c rest hfront =>
    obtain ⟨t, hexec, hkept⟩ := everyCommandAnswersNext c { s with pending := rest }
    exact ⟨t, hexec, by rw [hkept, hfront]; rfl⟩

theorem runN_answers (s : State) (n : Nat) : ∃ t, runN s n = some t ∧ t.pending = s.pending.drop n := by
  induction n generalizing s with
  | zero => exact ⟨s, rfl, rfl⟩
  | succ n ih =>
    obtain ⟨u, hstep, hu⟩ := step_answers s
    obtain ⟨t, hrun, ht⟩ := ih u
    refine ⟨t, ?_, ?_⟩
    · simp only [runN, hstep, next?, Option.bind_some, hrun]
    · rw [ht, hu, List.drop_drop, Nat.add_comm]

/-- Settles O3, by induction on the steps. That the waiting commands are a queue, first in, first out, and that a step on an empty one
idles, are the model's choices (log entries 119, 2 and 3). -/
theorem runsTakeCommandsInOrder : Obligations.RunsTakeCommandsInOrder := by
  intro s n
  obtain ⟨t, hrun, ht⟩ := runN_answers s n
  refine ⟨?_, fun u hu => ?_⟩
  · unfold SafeFor
    rw [hrun]
    rfl
  · rw [hrun] at hu
    cases hu
    exact ht

/-- A command in the common frame leaves a part that is not awake as the passing of time does (R545; log entry 62). -/
theorem runCmd_asleep {dt : Nat} {s : State} {f : Block → Block} (ha : awake s.blk = false) :
    runCmd dt s f = .next { s with blk := begun dt s } := by
  simp [runCmd, ha]

/-- Settles O4: the commands that are not the warden's run in the frame that does nothing while the part is not awake. -/
theorem dormantLeavesOnlyTheWarden : Obligations.DormantLeavesOnlyTheWarden := by
  intro c s ha hrow
  rcases exec_form c s with ⟨-, dt, f, h⟩ | ⟨hward, -⟩
  · exact ⟨dt, h.trans (runCmd_asleep ha)⟩
  · exact absurd (hrow.symm.trans hward) Bool.false_ne_true
end Sys2Proof.Machine

/-!
PROOF. The rate of loom time (R443, R444) and the rotation of a group's roles (R358).
-/

namespace Sys2Proof.Machine

/-! ### The rate of loom time (R443, R444) -/

/-- Loom time at 2^32 steps to a tick: the ticks and the kept fraction as one number. -/
def fineTime (b : Block) : Nat := b.time.now * 2 ^ 32 + b.time.frac

/-- The steps of 2^-32 tick by which one tick of the local time base advances loom time (R444). -/
def loomRate (b : Block) : Nat := ((4294967296 : Int) + b.time.adj).toNat

@[simp] theorem loomRate_elapse (d : Nat) (b : Block) : loomRate (elapse d b) = loomRate b := rfl

theorem elapse_frac (d : Nat) (b : Block) : (elapse d b).time.frac = (d * loomRate b + b.time.frac) % 2 ^ 32 := rfl

theorem elapse_now (d : Nat) (b : Block) :
    (elapse d b).time.now = (b.time.now + (d * loomRate b + b.time.frac) / 2 ^ 32) % 2 ^ 64 := rfl

/-- A span changes the ticks and the fraction alone. -/
theorem elapse_changes (d : Nat) (b : Block) :
    elapse d b = { b with time := { b.time with now := (elapse d b).time.now, frac := (elapse d b).time.frac } } := rfl

theorem fineTime_elapse (d : Nat) (b : Block) : fineTime (elapse d b) = (fineTime b + d * loomRate b) % 2 ^ 96 := by
  unfold fineTime
  rw [elapse_now, elapse_frac]
  generalize d * loomRate b = u
  omega

theorem elapse_elapse (d e : Nat) (b : Block) : elapse e (elapse d b) = elapse (d + e) b := by
  have hfrac : (elapse e (elapse d b)).time.frac = (elapse (d + e) b).time.frac := by
    simp only [elapse_frac, loomRate_elapse, Nat.add_mul]
    omega
  have hnow : (elapse e (elapse d b)).time.now = (elapse (d + e) b).time.now := by
    simp only [elapse_now, elapse_frac, loomRate_elapse, Nat.add_mul]
    omega
  rw [elapse_changes e (elapse d b), hnow, hfrac]
  rfl

/-- Settles O8. That the fraction of a tick is kept from command to command, and that nothing else happens in a span, are the model's
reading (log entries 66 and 1). -/
theorem loomTimeAdvancesEvenly : Obligations.LoomTimeAdvancesEvenly := by
  intro b d e _ hadj
  refine ⟨?_, elapse_elapse d e b, elapse_changes d b⟩
  have hrate : (loomRate b : Int) = 2 ^ 32 + b.time.adj := Int.toNat_of_nonneg (by omega)
  have h := congrArg (Nat.cast (R := Int)) (fineTime_elapse d b)
  rw [Int.natCast_emod, Nat.cast_add, Nat.cast_mul, hrate] at h
  exact h

/-! ### Rotation of roles (R358) -/

theorem roleOf_lt {n : Nat} (hn : 0 < n) (i w : Nat) : roleOf n i w < n := Nat.mod_lt _ hn

theorem memberOf_lt {n : Nat} (hn : 0 < n) (r w : Nat) : memberOf n r w < n := Nat.mod_lt _ hn

/-- From one weft to the next a member goes on by one role. -/
theorem roleOf_succ (n i w : Nat) : roleOf n i (w + 1) = (roleOf n i w + 1) % n := by
  unfold roleOf
  rw [Nat.mod_add_mod, Nat.add_assoc]

/-- `w` steps on and `w % n` steps back are whole turns of a ring of `n` places. -/
theorem add_sub_mod_eq_turns {n : Nat} (hn : 0 < n) (w : Nat) : w + (n - w % n) = n * (w / n + 1) := by
  have hlt := Nat.mod_lt w hn
  have hw := Nat.div_add_mod w n
  rw [Nat.mul_add]
  omega

theorem memberOf_roleOf {n i : Nat} (w : Nat) (hi : i < n) : memberOf n (roleOf n i w) w = i := by
  have hn : 0 < n := by omega
  unfold memberOf roleOf
  rw [Nat.add_sub_assoc (Nat.mod_lt w hn).le, Nat.mod_add_mod, Nat.add_assoc, add_sub_mod_eq_turns hn, Nat.add_mul_mod_self_left,
    Nat.mod_eq_of_lt hi]

theorem roleOf_memberOf {n r : Nat} (w : Nat) (hr : r < n) : roleOf n (memberOf n r w) w = r := by
  have hn : 0 < n := by omega
  unfold memberOf roleOf
  rw [Nat.add_sub_assoc (Nat.mod_lt w hn).le, Nat.mod_add_mod, Nat.add_assoc, Nat.add_comm (n - _), add_sub_mod_eq_turns hn,
    Nat.add_mul_mod_self_left, Nat.mod_eq_of_lt hr]

/-- A later weft's role of a member is the role the delay would have as a member. -/
theorem roleOf_add (n i w j : Nat) : roleOf n i (w + j) = roleOf n j (i + w) := by
  unfold roleOf
  rw [show i + (w + j) = j + (i + w) by omega]

/-- Settles O35: in a weft, members and roles are each other's inverse, and so are delay and role. -/
theorem rolesRotateOnePerWeft : Obligations.RolesRotateOnePerWeft := by
  intro n w hn
  refine ⟨fun i => ⟨roleOf_lt hn i w, memberOf_roleOf w, roleOf_succ n i w⟩, fun r hr => ⟨memberOf_lt hn r w, roleOf_memberOf w hr⟩, ?_⟩
  intro i r _ hr
  refine ⟨memberOf n r (i + w), ⟨memberOf_lt hn r _, ?_⟩, fun k hk hkr => ?_⟩
  · rw [roleOf_add, roleOf_memberOf _ hr]
  · rw [← hkr, roleOf_add, memberOf_roleOf _ hk]

end Sys2Proof.Machine

/-!
PROOF. The statements of the family of the reel drive: the timing of the carrier (R340), and how the rows of the edge compiler take their
effect (R337 to R342, R353).
-/

namespace Sys2Proof.Machine

/-! ### The timing of the carrier (R340) -/

/-- The four legs' carries are cleared. -/
def clearCarries (b : Block) (p : Nat) : Block :=
  forEach (List.range 4) b fun b l => wr b (Fld.EDGE_CARRY_STATE_CARRY p l) 0

/-- A write of EDGE_CARRIER or EDGE_TIMING would leave a period that holds its pulses. -/
def PeriodHolds (b : Block) (p : Nat) : Prop := 4 * (minTicks b p + deadTicks b p) ≤ carrierTicks b p

theorem writeEdgeTiming_of_driven {b : Block} {p : Nat} (h : bridgesOff b p = false) (addr data : Nat) :
    writeEdgeTiming b p addr data = b := by
  simp [writeEdgeTiming, h]

theorem writeEdgeTiming_of_short {b : Block} {p addr data : Nat} (h : ¬ PeriodHolds (writeFields b addr data true) p) :
    writeEdgeTiming b p addr data = b := by
  unfold PeriodHolds at h
  simp [writeEdgeTiming, Nat.lt_of_not_le h]

theorem writeEdgeTiming_of_fits {b : Block} {p addr data : Nat} (hoff : bridgesOff b p = true)
    (hfits : PeriodHolds (writeFields b addr data true) p) :
    writeEdgeTiming b p addr data = clearCarries (writeFields b addr data true) p := by
  unfold PeriodHolds at hfits
  simp [writeEdgeTiming, hoff, Nat.not_lt_of_le hfits, clearCarries]

/-- A field that lies in none of the registers written to keeps its value. -/
theorem rd_forEach_wr_other {α : Type} {l : List α} {f : α → Fld} {v : α → Nat} {g : Fld} (h : ∀ x ∈ l, g.addr ≠ (f x).addr) (b : Block) :
    rd (forEach l b fun b x => wr b (f x) (v x)) g = rd b g := by
  unfold forEach
  induction l generalizing b with
  | nil => rfl
  | cons x l ih =>
    rw [List.foldl_cons, ih fun y hy => h y (List.mem_cons_of_mem _ hy), rd_wr_addr b _ _ _ (h x (by simp))]

theorem rd_clearCarries_carrier (b : Block) (p : Nat) :
    rd (clearCarries b p) (Fld.EDGE_CARRIER_CARRIER_HZ p) = rd b (Fld.EDGE_CARRIER_CARRIER_HZ p) :=
  rd_forEach_wr_other (fun l _ => by
    simp only [Fld.EDGE_CARRIER_CARRIER_HZ, Fld.EDGE_CARRY_STATE_CARRY, Reg.EDGE_CARRIER, Reg.EDGE_CARRY_STATE]; omega) b

theorem rd_clearCarries_timing (b : Block) (p lo width : Nat) :
    rd (clearCarries b p) ⟨Reg.EDGE_TIMING p, lo, width⟩ = rd b ⟨Reg.EDGE_TIMING p, lo, width⟩ :=
  rd_forEach_wr_other (fun l _ => by simp only [Fld.EDGE_CARRY_STATE_CARRY, Reg.EDGE_TIMING, Reg.EDGE_CARRY_STATE]; omega) b

theorem periodHolds_clearCarries (b : Block) (p : Nat) : PeriodHolds (clearCarries b p) p ↔ PeriodHolds b p := by
  unfold PeriodHolds minTicks deadTicks carrierTicks
  rw [rd_clearCarries_carrier, Fld.EDGE_TIMING_MIN_PULSE, Fld.EDGE_TIMING_DEAD, rd_clearCarries_timing, rd_clearCarries_timing]

/-- A field in one of the registers cleared reads 0, where they are different registers. -/
theorem rd_forEach_clear_mem {l : List Nat} {f : Nat → Fld} (hf : ∀ x y, x ≠ y → (f x).addr ≠ (f y).addr) {x : Nat} (hx : x ∈ l) (b : Block) :
    rd (forEach l b fun b y => wr b (f y) 0) (f x) = 0 := by
  induction l generalizing b with
  | nil => cases hx
  | cons y l ih =>
    by_cases hin : x ∈ l
    · exact ih hin (wr b (f y) 0)
    · obtain rfl : x = y := (List.mem_cons.mp hx).resolve_right hin
      have hother : ∀ z ∈ l, (f x).addr ≠ (f z).addr := fun z hz => hf x z fun h => hin (h ▸ hz)
      exact (rd_forEach_wr_other hother (wr b (f x) 0)).trans ((rd_wr_same b (f x) 0).trans (Nat.zero_mod _))

theorem rd_clearCarries_carry (b : Block) (p : Nat) {l : Nat} (hl : l < 4) : rd (clearCarries b p) (Fld.EDGE_CARRY_STATE_CARRY p l) = 0 :=
  rd_forEach_clear_mem (f := Fld.EDGE_CARRY_STATE_CARRY p)
    (fun x y h => by simp only [Fld.EDGE_CARRY_STATE_CARRY, Reg.EDGE_CARRY_STATE]; omega) (List.mem_range.mpr hl) b

/-- Settles O48: a write is discarded, or it is taken with the period long enough and the carries cleared after it. -/
theorem carrierPeriodsHoldTheirPulses : Obligations.CarrierPeriodsHoldTheirPulses := by
  intro b p addr data _ c
  by_cases hoff : bridgesOff b p = true
  · by_cases hfits : PeriodHolds (writeFields b addr data true) p
    · have hc : c = clearCarries (writeFields b addr data true) p := writeEdgeTiming_of_fits hoff hfits
      refine ⟨fun _ => ?_, fun h => absurd (hoff.symm.trans h) (by decide), fun _ l hl => ?_⟩
      · show PeriodHolds c p
        rw [hc]
        exact (periodHolds_clearCarries _ p).mpr hfits
      · rw [hc, rd_clearCarries_carry _ p hl]
    · have hc : c = b := writeEdgeTiming_of_short hfits
      exact ⟨fun h => hc.symm ▸ h, fun _ => hc, fun h => absurd hc h⟩
  · have hc : c = b := writeEdgeTiming_of_driven (Bool.eq_false_iff.mpr hoff) addr data
    exact ⟨fun h => hc.symm ▸ h, fun _ => hc, fun h => absurd hc h⟩

/-! ### The rows of the edge compiler (R337 to R342, R353) -/

section edgeRows

variable {b : Block} {p : Nat}

/-- The start of the period whose compile instant has come last (R337). -/
def periodStart (b : Block) (p : Nat) : Nat := (b.time.now + 8000) / carrierTicks b p * carrierTicks b p

theorem compilePeriod_of_due (hup : linkUp b p = true) (hdue : (b.edgeC p).last < periodStart b p) (lockstep : Bool) (check : Nat) :
    compilePeriod b p lockstep check =
      let t := periodStart b p
      let c := b.updEdge p fun e => { e with last := t }
      if lockstep then declare (sendEdges (allOff c p t).2 p 4 (sortEdges (allOff c p t).1)) p 1 3 0
      else if portState c p = 2 ∨ portState c p = 3 then
        let r := (List.range 4).foldl (fun (a : List Edge × Block) l =>
          let z := compileLeg a.2 p t l check
          (a.1 ++ z.1, z.2)) ([], c)
        let r2 := compileTest r.2 p t
        let r3 := compileIdle r2.2 p t
        sendEdges (r3.2.updEdge p fun e => { e with testLeft := e.testLeft - 1 }) p 8 (sortEdges (r.1 ++ r2.1 ++ r3.1))
      else sendEdges (compileOff c p t check).2 p 4 (sortEdges (compileOff c p t check).1) := by
  have hnot : ¬ periodStart b p ≤ (b.edgeC p).last := Nat.not_le.mpr hdue
  unfold periodStart at hnot ⊢
  have hup' (f : EdgeC → EdgeC) : linkUp (b.updEdge p f) p = true := hup
  simp only [compilePeriod, hnot, hup', Bool.not_true, Bool.false_eq_true, ↓reduceIte, Bool.not_eq_true', Bool.or_eq_false_iff,
    decide_eq_false_iff_not, ← not_or, ite_not]

/-- A write of EDGE_MAP that names four different bridges is taken (R353). -/
theorem writeEdgeMap_of_different {data : Nat} (h : ((List.range 4).map fun l => bitsOf data (4 * l) 3).eraseDups.length = 4) :
    writeEdgeMap b p data = writeFields b (Reg.EDGE_MAP p) data := by
  simp only [writeEdgeMap, h, ne_eq, not_true_eq_false, ↓reduceIte]

/-- A write of EDGE_TEST is taken under a grant, with both current loops in MANUAL (R341). -/
theorem writeEdgeTest_of_manual {data : Nat} (hgrant : granted b p = true) (hlet : loopMode (loopOf (b.cle p) 4) = 1)
    (htake : loopMode (loopOf (b.cle p) 5) = 1) (hstate : bitsOf data 4 2 = 1 ∨ bitsOf data 4 2 = 2) (hleft : bitsOf data 16 16 ≠ 0) :
    writeEdgeTest b p data = b.updEdge p fun e => { e with
      testBridge := bitsOf data 0 3, testState := bitsOf data 4 2, testLeft := bitsOf data 16 16 } :=
  if_pos ⟨hgrant, decide_eq_true hlet, decide_eq_true htake, hstate, hleft⟩

end edgeRows

/-- Settles O47, row by row: each command of the edge compiler runs (the part is awake), and on its occasion the branch of its meaning
that has the effect is taken. -/
theorem reelRowsTakeTheirEffect : Obligations.ReelRowsTakeTheirEffect := by
  intro dt s port ha b p
  refine ⟨?compile, ?timing, ?map, ?test⟩
  case compile =>
    intro lockstep check t hup hdue
    show execCarrierPeriodCompile dt port lockstep check s = _
    exact runCmd_eq_after ha (compilePeriod_of_due hup hdue lockstep check)
  case timing =>
    intro data hoff try_ fits left
    refine ⟨fun hr hfits => ?carrier, fun hr hfits => ?timing⟩
    case carrier =>
      show execEdgeCarrierWrite dt port data s = _
      exact runCmd_eq_after ha ((hostWrites_reaches hr.1 hr.2 rfl).trans (writeEdgeTiming_of_fits hoff hfits))
    case timing =>
      show execEdgeTimingWrite dt port data s = _
      exact runCmd_eq_after ha ((hostWrites_reaches hr.1 hr.2 rfl).trans (writeEdgeTiming_of_fits hoff hfits))
  case map =>
    intro data hr hlock hdifferent
    have hopen : ¬ configLocked b = true := Bool.eq_false_iff.mp hlock
    show execEdgeMapWrite dt port data s = _
    exact runCmd_eq_after ha ((hostWrites_reaches hr.1 hr.2 rfl).trans ((if_neg hopen).trans (writeEdgeMap_of_different hdifferent)))
  case test =>
    intro data hr hgrant hlet htake hstate hleft
    show execEdgeTestWrite dt port data s = _
    exact runCmd_eq_after ha ((hostWrites_reaches hr.1 hr.2 rfl).trans (writeEdgeTest_of_manual hgrant hlet htake hstate hleft))

end Sys2Proof.Machine

/-!
PROOF. The statements of the family of functional safety: the grant of motion (R526, R538), and how the rows of the supervisor take their
effect (R525 to R534, R538).
-/

namespace Sys2Proof.Machine

/-! ### The grant of motion (R526, R538) -/

theorem elapsed_now (b : Block) : elapsed b b.time.now = 0 := by
  have hdiv := Nat.div_add_mod b.time.now (2 ^ 64)
  have hlt := Nat.mod_lt b.time.now (Nat.two_pow_pos 64)
  unfold elapsed
  rw [show b.time.now + 2 ^ 64 - b.time.now % 2 ^ 64 = 2 ^ 64 * (b.time.now / 2 ^ 64 + 1) by omega, Nat.mul_mod_right]

theorem since_now (b : Block) : since b b.time.now = 0 := by
  simp [since, elapsed_now]

/-- A permit test that passes is fresh. -/
theorem permitFresh_permitTest (b : Block) (p : Nat) : permitFresh (permitTest b p true) p = true := by
  have hat : ((permitTest b p true).safeP p).permitAt = some b.time.now := by
    simp [permitTest]
  have hnow : since (permitTest b p true) b.time.now = 0 := since_now b
  simp only [permitFresh, hat, hnow, Nat.zero_le, decide_true]

section grant

variable {b : Block} {p : Nat}

/-- The loops leave HOLD under a grant: tension, position and speed with their outputs, the current loops with 0 (R328). -/
def freeLoops (b : Block) (p : Nat) : Block :=
  forEach [4, 5] (forEach [1, 2, 3] b fun b l => releaseLoop b p l false) fun b l => releaseLoop b p l true

/-- The port in RUN, its loops released and the supervisor's counts begun anew. -/
def inRun (b : Block) (p : Nat) : Block :=
  (freeLoops (enterPort b p 2) p).updSafe p fun s => { s with own := 0, overLet := 0, overTake := 0 }

/-- What a grant leaves: MOTION is sent where every mapped bridge is there (R353). -/
def motionGranted (b : Block) (p : Nat) : Block :=
  if bridgesFit (inRun b p) p then sendMsg (inRun b p) p 7 (leB 1 1) else inRun b p

theorem inRun_eq (b : Block) (p : Nat) :
    inRun b p =
      let c := enterPort b p 2
      let c := releaseLoop (releaseLoop (releaseLoop c p 1 false) p 2 false) p 3 false
      let c := releaseLoop (releaseLoop c p 4 true) p 5 true
      c.updSafe p fun s => { s with own := 0, overLet := 0, overTake := 0 } := by
  simp only [inRun, freeLoops, forEach, List.foldl_cons, List.foldl_nil]

theorem grantMotion_of_refused (h : grantOk b p = false) (pass : Bool) : grantMotion b p pass = b := by
  simp [grantMotion, h]

theorem portState_of_grantOk (h : grantOk b p = true) : portState b p = 1 := by
  simp only [grantOk, Bool.and_eq_true, decide_eq_true_eq] at h
  tauto

theorem grantMotion_of_fresh (h : grantOk b p = true) (hfresh : permitFresh b p = true) (pass : Bool) :
    grantMotion b p pass = motionGranted b p := by
  have hstate := portState_of_grantOk h
  simp only [grantMotion, h, hfresh, hstate, Bool.not_true, Bool.false_eq_true, ↓reduceIte, ne_eq, not_true_eq_false, or_self]
  rfl

theorem grantMotion_of_tested (h : grantOk b p = true) (hstale : permitFresh b p = false) :
    grantMotion b p true = motionGranted (permitTest b p true) p := by
  have hstate : portState (permitTest b p true) p = 1 := portState_of_grantOk (b := b) h
  simp only [grantMotion, h, hstale, permitFresh_permitTest, hstate, Bool.not_true, Bool.false_eq_true, ↓reduceIte, ne_eq,
    not_true_eq_false, or_self]
  rfl

/-- The loops of a port after one of them, or each of a list, is released. -/
theorem loopOf_releaseLoop (b : Block) (p l m : Nat) (zero : Bool) :
    loopOf ((releaseLoop b p l zero).cle p) m
      = if m = l ∧ (loopOf (b.cle p) m).hold = true then (loopOf (b.cle p) m).released zero else loopOf (b.cle p) m := by
  cases hx : (loopOf (b.cle p) l).hold with
  | false =>
    rw [releaseLoop_of_free b p l zero hx, if_neg]
    rintro ⟨rfl, hm⟩
    exact Bool.false_ne_true (hx.symm.trans hm)
  | true =>
    rw [cle_releaseLoop_of_held b p l zero hx]
    by_cases hm : m = l
    · subst hm
      rw [loopOf_updLoop_same, if_pos ⟨rfl, hx⟩]
    · rw [loopOf_updLoop_other_loop b p l _ hm, if_neg fun h => hm h.1]

theorem loopOf_releaseLoops (b : Block) (p m : Nat) (ls : List Nat) (zero : Bool) :
    loopOf ((forEach ls b fun b l => releaseLoop b p l zero).cle p) m
      = if m ∈ ls ∧ (loopOf (b.cle p) m).hold = true then (loopOf (b.cle p) m).released zero else loopOf (b.cle p) m := by
  unfold forEach
  induction ls generalizing b with
  | nil => simp
  | cons l ls ih =>
    rw [List.foldl_cons, ih, loopOf_releaseLoop]
    generalize loopOf (b.cle p) m = x
    have hreleased : (x.released zero).hold = false := rfl
    by_cases hm : m = l <;> cases hx : x.hold <;> simp [hm, hx, hreleased]

theorem hold_releaseLoops_of_mem {b : Block} {p m : Nat} {ls : List Nat} (h : m ∈ ls) (zero : Bool) :
    (loopOf ((forEach ls b fun b l => releaseLoop b p l zero).cle p) m).hold = false := by
  rw [loopOf_releaseLoops]
  split
  · rfl
  · next hfree => exact Bool.eq_false_iff.mpr fun hheld => hfree ⟨h, hheld⟩

theorem loopOf_releaseLoops_of_not_mem {b : Block} {p m : Nat} {ls : List Nat} (h : m ∉ ls) (zero : Bool) :
    loopOf ((forEach ls b fun b l => releaseLoop b p l zero).cle p) m = loopOf (b.cle p) m := by
  rw [loopOf_releaseLoops, if_neg fun hheld => h hheld.1]

/-- Releasing a loop writes registers of the control-law engine, and no port state. -/
theorem portState_releaseLoop (b : Block) (p l : Nat) (zero : Bool) : portState (releaseLoop b p l zero) p = portState b p := by
  unfold releaseLoop
  split
  · rfl
  · unfold portState showLoop
    have haddr : Reg.SAFE_PORT_STATE (p / 16) (p % 16) < portBase p := by
      unfold Reg.SAFE_PORT_STATE portBase
      omega
    have hout : Reg.SAFE_PORT_STATE (p / 16) (p % 16) ≠ Reg.CLE_LOOP_OUT p l := by unfold Reg.CLE_LOOP_OUT; omega
    have hmode : Reg.SAFE_PORT_STATE (p / 16) (p % 16) ≠ Reg.CLE_MODE p := by unfold Reg.CLE_MODE; omega
    rw [wrS, rd_wr_addr _ _ _ _ hout, rd_wr_addr _ _ _ _ hout, rd_wr_addr _ _ _ _ hmode]
    rfl

theorem portState_releaseLoops (b : Block) (p : Nat) (ls : List Nat) (zero : Bool) :
    portState (forEach ls b fun b l => releaseLoop b p l zero) p = portState b p := by
  unfold forEach
  induction ls generalizing b with
  | nil => rfl
  | cons l ls ih => rw [List.foldl_cons, ih, portState_releaseLoop]

theorem portState_enterPort (b : Block) (p : Nat) {st : Nat} (hst : st < 8) : portState (enterPort b p st) p = st := by
  have hpin (c : Block) (v : Bool) : portState (wrB c (Fld.SAFE_PORT_STATE_PIN (p / 16) (p % 16)) v) p = portState c p :=
    rd_wr_field c _ _ _ (.inr (by decide : (0 : Nat) + 3 ≤ 9))
  have hwritten (c : Block) : portState (wr c (Fld.SAFE_PORT_STATE_STATE (p / 16) (p % 16)) st) p = st :=
    (rd_wr_same c _ st).trans (Nat.mod_eq_of_lt hst)
  unfold enterPort
  simp only
  split
  · rw [hpin, hwritten]
  · exact (hpin _ _).trans (hwritten b)

theorem cle_enterPort (b : Block) (p st k : Nat) : (enterPort b p st).cle k = b.cle k := by
  unfold enterPort
  simp only
  split <;> rfl

theorem portState_congr {b c : Block} (h : c.regs = b.regs) (p : Nat) : portState c p = portState b p := by
  unfold portState rd
  rw [regGet_congr h]

@[simp] theorem sendMsg_regs (b : Block) (p typ : Nat) (payload : Bytes) : (sendMsg b p typ payload).regs = b.regs := rfl
@[simp] theorem cle_sendMsg (b : Block) (p typ : Nat) (payload : Bytes) (k : Nat) : (sendMsg b p typ payload).cle k = b.cle k := rfl
@[simp] theorem cle_updSafe (b : Block) (p k : Nat) (f : SafeP → SafeP) : (b.updSafe p f).cle k = b.cle k := rfl

/-- What a grant leaves of the port's state and its loops is what the release of the loops leaves. -/
theorem motionGranted_frame (b : Block) (p : Nat) :
    portState (motionGranted b p) p = portState (freeLoops (enterPort b p 2) p) p
      ∧ (motionGranted b p).cle p = (freeLoops (enterPort b p 2) p).cle p := by
  unfold motionGranted inRun
  split
  · exact ⟨portState_congr ((sendMsg_regs ..).trans (Block.updSafe_regs ..)) p, (cle_sendMsg ..).trans (cle_updSafe ..)⟩
  · exact ⟨portState_congr (Block.updSafe_regs ..) p, cle_updSafe ..⟩

theorem motionGranted_effect (b : Block) (p : Nat) :
    portState (motionGranted b p) p = 2
      ∧ (∀ l, 1 ≤ l → l ≤ 5 → (loopOf ((motionGranted b p).cle p) l).hold = false)
      ∧ ∀ l, 4 ≤ l → l ≤ 5 → (loopOf (b.cle p) l).hold = true → (loopOf ((motionGranted b p).cle p) l).out = 0 := by
  obtain ⟨hstate, hcle⟩ := motionGranted_frame b p
  refine ⟨?state, fun l h1 h5 => ?hold, fun l h4 h5 hheld => ?out⟩
  case state => rw [hstate, freeLoops, portState_releaseLoops, portState_releaseLoops, portState_enterPort _ _ (by decide)]
  case hold =>
    rw [hcle, freeLoops]
    by_cases hcur : l ∈ [4, 5]
    · exact hold_releaseLoops_of_mem hcur true
    · have hmotion : l ∈ [1, 2, 3] := by simp at hcur ⊢; omega
      rw [loopOf_releaseLoops_of_not_mem hcur]
      exact hold_releaseLoops_of_mem hmotion false
  case out =>
    have hcur : l ∈ [4, 5] := by simp; omega
    have hmotion : l ∉ [1, 2, 3] := by simp; omega
    rw [hcle, freeLoops, loopOf_releaseLoops, loopOf_releaseLoops_of_not_mem hmotion, cle_enterPort, if_pos ⟨hcur, hheld⟩]
    rfl

end grant

/-- Settles O50: a grant is refused where `grantOk` fails, which tests the conditions one by one; under them the test that is fresh, or
passes now, lets `motionGranted` be reached. That the loops leave HOLD so is R328; the deadlines of the heartbeats are those of R529, and
latched causes those of R531. -/
theorem grantsNeedEveryCondition : Obligations.GrantsNeedEveryCondition := by
  intro b p pass _ ok c
  have hok : grantOk b p = true ↔ ok := by
    simp only [grantOk, ok, Bool.and_eq_true, Bool.or_eq_true, decide_eq_true_eq, List.isEmpty_iff, Bool.not_eq_true', and_assoc]
  refine ⟨fun h => grantMotion_of_refused (Bool.eq_false_iff.mpr (mt hok.mp h)) pass, fun h hpermit => ?_⟩
  cases hfresh : permitFresh b p with
  | true =>
    have hc : c = motionGranted b p := grantMotion_of_fresh (hok.mpr h) hfresh pass
    rw [hc]
    exact motionGranted_effect b p
  | false =>
    obtain rfl : pass = true := hpermit.resolve_left fun h => Bool.false_ne_true (hfresh.symm.trans h)
    have hc : c = motionGranted (permitTest b p true) p := grantMotion_of_tested (hok.mpr h) hfresh
    rw [hc]
    exact motionGranted_effect (permitTest b p true) p

/-! ### The rows of the safety supervisor -/

section supervisorRows

variable {b : Block} {p : Nat}

theorem giveBack_of_idle (hrun : portState b p = 2) (hidle : writing b p = false) :
    giveBack b p = stopTuning (enterPort (dropLoops (sendMsg b p 7 (leB 1 0)) p) p 1) p := by
  have hgo : ¬ (portState b p ≠ 2 ∨ writing b p = true) := by simp [hrun, hidle]
  exact if_neg hgo

/-- A comparison notes whether the channels differ; a fault beside it, or a second difference in a row, is a fault (R529). -/
theorem compareChannels_eq (b : Block) (die : Nat) (differ : Bool) (fault : Nat) :
    compareChannels b die differ fault =
      let c := { b with sl := { b.sl with diff := tabSet false b.sl.diff die differ } }
      if fault ≠ 0 then raiseFault c die fault
      else if differ = true ∧ tabGet false b.sl.diff die = true then raiseFault c die 1 else c := by
  unfold compareChannels
  simp only [Bool.and_eq_true]

/-- A heartbeat whose OUT_CRC is right counts as received, and clears or counts OWN (R527). -/
theorem onHeartbeat_of_crc (hup : linkUp b p = true) (cleB own : Bool) :
    onHeartbeat b p cleB own true =
      let c := b.updSafe p fun s => if cleB then { s with hbB := b.time.now } else { s with hbA := b.time.now }
      let n := if own = true ∧ portState c p ≠ 2 then (c.safeP p).own + 1 else 0
      let c := c.updSafe p fun s => { s with own := n }
      if n = 2 then declare c p 8 3 0 else c := by
  simp only [onHeartbeat, hup, when, Bool.not_true, Bool.false_eq_true, ↓reduceIte, Bool.and_eq_true, bne_iff_ne]

theorem heartbeatDeadline_of_silentB (hup : linkUp b p = true) (hlate : 440000 < since b (b.safeP p).hbB) :
    heartbeatDeadline b p true = heartbeatLoss b p := by
  simp [heartbeatDeadline, hup, hlate]

theorem heartbeatDeadline_of_silentA (hup : linkUp b p = true) (hlate : 600000 < since b (b.safeP p).hbA) :
    heartbeatDeadline b p false = heartbeatLoss b p := by
  simp [heartbeatDeadline, hup, hlate]

end supervisorRows

/-- Settles O49, row by row: each command of the supervisor runs (the part is awake), and on its occasion the branch of its meaning that
has the effect is taken. The heartbeats of a port and their deadlines are those of R527 and R529. -/
theorem supervisorRowsTakeTheirEffect : Obligations.SupervisorRowsTakeTheirEffect := by
  intro dt s port ha b p
  refine ⟨?request, ?giveBack, ?compare, ?heartbeat, ?silentB, ?silentA, ?overspeed, ?clear, ?faultN, ?permit⟩
  case request =>
    intro hok hfresh _
    show execGrantRequest dt port true s = _
    refine runCmd_eq_after ha ((grantMotion_of_fresh hok hfresh true).trans ?_)
    rw [motionGranted, inRun_eq]
  case giveBack =>
    intro hrun hidle
    show execGrantReturn dt port s = _
    exact runCmd_eq_after ha (giveBack_of_idle hrun hidle)
  case compare =>
    intro die differ fault
    show execChannelCompare dt die differ fault s = _
    exact runCmd_eq_after ha (compareChannels_eq b die.val differ fault.val)
  case heartbeat =>
    intro cleB own hup
    show execCleHeartbeat dt port cleB own true s = _
    exact runCmd_eq_after ha (onHeartbeat_of_crc hup cleB own)
  case silentB =>
    intro hup hlate
    show execHeartbeatDeadline dt port true s = _
    exact runCmd_eq_after ha (heartbeatDeadline_of_silentB hup hlate)
  case silentA =>
    intro hup hlate
    show execHeartbeatDeadline dt port false s = _
    exact runCmd_eq_after ha (heartbeatDeadline_of_silentA hup hlate)
  case overspeed =>
    intro _ _ _ _ _ _ _
    show execOverspeedWindow dt port s = _
    exact runCmd_awake ha
  case clear =>
    intro data hr
    show execSafePortClear dt port data s = _
    exact runCmd_eq_after ha (hostWrites_reaches hr.1 hr.2 rfl)
  case faultN =>
    intro low
    show execFaultNExternal dt low s = _
    exact runCmd_awake ha
  case permit =>
    intro pass hsafe hstale
    have hdue : portState b p = 1 ∧ (!permitFresh b p) = true := ⟨hsafe, by rw [hstale]; rfl⟩
    show execPermitTestDue dt port pass s = _
    exact runCmd_eq_after ha (if_pos hdue)

end Sys2Proof.Machine

/-!
PROOF. The statements of the family of the ledger: the start of a page program (R480, R483), the begin of an erase (R486), and how the
rows of the ledger take their effect (R477 to R486).
-/

namespace Sys2Proof.Machine

/-! ### The start of a program (R480, R483) -/

/-- Die 0 is IDLE, and its open page of region 3 (IDENTITY, R487) holds a record and is due. -/
def identityPageDue : Block := ({} : Block).updOpenPage 3 0 fun _ => { recs := [{ data := [0] }], due := true }

/-- Refutes O43: `recordRegions`, the regions whose due pages a die programs, holds region 3 (IDENTITY) beside the regions 4 to 8 in which
records are kept in service (R487), so that a die may start a page of region 3. -/
theorem not_programsTakeAPageInOrder : ¬ Obligations.ProgramsTakeAPageInOrder := by
  intro h
  have hstarts : (startProgram identityPageDue 0).ndie 0 ≠ identityPageDue.ndie 0 := by decide +kernel
  have hpage : ((startProgram identityPageDue 0).ndie 0).progFlag = none := by decide +kernel
  have hregion : ((startProgram identityPageDue 0).ndie 0).progRegion = 3 := by decide +kernel
  obtain ⟨-, hprogram⟩ := h identityPageDue 0
  obtain ⟨-, -, -, -, hleast, -⟩ := hprogram hstarts hpage
  exact absurd (hregion ▸ hleast) (by decide)

/-! ### What a record handed to the ledger changes (R480, R481) -/

/-- `c` differs from `b` in the ledger alone: its open pages, and the states of its dies. -/
structure PagesOnly (b c : Block) : Prop where
  frame : c = { b with ledg := { b.ledg with dies := c.ledg.dies, pages := c.ledg.pages } }
  die : ∀ e, c.ndie e = { b.ndie e with state := (c.ndie e).state }

namespace PagesOnly

theorem refl (b : Block) : PagesOnly b b := ⟨rfl, fun _ => rfl⟩

theorem trans {a b c : Block} (h1 : PagesOnly a b) (h2 : PagesOnly b c) : PagesOnly a c where
  frame := by
    have h := h2.frame
    rw [h1.frame] at h
    exact h
  die e := by
    have h := h2.die e
    rw [h1.die e] at h
    exact h

theorem nblock {b c : Block} (h : PagesOnly b c) (k : Nat) : c.nblock k = b.nblock k := by
  rw [h.frame]
  rfl

theorem flags {b c : Block} (h : PagesOnly b c) (e : Nat) : (c.ndie e).flags = (b.ndie e).flags := by rw [h.die e]
theorem progFlag {b c : Block} (h : PagesOnly b c) (e : Nat) : (c.ndie e).progFlag = (b.ndie e).progFlag := by rw [h.die e]

theorem updOpenPage (b : Block) (r d : Nat) (f : OpenPage → OpenPage) : PagesOnly b (b.updOpenPage r d f) := ⟨rfl, fun _ => rfl⟩

theorem suspend (b : Block) (d : Nat) (st : NandState) : PagesOnly b (b.updNdie d fun n => { n with state := st }) where
  frame := rfl
  die e := by
    by_cases h : e = d
    · subst h
      rw [Block.updNdie_same]
    · rw [Block.updNdie_other _ _ h]

theorem intoPage (b : Block) (r d : Nat) (x : LRec) : PagesOnly b (intoPage b r d x) := by
  unfold Machine.intoPage
  simp only
  split
  · exact (suspend b d _).trans (updOpenPage _ _ _ _)
  · exact updOpenPage _ _ _ _

theorem ledgerSubmit (b : Block) (r : Nat) (data : Bytes) (hook : LHook) : PagesOnly b (ledgerSubmit b r data hook) := by
  unfold Machine.ledgerSubmit
  simp only
  split
  · exact refl b
  · split
    · exact (updOpenPage _ _ _ _).trans (intoPage _ _ _ _)
    · exact intoPage _ _ _ _

theorem ledgerSubmitAt (b : Block) (r d : Nat) (data : Bytes) (hook : LHook) : PagesOnly b (ledgerSubmitAt b r d data hook) := by
  unfold Machine.ledgerSubmitAt
  simp only
  split
  · exact refl b
  · split
    · exact (updOpenPage _ _ _ _).trans (intoPage _ _ _ _)
    · exact intoPage _ _ _ _

theorem forEach {α : Type} {f : Block → α → Block} (hf : ∀ b x, PagesOnly b (f b x)) (l : List α) (b : Block) : PagesOnly b (forEach l b f) :=
  forEach_keeps (P := PagesOnly b) (fun c x h => h.trans (hf c x)) l b (refl b)

end PagesOnly

/-! ### The begin of an erase (R486) -/

/-- The live records of a block that are nowhere else are handed to the ledger again (R485, R487). -/
def copyForward (b : Block) (k r : Nat) : Block :=
  forEach (uncopied b k r) b fun b y =>
    if twinRec y then ledgerSubmitAt b r ((diesWithout b k r y).headD (blockDie k)) y .nothing else ledgerSubmit b r y

theorem copyForward_pagesOnly (b : Block) (k r : Nat) : PagesOnly b (copyForward b k r) := by
  refine PagesOnly.forEach (fun b y => ?_) _ b
  split
  · exact .ledgerSubmitAt ..
  · exact .ledgerSubmit ..

/-- The region whose records a block holds. -/
def heldRegion (b : Block) (k : Nat) : Nat := match (b.nblock k).pages with | p :: _ => p.region | [] => regionOf k

/-- What can come of BLOCK_ERASE: nothing, the copies of live records, the retirement of a failed block, or the begin of the erase on
an IDLE die where all is copied. -/
inductive BeginErase (b : Block) (k : Nat) : Block → Prop
  | nothing : BeginErase b k b
  | copies : (b.nblock k).half = false → allCopied b k (heldRegion b k) = false → BeginErase b k (copyForward b k (heldRegion b k))
  | retires : ((b.nblock k).half = true ∨ ((b.nblock k).pages ≠ [] ∧ allCopied b k (heldRegion b k) = true)) →
      BeginErase b k (retireBlock b k)
  | begins : (b.nblock k).retired = false → (b.nblock k).failed = false →
      ((b.nblock k).half = true ∨ ((b.nblock k).pages ≠ [] ∧ allCopied b k (heldRegion b k) = true)) →
      (b.ndie (blockDie k)).state = .idle → (b.ndie (blockDie k)).flags = [] → erasing b < 4 →
      BeginErase b k (startProgram (b.updNdie (blockDie k) fun n => { n with flags := n.flags ++ [(1, k)] }) (blockDie k))

/-- A block without pages has no record that is not elsewhere. -/
theorem allCopied_of_empty {b : Block} {k : Nat} (h : (b.nblock k).pages = []) (r : Nat) : allCopied b k r = true := by
  simp [allCopied, h]

theorem beginErase_of_barred {b : Block} {k : Nat}
    (h : b.ledg.state = .scanning ∨ b.ledg.state = .failed ∨ (b.nblock k).retired = true ∨ flagBase ≤ k) : beginErase b k = b := by
  unfold beginErase
  exact if_pos (by tauto)

theorem beginErase_cases (b : Block) (k : Nat) : BeginErase b k (beginErase b k) := by
  by_cases hbarred : b.ledg.state = .scanning ∨ b.ledg.state = .failed ∨ flagBase ≤ k ∨ (b.nblock k).retired = true
  · have h : beginErase b k = b := if_pos hbarred
    rw [h]
    exact .nothing
  by_cases hempty : (!(b.nblock k).half) = true ∧ (b.nblock k).pages = []
  · have h : beginErase b k = b := (if_neg hbarred).trans (if_pos hempty)
    rw [h]
    exact .nothing
  by_cases hopen : (!(b.nblock k).half) = true ∧ takesPages (b.nblock k) = true ∧ nextBlock b (heldRegion b k) (blockDie k) = some k
  · have h : beginErase b k = b := (if_neg hbarred).trans ((if_neg hempty).trans (if_pos hopen))
    rw [h]
    exact .nothing
  by_cases hlive : (!(b.nblock k).half) = true ∧ (!allCopied b k (heldRegion b k)) = true
  · have h : beginErase b k = copyForward b k (heldRegion b k) :=
      (if_neg hbarred).trans ((if_neg hempty).trans ((if_neg hopen).trans (if_pos hlive)))
    rw [h]
    exact .copies (by simpa using hlive.1) (by simpa using hlive.2)
  have hcopied : (b.nblock k).half = true ∨ ((b.nblock k).pages ≠ [] ∧ allCopied b k (heldRegion b k) = true) := by
    cases hhalf : (b.nblock k).half with
    | true => exact .inl rfl
    | false =>
      rw [hhalf] at hempty hlive
      exact .inr ⟨fun h => hempty ⟨rfl, h⟩, by simpa using hlive⟩
  by_cases hfailed : (b.nblock k).failed = true
  · have h : beginErase b k = retireBlock b k :=
      (if_neg hbarred).trans ((if_neg hempty).trans ((if_neg hopen).trans ((if_neg hlive).trans (if_pos hfailed))))
    rw [h]
    exact .retires hcopied
  by_cases hbusy : 4 ≤ erasing b ∨ (b.ndie (blockDie k)).state ≠ .idle ∨ (b.ndie (blockDie k)).flags ≠ []
  · have h : beginErase b k = b :=
      (if_neg hbarred).trans ((if_neg hempty).trans ((if_neg hopen).trans ((if_neg hlive).trans ((if_neg hfailed).trans (if_pos hbusy)))))
    rw [h]
    exact .nothing
  have h : beginErase b k = startProgram (b.updNdie (blockDie k) fun n => { n with flags := n.flags ++ [(1, k)] }) (blockDie k) :=
    (if_neg hbarred).trans ((if_neg hempty).trans ((if_neg hopen).trans ((if_neg hlive).trans ((if_neg hfailed).trans (if_neg hbusy)))))
  rw [h]
  simp only [not_or, not_le, not_not] at hbarred hbusy
  obtain ⟨hfew, hidle, hflags⟩ := hbusy
  exact .begins (Bool.eq_false_iff.mpr hbarred.2.2.2) (Bool.eq_false_iff.mpr hfailed) hcopied hidle hflags hfew

/-- A retirement leaves the dies alone. -/
theorem ndie_retireBlock (b : Block) (k e : Nat) : (retireBlock b k).ndie e = b.ndie e := by
  have hspares (c : Block) (plane : Nat) : (checkSpares c plane).ndie e = c.ndie e := by
    unfold checkSpares
    split <;> rfl
  unfold retireBlock
  rw [hspares]
  split <;> rfl

/-- Settles O44: `BeginErase` tells what can come of the row. That live records are copied first is R487, that the copy falls within the
row is log entry 91. -/
theorem erasesWaitForCopiesAndNeverExceedFour : Obligations.ErasesWaitForCopiesAndNeverExceedFour := by
  intro b k d x r
  have hr : r = heldRegion b k := by
    unfold heldRegion
    rfl
  refine ⟨beginErase_of_barred, ?empty, ?copies, ?begun⟩
  case empty =>
    intro hhalf hpages
    by_cases hbarred : b.ledg.state = .scanning ∨ b.ledg.state = .failed ∨ flagBase ≤ k ∨ (b.nblock k).retired = true
    · exact if_pos hbarred
    · exact (if_neg hbarred).trans (if_pos ⟨(Bool.not_eq_true' _).mpr hhalf, hpages⟩)
  case copies =>
    intro hhalf hlive
    have hnot : ¬ ((b.nblock k).half = true ∨ ((b.nblock k).pages ≠ [] ∧ allCopied b k (heldRegion b k) = true)) := by
      rw [← hr, hlive]
      simpa using hhalf
    generalize hc : beginErase b k = c
    cases hc ▸ beginErase_cases b k with
    | nothing => exact ⟨rfl, rfl⟩
    | copies => exact ⟨(copyForward_pagesOnly b k _).nblock k, (copyForward_pagesOnly b k _).flags d⟩
    | retires hcopied => exact absurd hcopied hnot
    | begins _ _ hcopied => exact absurd hcopied hnot
  case begun =>
    intro hflags hprog hafter
    generalize hc : beginErase b k = c at hafter
    have hsame : ¬ ((c.ndie d).flags = (b.ndie d).flags ∧ (c.ndie d).progFlag = (b.ndie d).progFlag) := by
      rintro ⟨h1, h2⟩
      rw [h1, h2] at hafter
      exact hafter.elim hflags hprog
    cases hc ▸ beginErase_cases b k with
    | nothing => exact absurd ⟨rfl, rfl⟩ hsame
    | copies => exact absurd ⟨(copyForward_pagesOnly b k _).flags d, (copyForward_pagesOnly b k _).progFlag d⟩ hsame
    | retires => exact absurd (by rw [ndie_retireBlock]; exact ⟨rfl, rfl⟩) hsame
    | begins hkept hpassed hcopied hidle hnone hfew => exact ⟨hkept, hpassed, hr ▸ hcopied, hidle, hnone, hfew⟩

/-! ### The rows of the ledger -/

/-- A change to a die leaves the blocks. -/
@[simp] theorem nblock_updNdie (b : Block) (d k : Nat) (f : NDie → NDie) : (b.updNdie d f).nblock k = b.nblock k := rfl

section ledgerRows

variable {b : Block} {d : Nat}

/-- A page of records passes (R480). -/
theorem programDone_of_records (hstate : (b.ndie d).state = .program) (hflag : (b.ndie d).progFlag = none) (hledger : b.ledg.state ≠ .failed) :
    programDone b d true =
      let n := b.ndie d
      let c := b.updNdie d fun n => { n with state := .idle, prog := [], progFlag := none, idleSince := b.time.now }
      let c := showPage (addPage c n.progBlock { region := n.progRegion, recs := n.prog.map (·.data) }) d n.progBlock
      resumeErase (wantDie (forEach n.prog c fun c x => recDurable c d x) d) d := by
  have hopen (f : NDie → NDie) : (b.updNdie d f).ledg.state ≠ .failed := hledger
  unfold programDone
  simp only [hstate, hflag, hopen, ↓reduceIte]

/-- An erase passes, and the block is not worn out (R482, R484). -/
theorem eraseDone_of_passed (hstate : (b.ndie d).state = .erase ∨ (b.ndie d).state = .eraseSuspending)
    (hworn : (b.nblock (b.ndie d).eraseBlock).erases + 1 < 50000) :
    eraseDone b d true =
      let k := (b.ndie d).eraseBlock
      let c := b.updNdie d fun n => { n with state := .idle, idleSince := b.time.now, ranLong := false }
      let c := c.updNblock k fun x => { x with pages := [], erases := x.erases + 1, shut := false, failed := false }
      wantDie (c.updNdie d fun m => { m with flags := (2, k) :: m.flags }) d := by
  have hgood : ¬ (50000 ≤ (b.nblock (b.ndie d).eraseBlock).erases + 1 ∧ (b.ndie d).eraseBlock < flagBase) := by omega
  unfold eraseDone
  simp only [hstate, nblock_updNdie, Block.updNblock_same, hgood, ↓reduceIte]

end ledgerRows

/-- Settles O42, row by row: each command of the ledger runs (the part is awake), and on its occasion the branch of its meaning that has
the effect is taken. -/
theorem ledgerRowsTakeTheirEffect : Obligations.LedgerRowsTakeTheirEffect := by
  intro dt s die ha b d n
  refine ⟨?submit, ?gather, ?program, ?begin, ?done, ?suspend, ?run⟩
  case submit =>
    intro region data hregion hleast hmost hscan
    show execLedgerRecordSubmit dt region data s = _
    exact runCmd_eq_after ha (if_pos ⟨hregion, hleast, hmost, hscan⟩)
  case gather =>
    intro region p hrecs hscan hdue
    show execPageGatherTimeout dt region die s = _
    refine runCmd_eq_after ha (if_pos ⟨hrecs, hscan, .inr ?_⟩)
    rcases hdue with ⟨t, hurgent, hwaited⟩ | hwaited
    · refine .inl ?_
      have hurgent' : ((begun dt s).openPage region.val die.val).urgentAt = some t := hurgent
      rw [hurgent']
      exact decide_eq_true hwaited
    · exact .inr hwaited
  case program =>
    intro hstate hflag hledger
    show execPageProgramDone dt die true s = _
    exact runCmd_eq_after ha (programDone_of_records hstate hflag hledger)
  case begin =>
    intro block hblock
    show execBlockErase dt block s = _
    exact runCmd_eq_after ha (if_pos hblock)
  case done =>
    intro hstate hworn
    show execEraseDone dt die true s = _
    exact runCmd_eq_after ha (eraseDone_of_passed hstate hworn)
  case suspend =>
    intro hstate
    show execEraseSuspendDone dt die s = _
    exact runCmd_eq_after ha (if_pos hstate)
  case run =>
    intro hstate hran
    show execEraseRunExpiry dt die s = _
    exact runCmd_eq_after ha (if_pos ⟨hstate, hran⟩)

end Sys2Proof.Machine

/-!
PROOF. The management event's message (R576), and accesses that no register answers (R567, R570).
-/

namespace Sys2Proof.Machine

/-! ### The message of the management event (R41, R576) -/

/-- Whatever a step does at its end leaves what the message hangs on: the registers, the power state, and the tables of MSI-X. -/
structure SameMessage (b c : Block) : Prop where
  regs : c.regs = b.regs
  ward : c.ward = b.ward
  ctl : c.hq.msixCtl = b.hq.msixCtl
  mask : c.hq.vecMask = b.hq.vecMask

namespace SameMessage

variable {b c : Block}

theorem rd (h : SameMessage b c) (f : Fld) : rd c f = rd b f := by
  unfold Machine.rd
  rw [regGet_congr h.regs]

theorem eventsOn (h : SameMessage b c) : eventsOn c = eventsOn b := by
  unfold Machine.eventsOn
  simp only [h.rd, regGet_congr h.regs]

theorem awake (h : SameMessage b c) : awake c = awake b := by
  unfold Machine.awake
  rw [h.ward]

theorem msixAble (h : SameMessage b c) (fn v : Nat) : msixAble c fn v = msixAble b fn v := by
  unfold Machine.msixAble
  rw [h.ctl, h.mask]

theorem eventMsg (b : Block) : SameMessage b (eventMsg b) := by
  unfold Machine.eventMsg sendMsix
  split <;> exact ⟨rfl, rfl, rfl, rfl⟩

theorem of_sends (h : Sends b c) : SameMessage b c := by
  obtain ⟨o, hd, fb, rfl⟩ := h
  exact ⟨rfl, rfl, rfl, rfl⟩

end SameMessage

/-- The vector of SYS_EVENT_VEC is signalled in FN 0: its message goes out, or it becomes pending (R41). -/
theorem eventMsg_signals (b : Block) :
    let v := rd b Fld.SYS_EVENT_VEC_VECTOR
    (msixAble b 0 v = true → Output.msix 0 v ∈ (eventMsg b).out) ∧ (msixAble b 0 v = false → v ∈ (eventMsg b).hq.vecPend) := by
  intro v
  unfold eventMsg sendMsix
  constructor
  · intro h
    rw [if_pos h]
    simp [emit, v]
  · intro h
    rw [if_neg (Bool.eq_false_iff.mp h)]
    simp [v]

/-- What a settled block sends out and holds pending includes what its event message has made of the block before the codewords. -/
theorem settle_of_newEvent {b a : Block} (hbefore : eventsOn b = false) (hawake : awake (settle b a) = true)
    (hafter : eventsOn (settle b a) = true) :
    ∃ c, settle b a = lines (eventMsg c) := by
  unfold settle at hawake hafter ⊢
  simp only at hawake hafter ⊢
  generalize refreshReady (when (awake a) a fun b => sendWrites (pumpAll b)) = c at hawake hafter ⊢
  by_cases hsend : (awake c && eventsOn c && !eventsOn b) = true
  · exact ⟨c, by rw [if_pos hsend]⟩
  · have hsame := SameMessage.of_sends (lines_sends c)
    rw [if_neg hsend] at hawake hafter
    rw [hsame.awake] at hawake
    rw [hsame.eventsOn] at hafter
    exact absurd (by rw [hawake, hafter, hbefore]; rfl) hsend

/-- So it is after the codewords of the step have gone out. -/
theorem lines_eventMsg_signals (c : Block) :
    let t := lines (eventMsg c)
    let v := rd t Fld.SYS_EVENT_VEC_VECTOR
    (msixAble t 0 v = true → Output.msix 0 v ∈ t.out) ∧ (msixAble t 0 v = false → v ∈ t.hq.vecPend) := by
  intro t v
  have hlines := lines_sends (eventMsg c)
  have hsame := SameMessage.of_sends hlines
  have hmsg := SameMessage.eventMsg c
  have hv : v = rd c Fld.SYS_EVENT_VEC_VECTOR := (hsame.rd _).trans (hmsg.rd _)
  have hable : msixAble t 0 v = msixAble c 0 (rd c Fld.SYS_EVENT_VEC_VECTOR) := by rw [hsame.msixAble, hmsg.msixAble, hv]
  have hpend : t.hq.vecPend = (eventMsg c).hq.vecPend := by
    obtain ⟨o, hd, fb, h⟩ := hlines
    exact congrArg (fun b => b.hq.vecPend) h
  obtain ⟨hsent, hheld⟩ := eventMsg_signals c
  rw [hable, hv, hpend]
  exact ⟨fun h => hlines.out (hsent h), hheld⟩

/-- Settles O7: the step's end signals the vector where SYS_EVENT & SYS_EVENT_EN has become nonzero; while the part does not run, a
command leaves it so. That a masked vector becomes pending is PRESUMED (log entry 136). -/
theorem eventsSendTheirMessage : Obligations.EventsSendTheirMessage := by
  intro c s t hstep hbefore hawake hafter v
  obtain ⟨b, a, hb, ht⟩ : ∃ b a, eventsOn b = false ∧ t.blk = settle b a := by
    rcases exec_form c s with ⟨-, dt, f, h⟩ | ⟨-, dt, f, h⟩
    · cases ha : awake s.blk with
      | true =>
        obtain rfl := Host.Outcome.next.inj ((runCmd_awake ha).symm.trans (h.symm.trans hstep))
        exact ⟨begun dt s, f (begun dt s), (eventsOn_begun dt s).trans hbefore, by dsimp only [after]⟩
      | false =>
        obtain rfl := Host.Outcome.next.inj ((runCmd_asleep ha).symm.trans (h.symm.trans hstep))
        exact absurd ((ha.symm.trans (awake_begun dt s).symm).trans hawake) Bool.false_ne_true
    · obtain rfl := Host.Outcome.next.inj (h.symm.trans hstep)
      exact ⟨begun dt s, f (begun dt s), (eventsOn_begun dt s).trans hbefore, by dsimp only⟩
  rw [ht] at hawake hafter
  obtain ⟨c, hc⟩ := settle_of_newEvent hb hawake hafter
  have h := lines_eventMsg_signals c
  rw [← hc, ← ht] at h
  exact h

/-! ### Accesses that no register answers (R567, R570) -/

section absent

variable {b : Block} {who addr : Nat}

/-- An access that Die S does not answer: Die N's side forwards it, and the link is lost or Die S not released. -/
theorem awayS_iff : awayS b who addr = true
    ↔ who ≤ 4 ∧ addr / 0x10000000 = 1 ∧ (rdB b (Fld.SYS_D2D_LOST 0) = true ∨ b.boot.dieS = false) := by
  simp only [awayS, Bool.and_eq_true, Bool.or_eq_true, decide_eq_true_eq, Bool.not_eq_true', and_assoc]

theorem regRead_of_away (h : awayS b who (addr / 4 * 4) = true) :
    regRead b who addr = emit (inc b (Fld.SYS_D2D_FORWARD_ABORT 0)) (.regData 0xFFFFFFFF) := by
  simp only [regRead, readReg, h, ↓reduceIte]

theorem regAccess_of_away (h : awayS b who (addr / 4 * 4) = true) (hlow : addr / 4 * 4 < 2 ^ 32) (en data : Nat) :
    regAccess b who addr en data = inc b (Fld.SYS_D2D_FORWARD_ABORT 0) := by
  simp only [regAccess, Nat.not_le.mpr hlow, h, ↓reduceIte]

theorem regRead_of_absent (h : awayS b who (addr / 4 * 4) = false) (hreg : regFor b who (addr / 4 * 4) = none) :
    regRead b who addr = emit b (.regData 0) := by
  simp only [regRead, readReg, h, hreg, Bool.false_eq_true, ↓reduceIte]

theorem regAccess_of_absent (h : awayS b who (addr / 4 * 4) = false) (hreg : regFor b who (addr / 4 * 4) = none)
    (hlow : addr / 4 * 4 < 2 ^ 32) (en data : Nat) :
    regAccess b who addr en data = inc b (Fld.SYS_ERR_BAD_ACCESS (countDie b (addr / 4 * 4))) := by
  simp only [regAccess, Nat.not_le.mpr hlow, h, hreg, Bool.false_eq_true, ↓reduceIte]

end absent

/-- Settles O52: an access is away, or it finds no register. Which die counts, and that the functions' configuration space lies from 2^32
on, are the model's choices (log entries 39 and 136). -/
theorem absentRegistersTakeNoAccess : Obligations.AbsentRegistersTakeNoAccess := by
  intro dt s who addr ha b a
  refine ⟨fun hwho hdie hlost => ?away, fun hnot hreg => ?absent⟩
  case away =>
    have haway : awayS b who.val a = true := awayS_iff.mpr ⟨hwho, hdie, hlost⟩
    refine ⟨?_, fun en data => ?_⟩
    · show execRcRead dt who addr s = _
      exact runCmd_eq_after ha (regRead_of_away haway)
    · show execRegisterWrite dt who addr en data s = _
      exact runCmd_eq_after ha (regAccess_of_away haway (by omega) _ _)
  case absent =>
    have hhere : awayS b who.val a = false := by
      refine Bool.eq_false_iff.mpr fun h => ?_
      obtain ⟨hwho, hdie, hlost⟩ := awayS_iff.mp h
      rcases hnot with h | h | ⟨h1, h2⟩
      · omega
      · exact h hdie
      · rw [h1, h2] at hlost
        simp at hlost
    refine ⟨?_, fun en data hlow => ?_⟩
    · show execRcRead dt who addr s = _
      exact runCmd_eq_after ha (regRead_of_absent hhere hreg)
    · show execRegisterWrite dt who addr en data s = _
      exact runCmd_eq_after ha (regAccess_of_absent hhere hreg hlow _ _)

end Sys2Proof.Machine

/-!
PROOF. The statements of the family of the warden: when a decision rule acts (R553), and how the rows of the warden take their effect
(R545 to R561, R592).
-/

namespace Sys2Proof.Machine

/-! ### Decision rules (R553) -/

section rules

variable (b : Block) (r ch : Nat) (v : Int)

/-- The state of a rule, and the block with that state put in its place. -/
def ruleOf : RuleSt := tabGet {} b.ward.rules r
def putRule (x : RuleSt) : Block := b.updWard fun w => { w with rules := tabSet {} w.rules r x }

/-- A value lies beyond the rule's threshold, or beyond its hysteresis on the other side. -/
def Beyond : Prop :=
  if rdB b (Fld.WARD_RULE_BELOW r) then v < rdS b (Fld.WARD_RULE_THRESHOLD r) else rdS b (Fld.WARD_RULE_THRESHOLD r) < v
def Back : Prop :=
  if rdB b (Fld.WARD_RULE_BELOW r) then rdS b (Fld.WARD_RULE_THRESHOLD r) + (rd b (Fld.WARD_RULE_HYST r) : Int) < v
  else v < rdS b (Fld.WARD_RULE_THRESHOLD r) - (rd b (Fld.WARD_RULE_HYST r) : Int)

variable (x y : RuleSt)

@[simp] theorem ruleOf_putRule : ruleOf (putRule b r x) r = x := tabGet_tabSet_same _ _ _ _

@[simp] theorem putRule_putRule : putRule (putRule b r x) r y = putRule b r y := by
  simp only [putRule, Block.updWard, tabSet_tabSet]

/-- A rule's settings are registers, which its state leaves alone. -/
@[simp] theorem rd_putRule (f : Fld) : rd (putRule b r x) f = rd b f := rfl
theorem beyond_putRule : Beyond (putRule b r x) r v ↔ Beyond b r v := Iff.rfl
theorem back_putRule : Back (putRule b r x) r v ↔ Back b r v := Iff.rfl

variable {b r v}

theorem ruleResult_of_invalid : ruleResult b r ch v false false = putRule b r { ruleOf b r with opened := false } := by
  simp only [ruleResult, Bool.false_eq_true, Bool.not_false, ↓reduceIte]
  rfl

/-- A valid result beyond the threshold counts; it acts where it is the COUNT-th, and the rule has not fired. -/
theorem ruleResult_of_beyond (h : Beyond b r v) :
    ruleResult b r ch v true false =
      if (ruleOf b r).fired = false ∧ rd b (Fld.WARD_RULE_COUNT r) ≤ (ruleOf b r).count + 1 then
        wardAct (putRule b r { count := (ruleOf b r).count + 1, fired := true }) (rd b (Fld.WARD_RULE_ACTION r)) 1 r v
      else putRule b r { ruleOf b r with count := (ruleOf b r).count + 1, opened := false } := by
  have hbeyond : (if rdB b (Fld.WARD_RULE_BELOW r) = true then decide (v < rdS b (Fld.WARD_RULE_THRESHOLD r))
      else decide (rdS b (Fld.WARD_RULE_THRESHOLD r) < v)) = true := by
    unfold Beyond at h
    split at h <;> simp [*]
  simp only [ruleResult, hbeyond, Bool.not_true, Bool.false_eq_true, ↓reduceIte, Bool.and_eq_true, Bool.not_eq_true', decide_eq_true_eq]
  rfl

/-- A valid result that is not beyond it clears the count, and one beyond the hysteresis arms the rule again. -/
theorem ruleResult_of_not_beyond (h : ¬ Beyond b r v) [Decidable (Back b r v)] :
    ruleResult b r ch v true false = putRule b r { fired := (ruleOf b r).fired && !decide (Back b r v) } := by
  have hbeyond : (if rdB b (Fld.WARD_RULE_BELOW r) = true then decide (v < rdS b (Fld.WARD_RULE_THRESHOLD r))
      else decide (rdS b (Fld.WARD_RULE_THRESHOLD r) < v)) = false := by
    unfold Beyond at h
    split at h <;> simp_all
  have hback : (if rdB b (Fld.WARD_RULE_BELOW r) = true
      then decide (rdS b (Fld.WARD_RULE_THRESHOLD r) + (rd b (Fld.WARD_RULE_HYST r) : Int) < v)
      else decide (v < rdS b (Fld.WARD_RULE_THRESHOLD r) - (rd b (Fld.WARD_RULE_HYST r) : Int))) = decide (Back b r v) := by
    unfold Back
    split <;> simp [*]
  simp only [ruleResult, hbeyond, hback, Bool.not_true, Bool.false_eq_true, ↓reduceIte]
  rfl

/-- Of results beyond the threshold, fewer than COUNT, none acts: they are counted. -/
theorem ruleResults_counted {vs : List Int} (hvs : ∀ v ∈ vs, Beyond b r v) {n : Nat} (hn : n + vs.length < rd b (Fld.WARD_RULE_COUNT r)) :
    vs.foldl (fun b v => ruleResult b r ch v true false) (putRule b r { count := n }) = putRule b r { count := n + vs.length } := by
  induction vs generalizing n with
  | nil => rfl
  | cons v vs ih =>
    obtain ⟨hv, hvs⟩ := List.forall_mem_cons.mp hvs
    rw [List.length_cons] at hn ⊢
    have hstep : ruleResult (putRule b r { count := n }) r ch v true false = putRule b r { count := n + 1 } := by
      rw [ruleResult_of_beyond ch ((beyond_putRule ..).mpr hv), if_neg]
      · simp
      · simp only [ruleOf_putRule, rd_putRule]
        omega
    rw [List.foldl_cons, hstep, ih hvs (by omega), Nat.add_right_comm, Nat.add_assoc]

/-- The rule takes its action at the COUNT-th result in a row beyond the threshold. -/
theorem ruleResult_acts {n : Nat} (hx : ruleOf b r = { count := n }) (hv : Beyond b r v) (hn : rd b (Fld.WARD_RULE_COUNT r) ≤ n + 1) :
    ruleResult b r ch v true false
      = wardAct (putRule b r { count := n + 1, fired := true }) (rd b (Fld.WARD_RULE_ACTION r)) 1 r v := by
  rw [ruleResult_of_beyond ch hv, hx, if_pos ⟨rfl, hn⟩]

/-- A fired rule takes no action, and stays fired, at a result that is not back beyond the hysteresis. -/
theorem ruleResult_stays_fired (hfired : (ruleOf b r).fired = true) (hv : ¬ Back b r v) :
    ∃ x : RuleSt, x.fired = true ∧ ruleResult b r ch v true false = putRule b r x := by
  classical
  by_cases hbeyond : Beyond b r v
  · refine ⟨_, ?_, (ruleResult_of_beyond ch hbeyond).trans (if_neg fun h => Bool.false_ne_true (h.1.symm.trans hfired))⟩
    exact hfired
  · refine ⟨_, ?_, ruleResult_of_not_beyond ch hbeyond⟩
    simp [hfired, hv]

theorem ruleResults_stay_fired {vs : List Int} (hfired : (ruleOf b r).fired = true) (hvs : ∀ v ∈ vs, ¬ Back b r v) :
    let c := vs.foldl (fun b v => ruleResult b r ch v true false) b
    c = { b with ward := { b.ward with rules := c.ward.rules } } ∧ (ruleOf c r).fired = true := by
  induction vs generalizing b with
  | nil => exact ⟨rfl, hfired⟩
  | cons v vs ih =>
    obtain ⟨hv, hvs⟩ := List.forall_mem_cons.mp hvs
    obtain ⟨x, hx, hstep⟩ := ruleResult_stays_fired ch hfired hv
    rw [List.foldl_cons, hstep]
    obtain ⟨hframe, hstays⟩ := ih (b := putRule b r x) (by simpa using hx) fun u hu => mt (back_putRule ..).mp (hvs u hu)
    exact ⟨hframe.trans rfl, hstays⟩

end rules

/-- Settles O57: results beyond the threshold are counted up to the COUNT-th, which acts; a fired rule only counts, until a result beyond
the hysteresis on the other side. -/
theorem rulesActOncePerExcursion : Obligations.RulesActOncePerExcursion := by
  intro b r ch th hy below beyond back of put
  refine ⟨?invalid, ?counts, ?first, ?fired, ?armed⟩
  case invalid =>
    intro v
    have hof : of (ruleResult b r ch v false false) = { of b with opened := false } := by
      rw [ruleResult_of_invalid]
      exact ruleOf_putRule ..
    exact ⟨by rw [hof], by rw [hof]⟩
  case counts =>
    intro hnew vs hne hvs hfew
    refine ⟨?_, fun v hv hcount => ?_⟩
    · cases vs with
      | nil => exact absurd rfl hne
      | cons v vs =>
        obtain ⟨hv, hvs⟩ := List.forall_mem_cons.mp hvs
        rw [List.length_cons] at hfew ⊢
        have hfirst : ruleResult b r ch v true false = putRule b r { count := 1 } := by
          have hof : ruleOf b r = {} := hnew
          rw [ruleResult_of_beyond ch hv, hof, if_neg fun h => absurd h.2 (by dsimp only; omega)]
        rw [List.foldl_cons, hfirst, ruleResults_counted ch hvs (by omega), Nat.add_comm]
        rfl
    · have hput : ruleResult (putRule b r { count := vs.length }) r ch v true false
          = wardAct (putRule (putRule b r { count := vs.length }) r { count := vs.length + 1, fired := true })
            (rd b (Fld.WARD_RULE_ACTION r)) 1 r v :=
        ruleResult_acts ch (ruleOf_putRule ..) ((beyond_putRule ..).mpr hv) hcount.ge
      rw [putRule_putRule] at hput
      exact hput
  case first =>
    intro hnew hcount v hv
    exact ruleResult_acts (n := 0) ch hnew hv hcount.le
  case fired =>
    exact fun hfired _ vs hvs => ruleResults_stay_fired ch hfired hvs
  case armed =>
    classical
    intro v hv hnot
    have hof : of (ruleResult b r ch v true false) = { fired := (of b).fired && !decide (Back b r v) } := by
      rw [ruleResult_of_not_beyond ch hnot]
      exact ruleOf_putRule ..
    have hback : Back b r v := hv
    rw [hof]
    simp [hback]

/-! ### The rows of the warden -/

/-- An event of the warden has its effect in every power state. -/
theorem runWard_eq_after {dt : Nat} {s : State} {f g : Block → Block} (h : f (begun dt s) = g (begun dt s)) :
    runWard dt s f = .next (after dt s g) := by
  simp only [runWard, after, h]

section wardenRows

variable {b : Block}

theorem wakeTimer_of_due (hset : rd b Fld.WARD_CTRL_WAKE_AFTER ≠ 0)
    (hdue : rd b Fld.WARD_CTRL_WAKE_AFTER * 4000000000 ≤ since b b.ward.dormantAt) : wakeTimer b = wake b :=
  if_pos ⟨hset, hdue⟩

/-- The part may resume: the resume block is intact, nothing has tampered, and the booted slot is unchanged (R547). -/
def ResumeFits (b : Block) (intact : Bool) : Prop :=
  intact = true ∧ b.ward.resume = true ∧ tampered b = false
    ∧ (slotVerify b (rd b Fld.BOOT_STATE_SLOT)).map sha384 = some b.boot.slotDigest

theorem powerGood_of_waking (hwaking : b.ward.power = .waking) (intact : Bool) :
    (ResumeFits b intact → powerGood b intact = flushDormLog (beamWake (b.updWard fun w => { w with power := .run, resume := false })))
      ∧ (¬ ResumeFits b intact → powerGood b intact = flushDormLog (resetPart b 4 false)) := by
  have hfits : (intact && b.ward.resume && !tampered b
      && decide ((slotVerify b (rd b Fld.BOOT_STATE_SLOT)).map sha384 = some b.boot.slotDigest)) = true ↔ ResumeFits b intact := by
    simp only [ResumeFits, Bool.and_eq_true, Bool.not_eq_true', decide_eq_true_eq, and_assoc]
  have hwakes : ¬ b.ward.power ≠ .waking := not_not.mpr hwaking
  exact ⟨fun h => (if_neg hwakes).trans (if_pos (hfits.mpr h)), fun h => (if_neg hwakes).trans (if_neg (mt hfits.mp h))⟩

theorem railTimeout_of_due (hwaking : b.ward.power = .waking) (hdue : 4000000000 ≤ since b b.ward.wakeAt) :
    railTimeout b = emit
      (wardLog (b.updWard fun w => { w with power := .dormant, pwrEn := false, dormantAt := b.time.now }) 0 4 0 1) (.pin 13 false) := by
  have hgo : ¬ (b.ward.power ≠ .waking ∨ since b b.ward.wakeAt < tS) := by
    unfold tS
    simp [hwaking, hdue]
  exact if_neg hgo

theorem voltageTamper_of_long {core : Bool} {nanos : Nat} (hlong : 1000 < nanos) (hrail : core = false ∨ b.ward.power = .run) :
    voltageTamper b core nanos = tamperAlarm b 9 := by
  refine if_pos ?_
  rcases hrail with h | h <;> simp [hlong, h]

theorem recordWritten_of_writing (h : b.ward.writing = true) :
    recordWritten b = b.updWard fun w => { w with writing := false, nvm := (true, rd b Fld.WARD_STATUS_CAUSE, w.count) } := by
  simp only [recordWritten, Block.updWard, h, ↓reduceIte]

/-- A transfer with a pointer and bytes to read (R561). -/
theorem i2cTransfer_of_reads {bytes : Bytes} {reads : Nat} (hptr : 2 ≤ bytes.length) (hreads : 0 < reads) :
    i2cTransfer b bytes reads =
      let c := i2cWrites (b.updWard fun w => { w with ptr := fieldAt bytes 0 2 }) (bytes.drop 2)
      emit (c.updWard fun w => { w with ptr := (c.ward.ptr + reads) % 65536 })
        (.i2cData ((List.range reads).map fun i => i2cByte c (c.ward.ptr + i))) :=
  (if_neg (Nat.not_lt.mpr hptr)).trans (if_neg hreads.ne')

end wardenRows

/-- Settles O55, row by row: the events of the warden have their effect in every power state, its registers' rows while the part runs;
on its occasion the branch of a row's meaning that has the effect is taken. The entry of a rail time-out is the model's (log entry 60). -/
theorem wardenRowsTakeTheirEffect : Obligations.WardenRowsTakeTheirEffect := by
  intro dt s b n
  refine ⟨?wakeN, ?wakeAfter, ?i2cWake, ?powerGood, ?rail, ?conversion, ?mesh, ?tamperN, ?voltage, ?temperature, ?clock, ?record,
    ?transfer, ?quote, ?registers⟩
  case wakeN =>
    intro micros hlow
    show execWardWakeN dt micros s = _
    exact runWard_eq_after (if_pos hlow)
  case wakeAfter =>
    intro hset hdue
    show execWakeAfterExpiry dt s = _
    exact runWard_eq_after (wakeTimer_of_due hset hdue)
  case i2cWake =>
    show execI2cWake dt 1 s = _
    exact runWard_eq_after (if_pos rfl)
  case powerGood =>
    intro intact hwaking fit
    obtain ⟨hresumes, hresets⟩ := powerGood_of_waking (b := b) hwaking intact
    constructor
    · intro h
      show execPowerGoodResume dt intact s = _
      exact runWard_eq_after (hresumes h)
    · intro h
      show execPowerGoodResume dt intact s = _
      exact runWard_eq_after (hresets h)
  case rail =>
    intro hwaking hdue
    show execWakeRailTimeout dt s = _
    exact runWard_eq_after (railTimeout_of_due hwaking hdue)
  case conversion =>
    intro value near
    show execConversionResult dt value near s = _
    exact runWard_eq_after rfl
  case mesh =>
    intro pair
    show execMeshFault dt pair s = _
    exact runWard_eq_after rfl
  case tamperN =>
    intro k micros hlow
    show execTamperNLow dt k micros s = _
    exact runWard_eq_after (if_pos hlow)
  case voltage =>
    intro core nanos hlong hrail
    show execVoltageTamper dt core nanos s = _
    exact runWard_eq_after (voltageTamper_of_long hlong hrail)
  case temperature =>
    intro temp hout
    show execTemperatureTamper dt temp s = _
    exact runWard_eq_after (if_pos hout)
  case clock =>
    show execClockTamper dt s = _
    exact runWard_eq_after rfl
  case record =>
    intro hwriting
    show execTamperRecordWritten dt s = _
    exact runWard_eq_after (recordWritten_of_writing hwriting)
  case transfer =>
    intro bytes reads hptr hreads
    show execI2cTransfer dt bytes reads s = _
    exact runWard_eq_after (i2cTransfer_of_reads hptr hreads)
  case quote =>
    intro value
    show execI2cQuoteRequest dt value s = _
    exact runWard_eq_after rfl
  case registers =>
    intro ha data
    refine ⟨fun hr => ⟨?_, ?_⟩, fun ch hr => ?_, fun hr => ?_⟩
    · show execDormantRequest dt data s = _
      exact runCmd_eq_after ha (hostWrites_reaches hr.1 hr.2 rfl)
    · show execAlertClear dt data s = _
      exact runCmd_eq_after ha (hostWrites_reaches hr.1 hr.2 rfl)
    · show execWardChCfgWrite dt ch data s = _
      exact runCmd_eq_after ha (hostWrites_reaches hr.1 hr.2 rfl)
    · show execTamperClearGo dt data s = _
      exact runCmd_eq_after ha (hostWrites_reaches hr.1 hr.2 rfl)

end Sys2Proof.Machine

/-!
PROOF. The statement of the family of start-up: how the rows of start-up, recovery and reset take their effect (R494 to R515).
-/

namespace Sys2Proof.Machine

/-! ### What the steps of start-up do where they are due -/

section startUp

variable {b : Block}

/-- The configuration is locked at the end of the first fill (R497 step 13, R509). -/
theorem configLock_of_due (hstate : rd b Fld.BOOT_STATE_STATE = 2) (hopen : configLocked b = false) (hkey : b.beam.hashKey.isSome = true)
    (hfilled : min (beamC b) (rd b Fld.BEAM_POOL_POOL_STEPS) ≤ rd b Fld.BEAM_POOL_RELEASED_STEPS) :
    configLock b =
      let c := wr (measure48 b 8 (rwlBytes b)) Fld.BOOT_STATE_CONFIG_LOCK 1
      { c with ledg := { c.ledg with inService := true }, boot := { c.boot with lockAt := c.time.now } } := by
  have hgo : ¬ (bootState b ≠ 2 ∨ configLocked b = true ∨ b.beam.hashKey.isNone = true
      ∨ rd b Fld.BEAM_POOL_RELEASED_STEPS < min (beamC b) (rd b Fld.BEAM_POOL_POOL_STEPS)) := by
    have hsome : b.beam.hashKey.isNone = false := by rw [← Option.not_isSome, hkey]; rfl
    rw [bootState, hstate, hopen, hsome]
    simp [Nat.not_lt.mpr hfilled]
  exact if_neg hgo

/-- READY, 10 ms after the lock (R497 step 14). -/
theorem readyReached_of_due (hstate : rd b Fld.BOOT_STATE_STATE = 2) (hlocked : configLocked b = true)
    (hwaited : reached b (b.boot.lockAt + 40000000) = true) :
    readyReached b =
      let c := wr (wr b Fld.BOOT_STATE_STATE 3) Fld.BOOT_TIME_MS (satN 16 (since b b.boot.since / 4000000))
      setEvent { c with boot := { c.boot with dogs := 0 } } 0 := by
  have hgo : ¬ (bootState b ≠ 2 ∨ (!configLocked b) = true ∨ (!reached b (b.boot.lockAt + 10 * tMs)) = true) := by
    rw [bootState, hstate, hlocked, tMs, hwaited]
    simp
  exact if_neg hgo

/-- The boot watchdog resets the part (R502). -/
theorem bootWatchdog_of_expired (hstate : rd b Fld.BOOT_STATE_STATE < 3) (hlong : 80000000000 + legacyTicks b ≤ since b b.boot.since) :
    bootWatchdog b = resetPart b 3 false := by
  have hgo : ¬ (3 ≤ bootState b ∨ since b b.boot.since < 20 * tS + legacyTicks b) := by
    unfold bootState tS
    omega
  exact if_neg hgo

theorem loseD2d_of_up {die : Nat} (hup : rdB b (Fld.SYS_D2D_LINK_UP die) = true) :
    loseD2d b die = if die = 1 then loseD2dS b else loseD2dN b := by
  simp only [loseD2d, hup, Bool.not_true, Bool.false_eq_true, ↓reduceIte]

theorem romStart_of_started (hrom : b.boot.rom = true) : romStart b = b := if_pos hrom

end startUp

/-! ### ROM recovery (R510, R511, R514) -/

section romRecovery

variable {b : Block} (hrom : b.boot.rom = true) (hstate : rd b Fld.BOOT_STATE_STATE = 4)

include hrom hstate

/-- The slot operations are made in ROM recovery, where their registers decode. -/
theorem rcvOp_of_recovery (f : Block → Block) : rcvOp b f = f b := by
  have hdec : decodes b 0 Reg.BOOT_RCV_CTRL = true := by
    unfold decodes
    simp [hstate, Reg.BOOT_RCV_CTRL]
  simp only [rcvOp, romStart_of_started hrom, hdec, bootState, hstate, Bool.not_true, Bool.false_eq_true, ↓reduceIte]

theorem provGo_of_blank {data : Nat} (hblank : b.fuse.lifecycle = 0) (hgo : data.testBit 0 = true) (hidle : rd b Fld.BOOT_PROV_STATUS_STATUS = 0) :
    provGo b data true =
      let d := provData b
      wr { b with fuse := { b.fuse with keyRoot := slice d 0 32, ownerKeyHash := slice d 32 48, lifecycle := 1 } }
        Fld.BOOT_PROV_STATUS_STATUS 2 := by
  have hmade : ¬ (bootState b ≠ 4 ∨ b.fuse.lifecycle ≠ 0 ∨ (!bitOf data 0) = true ∨ rd b Fld.BOOT_PROV_STATUS_STATUS ≠ 0) := by
    rw [bootState, hstate, hblank, hidle, bitOf, hgo]
    simp
  simp only [provGo, romStart_of_started hrom, hmade, ↓reduceIte]

theorem decommission_of_go {data : Nat} (hgo : data.testBit 1 = true) :
    decommission b data = { b with fuse := { b.fuse with lifecycle := 2 } } := by
  simp only [decommission, romStart_of_started hrom, bootState, hstate, bitOf, hgo, and_self, ↓reduceIte]

end romRecovery

/-- Settles O54, row by row: resets and the loss of power have their effect in every power state, the other rows while the part runs; on
its occasion the branch of a row's meaning that has the effect is taken. -/
theorem bootRowsTakeTheirEffect : Obligations.BootRowsTakeTheirEffect := by
  intro dt s b st
  refine ⟨?reset, ?inputs, ?powerLoss, fun ha => ⟨?perst, ?scan, ?roles, ?slot, ?image, ?key, ?train, ?lock, ?ready, ?watchdog, ?d2d, ?recovery,
    ?registers⟩⟩
  case reset =>
    intro cause hpower
    have hgo : ¬ ((begun dt s).ward.power = .dormant ∧ cause ≠ 0) := by tauto
    have hon : decide (cause = 0) = decide (cause.val = 0) := decide_eq_decide.mpr Fin.ext_iff
    show execResetOfPart dt cause s = _
    refine runWard_eq_after ((if_neg hgo).trans ?_)
    rw [hon]
  case inputs =>
    intro micros hlow
    constructor
    · show execPorN dt micros s = _
      exact runWard_eq_after (if_pos hlow)
    · intro hpower
      show execSysResetN dt micros s = _
      exact runWard_eq_after (if_pos ⟨hlow, hpower⟩)
  case powerLoss =>
    show execPowerLoss dt s = _
    exact runWard_eq_after rfl
  case perst =>
    intro portB
    show execPerstN dt portB s = _
    exact runCmd_awake ha
  case scan =>
    intro blank corrupt fixed wrong _ _
    show execLedgerScan dt ⟨blank, corrupt, fixed, wrong⟩ s = _
    exact runCmd_awake ha
  case roles =>
    intro linked roleN roleS _ _ _
    show execRoleConfirm dt linked roleN roleS s = _
    exact runCmd_awake ha
  case slot =>
    intro selftest _ _
    show execSlotSelect dt selftest s = _
    exact runCmd_awake ha
  case image =>
    intro m0 m1 _ _
    show execBenakRead dt m0 m1 s = _
    exact runCmd_awake ha
  case key =>
    intro _ _ _ _
    show execAttestKeyGen dt s = _
    exact runCmd_awake ha
  case train =>
    intro channels dpc cap mr uni rate mis _ _
    show execBeamTrain dt channels dpc cap mr uni rate mis s = _
    exact runCmd_awake ha
  case lock =>
    intro hstate hopen hkey hfilled
    show execConfigLock dt s = _
    exact runCmd_eq_after ha (configLock_of_due hstate hopen hkey hfilled)
  case ready =>
    intro hstate hlocked hwaited
    show execReadyReached dt s = _
    exact runCmd_eq_after ha (readyReached_of_due hstate hlocked hwaited)
  case watchdog =>
    intro hstate hlong
    show execBootWatchdogExpiry dt s = _
    exact runCmd_eq_after ha (bootWatchdog_of_expired hstate hlong)
  case d2d =>
    intro die hup
    show execD2dLinkLoss dt die s = _
    exact runCmd_eq_after ha (loseD2d_of_up hup)
  case recovery =>
    intro data fail pass hstate hrom
    refine ⟨?_, ?_, ?_, fun hblank hgo hidle => ?_, fun hgo => ?_⟩
    · show execRcvErase dt data fail s = _
      exact runCmd_awake ha
    · show execRcvProgram dt data pass s = _
      exact runCmd_awake ha
    · show execRcvVerify dt data s = _
      exact runCmd_eq_after ha (rcvOp_of_recovery hrom hstate _)
    · show execProvGo dt data true s = _
      exact runCmd_eq_after ha (provGo_of_blank hrom hstate hblank hgo hidle)
    · show execDecommission dt data s = _
      exact runCmd_eq_after ha (decommission_of_go hrom hstate hgo)
  case registers =>
    intro data
    refine ⟨fun hr => ⟨?_, ?_⟩, fun hr => ?_⟩
    · show execBootReset dt data s = _
      exact runCmd_eq_after ha (hostWrites_reaches hr.1 hr.2 rfl)
    · show execCommitSvn dt data s = _
      exact runCmd_eq_after ha (hostWrites_reaches hr.1 hr.2 rfl)
    · show execPcrExtend dt data s = _
      exact runCmd_eq_after ha (hostWrites_reaches hr.1 hr.2 rfl)

end Sys2Proof.Machine

/-!
PROOF. The write-back of a merge entry (R419, R421, R426).
-/

namespace Sys2Proof.Machine

theorem lineAt_putLine_same (b : Block) (line : Nat) (l : BeamLine) : lineAt (putLine b line l) line = l :=
  tabGet_tabSet_same zeroLine b.beam.lines line l

/-- Counting a write-back and closing its entry leave the lines that the model keeps. -/
theorem listed_inc_dropMerge (b : Block) (line : Nat) (f : Fld) (k : Nat) : listed (inc (dropMerge b line) f) k = listed b k := rfl

@[simp] theorem length_overlay (old data : Bytes) (mask : Nat) : (overlay old data mask).length = 64 := by
  simp [overlay]

/-- A masked byte of a line of 64 is the entry's. -/
theorem getD_overlay_of_testBit (old data : Bytes) {mask i : Nat} (hi : i < 64) (hmask : mask.testBit i = true) :
    (overlay old data mask).getD i 0 = data.getD i 0 := by
  simp [overlay, List.getD_eq_getElem?_getD, bitOf, hi, hmask]

@[simp] theorem data_goodLine (data : Bytes) : (goodLine data).data = data := rfl
@[simp] theorem data_poisonLine (data : Bytes) : (poisonLine data).data = data := rfl

/-- The line that a write-back leaves, by the class of its read: fresh check symbols, or those of stored poison (R426). -/
def mergedLine (data : Bytes) : BeamClass → BeamLine
  | .clean | .corrected _ => goodLine data
  | .uncorrectable | .storedPoison => poisonLine data

@[simp] theorem data_mergedLine (data : Bytes) (c : BeamClass) : (mergedLine data c).data = data := by
  cases c <;> rfl

/-- Whatever the class of the read, the last thing a write-back does to a line that the model keeps is to put it. -/
theorem lineAt_rmw {b : Block} {e : MergeEntry} {errs : List (Nat × Nat × Nat)} (hlisted : listed b e.line = true) :
    lineAt (rmw b e errs) e.line =
      mergedLine (overlay (corrected (lineAt b e.line) errs) e.data e.mask) (beamClass (readCws (lineAt b e.line) errs)) := by
  simp only [rmw, listed_inc_dropMerge, hlisted, ↓reduceIte]
  cases hread : beamClass (readCws (lineAt b e.line) errs) <;> exact lineAt_putLine_same ..

/-- Settles O33: the line is the entry's bytes over those read, put with the check symbols that the class of the read gives. -/
theorem mergedLinesAreRewrittenOrPoisoned : Obligations.MergedLinesAreRewrittenOrPoisoned := by
  intro b e errs hlisted data now
  have hnow : now = mergedLine data (beamClass (readCws (lineAt b e.line) errs)) := lineAt_rmw hlisted
  refine ⟨?byClass, ?size, ?masked⟩
  case byClass =>
    rw [hnow]
    cases beamClass (readCws (lineAt b e.line) errs) <;> rfl
  case size => rw [hnow, data_mergedLine, length_overlay]
  case masked =>
    intro i hi hmask
    rw [hnow, data_mergedLine, getD_overlay_of_testBit _ _ hi hmask]

end Sys2Proof.Machine

/-!
PROOF. The statements of the families of cross-device wefts and of the shuttle fabric: how their rows take their effect (R368 to R383, R445
to R467).
-/

namespace Sys2Proof.Machine

/-! ### Cross-device wefts -/

/-- A LAUNCH that is missing with a member here present drops the plan and the weft, and the group stops. -/
theorem launchMissing_of_due {b : Block} {g : Nat} {x : Plan} {m : Nat × Member}
    (hplan : (b.fab.plans.find? fun p => p.g = g && p.launch && !p.launched) = some x) (hdue : reached b (x.l - 80000) = true)
    (hm : m ∈ localMembers b (b.grp g)) (hhere : memberAbsent b m.2 = false) :
    launchMissing b g =
      stopGroup (dropWeft (b.updFab fun f => { f with plans := f.plans.filter fun y => !(y.g = g && y.weft = x.weft) }) g x.weft) g 1 := by
  have hany : ((localMembers b (b.grp g)).any fun y => !memberAbsent b y.2) = true :=
    List.any_eq_true.mpr ⟨m, hm, by rw [hhere]; rfl⟩
  simp only [launchMissing, hplan, hdue, hany, and_self, ↓reduceIte]

/-- Settles O60, row by row: on its occasion the guard of a row's meaning holds. That LAUNCH carries the weft's OWNER in bytes 26 and 27 is
the layout of log entry 54 (with 103 and 132). -/
theorem crossRowsTakeTheirEffect : Obligations.CrossRowsTakeTheirEffect := by
  intro dt s ha b
  refine ⟨?group, ?message, ?report⟩
  case group =>
    intro g q tw
    constructor
    · intro _ _ _ _ _
      show execCrossPlanEval dt g s = _
      exact runCmd_awake ha
    · intro x m hplan hdue hm hhere
      show execLaunchMissing dt g s = _
      exact runCmd_eq_after ha (launchMissing_of_due hplan hdue hm hhere)
  case message =>
    intro port src m hup
    refine ⟨?plan, ?launch, ?other, ?manager, ?regen, ?queue⟩
    case plan =>
      show execPlan dt port src m s = _
      exact runCmd_eq_after ha (if_pos hup)
    case launch =>
      intro hhold hsrc
      show execLaunch dt port src m s = _
      exact runCmd_eq_after ha (if_pos ⟨hup, Option.isNone_iff_eq_none.mpr hhold, hsrc⟩)
    case other =>
      intro hsrc
      constructor
      · show execVerdict dt port src m s = _
        exact runCmd_eq_after ha (if_pos ⟨hup, hsrc⟩)
      · show execRow dt port src m s = _
        exact runCmd_eq_after ha (if_pos ⟨hup, hsrc⟩)
    case manager =>
      intro hmgr
      constructor
      · show execOutcome dt port src m s = _
        exact runCmd_eq_after ha (if_pos ⟨hup, hmgr⟩)
      · show execDeclare dt port src m s = _
        exact runCmd_eq_after ha (if_pos ⟨hup, hmgr⟩)
    case regen =>
      show execRegen dt port src m s = _
      exact runCmd_eq_after ha (if_pos hup)
    case queue =>
      show execQueue dt port src m s = _
      exact runCmd_eq_after ha (if_pos hup)
  case report =>
    intro _ _
    show execQueueReport dt s = _
    exact runCmd_awake ha

/-! ### The ports of the fabric -/

section port

variable {b : Block} {p : Nat}

theorem shutRetry_of_down (hthere : shutThere b p = true) (hon : shutOn b p = true) (hdown : shutState b p = 3)
    (hlong : 400000000 ≤ since b (b.shut p).downAt) : shutRetry b p = shutTrain b p := by
  have hgo : shutState b p = 3 ∧ 100 * tMs ≤ since b (b.shut p).downAt := ⟨hdown, hlong⟩
  simp only [shutRetry, hthere, hon, Bool.not_true, Bool.false_eq_true, or_self, ↓reduceIte, hgo, and_self]

theorem creditIn_of_up (hup : shutUp b p = true) (lane cells : Nat) :
    creditIn b p lane cells =
      pumpBulk (b.updShut p fun h => { h with credits := tabUpd 0 h.credits lane fun c => min 128 (c + cells) }) p 16 := by
  simp only [creditIn, hup, Bool.not_true, Bool.false_eq_true, ↓reduceIte]

theorem heartbeatMiss_of_silent (hparent : b.fab.parent = some p) (hlong : 12000000 ≤ since b (b.shut p).heardAt) :
    heartbeatMiss b = chooseParent (b.updShut p fun h => { h with heard := [] }) := by
  have hgo : 3 * tMs ≤ since b (b.shut p).heardAt ∨ (!shutUp b p) = true := .inl hlong
  simp only [heartbeatMiss, hparent, hgo, ↓reduceIte]

theorem parentExchange_of_up (hparent : b.fab.parent = some p) (hup : shutUp b p = true) (hroot : isRoot b = false) (t1 t2 t3 t4 : Nat) :
    parentExchange b t1 t2 t3 t4 =
      let d := Int.tdiv (((t4 : Int) - t1) - ((t3 : Int) - t2)) 2
      let theta := (t2 : Int) - t1 - d
      let c := wr b (Fld.SHUT_PORT_DELAY_D (p / 2) (p % 2)) (satN 16 d.toNat)
      let c := steer (c.updTime fun t => { t with theta := theta, delay := d }) theta
      let c := c.updTime fun t => { t with lastExchange := t.now, missed := 0, errorEst := t.parentErr + 6 + max 4 theta.natAbs }
      checkFault (wr c Fld.TIME_STATUS_STATE 2) true := by
  simp only [parentExchange, hparent, hup, hroot, Bool.not_true, Bool.false_eq_true, or_self, ↓reduceIte]

end port

/-! ### Loom time and the manager -/

section fabric

variable {b : Block}

/-- Holdover begins: it is logged, and ADJ is held at the mean of the last ones (R457). -/
theorem holdover_of_cut_off (hroot : isRoot b = false) (hfabric : hasFabric b = true) (hparent : b.fab.parent = none)
    (hstate : rd b Fld.TIME_STATUS_STATE ≠ 3) :
    holdover b =
      let c := (fabricLog (wr b Fld.TIME_STATUS_STATE 3) 0 4 0xFF 0).updTime fun t =>
        { t with
          holdBase := t.errorEst, missed := 3,
          adj := if t.adjs.length = 0 then t.adj else Int.tdiv (t.adjs.foldl (· + ·) 0) t.adjs.length }
      let grown := rd c Fld.TIME_CTRL_HOLDOVER_PPB * since c c.time.lastExchange / 1000000000
      checkFault (c.updTime fun t => { t with errorEst := t.holdBase + grown }) false := by
  simp only [holdover, hroot, hfabric, hparent, hstate, Option.isSome_none, Bool.not_true, Bool.false_eq_true, false_and, or_self, ↓reduceIte]

theorem refLost_of_root (hroot : refRoot b = true) :
    refLost b false = wr (fabricLog b 0 15 0xFF 0) Fld.TIME_STATUS_REF_LOCK 0 := by
  simp only [refLost, hroot, Bool.not_true, Bool.false_eq_true, false_and, or_self, ↓reduceIte]

theorem refBack_of_root (hroot : refRoot b = true) (adj : Int) :
    refBack b false adj =
      let a := clampI (-42950) 42950 adj
      showTime (wr (b.updTime fun t => { t with adj := a, adjs := (a :: t.adjs).take 16 }) Fld.TIME_STATUS_REF_LOCK 1) := by
  simp only [refBack, hroot, Bool.not_true, Bool.false_eq_true, false_and, or_self, ↓reduceIte]

theorem dieAlign_of_far {err : Int} (hfar : 8 < err.natAbs) :
    dieAlign b err = forEach (List.range 16) (wrS b Fld.TIME_DIE_ERROR err) fun b i => timeError b (16 + i) := if_pos hfar

theorem election_of_due (hrole : fabRole b = 1) (hprio : ownPriority b ≠ 0) (hhold : b.fab.hold = none) (hmgr : b.fab.mgr = none)
    (hlong : (20 + 10 * (ownPriority b - 1)) * 4000000 ≤ since b (waitFrom b)) : election b = becomeManager b :=
  if_pos ⟨hrole, hprio, Option.isNone_iff_eq_none.mpr hmgr, Option.isNone_iff_eq_none.mpr hhold, hlong⟩

theorem takeover_of_silent {m : Nat × Nat × Nat} (hrole : fabRole b = 1) (hprio : ownPriority b ≠ 0) (hhold : b.fab.hold = none)
    (hmgr : b.fab.mgr = some m) (hlong : (5 + 2 * (ownPriority b - 1)) * 4000000 ≤ since b m.2.2) : takeover b = becomeManager b := by
  simp only [takeover, hmgr]
  exact if_pos ⟨hrole, hprio, Option.isNone_iff_eq_none.mpr hhold, hlong⟩

end fabric

/-- Settles O59, row by row: on its occasion the branch of a row's meaning that has the effect is taken. That TIME_REF_LOST clears REF_LOCK
alone is log entry 100 (DEDUCED). -/
theorem fabricRowsTakeTheirEffect : Obligations.FabricRowsTakeTheirEffect := by
  intro dt s ha b mine
  refine ⟨?port, ?send, ?holdover, ?pps, ?reference, ?align, ?manager, ?claim, ?autoClaim, ?hops⟩
  case port =>
    intro port p
    refine ⟨?control, ?silent, ?retry, ?packet, ?credit, ?message, ?parentLost, ?exchange⟩
    case control =>
      intro data hr
      constructor
      · show execShutEnable dt port data s = _
        exact runCmd_eq_after ha (hostWrites_reaches hr.1 hr.2 rfl)
      · show execShutRetrain dt port data s = _
        exact runCmd_eq_after ha (hostWrites_reaches hr.1 hr.2 rfl)
    case silent =>
      intro hup hlong
      show execShutTimeTimeout dt port s = _
      exact runCmd_eq_after ha (if_pos ⟨hup, hlong⟩)
    case retry =>
      intro hthere hon hdown hlong
      show execShutRetryTimer dt port s = _
      exact runCmd_eq_after ha (shutRetry_of_down hthere hon hdown hlong)
    case packet =>
      intro lane cell head body
      show execPacketReceive dt port lane cell head body s = _
      exact runCmd_awake ha
    case credit =>
      intro lane cells hup
      show execCredit dt port lane cells s = _
      exact runCmd_eq_after ha (creditIn_of_up hup lane.val cells)
    case message =>
      intro src m hup
      refine ⟨?_, ?_, fun hsrc => ?_, ?_, ?_, ?_⟩
      · show execHeartbeat dt port src m s = _
        exact runCmd_awake ha
      · show execState dt port src m s = _
        exact runCmd_eq_after ha (if_pos hup)
      · show execHold dt port src m s = _
        exact runCmd_eq_after ha (if_pos ⟨hup, hsrc⟩)
      · show execHoprep dt port src m s = _
        exact runCmd_eq_after ha (if_pos hup)
      · show execTimefault dt port src m s = _
        exact runCmd_eq_after ha (if_pos hup)
      · show execAttest dt port src m s = _
        exact runCmd_eq_after ha (if_pos hup)
    case parentLost =>
      intro hparent hlong
      show execHeartbeatMiss dt s = _
      exact runCmd_eq_after ha (heartbeatMiss_of_silent hparent hlong)
    case exchange =>
      intro t1 t2 t3 t4 hparent hup hroot
      show execParentTimeExchange dt t1 t2 t3 t4 s = _
      exact runCmd_eq_after ha (parentExchange_of_up hparent hup hroot t1 t2 t3 t4)
  case send =>
    intro _ _ _
    show execHeartbeatSend dt s = _
    exact runCmd_awake ha
  case holdover =>
    intro hroot hfabric hparent hstate
    show execHoldover dt s = _
    exact runCmd_eq_after ha (holdover_of_cut_off hroot hfabric hparent hstate)
  case pps =>
    intro _ _
    show execPpsEdge dt s = _
    exact runCmd_awake ha
  case reference =>
    intro hroot
    constructor
    · show execTimeRefLost dt false s = _
      exact runCmd_eq_after ha (refLost_of_root hroot)
    · intro adj
      show execTimeRefRestored dt false adj s = _
      exact runCmd_eq_after ha (refBack_of_root hroot adj)
  case align =>
    intro err hfar
    show execDieAlignCheck dt err s = _
    exact runCmd_eq_after ha (dieAlign_of_far hfar)
  case manager =>
    intro hrole hprio hhold
    constructor
    · intro hmgr hlong
      show execManagerElection dt s = _
      exact runCmd_eq_after ha (election_of_due hrole hprio hhold hmgr hlong)
    · intro m hmgr hlong
      show execStandbyTakeover dt s = _
      exact runCmd_eq_after ha (takeover_of_silent hrole hprio hhold hmgr hlong)
  case claim =>
    intro data hr
    show execClaim dt data s = _
    exact runCmd_eq_after ha (hostWrites_reaches hr.1 hr.2 rfl)
  case autoClaim =>
    intro ms hrole hms hlong
    show execAutoClaimExpiry dt s = _
    exact runCmd_eq_after ha (if_pos ⟨hrole, hms, hlong⟩)
  case hops =>
    intro _ _ _
    show execHoprepReport dt s = _
    exact runCmd_awake ha

end Sys2Proof.Machine

/-!
PROOF. What the scrubber keeps (R427): the notes and the spoiling of a line leave the scrubber's place and the time of its last read.
-/

namespace Sys2Proof.Machine

/-- The scrubber's state: the next line, and the time of the last read (R427). -/
def Beam.scrub (m : Beam) : Nat × Option Nat := (m.scrubbed, m.scrubAt)

theorem scrub_forEach {α : Type} {f : Block → α → Block} (hf : ∀ b x, (f b x).beam.scrub = b.beam.scrub) (l : List α) (b : Block) :
    (forEach l b f).beam.scrub = b.beam.scrub :=
  forEach_keeps (P := fun c => c.beam.scrub = b.beam.scrub) (fun c x hc => (hf c x).trans hc) l b rfl

/-- A fold whose accumulator carries the block keeps the scrubber's state when each step does. -/
theorem scrub_foldl {α β : Type} {blk : β → Block} {f : β → α → β} (hf : ∀ a x, (blk (f a x)).beam.scrub = (blk a).beam.scrub) (l : List α) :
    ∀ a, (blk (l.foldl f a)).beam.scrub = (blk a).beam.scrub := by
  induction l with
  | nil => exact fun a => rfl
  | cons x l ih => exact fun a => (ih (f a x)).trans (hf a x)

/-! ### Granules (R430, R436) -/

@[simp] theorem scrub_updBeamCh (b : Block) (c : Nat) (f : BeamCh → BeamCh) : (b.updBeamCh c f).beam.scrub = b.beam.scrub := rfl
@[simp] theorem beamLog_beam (b : Block) (kind chan dev src count off row bank : Nat) :
    (beamLog b kind chan dev src count off row bank).beam = b.beam := rfl
@[simp] theorem scrub_retireNow (b : Block) (g src : Nat) : (retireNow b g src).beam.scrub = b.beam.scrub := rfl

@[simp] theorem scrub_freeGranules (b : Block) (gs : List Nat) : (freeGranules b gs).beam.scrub = b.beam.scrub :=
  scrub_forEach (fun b g => by split <;> simp) gs _

theorem scrub_takeGranule {b c : Block} {i g : Nat} (h : takeGranule b i = some (g, c)) : c.beam.scrub = b.beam.scrub := by
  unfold takeGranule at h
  dsimp only at h
  split at h
  · obtain ⟨-, rfl⟩ := by simpa using h
    rfl
  · split at h
    · obtain ⟨-, rfl⟩ := by simpa using h
      rfl
    · cases h

theorem scrub_takeAny {b c : Block} {g next : Nat} (k : Nat) :
    ∀ i, takeAny b i k = some (g, next, c) → c.beam.scrub = b.beam.scrub := by
  induction k with
  | zero => exact fun i h => nomatch h
  | succ k ih =>
    intro i h
    unfold takeAny at h
    split at h
    next g' b' htake =>
      obtain ⟨-, -, rfl⟩ := by simpa using h
      exact scrub_takeGranule htake
    next => exact ih _ h

theorem scrub_takeMany (k : Nat) : ∀ {b c : Block} {i : Nat} {gs : List Nat}, takeMany b i k = some (gs, c) → c.beam.scrub = b.beam.scrub := by
  induction k with
  | zero =>
    intro b c i gs h
    obtain ⟨-, rfl⟩ := by simpa [takeMany] using h
    rfl
  | succ k ih =>
    intro b c i gs h
    unfold takeMany at h
    split at h
    · cases h
    next htake =>
      obtain ⟨⟨l, d⟩, hrest, heq⟩ := Option.map_eq_some_iff.mp h
      obtain ⟨-, rfl⟩ := by simpa using heq
      exact (ih hrest).trans (scrub_takeAny _ _ htake)

theorem scrub_allocGranules {b c : Block} {k : Nat} {gs : List Nat} (h : allocGranules b k = some (gs, c)) :
    c.beam.scrub = b.beam.scrub := by
  unfold allocGranules at h
  split at h
  · cases h
  · obtain ⟨⟨l, d⟩, htake, heq⟩ := Option.map_eq_some_iff.mp h
    obtain ⟨-, rfl⟩ := by simpa using heq
    exact scrub_takeMany (c := d) k htake

/-! ### The completion of a command -/

@[simp] theorem scrub_freeStream (b : Block) (slot : Nat) : (freeStream b slot).beam.scrub = b.beam.scrub := by
  unfold freeStream
  dsimp only [Block.updStream_beam]
  split
  · exact scrub_freeGranules _ _
  · rfl

@[simp] theorem freeObj_beam (b : Block) (i : Nat) : (freeObj b i).beam = b.beam := rfl

@[simp] theorem scrub_afterCompletion (b : Block) (c : Completion) : (afterCompletion b c).beam.scrub = b.beam.scrub := by
  unfold afterCompletion
  cases c.frees <;> cases c.closes <;> simp

@[simp] theorem pushCompletion_beam (b : Block) (fn q : Nat) (c : Completion) : (pushCompletion b fn q c).beam = b.beam := rfl

@[simp] theorem scrub_releaseCmd (b : Block) (n : Nat) : (releaseCmd b n).beam.scrub = b.beam.scrub := by
  unfold releaseCmd
  dsimp only
  split
  · rfl
  · split <;> split <;> simp

@[simp] theorem scrub_flushDone (b : Block) (handle : Nat) : (flushDone b handle).beam.scrub = b.beam.scrub := by
  unfold flushDone
  refine scrub_foldl (blk := Prod.fst) (fun a x => ?_) _ _
  dsimp only
  split <;> simp

@[simp] theorem scrub_finishCmd (b : Block) (n status level : Nat) (result : Bytes) (detail : Nat) (frees closes : Option Nat) :
    (finishCmd b n status level result detail frees closes).beam.scrub = b.beam.scrub := by
  unfold finishCmd
  dsimp only
  split <;> simp

@[simp] theorem scrub_finishAll (status o : Nat) (free : Bool) (l : List Nat) :
    ∀ b, (finishAll b status o free l).beam.scrub = b.beam.scrub := by
  induction l with
  | nil => exact fun b => rfl
  | cons n l ih =>
    intro b
    cases l with
    | nil => exact scrub_finishCmd ..
    | cons m t => exact (ih _).trans (scrub_finishCmd ..)

/-! ### Packets and bobbins -/

@[simp] theorem releaseBobbin_beam (b : Block) (k : Nat) : (releaseBobbin b k).beam = b.beam := by
  unfold releaseBobbin
  dsimp only
  split
  · split <;> rfl
  · rfl

@[simp] theorem settleBobbin_beam (b : Block) (k : Nat) : (settleBobbin b k).beam = b.beam := by
  unfold settleBobbin
  dsimp only
  split
  · split <;> simp
  · split <;> simp

@[simp] theorem terminate_beam (b : Block) (k : Nat) (poison : Bool) : (terminate b k poison).beam = b.beam := by
  simp [terminate, storeWords]

@[simp] theorem dropPacket_beam (b : Block) (n : Nat) : (dropPacket b n).beam = b.beam := by
  unfold dropPacket
  dsimp only
  split
  · rfl
  · split
    · simp
    · split <;> simp

@[simp] theorem stopJob_beam (b : Block) (n : Nat) (how : JobEnd) : (stopJob b n how).2.beam = b.beam := by
  unfold stopJob
  split <;> rfl

/-! ### Segments and the closing of datasets -/

@[simp] theorem updSeg_beam (b : Block) (d i : Nat) (f : Seg → Seg) : (updSeg b d i f).beam = b.beam := rfl

@[simp] theorem tryReady_beam (b : Block) (d : Nat) : (tryReady b d).beam = b.beam := by
  unfold tryReady
  dsimp only
  split
  · split <;> rfl
  · rfl

@[simp] theorem beginClose_beam (b : Block) (slot cause : Nat) (forced : Option (Nat × Nat)) :
    (beginClose b slot cause forced).beam = b.beam := by
  unfold beginClose
  split
  · rfl
  · split
    · rfl
    · simp [raiseSeals]

@[simp] theorem closeFrame_beam (b : Block) (slot : Nat) : (closeFrame b slot).2.beam = b.beam := by
  unfold closeFrame
  dsimp only
  split <;> rfl

@[simp] theorem finishSegment_beam (b : Block) (slot : Nat) (pre trailer : Bytes) (cmd : Option Nat) (recordEnd urgent close : Bool) :
    (finishSegment b slot pre trailer cmd recordEnd urgent close).beam = b.beam := by
  unfold finishSegment
  split
  · rfl
  · cases close <;> simp [enqueueSeal]

@[simp] theorem endJob_beam (b : Block) (e n : Nat) (how : JobEnd) (stay : Bool) (close : Nat) :
    (endJob b e n how stay close).beam = b.beam := rfl

@[simp] theorem frameFull_beam (b : Block) (e n slot cause : Nat) : (frameFull b e n slot cause).beam = b.beam := by
  simp [frameFull]

@[simp] theorem reportClose_beam (b : Block) (slot n produced : Nat) : (reportClose b slot n produced).beam = b.beam := by
  unfold reportClose
  split <;> rfl

@[simp] theorem closeEnded_beam (b : Block) (slot : Nat) : (closeEnded b slot).beam = b.beam := by
  unfold closeEnded
  split
  · split <;> simp
  · simp

@[simp] theorem endMark_beam (b : Block) (slot n : Nat) : (endMark b slot n).beam = b.beam := by
  unfold endMark
  split
  · split <;> simp
  · rfl

@[simp] theorem closeStreamDataset_beam (b : Block) (slot n cause : Nat) (forced : Bool) :
    (closeStreamDataset b slot n cause forced).beam = b.beam := by
  unfold closeStreamDataset
  dsimp only
  split <;> simp

/-! ### The ending of an object (R34) -/

theorem forEach_beam {α : Type} {f : Block → α → Block} (hf : ∀ b x, (f b x).beam = b.beam) (l : List α) (b : Block) :
    (forEach l b f).beam = b.beam :=
  forEach_keeps (P := fun c => c.beam = b.beam) (fun c x hc => (hf c x).trans hc) l b rfl

/-- The records of an ended object: their packets are dropped and their jobs stop; the bytes handed over, and the block. -/
def stopRecords (b : Block) (recs : List Nat) (how : JobEnd) : Bytes × Block :=
  recs.foldl (fun (a : Bytes × Block) n => let (p, b) := stopJob a.2 n how; (a.1 ++ p, b)) ([], forEach recs b dropPacket)

/-- The object's segment in the open dataset is aborted. -/
def abortSegment (b : Block) (o slot : Nat) (pre : Bytes) (how : JobEnd) : Block :=
  match (b.stream slot).dataset with
  | none => b
  | some d =>
    let i := curSeg (b.dataset d)
    let own := ((b.dataset d).segs.getD i {}).obj = o && (b.dataset d).segs ≠ []
    let b := if own then updSeg b d i fun g => { g with aborted := true, tag := [] } else b
    if own && (b.ctx slot).frameOpen then finishSegment b slot pre [] none false true (how ≠ .engineFailed) else b

/-- The stream's open dataset closes, now or once the objects before have taken their effect. -/
def closeOrMark (b : Block) (slot : Nat) (x : Obj) : Block :=
  if busyBefore b x.stream x.openCmd then b.updStream slot fun s => { s with endAt := some x.openCmd } else closeEnded b slot

/-- An object ends, its commands not yet completed: `endObject` without its completions. -/
def takeEnd (b : Block) (o status : Nat) (how : JobEnd) (recs : List Nat) : Block :=
  let x := b.obj o
  let slot := slotOfHandle x.stream
  let r := stopRecords b recs how
  let b := closeOrMark (abortSegment r.2 o slot r.1 how) slot x
  let b := b.updObj o fun x => { x with ended := some status }
  b.updStream slot fun s => { s with obj := if s.obj = some o then none else s.obj }

theorem endObject_eq (b : Block) (o status : Nat) (how : JobEnd) (abort : Option (Nat × Nat × Nat)) :
    endObject b o status how abort =
      if !(b.obj o).used || (b.obj o).ended.isSome then b
      else
        let cmds := (objCmds b o).filter fun n => some n ≠ abort.map Prod.fst
        let c := takeEnd b o status how (cmds.filter fun n => (b.cmd n).e.opcode = 4)
        match abort with
        | some (n, st, detail) => finishCmd (finishAll c status o false cmds) n st 0 [] detail (some o)
        | none => if cmds = [] then freeObj c o else finishAll c status o true cmds := rfl

@[simp] theorem stopRecords_beam (b : Block) (recs : List Nat) (how : JobEnd) : (stopRecords b recs how).2.beam = b.beam := by
  have stops (l : List Nat) : ∀ a : Bytes × Block,
      (l.foldl (fun (a : Bytes × Block) n => let (p, b) := stopJob a.2 n how; (a.1 ++ p, b)) a).2.beam = a.2.beam := by
    induction l with
    | nil => exact fun a => rfl
    | cons n l ih => exact fun a => (ih _).trans (stopJob_beam ..)
  exact (stops recs _).trans (forEach_beam dropPacket_beam recs b)

@[simp] theorem abortSegment_beam (b : Block) (o slot : Nat) (pre : Bytes) (how : JobEnd) :
    (abortSegment b o slot pre how).beam = b.beam := by
  unfold abortSegment
  split
  · rfl
  · simp only [apply_ite Block.beam, finishSegment_beam, updSeg_beam, ite_self]

@[simp] theorem closeOrMark_beam (b : Block) (slot : Nat) (x : Obj) : (closeOrMark b slot x).beam = b.beam := by
  unfold closeOrMark
  split <;> simp

@[simp] theorem takeEnd_beam (b : Block) (o status : Nat) (how : JobEnd) (recs : List Nat) : (takeEnd b o status how recs).beam = b.beam := by
  simp [takeEnd]

@[simp] theorem scrub_endObject (b : Block) (o status : Nat) (how : JobEnd) (abort : Option (Nat × Nat × Nat)) :
    (endObject b o status how abort).beam.scrub = b.beam.scrub := by
  rw [endObject_eq]
  dsimp only
  split
  · rfl
  · cases abort with
    | some a => simp
    | none =>
      dsimp only
      split <;> simp

/-! ### Streams -/

@[simp] theorem scrub_checkTaped (b : Block) (handle : Nat) : (checkTaped b handle).beam.scrub = b.beam.scrub :=
  scrub_forEach (fun b n => by dsimp only; split <;> simp) _ b

@[simp] theorem scrub_staged (b : Block) (n : Nat) : (staged b n).beam.scrub = b.beam.scrub := by
  unfold staged
  dsimp only
  split
  · simp
  · split <;> simp

@[simp] theorem scrub_checkCloseStream (b : Block) (handle : Nat) : (checkCloseStream b handle).beam.scrub = b.beam.scrub := by
  unfold checkCloseStream
  split
  · split <;> simp
  · rfl

theorem scrub_openDataset {b c : Block} {slot : Nat} (h : openDataset b slot = some c) : c.beam.scrub = b.beam.scrub := by
  obtain ⟨⟨gs, d⟩, halloc, rfl⟩ := Option.map_eq_some_iff.mp h
  split at halloc
  · dsimp only [Block.updStream_beam]
    split <;> exact scrub_allocGranules (c := d) halloc
  · cases halloc

theorem scrub_roomForSegment {b c : Block} {slot : Nat} (h : roomForSegment b slot = some c) : c.beam.scrub = b.beam.scrub := by
  unfold roomForSegment at h
  dsimp only at h
  split at h
  · exact scrub_openDataset h
  · split at h
    · rw [Option.some.inj h]
    · exact (scrub_openDataset h).trans (by simp)

@[simp] theorem scrub_startSegment (b : Block) (slot o n first : Nat) (cont : Bool) :
    (startSegment b slot o n first cont).2.beam.scrub = b.beam.scrub := by
  unfold startSegment
  dsimp only
  split
  · simp
  · split
    · simp
    · split
      · rfl
      next hroom =>
        split
        · exact scrub_roomForSegment hroom
        · simpa using scrub_roomForSegment hroom

theorem scrub_closeObjectEffect {b c : Block} {n : Nat} (h : closeObjectEffect b n = some c) : c.beam.scrub = b.beam.scrub := by
  unfold closeObjectEffect at h
  dsimp only at h
  split at h
  · rw [← Option.some.inj h]
    split <;> simp
  · split at h
    next hstart =>
      have hs := scrub_startSegment b (slotOfHandle ((b.cmd n).stream.getD 0)) ((b.cmd n).obj.getD 0) n
        (b.obj ((b.cmd n).obj.getD 0)).started false
      rw [hstart] at hs
      rw [← Option.some.inj h, ← hs]
      split <;> simp
    next hstart =>
      have hs := scrub_startSegment b (slotOfHandle ((b.cmd n).stream.getD 0)) ((b.cmd n).obj.getD 0) n
        (b.obj ((b.cmd n).obj.getD 0)).started false
      rw [hstart] at hs
      rw [← Option.some.inj h, ← hs]
    next => cases h

theorem scrub_pumpOne (b : Block) (n : Nat) : (pumpOne b n).1.beam.scrub = b.beam.scrub := by
  unfold pumpOne
  dsimp only
  split
  · rfl
  · split
    · rfl
    · rfl
    · split
      next heffect => exact scrub_closeObjectEffect heffect
      next => rfl
    · simp
    · simp
    · rfl

@[simp] theorem scrub_pumpStream (b : Block) (handle : Nat) : (pumpStream b handle).beam.scrub = b.beam.scrub := by
  have pumped : ∀ (l : List Nat) (a : Block × Bool), (l.foldl (fun (a : Block × Bool) n =>
      if a.2 then pumpOne (endMark a.1 (slotOfHandle handle) n) n else a) a).1.beam.scrub = a.1.beam.scrub := by
    intro l a
    refine scrub_foldl (blk := Prod.fst) (fun a n => ?_) l a
    split
    · exact (scrub_pumpOne _ _).trans (by rw [endMark_beam])
    · rfl
  unfold pumpStream
  dsimp only
  rw [scrub_checkCloseStream, apply_ite Block.beam, endMark_beam, ite_self, pumped]

/-! ### What an Uncorrectable line spoils (R432) -/

@[simp] theorem scrub_releaseDataset (b : Block) (d : Nat) : (releaseDataset b d).beam.scrub = b.beam.scrub := by
  unfold releaseDataset
  dsimp only
  split
  · rw [Block.updDataset_beam]
    split <;> exact scrub_freeGranules _ _
  · rfl

@[simp] theorem updCart_beam (b : Block) (id : Nat) (f : CartK → CartK) : (updCart b id f).beam = b.beam := rfl
@[simp] theorem updWeft_beam (b : Block) (g no : Nat) (f : Weft → Weft) : (updWeft b g no f).beam = b.beam := rfl
@[simp] theorem weaveLog_beam (b : Block) (code kind member group lateRun weft passing : Nat) :
    (weaveLog b code kind member group lateRun weft passing).beam = b.beam := rfl

@[simp] theorem scrub_failTaped (b : Block) (ds : List Nat) (status : Nat) : (failTaped b ds status).beam.scrub = b.beam.scrub :=
  scrub_forEach (fun b n => by dsimp only; split <;> simp) _ b

@[simp] theorem requeue_beam (b : Block) (g : Nat) (ds : List Nat) : (requeue b g ds).beam = b.beam := by
  unfold requeue
  dsimp only
  rw [Block.updGrp_beam]
  exact forEach_beam (fun b d => b.updDataset_beam d _) _ b

@[simp] theorem pendVoids_beam (b : Block) (g : Nat) (w : Weft) (reason : Nat) : (pendVoids b g w reason).beam = b.beam :=
  forEach_beam (fun b p => by dsimp only; split <;> simp) _ b

@[simp] theorem scrub_failWeft (b : Block) (g no reason status : Nat) : (failWeft b g no reason status).beam.scrub = b.beam.scrub := by
  unfold failWeft
  split
  · rfl
  · split
    · rfl
    · dsimp only
      rw [pendVoids_beam, requeue_beam, scrub_failTaped, weaveLog_beam, inc_beam, updWeft_beam]

@[simp] theorem dropSourced_beam (b : Block) (g weft d : Nat) : (dropSourced b g weft d).beam = b.beam :=
  forEach_beam (fun b p => b.updWport_beam p _) _ b

/-- A dataset that is poisoned before it commits: what is open in it, or waits to be sealed for it, is discarded. -/
def discardOpen (b : Block) (d : Nat) : Block :=
  let x := b.dataset d
  let slot := slotOfHandle x.stream
  let b := (recopy b d).updDataset d fun x => { x with poisoned := true }
  let b := if (b.stream slot).dataset = some d then b.updCtx slot fun c => { c with frameOpen := false, window := [] } else b
  let b := b.updStream slot fun s => { s with dataset := if s.dataset = some d then none else s.dataset }
  let b := { b with ciph := { b.ciph with queue := b.ciph.queue.filter fun j => match j.job with | .seal w => w.dataset ≠ d | _ => true } }
  b.updSealState slot fun s => if x.state = .opened || x.state = .closing then {} else s

/-- An object with bytes in a poisoned dataset ends; one that is closed completes its commands. -/
def endPoisoned (b : Block) (o : Nat) : Block :=
  let y := b.obj o
  if !y.used || y.ended.isSome then b
  else if y.closed then
    let ns := objCmds b o
    if ns = [] then freeObj b o else finishAll b 0x2003 o true ns
  else endObject b o 0x2003 .poisoned

/-- The dataset leaves its group and its granules return; a weft that has been launched with it fails. -/
def leaveGroup (b : Block) (x : Dataset) (d : Nat) : Option Nat → Block
  | none => releaseDataset b d
  | some g =>
    let b := releaseDataset (b.updGrp g fun q => { q with queue := q.queue.erase d }) d
    if x.state ≠ .launched then b
    else if (b.grp g).cross then { b with heads := { b.heads with aborts := b.heads.aborts ++ [(g, x.weft)] } }
    else failWeft b g x.weft 3 0x5001

theorem poisonDataset_eq (b : Block) (d : Nat) :
    poisonDataset b d =
      let x := b.dataset d
      if !x.live then b
      else if x.state = .committed then
        releaseDataset (match groupSlot b x.group with | some g => dropSourced b g x.weft d | none => b) d
      else
        let c := leaveGroup (forEach (x.segs.map (·.obj)).eraseDups (discardOpen b d) endPoisoned) x d (groupSlot (recopy b d) x.group)
        checkCloseStream (pumpStream c x.stream) x.stream := by
  unfold poisonDataset
  dsimp only
  congr 2
  cases groupSlot (recopy b d) (b.dataset d).group <;> rfl

@[simp] theorem discardOpen_beam (b : Block) (d : Nat) : (discardOpen b d).beam = b.beam := by
  unfold discardOpen
  dsimp only [Block.updSealState, Block.updStream_beam]
  split <;> rfl

@[simp] theorem scrub_endPoisoned (b : Block) (o : Nat) : (endPoisoned b o).beam.scrub = b.beam.scrub := by
  unfold endPoisoned
  dsimp only
  split
  · rfl
  · split
    · split <;> simp
    · simp

@[simp] theorem scrub_leaveGroup (b : Block) (x : Dataset) (d : Nat) (g : Option Nat) : (leaveGroup b x d g).beam.scrub = b.beam.scrub := by
  cases g with
  | none => exact scrub_releaseDataset b d
  | some g =>
    simp only [leaveGroup]
    split
    · simp
    · split <;> simp

@[simp] theorem scrub_poisonDataset (b : Block) (d : Nat) : (poisonDataset b d).beam.scrub = b.beam.scrub := by
  rw [poisonDataset_eq]
  dsimp only
  split
  · rfl
  · split
    · rw [scrub_releaseDataset]
      split <;> simp
    · rw [scrub_checkCloseStream, scrub_pumpStream, scrub_leaveGroup, scrub_forEach scrub_endPoisoned, discardOpen_beam]

@[simp] theorem fillUnsealed_beam (b : Block) (d i : Nat) : (fillUnsealed b d i).beam = b.beam := rfl

@[simp] theorem updSealState_beam (b : Block) (slot : Nat) (f : SealState → SealState) : (b.updSealState slot f).beam = b.beam := rfl

@[simp] theorem dropSeals_beam (b : Block) (handle : Nat) : (dropSeals b handle).beam = b.beam := by
  unfold dropSeals
  dsimp only
  refine (forEach_beam (f := fun b (x : Nat × Nat) => fillUnsealed b x.1 x.2) (fun b x => fillUnsealed_beam b x.1 x.2) _ _).trans ?_
  rw [updSealState_beam]
  exact forEach_beam (fun b p => b.updPipe_beam p _) _ _

@[simp] theorem scrub_spoilSealState (b : Block) (slot : Nat) : (spoilSealState b slot).beam.scrub = b.beam.scrub := by
  unfold spoilSealState
  dsimp only
  split
  · rw [dropSeals_beam]
    split <;> simp
  · rfl

/-- What a line spoils leaves the scrubber, where no command restores from it. -/
theorem scrub_spoil (b : Block) (line : Nat) : (spoil b line none).beam.scrub = b.beam.scrub := by
  unfold spoil
  dsimp only
  split
  · simp
  · split
    · split <;> simp
    · split <;> simp

/-! ### What a read of a line notes (R428 to R430) -/

@[simp] theorem scrub_putLine (b : Block) (line : Nat) (l : BeamLine) : (putLine b line l).beam.scrub = b.beam.scrub := rfl
@[simp] theorem lineLog_beam (b : Block) (kind dev src count line : Nat) : (lineLog b kind dev src count line).beam = b.beam := rfl

@[simp] theorem bucketAdd_beam (b : Block) (line src : Nat) : (bucketAdd b line src).beam = b.beam := by
  have kept (c : Block) (f : Fld) (v : Nat) (g : Fld) : (if rdB c f then c else setEvent (wr c g v) 2).beam = c.beam := by
    split <;> rfl
  unfold bucketAdd
  dsimp only
  split
  · rw [kept, beamLog_beam, wr_beam, inc_beam]
  · rw [wr_beam, inc_beam]

@[simp] theorem scrub_retireFull (b : Block) : (retireFull b).beam.scrub = b.beam.scrub := by
  unfold retireFull
  split <;> rfl

@[simp] theorem ledgerSubmit_beam (b : Block) (r : Nat) (data : Bytes) (hook : LHook) : (ledgerSubmit b r data hook).beam = b.beam := by
  rw [(PagesOnly.ledgerSubmit b r data hook).frame]

@[simp] theorem scrub_recordRow (b : Block) (line : Nat) : (recordRow b line).beam.scrub = b.beam.scrub := by
  unfold recordRow
  dsimp only
  split
  · rfl
  · split <;> simp

@[simp] theorem scrub_retireGranule (b : Block) (g src : Nat) : (retireGranule b g src).beam.scrub = b.beam.scrub := by
  unfold retireGranule
  split
  · rfl
  · split
    · simp
    · split
      · simp
      · rfl

@[simp] theorem scrub_retireLine (b : Block) (line : Nat) : (retireLine b line).beam.scrub = b.beam.scrub := by
  unfold retireLine
  dsimp only
  split
  · rfl
  · split
    · simp
    · split <;> simp

@[simp] theorem scrub_countCe (b : Block) (line : Nat) : (countCe b line).beam.scrub = b.beam.scrub := by
  unfold countCe
  dsimp only
  split
  · exact scrub_retireLine _ line
  · rfl

@[simp] theorem scrub_noteCorrected (b : Block) (line dev src : Nat) : (noteCorrected b line dev src).beam.scrub = b.beam.scrub := by
  unfold noteCorrected
  dsimp only
  rw [scrub_countCe, apply_ite Block.beam, apply_ite Beam.scrub, lineLog_beam, scrub_updBeamCh, scrub_updBeamCh, ite_self, bucketAdd_beam]

@[simp] theorem scrub_noteUncorrectable (b : Block) (line src : Nat) (stored : Bool) :
    (noteUncorrectable b line src stored).beam.scrub = b.beam.scrub := by
  unfold noteUncorrectable
  dsimp only
  rw [scrub_retireLine, lineLog_beam, inc_beam]

/-! ### The rows of the beam store -/

theorem scrubLine_of_not_due {b : Block} (hdue : scrubDue b = false) (errs : List (Nat × Nat × Nat)) : scrubLine b errs = b := by
  simp only [scrubLine, hdue, Bool.not_false, ↓reduceIte]

/-- The scrubber steps to the line after the one it reads, whatever the read brings (R427). -/
theorem scrub_scrubLine {b : Block} (hdue : scrubDue b = true) (errs : List (Nat × Nat × Nat)) :
    (scrubLine b errs).beam.scrub = ((b.beam.scrubbed % poolLines b + 1) % poolLines b, some b.time.now) := by
  simp only [scrubLine, hdue, Bool.not_true, Bool.false_eq_true, ↓reduceIte]
  split
  · rfl
  · split
    · rfl
    · rw [apply_ite Block.beam, apply_ite Beam.scrub, scrub_putLine, ite_self, scrub_noteCorrected]
      rfl
    · rw [scrub_spoil, scrub_putLine, scrub_noteUncorrectable]
      rfl
    · rw [scrub_noteUncorrectable]
      rfl

theorem fillStep_of_wanted {b : Block} (hfill : fillWanted b = true) :
    fillStep b = showFill (fillsDone (takeSealState (wr b Fld.BEAM_POOL_RELEASED_STEPS (rd b Fld.BEAM_POOL_RELEASED_STEPS + 1)))) :=
  if_pos hfill

/-- Settles O32, row by row; the scrubber's two fields are read off `scrub_scrubLine`. -/
theorem beamRowsTakeTheirEffect : Obligations.BeamRowsTakeTheirEffect := by
  intro dt s ha b
  refine ⟨?access, ?merge, ?scrub, ?leak, ?fill, ?test, ?key⟩
  case access =>
    intro line mask bytes errs cmd hpool
    constructor
    · show execBeamRead dt line errs cmd s = _
      exact runCmd_eq_after ha (if_neg hpool)
    · show execBeamPartialWrite dt line mask bytes errs s = _
      exact runCmd_eq_after ha (if_neg hpool)
  case merge =>
    intro ch errs e es hmerge hlong
    have hmerge' : ((begun dt s).beamCh ch.val).merge = e :: es := hmerge
    show execMergeEntryTimeout dt ch errs s = _
    refine runCmd_eq_after ha ?_
    rw [hmerge']
    exact if_pos hlong
  case scrub =>
    intro errs
    refine ⟨?_, fun hdue => scrubLine_of_not_due hdue errs, fun hdue => ?_⟩
    · show execScrubLine dt errs s = _
      exact runCmd_awake ha
    · obtain ⟨hplace, htime⟩ := Prod.ext_iff.mp (scrub_scrubLine hdue errs)
      exact ⟨htime, hplace⟩
  case leak =>
    intro ch d hch hlong
    show execBucketLeak dt ch s = _
    exact runCmd_eq_after ha (if_pos ⟨hch, hlong⟩)
  case fill =>
    intro hfill
    show execFillStepDone dt s = _
    exact runCmd_eq_after ha (fillStep_of_wanted hfill)
  case test =>
    intro die errs
    refine ⟨?_, ?_, ?_⟩
    · show execWriteRaw dt die s = _
      exact runCmd_awake ha
    · show execWriteGen dt die s = _
      exact runCmd_awake ha
    · show execReadRaw dt die errs s = _
      exact runCmd_awake ha
  case key =>
    show execHashKeyDraw dt s = _
    exact runCmd_awake ha

end Sys2Proof.Machine
